-- ==== Sys2Proof/Word.lean ====
section
/-! DEFINITION. The word types of the FV-80 (00_scope.md R6, R8). -/

namespace Sys2Proof

/-- A byte of device or host memory. -/
abbrev Byte := BitVec 8

/-- A 32-bit register, thread register or tag word half. -/
abbrev W32 := BitVec 32

/-- A 64-bit register, sequencer register or command word. -/
abbrev W64 := BitVec 64

end Sys2Proof
end

