-- ==== Sys2Proof/Syntax.lean ====
section
/-! DEFINITION. The commands of the FV-80, one constructor of `Instr` for each row of the opcode table, with the
operand types they carry. An operand is what the sender of the command gives, or what the surroundings decide
(a temperature, a training result); the latter because the spec leaves it to the world outside the module. -/

namespace Sys2Proof

/-- The path by which an access reaches the module (00_scope.md R13). `engine c` is an engine of context `c`. -/
inductive Path where
  | pf
  | vf (k : Nat)
  | firmware
  | session (i : Nat)
  | engine (ctx : Nat)
  deriving DecidableEq, Repr

/-- One instruction issued by a resident group: the physical core slot, the group slot, and the address of the
instruction that follows in memory (the spec gives the thread engine no encoding, so no instruction length). -/
structure Issue where
  core : Nat
  slot : Nat
  next : Nat
  deriving DecidableEq, Repr

/-- Fence and atomic scopes (06_memory_ordering.md R225). -/
inductive Scope where
  | core | device | system
  deriving DecidableEq, Repr

/-- Cache hints (07_caches_and_tank.md R287); `none` takes the page's hint. -/
inductive Hint where
  | none | stream | keep | last
  deriving DecidableEq, Repr

/-- Kinds of fence (06 R226). -/
inductive FenceKind where
  | release | acquire | full
  deriving DecidableEq, Repr

/-- A source operand of a thread instruction. -/
inductive Src where
  | reg (n : Nat)
  | imm (w : W32)
  deriving DecidableEq, Repr

/-- Conditions of a compare instruction. -/
inductive Cmp where
  | eq | ne | lt | ge | ltu | geu
  deriving DecidableEq, Repr

/-- The instruction classes that 02_thread_groups.md R56 names. Operations on 64-bit operands use register pairs. -/
inductive AluOp where
  | add | sub | and | or | xor | shl | shr | sar
  | cmp (c : Cmp) | select | mul
  | fadd | fmul | ffma
  | dadd | dmul | dfma
  | rcp | sqrt | rsqrt | exp2 | log2 | sin | cos
  deriving DecidableEq, Repr

/-- Identity special registers (02 R65). -/
inductive SpecialReg where
  | tidX | tidY | tidZ | bidX | bidY | bidZ | lane | group | width | core | tstamp | args | priv
  deriving DecidableEq, Repr

/-- How a branch finds the lanes that take it (02 R68). The predicate's outcome for each lane comes with the command:
the spec names no predicate state. An indirect branch reads its targets from a register pair. -/
inductive BranchKind where
  | always (target : Nat)
  | cond (taken : W64) (target : Nat)
  | indirect (ra : Nat)
  deriving DecidableEq, Repr

/-- Atomic operations (02 R77). -/
inductive AtomicOp where
  | add | smin | smax | umin | umax | and | or | xor | incWrap | xchg | cas | fadd | fmin | fmax
  deriving DecidableEq, Repr

/-- Who issues a matrix command: a group with its command word (03 R97), or a cluster's sequencer, whose word is the
stream's (05 R198). -/
inductive MxIssuer where
  | group (i : Issue) (word : W64)
  | seq (cl : Nat)
  deriving DecidableEq, Repr

/-- The waiter of an MWAIT. -/
inductive MxWaiter where
  | group (core slot : Nat)
  | seq (cl : Nat)
  deriving DecidableEq, Repr

/-- What the array's timing was over a command: the cycles counted in MX_SLIP and MX_FREEZE, the welt marks of
MX_WELT and the waits of MX_DENS (03 R119 to R123). -/
structure MxTiming where
  slip : Nat
  freeze : Nat
  rowMax : Nat
  colMax : Nat
  row : Nat
  col : Nat
  densWaits : Nat
  deriving DecidableEq, Repr

/-- An uncorrectable error met by a read, a fill or a scrub: the sector's device physical address and whether the
data (of a clean or dirty sector), one copy of the tag, or both copies were lost (07 R293). -/
inductive SectorError where
  | data (sector : Nat)
  | tagOne (line : Nat)
  | tagBoth (line : Nat)
  | corrected (line : Nat)
  deriving DecidableEq, Repr

/-- A unit of service (08_external_memory.md R303): its kind (0 HBM channel set, 1 DDR channel, 2 CXL port) and number. -/
structure UnitId where
  kind : Nat
  num : Nat
  deriving DecidableEq, Repr

/-- How a training ended (08 R309, R312 to R314, R322). `gen` is 5 or 4 for DDR. -/
inductive TrainResult where
  | ok (bytes : Nat) (rate : Nat) (width : Nat) (gen : Nat) (version : Nat) (vendor device : Nat)
  | failTraining
  | failUnsupported
  | failMixed
  | failNotReady
  | absent
  deriving DecidableEq, Repr

/-- A 32-byte dictionary command: its four 64-bit words. -/
structure Words4 where
  w0 : W64
  w1 : W64
  w2 : W64
  w3 : W64
  deriving DecidableEq, Repr

/-- Requests that the module answers with Unsupported Request (11_host_link.md R435). -/
inductive UrKind where
  | io | atomicOp | disabledFunction
  deriving DecidableEq, Repr

/-- What a write to the MSI-X controls clears (11 R439). -/
inductive MsixWrite where
  | vector (v : Nat) (masked : Bool)
  | functionMask (masked : Bool)
  | enable (on : Bool)
  deriving DecidableEq, Repr

/-- DOE protocols (11 R442). -/
inductive DoeKind where
  | discovery | spdm | ideKm
  deriving DecidableEq, Repr

/-- The measurements of one 1 ms Meter window (13_partitions_and_meter.md R516). -/
structure Measures where
  inputW : Nat
  clusterUJ : List Nat
  temps : List Int
  brickW : List Nat
  inputMV : Nat
  inputMA : Nat
  busMV : Nat
  fanRpm : List Nat
  deriving DecidableEq, Repr

/-- A unit that takes part in a shared mode (13 R533, R535). -/
inductive ModeUnit where
  | core (slot : Nat)
  | seq (cl : Nat)
  | update (u : Nat)
  | tank (die : Nat)
  | walker
  | frontEnd
  | collective
  deriving DecidableEq, Repr

/-- Maintenance steps (13 R539, 15 R599): what is tested, calibrated or repaired. -/
inductive MaintWork where
  | testCore (slot : Nat) (passed : Bool)
  | testBank (die bank : Nat) (passed : Bool)
  | testUnit (u : UnitId)
  | rowRepair (u : UnitId) (row : Nat)
  | sparePc (pc : Nat)
  | quadRetrain (port quad : Nat)
  deriving DecidableEq, Repr

/-- A Link frame as it arrives at a plane (14_niandop_link.md R555). `payload` holds the bytes after the sector mask. -/
structure Frame where
  plane : Nat
  etherType : Nat
  version : Nat
  poison : Bool
  length : Nat
  dst : Nat
  src : Nat
  psn : Nat
  cum : Nat
  timestamp : Nat
  group : Nat
  addr : Nat
  epoch : Nat
  run : Nat
  op : Nat
  reservedZero : Bool
  mask : Nat
  payload : List Byte
  deriving DecidableEq, Repr

/-- Why a quad leaves service (14 R550). -/
inductive QuadLoss where
  | lock | fec
  deriving DecidableEq, Repr

/-- A cage module as CMIS reports it (14 R547, R548). -/
structure CageModule where
  modType : Nat
  lanes16x100 : Bool
  fourInterfaces : Bool
  watts : Nat
  deriving DecidableEq, Repr

/-- One item of an OD_REQUEST (16_management_and_startup.md R623). -/
structure OdItem where
  op : Nat
  sub : Nat
  index : Nat
  length : Nat
  offset : Nat
  data : List Byte
  deriving DecidableEq, Repr

/-- The header of a Tuinias frame and whether its tag verifies (16 R621, R626). -/
structure TuiHead where
  version : Nat
  reservedZero : Bool
  reply : Bool
  sealed : Bool
  session : Nat
  seq : Nat
  req : Nat
  length : Nat
  tagOk : Bool
  deriving DecidableEq, Repr

/-- Lines that the chassis and the reference give at the rise of PWR_EN (16 R636, 18 R680). -/
structure PowerPins where
  j2Ok : Bool
  slotId : Nat
  addressInUse : Bool
  deriving DecidableEq, Repr

/-- The commands of the FV-80, one constructor for each row of spec/opcode_table.json, in the table's order. -/
inductive Instr where
  -- 00, 01: registers and clocks
  | regWrite (p : Path) (off size : Nat) (val : W64)
  | actionLowHalfWrite (p : Path) (off : Nat) (val : W32)
  | badSizeAccess (p : Path) (write : Bool) (off size : Nat) (val : W64)
  | refclkSwitch
  | rootPointReached
  -- 02: thread groups and kernels
  | blockStart (kernel core : Nat)
  | blockExit (core linear : Nat)
  | kernelCompleteCore (core : Nat)
  | kernelComplete (kernel : Nat)
  | threadAluInstruction (i : Issue) (op : AluOp) (rd : Nat) (a b c : Src)
  | specialRegRead (i : Issue) (rd : Nat) (r : SpecialReg)
  | branch (i : Issue) (recon : Nat) (k : BranchKind)
  | barrier (i : Issue)
  | threadExit (i : Issue) (lanes : W64)
  | atomic (i : Issue) (op : AtomicOp) (wide : Bool) (sc : Scope) (acq rel : Bool) (rd ra rb rc : Nat)
  | load (i : Issue) (size rd ra : Nat) (off : Int) (acq : Option Scope) (h : Hint)
  | store (i : Issue) (size ra rb : Nat) (off : Int) (rel : Option Scope) (h : Hint)
  | deviceStrictStore (i : Issue) (size ra rb : Nat) (off : Int)
  | fence (i : Issue) (k : FenceKind) (sc : Scope)
  | releaseComplete (core slot : Nat)
  | zline (i : Issue) (ra : Nat) (h : Hint)
  | convert (i : Issue) (dst src : Nat) (round : Nat) (rd ra : Nat)
  | trap (i : Issue)
  | threadEnqueue (i : Issue) (rd ra rb : Nat)
  | teDrainWrite (p : Path) (core : Nat) (on : Bool)
  | teEnableWrite (p : Path) (core : Nat) (on : Bool)
  | coreClearDone (core : Nat)
  -- 03: the matrix engine
  | mload (m : MxIssuer)
  | mswap (m : MxIssuer)
  | mstream (m : MxIssuer)
  | mtile (m : MxIssuer)
  | mdrain (m : MxIssuer)
  | mwait (m : MxIssuer)
  | mwaitReturn (w : MxWaiter)
  | mxCommandStart (core : Nat)
  | mxCommandComplete (core : Nat) (t : MxTiming)
  | arrayRampDown (core : Nat)
  -- 04: number formats, scales and the densitometer
  | densRecordClose (kernel : Nat)
  | seqRecordClose (cl : Nat)
  | setScale (p : Path) (v : W64)
  | hold (p : Path) (v : W64)
  | slotRelease (p : Path) (v : W64)
  | setCentre (p : Path) (v : W64)
  | clearCentre (p : Path) (v : W64)
  | slotReset (p : Path) (v : W64)
  | subnormalDefaultWrite (p : Path) (part : Nat) (v : Byte)
  -- 05: sequencers and stream programs
  | stepStart (cl : Nat)
  | nop (cl : Nat)
  | endStream (cl : Nat)
  | movi (cl : Nat)
  | movhi (cl : Nat)
  | add (cl : Nat)
  | sub (cl : Nat)
  | mul (cl : Nat)
  | and (cl : Nat)
  | or (cl : Nat)
  | xor (cl : Nat)
  | shl (cl : Nat)
  | shr (cl : Nat)
  | addi (cl : Nat)
  | ld (cl : Nat)
  | st (cl : Nat)
  | rdts (cl : Nat)
  | br (cl : Nat)
  | loop (cl : Nat)
  | lidx (cl : Nat)
  | cset (cl : Nat)
  | cinc (cl : Nat)
  | crd (cl : Nat)
  | kset (cl : Nat)
  | kwait (cl : Nat)
  | kwaitEnd (cl : Nat)
  | kbr (cl : Nat)
  | launch (cl : Nat)
  | lwait (cl : Nat)
  | lwaitEnd (cl : Nat)
  | kstat (cl : Nat)
  | mxsel (cl : Nat)
  | fwait (cl : Nat)
  | fwaitEnd (cl : Nat)
  | fsig (cl : Nat)
  | fsigRelease (cl : Nat)
  | esig (cl : Nat)
  | ewait (cl : Nat)
  | ewaitEnd (cl : Nat)
  | sbar (cl : Nat)
  | sbarLeave (queue : Nat)
  | enq (cl : Nat)
  | seqPark (cl : Nat)
  | seqResume (cl : Nat)
  | stepEnd (queue : Nat)
  -- 06, 07: ordering, caches and the Tank
  | storeBufferDrain (core idx : Nat)
  | windowAccess (core : Nat)
  | teardownDrainLimit (core : Nat)
  | cacheFill (cl line : Nat) (h : Hint) (e : Option SectorError)
  | ccEviction (cl line : Nat)
  | ccWayPowerDown (p : Path) (cl way : Nat)
  | ccWayPowerUp (p : Path) (cl way : Nat)
  | ccWayCleanDone (cl way : Nat)
  | tkKeepclr (p : Path) (die : Nat) (v : W32)
  | keepSweepDone (die : Nat)
  | tkRetire (p : Path) (die : Nat) (v : W32)
  | bankMoveDone (die : Nat)
  | tankScrubPass (die bank : Nat) (errs : List SectorError)
  -- 08: external memory
  | drain (p : Path) (v : W32)
  | undrain (p : Path) (v : W32)
  | quiesce (p : Path) (v : W32)
  | unitQuiesced (u : UnitId)
  | test (p : Path) (v : W32)
  | testPassEnd (u : UnitId) (failing first : Nat)
  | returnUnit (p : Path) (v : W32)
  | unitReturned (u : UnitId)
  | retrain (p : Path) (v : W32)
  | unitTrainingEnd (u : UnitId) (r : TrainResult)
  | sparePc (p : Path) (v : W32)
  | sparePcDone (pc : Nat)
  | dimmLatch (ch : Nat)
  | dimmLatchClose (ch : Nat) (fitted : Bool)
  | dimmTrainingStart (ch : Nat)
  | dimmThermalRead (ch : Nat) (temp : Int)
  | cxlLinkDown (port : Nat)
  | cxlReadyTimeout (port : Nat) (linkUp bound : Bool)
  | cxlRequestTimeout (port : Nat)
  | unitFailed (u : UnitId) (part : Nat)
  | memoryTrainingEnd (hbm ddr : List TrainResult) (ms : Nat)
  | moveStart (p : Path) (w : Words4)
  | moveCopied (entry : Nat)
  | moveRelease (p : Path) (w : Words4)
  | bucketRefill
  | patrolPass (u : UnitId) (errs : List SectorError)
  | rowRepair (u : UnitId) (firstLine lines : Nat) (spareRow : Bool)
  | mirrorAdd (p : Path) (w : Words4)
  | mirrorRemove (p : Path) (w : Words4)
  | tgGo (p : Path) (cxl : Bool) (page : Nat) (v : W32)
  | tgStop (p : Path) (cxl : Bool) (page : Nat) (v : W32)
  -- 09: address translation
  | walkComplete (walk : Nat)
  | faultWindowClose (fault : Nat)
  | fqtailWrite (p : Path) (part : Nat) (v : W32)
  | resolveRetry (p : Path) (part : Nat) (v : W64)
  | resolveAbort (p : Path) (part : Nat) (v : W64)
  | sync (p : Path) (part : Nat) (v : W64)
  | contextRange (p : Path) (part : Nat) (v : W64)
  | context (p : Path) (part : Nat) (v : W64)
  | s2Range (p : Path) (part : Nat) (v : W64)
  | partition (p : Path) (part : Nat) (v : W64)
  | invComplete (part : Nat)
  -- 10: update units
  | shardHandout (queue : Nat)
  | pass1Shard (unit : Nat)
  | pass2Shard (unit : Nat)
  | updateComplete (queue : Nat)
  | ruleWrite (p : Path) (part rule : Nat) (data : List Byte)
  | ruleApplied (part rule : Nat)
  | uuEnableWrite (p : Path) (unit : Nat) (on : Bool)
  -- 11: the host link
  | linkTraining (rate width : Nat) (flit : Bool)
  | laneLossRetrain (width : Nat)
  | dlDown
  | hotReset
  | perst
  | hostBar2Write (fn off : Nat) (data : List Byte) (poisoned : Bool)
  | hostBar2Read (fn off len : Nat)
  | unsupportedRequest (fn : Nat) (k : UrKind)
  | hostReadFail (addr : Nat)
  | msixUnmask (fn : Nat) (w : MsixWrite)
  | flrVf (k : Nat)
  | flrPf
  | doeRequest (k : DoeKind) (msg : List Byte)
  | ideEstablish
  | ideCheckFail
  | d3hotEntry (fn : Nat)
  -- 12: objects, queues and submission
  | ctxCreate (p : Path) (part : Nat)
  | ctxKill (p : Path) (part : Nat)
  | objQuery (p : Path) (part : Nat)
  | qCreate (p : Path) (part : Nat)
  | qStart (p : Path) (part : Nat)
  | qStop (p : Path) (part : Nat)
  | qReset (p : Path) (part : Nat)
  | qDestroy (p : Path) (part : Nat)
  | memCreate (p : Path) (part : Nat)
  | memFree (p : Path) (part : Nat)
  | fenceCreate (p : Path) (part : Nat)
  | eventCreate (p : Path) (part : Nat)
  | syncFree (p : Path) (part : Nat)
  | fenceSignal (p : Path) (part : Nat)
  | eventSignal (p : Path) (part : Nat)
  | fenceExport (p : Path) (part : Nat)
  | fenceImport (p : Path) (part : Nat)
  | fenceImportRemote (p : Path) (part : Nat)
  | importRemoteTimeout (part : Nat)
  | refAdd (p : Path) (part : Nat)
  | doorbell (p : Path) (queue : Nat) (tail : W32)
  | entryAccept (queue : Nat)
  | waitsMet (queue : Nat)
  | entryComplete (queue : Nat)
  | queueTimeout (queue : Nat)
  | killTimeout (queue : Nat)
  | reclaimEpochEnd
  -- 13: partitions, steps and the Meter
  | apply (p : Path) (v : W32)
  | layoutAbort (p : Path) (v : W32)
  | partitionReset (p : Path) (v : W32)
  | ptResetGo (p : Path) (part : Nat) (v : W32)
  | layoutDrainLimit
  | meterWindow (m : Measures)
  | stepPlace (part : Nat)
  | sliceEligible (queue : Nat)
  | preemptTimeout (queue : Nat)
  | modeStage
  | modeStageLimit
  | modeCommit
  | epochBoundary (u : ModeUnit)
  | modeChangeComplete
  | compatHoldExpiry (part : Nat)
  | learnForget (p : Path) (v : Byte)
  | maintenanceStep (w : MaintWork)
  -- 14: Niandop Link
  | data (f : Frame)
  | signal (f : Frame)
  | subscribe (f : Frame)
  | subReply (f : Frame)
  | fenceChange (f : Frame)
  | unsubscribe (f : Frame)
  | credit (f : Frame)
  | runAbort (f : Frame)
  | ack (f : Frame)
  | nak (f : Frame)
  | hello (f : Frame)
  | ackTimer (node : Nat)
  | retransmitTimeout (node psn : Nat)
  | helloTimer (node : Nat)
  | keepAlive (node : Nat)
  | lostTimeout (node : Nat)
  | peerIdleClose (node : Nat)
  | quadOut (port quad : Nat) (why : QuadLoss)
  | quadRetrainTry (port quad : Nat) (trained : Bool)
  | quadReturn (port quad : Nat)
  | qctrlOut (p : Path) (port : Nat) (v : W32)
  | quadRetrain (p : Path) (port : Nat) (v : W32)
  | cageInsert (port : Nat) (m : CageModule)
  | cageRemove (port : Nat)
  | fabricEnable (p : Path)
  | groupWrite (p : Path) (data : List Byte)
  | operationWrite (p : Path) (data : List Byte)
  | runStart (op : Nat)
  | runComplete (op : Nat)
  | runTimeout (op : Nat)
  | prbsGo (p : Path) (port : Nat) (v : W32)
  | prbsStop (p : Path) (port : Nat) (v : W32)
  -- 15: negatives, replicas and repair in service
  | planEnable (p : Path) (part : Nat) (v : Byte)
  | negativeDue (part : Nat)
  | negativeLate (part : Nat)
  | failureReport (p : Path) (group : Nat)
  | restore (p : Path) (w : Words4)
  | remap (p : Path) (w : Words4)
  | digest (p : Path) (w : Words4)
  | compare (p : Path) (w : Words4)
  | digestDone
  | releaseBrick (p : Path) (v : W32)
  | brickReleaseEnd (inputW : Nat)
  | releaseFan (p : Path) (v : W32)
  | releaseCage (p : Path) (v : W32)
  | returnCage (p : Path) (v : W32)
  | prepareModule (p : Path) (v : W32)
  | spareCore (p : Path) (v : W32)
  -- 16: management, security and start-up
  | odRead (p : Path) (index sub off : Nat)
  | odWrite (p : Path) (index sub : Nat) (data : List Byte)
  | odDescribe (p : Path) (index sub : Nat)
  | odRequest (h : TuiHead) (items : List OdItem)
  | discover (h : TuiHead)
  | sessionInit (h : TuiHead) (staticKey ephKey nonce : List Byte)
  | sessionFinish (h : TuiHead) (sig : List Byte)
  | sessionClose (h : TuiHead)
  | sessionTimeout (i : Nat)
  | eventAck (h : TuiHead)
  | eventRepeat (i : Nat)
  | spdm (h : TuiHead) (msg : List Byte)
  | imageRequest
  | imageOffer (h : TuiHead) (size : Nat)
  | imageData (h : TuiHead) (off : Nat) (data : List Byte)
  | imageReadTimeout (off : Nat)
  | loaderGo (p : Path) (v : W32)
  | imageCheck
  | restoreDone (p : Path) (v : Byte)
  | restoreWindowExpiry
  | warm (p : Path) (v : W32)
  | warmReload (p : Path) (v : W32)
  | watchdog
  | revokeKeySlot (p : Path) (v : Byte)
  | raiseRollbackFloor (p : Path) (v : Byte)
  | programOwnerSlot (p : Path) (data : List Byte)
  | revokeOwnerSlot (p : Path) (v : Byte)
  -- 17: counters, reels and the contact sheet
  | profilePlanWrite (p : Path) (data : List Byte)
  | reelDrainDone (reel : Nat) (ok : Bool)
  | reelFlush (p : Path) (reel : Nat) (v : W32)
  | reelDisable (p : Path) (reel : Nat) (v : W32)
  | progressWatchdog (queue : Nat)
  | contactSheetDone
  | contactSheetRelease (p : Path) (byRegister : Bool) (v : W32)
  -- 18: power, cooling and mechanics
  | powerUp (pins : PowerPins)
  | pwrEnFall
  | restartHoldoff (pins : PowerPins)
  | inputDip
  | undervoltage
  | overvoltage
  | brickOverload
  | brickInsert (n : Nat) (genuine : Bool)
  | brickLost (n : Nat)
  | fanInsert (n : Nat)
  | fanLost (n : Nat)
  | thermalShutdown (maxTemp : Int)
  | hwThermalTrip
  -- rows the table lists last
  | sqEnableWrite (p : Path) (cl : Nat) (on : Bool)
  | mxEnableWrite (p : Path) (core : Nat) (on : Bool)
  | perstRelease
  | d0Entry (fn : Nat)
  | vfEnable (on : Bool) (numVfs : Nat) (ari : Bool)
  | fabricDisable (p : Path)
  | cxlRetrainEnd (port : Nat) (ok : Bool)
  deriving DecidableEq, Repr

end Sys2Proof
end

