-- ==== Sys2Proof/Config.lean ====
section
/-! DEFINITION. Values the spec leaves open, as constants with no body: nothing can be proved of their values. Each is
named in the assumption log. -/

namespace Sys2Proof.Config

/-- The `n`-th free value drawn: every value that the spec leaves undefined or unstated after an operation (log 2). -/
opaque freeWord : Nat → W64

/-- The thread engine's binary32 results of rcp, sqrt, rsqrt, exp2, log2, sin and cos (codes 0 to 6): 02 R56 names the
instructions and states no result for them (log 13). -/
opaque transcend : Nat → W32 → W32

/-- SHA-384, named by 15 R597 and 16 R624 to R634 and defined outside the spec (log 14). -/
opaque sha384 : List Byte → List Byte

/-- ECDSA verification on brainpoolP384r1 with SHA-384: key, message, signature (16 R624, R629, R630; log 14). -/
opaque ecdsaVerify : List Byte → List Byte → List Byte → Bool

/-- The module's signature with its identity key (16 R624, R628; log 14). -/
opaque sign : List Byte → List Byte

/-- The module's ephemeral key for the `n`-th free choice (16 R624, R625; log 14). -/
opaque ephemeralKey : Nat → List Byte

/-- The module's nonce for the `n`-th free choice (16 R624; log 14). -/
opaque sessionNonce : Nat → List Byte

/-- The answer to an SPDM message: the `n`-th free choice, the measurements and the message (16 R629: SPDM 1.2, defined outside
the spec; log 14). -/
opaque spdmAnswer : Nat → List (List Byte) → List Byte → List Byte

/-- The digest of the mask ROM (16 R629). -/
opaque romDigest : List Byte

/-- The 160 bytes of the fuse state: key slots revoked, owner hashes, owner slots revoked and the rollback floor (16 R629, which
does not say how they lie; log 14). -/
opaque fuseState : Nat → List Byte → Nat → Nat → List Byte

/-- The answer to a DOE message of protocol `k`: the `n`-th free choice and the message (11 R442; log 14). -/
opaque doeAnswer : Nat → Nat → List Byte → List Byte

/-- The public identity key, 97 bytes (16 R628, 0x8000:01). -/
opaque identityKey : List Byte

/-- The certificate chain (16 R628, 0x8000:02). -/
opaque certChain : List Byte

/-- The fused hash of key-hash slot `n` (16 R633). -/
opaque keyHash : Nat → List Byte

/-- The serial number, up to 16 bytes (16 R646). -/
opaque serial : List Byte

/-- The fused management MAC address (16 R620, 0x1010:01). -/
opaque managementMac : Nat

/-- The PCI vendor identifier (11 R425, 0x1000:06). -/
opaque pciVendor : Nat

/-- The mask ROM's version (16 R646, 0x1000:08). -/
opaque maskRomVersion : Nat

/-- The set of the learned energy table that a key (partition, kind, class) takes (13 R518: the hash is not promised). -/
opaque learnedSet : Nat → Nat → Nat → Nat

/-- Where the firmware places the object table, in units of 2 MiB of the firmware area (12 R450; log 15). -/
opaque objBaseUnit : Nat

end Sys2Proof.Config
end

