-- ==== Sys2Proof/Machine/DictTable.lean ====
section
/-! DEFINITION. The object dictionary's entries as data: type, access code, persistence class and default of every
entry (the object-dictionary sections of each chapter; 16_management_and_startup.md R612 to R617). -/

namespace Sys2Proof.Machine

/-- Types of dictionary values (R612). -/
inductive OdTy where
  | u8 | u16 | u32 | u64 | i32 | f32 | bool | enum (names : Nat) | str | blob (max : Nat)
  deriving DecidableEq, Repr

/-- Access codes of dictionary entries (R12). -/
inductive OdAcc where
  | ro | wo | rwp | const
  deriving DecidableEq, Repr

/-- A row of the dictionary: subindices `s0` to `s1` of index `idx` (of `idx + p` for partition p where `parts` is 8). -/
structure OdRow where
  idx : Nat
  s0 : Nat
  s1 : Nat
  parts : Nat
  ty : OdTy
  acc : OdAcc
  keep : Bool
  dflt : Nat
  deriving DecidableEq, Repr

/-- Dictionary rows, piece 0. -/
def odRows0 : List OdRow := [
  ⟨0x1120, 1, 1, 1, .u32, .const, false, 65536⟩,
  ⟨0x1120, 2, 2, 1, .u8, .const, false, 255⟩,
  ⟨0x1120, 3, 3, 1, .u8, .const, false, 64⟩,
  ⟨0x1120, 4, 4, 1, .u8, .const, false, 32⟩,
  ⟨0x1120, 5, 5, 1, .u16, .const, false, 1024⟩,
  ⟨0x1120, 6, 6, 1, .u8, .const, false, 32⟩,
  ⟨0x4220, 1, 1, 1, .bool, .rwp, true, 0⟩,
  ⟨0x6120, 1, 1, 1, .u64, .ro, false, 0⟩,
  ⟨0x6120, 2, 2, 1, .u32, .ro, false, 0⟩,
  ⟨0x1130, 1, 1, 1, .u8, .const, false, 128⟩,
  ⟨0x1130, 2, 2, 1, .u8, .const, false, 128⟩,
  ⟨0x1130, 3, 3, 1, .u8, .const, false, 16⟩,
  ⟨0x1130, 4, 4, 1, .u8, .const, false, 4⟩,
  ⟨0x1130, 5, 5, 1, .u32, .const, false, 65536⟩,
  ⟨0x1130, 6, 6, 1, .u8, .const, false, 64⟩,
  ⟨0x6130, 1, 1, 1, .u64, .ro, false, 0⟩,
  ⟨0x6130, 2, 2, 1, .u64, .ro, false, 0⟩,
  ⟨0x1140, 1, 1, 1, .u16, .const, false, 1024⟩,
  ⟨0x1140, 2, 2, 1, .u8, .const, false, 64⟩,
  ⟨0x1140, 3, 3, 1, .u16, .const, false, 320⟩,
  ⟨0x1140, 4, 4, 1, .u16, .const, false, 4096⟩,
  ⟨0x1140, 5, 5, 1, .u8, .const, false, 1⟩,
  ⟨0x1140, 6, 6, 1, .u8, .const, false, 8⟩,
  ⟨0x1140, 7, 7, 1, .u8, .const, false, 8⟩]

/-- Dictionary rows, piece 1. -/
def odRows1 : List OdRow := [
  ⟨0x4240, 1, 1, 8, (.enum 2), .rwp, true, 0⟩,
  ⟨0x4240, 2, 2, 8, .bool, .rwp, true, 1⟩,
  ⟨0x4240, 3, 3, 8, .u32, .rwp, true, 999900⟩,
  ⟨0x4240, 4, 4, 8, .u8, .rwp, true, 2⟩,
  ⟨0x4240, 5, 5, 8, .u32, .rwp, true, 4096⟩,
  ⟨0x4240, 8, 8, 8, .u64, .ro, false, 0⟩,
  ⟨0x4248, 1, 1, 1, .u64, .wo, false, 0⟩,
  ⟨0x6140, 1, 1, 1, .u64, .ro, false, 0⟩,
  ⟨0x6140, 2, 2, 1, .u64, .ro, false, 0⟩,
  ⟨0x6140, 3, 3, 1, .u32, .ro, false, 0⟩,
  ⟨0x6140, 4, 4, 1, .u64, .ro, false, 0⟩,
  ⟨0x6140, 5, 5, 1, .u64, .ro, false, 0⟩,
  ⟨0x1150, 1, 1, 1, .u8, .const, false, 32⟩,
  ⟨0x1150, 2, 2, 1, .u8, .const, false, 4⟩,
  ⟨0x1150, 3, 3, 1, .u8, .const, false, 8⟩,
  ⟨0x1150, 4, 4, 1, .u8, .const, false, 4⟩,
  ⟨0x1150, 5, 5, 1, .u8, .const, false, 8⟩,
  ⟨0x1150, 6, 6, 1, .u16, .const, false, 8⟩,
  ⟨0x4250, 1, 1, 1, .u16, .rwp, true, 256⟩,
  ⟨0x6150, 1, 1, 1, .u64, .ro, false, 0⟩,
  ⟨0x6150, 2, 2, 1, .u64, .ro, false, 0⟩,
  ⟨0x6150, 3, 3, 1, .u64, .ro, false, 0⟩,
  ⟨0x1160, 1, 1, 1, .u8, .const, false, 32⟩,
  ⟨0x1160, 2, 2, 1, .u16, .const, false, 128⟩]

/-- Dictionary rows, piece 2. -/
def odRows2 : List OdRow := [
  ⟨0x1160, 3, 3, 1, .u8, .const, false, 32⟩,
  ⟨0x4260, 1, 1, 1, .u32, .rwp, true, 100⟩,
  ⟨0x6160, 1, 1, 1, .u64, .ro, false, 0⟩,
  ⟨0x6160, 2, 2, 1, .u64, .ro, false, 0⟩,
  ⟨0x6160, 3, 3, 1, .u64, .ro, false, 0⟩,
  ⟨0x1170, 1, 1, 1, .u32, .const, false, 16384⟩,
  ⟨0x1170, 2, 2, 1, .u8, .const, false, 16⟩,
  ⟨0x1170, 3, 3, 1, .u16, .const, false, 512⟩,
  ⟨0x1170, 4, 4, 1, .u8, .const, false, 16⟩,
  ⟨0x1170, 5, 5, 1, .u8, .const, false, 16⟩,
  ⟨0x1170, 6, 6, 1, .u32, .const, false, 251658240⟩,
  ⟨0x3100, 1, 1, 1, .u16, .rwp, true, 8⟩,
  ⟨0x3110, 1, 1, 8, .u8, .rwp, true, 8⟩,
  ⟨0x6170, 1, 1, 1, .u16, .ro, false, 0⟩,
  ⟨0x6170, 2, 2, 1, .u16, .ro, false, 0⟩,
  ⟨0x6170, 3, 3, 1, .u64, .ro, false, 0⟩,
  ⟨0x6170, 4, 4, 1, .u64, .ro, false, 0⟩,
  ⟨0x6170, 5, 5, 1, .u64, .ro, false, 0⟩,
  ⟨0x6170, 6, 6, 1, .u64, .ro, false, 0⟩,
  ⟨0x1180, 1, 1, 1, .u8, .const, false, 32⟩,
  ⟨0x1180, 2, 2, 1, .u8, .const, false, 16⟩,
  ⟨0x1180, 3, 3, 1, .u8, .const, false, 4⟩,
  ⟨0x1180, 4, 4, 1, .u8, .const, false, 128⟩,
  ⟨0x1180, 5, 5, 1, .u8, .const, false, 64⟩]

/-- Dictionary rows, piece 3. -/
def odRows3 : List OdRow := [
  ⟨0x3200, 1, 1, 8, .u32, .rwp, true, 0⟩,
  ⟨0x3200, 2, 2, 8, .u32, .rwp, true, 1024⟩,
  ⟨0x3200, 3, 3, 8, .u32, .rwp, true, 0⟩,
  ⟨0x3200, 4, 4, 8, .u32, .rwp, true, 1024⟩,
  ⟨0x3200, 5, 5, 8, .u32, .rwp, true, 0⟩,
  ⟨0x3200, 6, 6, 8, .u32, .rwp, true, 1024⟩,
  ⟨0x3300, 1, 1, 1, .u16, .rwp, true, 24⟩,
  ⟨0x3300, 2, 2, 1, .u16, .rwp, true, 24⟩,
  ⟨0x3300, 3, 3, 1, .u8, .rwp, true, 16⟩,
  ⟨0x3300, 4, 4, 1, .u8, .rwp, true, 8⟩,
  ⟨0x3300, 5, 5, 1, .bool, .rwp, true, 1⟩,
  ⟨0x3400, 1, 1, 1, .u32, .wo, false, 0⟩,
  ⟨0x3400, 2, 2, 1, .u8, .ro, false, 0⟩,
  ⟨0x3410, 1, 32, 1, .u8, .ro, false, 0⟩,
  ⟨0x3411, 1, 16, 1, .u8, .ro, false, 0⟩,
  ⟨0x3412, 1, 4, 1, .u8, .ro, false, 0⟩,
  ⟨0x3500, 1, 1, 1, (.blob 32), .wo, false, 0⟩,
  ⟨0x3501, 1, 128, 1, .u64, .ro, false, 0⟩,
  ⟨0x3502, 1, 1, 1, .u32, .ro, false, 0⟩,
  ⟨0x3502, 2, 2, 1, (.blob 32768), .ro, false, 0⟩,
  ⟨0x3600, 1, 1, 1, (.blob 32), .wo, false, 0⟩,
  ⟨0x3600, 2, 2, 1, .u16, .ro, false, 0⟩,
  ⟨0x3600, 3, 3, 1, .u16, .rwp, true, 16⟩,
  ⟨0x3601, 1, 64, 1, .u64, .ro, false, 0⟩]

/-- Dictionary rows, piece 4. -/
def odRows4 : List OdRow := [
  ⟨0x6180, 1, 1, 1, .u64, .ro, false, 0⟩,
  ⟨0x6180, 2, 2, 1, .u64, .ro, false, 0⟩,
  ⟨0x6180, 3, 3, 1, .u64, .ro, false, 0⟩,
  ⟨0x6180, 4, 4, 1, .u64, .ro, false, 0⟩,
  ⟨0x6180, 5, 5, 1, .u64, .ro, false, 0⟩,
  ⟨0x6180, 6, 6, 1, .u64, .ro, false, 0⟩,
  ⟨0x6180, 7, 7, 1, .u32, .ro, false, 0⟩,
  ⟨0x6180, 8, 8, 1, .u32, .ro, false, 0⟩,
  ⟨0x6180, 9, 9, 1, .u16, .ro, false, 0⟩,
  ⟨0x6180, 10, 10, 1, .u64, .ro, false, 0⟩,
  ⟨0x6180, 11, 11, 1, .u64, .ro, false, 0⟩,
  ⟨0x1190, 1, 1, 1, .u8, .const, false, 64⟩,
  ⟨0x1190, 2, 2, 1, .u32, .const, false, 32768⟩,
  ⟨0x1190, 3, 3, 1, .u16, .const, false, 4096⟩,
  ⟨0x1190, 4, 4, 1, .u16, .const, false, 256⟩,
  ⟨0x1190, 5, 5, 1, .u8, .const, false, 16⟩,
  ⟨0x3700, 1, 1, 1, .u8, .rwp, true, 2⟩,
  ⟨0x6190, 1, 1, 1, .u64, .ro, false, 0⟩,
  ⟨0x6190, 2, 2, 1, .u64, .ro, false, 0⟩,
  ⟨0x6190, 3, 3, 1, .u64, .ro, false, 0⟩,
  ⟨0x6190, 4, 4, 1, .u64, .ro, false, 0⟩,
  ⟨0x6190, 5, 5, 1, .u64, .ro, false, 0⟩,
  ⟨0x11A0, 1, 1, 1, .u8, .const, false, 48⟩,
  ⟨0x11A0, 2, 2, 1, .u8, .const, false, 16⟩]

/-- Dictionary rows, piece 5. -/
def odRows5 : List OdRow := [
  ⟨0x11A0, 3, 3, 1, .u16, .const, false, 4096⟩,
  ⟨0x11A0, 4, 4, 1, .u16, .const, false, 4096⟩,
  ⟨0x11A0, 5, 5, 1, .u8, .const, false, 64⟩,
  ⟨0x3820, 1, 16, 8, (.blob 64), .rwp, false, 0⟩,
  ⟨0x61A0, 1, 1, 1, .u64, .ro, false, 0⟩,
  ⟨0x61A0, 2, 2, 1, .u64, .ro, false, 0⟩,
  ⟨0x61A0, 3, 3, 1, .u64, .ro, false, 0⟩,
  ⟨0x61A0, 4, 4, 1, .u64, .ro, false, 0⟩,
  ⟨0x61A0, 5, 5, 1, .u64, .ro, false, 0⟩,
  ⟨0x1200, 1, 1, 1, (.enum 6), .rwp, true, 5⟩,
  ⟨0x1200, 2, 2, 1, .u8, .rwp, true, 16⟩,
  ⟨0x1200, 3, 3, 1, (.enum 3), .rwp, true, 1⟩,
  ⟨0x1200, 4, 4, 1, .u16, .const, false, 2048⟩,
  ⟨0x1200, 5, 5, 1, .u16, .const, false, 256⟩,
  ⟨0x1200, 6, 6, 1, .u8, .const, false, 8⟩,
  ⟨0x1200, 16, 16, 1, .u32, .ro, false, 0⟩,
  ⟨0x61B0, 1, 1, 1, .u64, .ro, false, 0⟩,
  ⟨0x61B0, 2, 2, 1, .u64, .ro, false, 0⟩,
  ⟨0x61B0, 3, 3, 1, .u64, .ro, false, 0⟩,
  ⟨0x61B0, 4, 4, 1, .u64, .ro, false, 0⟩,
  ⟨0x61B0, 5, 5, 1, .u64, .ro, false, 0⟩,
  ⟨0x11B0, 1, 1, 1, .u16, .const, false, 1024⟩,
  ⟨0x11B0, 2, 2, 1, .u16, .const, false, 4096⟩,
  ⟨0x11B0, 3, 3, 1, .u8, .const, false, 128⟩]

/-- Dictionary rows, piece 6. -/
def odRows6 : List OdRow := [
  ⟨0x11B0, 4, 4, 1, .u32, .const, false, 1048576⟩,
  ⟨0x11B0, 5, 5, 1, .u32, .const, false, 65536⟩,
  ⟨0x11B0, 6, 6, 1, .u32, .const, false, 65536⟩,
  ⟨0x11B0, 7, 7, 1, .u32, .const, false, 37748736⟩,
  ⟨0x4270, 1, 1, 1, .u32, .rwp, true, 1000⟩,
  ⟨0x4270, 2, 2, 1, .u16, .rwp, true, 100⟩,
  ⟨0x4270, 3, 3, 1, .u32, .rwp, true, 65536⟩,
  ⟨0x4270, 4, 4, 1, .u32, .rwp, true, 4096⟩,
  ⟨0x61C0, 1, 1, 1, .u64, .ro, false, 0⟩,
  ⟨0x61C0, 2, 2, 1, .u64, .ro, false, 0⟩,
  ⟨0x61C0, 3, 3, 1, .u64, .ro, false, 0⟩,
  ⟨0x61C0, 4, 4, 1, .u64, .ro, false, 0⟩,
  ⟨0x61C0, 5, 5, 1, .u64, .ro, false, 0⟩,
  ⟨0x61C0, 6, 6, 1, .u64, .ro, false, 0⟩,
  ⟨0x61C0, 7, 7, 1, .u64, .ro, false, 0⟩,
  ⟨0x11C0, 1, 1, 1, .u8, .const, false, 8⟩,
  ⟨0x11C0, 2, 2, 1, .u8, .const, false, 8⟩,
  ⟨0x11C0, 3, 3, 1, .u16, .const, false, 16384⟩,
  ⟨0x11C0, 4, 4, 1, .u8, .const, false, 144⟩,
  ⟨0x11C0, 5, 5, 1, .u16, .const, false, 1000⟩,
  ⟨0x2000, 1, 1, 1, .u16, .rwp, true, 2600⟩,
  ⟨0x2000, 2, 2, 1, .u8, .rwp, true, 0⟩,
  ⟨0x2000, 3, 3, 1, .u8, .rwp, true, 5⟩,
  ⟨0x2000, 4, 4, 1, .u8, .rwp, true, 10⟩]

/-- Dictionary rows, piece 7. -/
def odRows7 : List OdRow := [
  ⟨0x2000, 5, 5, 1, .u8, .rwp, true, 95⟩,
  ⟨0x2000, 6, 6, 1, .u16, .rwp, true, 100⟩,
  ⟨0x2010, 1, 1, 1, .u16, .ro, false, 0⟩,
  ⟨0x2010, 2, 2, 1, .i32, .ro, false, 0⟩,
  ⟨0x2010, 3, 3, 1, .u8, .ro, false, 5⟩,
  ⟨0x2010, 4, 4, 1, .f32, .ro, false, 1065353216⟩,
  ⟨0x2010, 5, 5, 1, (.blob 24), .const, false, 0⟩,
  ⟨0x2020, 1, 1, 1, .u8, .rwp, true, 3⟩,
  ⟨0x2020, 2, 2, 1, .u16, .ro, false, 0⟩,
  ⟨0x2020, 3, 3, 1, .u8, .wo, false, 0⟩,
  ⟨0x2020, 16, 16, 1, .u16, .rwp, false, 0⟩,
  ⟨0x2020, 17, 17, 1, (.blob 16), .ro, false, 0⟩,
  ⟨0x2100, 1, 1, 8, .u16, .rwp, true, 0⟩,
  ⟨0x2100, 2, 2, 8, .u16, .rwp, true, 0⟩,
  ⟨0x2100, 3, 3, 8, .u8, .rwp, true, 85⟩,
  ⟨0x4000, 1, 1, 1, .u32, .wo, false, 0⟩,
  ⟨0x4000, 2, 2, 1, .u8, .ro, false, 0⟩,
  ⟨0x4010, 1, 1, 1, .u32, .rwp, true, 1000⟩,
  ⟨0x4010, 2, 2, 1, .u32, .rwp, true, 1000⟩,
  ⟨0x4010, 3, 3, 1, .u32, .rwp, true, 10⟩,
  ⟨0x4100, 1, 1, 8, .u16, .rwp, true, 0⟩,
  ⟨0x4100, 2, 2, 8, .u32, .rwp, true, 0⟩,
  ⟨0x4100, 3, 3, 8, .u16, .rwp, true, 0⟩,
  ⟨0x4100, 4, 4, 8, .u16, .rwp, true, 0⟩]

/-- Dictionary rows, piece 8. -/
def odRows8 : List OdRow := [
  ⟨0x4100, 5, 5, 8, (.blob 128), .rwp, true, 0⟩,
  ⟨0x4100, 6, 6, 8, (.blob 128), .rwp, true, 0⟩,
  ⟨0x4100, 7, 7, 8, .bool, .rwp, true, 0⟩,
  ⟨0x4300, 1, 1, 8, .u8, .rwp, true, 50⟩,
  ⟨0x4300, 2, 2, 8, .u32, .rwp, true, 10000⟩,
  ⟨0x4300, 3, 3, 8, .u32, .ro, false, 0⟩,
  ⟨0x4300, 4, 4, 8, (.enum 2), .ro, false, 0⟩,
  ⟨0x61D0, 1, 1, 1, .u64, .ro, false, 0⟩,
  ⟨0x61D0, 2, 2, 1, .u64, .ro, false, 0⟩,
  ⟨0x61D0, 3, 3, 1, .u64, .ro, false, 0⟩,
  ⟨0x61D0, 4, 4, 1, .u64, .ro, false, 0⟩,
  ⟨0x61D0, 5, 5, 1, .u64, .ro, false, 0⟩,
  ⟨0x61D0, 6, 6, 1, .u64, .ro, false, 0⟩,
  ⟨0x61D0, 7, 7, 1, .u64, .ro, false, 0⟩,
  ⟨0x61D0, 8, 8, 1, .u64, .ro, false, 0⟩,
  ⟨0x61D0, 9, 9, 1, .u64, .ro, false, 0⟩,
  ⟨0x11D0, 1, 1, 1, .u8, .const, false, 8⟩,
  ⟨0x11D0, 2, 2, 1, .u16, .const, false, 4096⟩,
  ⟨0x11D0, 3, 3, 1, .u16, .const, false, 1024⟩,
  ⟨0x11D0, 4, 4, 1, .u16, .const, false, 4096⟩,
  ⟨0x5000, 1, 1, 1, .u16, .rwp, true, 0⟩,
  ⟨0x5000, 2, 2, 1, .bool, .rwp, true, 0⟩,
  ⟨0x5000, 3, 3, 1, .u16, .rwp, true, 34997⟩,
  ⟨0x5000, 4, 4, 1, .u16, .rwp, true, 2638⟩]

/-- Dictionary rows, piece 9. -/
def odRows9 : List OdRow := [
  ⟨0x5000, 5, 5, 1, .u16, .rwp, true, 0⟩,
  ⟨0x5000, 6, 6, 1, .u16, .rwp, true, 4096⟩,
  ⟨0x5000, 7, 7, 1, .u16, .rwp, true, 10⟩,
  ⟨0x5000, 8, 8, 1, .u16, .rwp, true, 100⟩,
  ⟨0x5000, 9, 9, 1, .u32, .rwp, true, 1000⟩,
  ⟨0x5000, 10, 10, 1, .u16, .rwp, true, 256⟩,
  ⟨0x5000, 11, 11, 1, .u16, .rwp, true, 10⟩,
  ⟨0x5200, 1, 1, 1, .u16, .rwp, false, 0⟩,
  ⟨0x5200, 2, 2, 1, (.blob 64), .rwp, false, 0⟩,
  ⟨0x5300, 1, 1, 1, .u16, .rwp, false, 0⟩,
  ⟨0x5300, 2, 2, 1, (.blob 64), .rwp, false, 0⟩,
  ⟨0x5300, 3, 3, 1, .u64, .ro, false, 0⟩,
  ⟨0x61E0, 1, 1, 1, .u64, .ro, false, 0⟩,
  ⟨0x61E0, 2, 2, 1, .u64, .ro, false, 0⟩,
  ⟨0x61E0, 3, 3, 1, .u64, .ro, false, 0⟩,
  ⟨0x61E0, 4, 4, 1, .u32, .ro, false, 0⟩,
  ⟨0x61E0, 5, 5, 1, .u64, .ro, false, 0⟩,
  ⟨0x11E0, 1, 1, 1, .u8, .const, false, 1⟩,
  ⟨0x11E0, 2, 2, 1, .u32, .const, false, 30⟩,
  ⟨0x11E0, 3, 3, 1, .u32, .const, false, 21600⟩,
  ⟨0x11E0, 4, 4, 1, .u8, .const, false, 32⟩,
  ⟨0x11E0, 5, 5, 1, .u32, .const, false, 67108864⟩,
  ⟨0x6010, 1, 16, 1, .u32, .ro, false, 0⟩,
  ⟨0x6011, 1, 1, 1, .u8, .ro, false, 0⟩]

/-- Dictionary rows, piece 10. -/
def odRows10 : List OdRow := [
  ⟨0x6011, 2, 2, 1, .u8, .ro, false, 0⟩,
  ⟨0x6020, 1, 1, 1, .bool, .rwp, true, 1⟩,
  ⟨0x6020, 2, 2, 1, .u16, .rwp, true, 64⟩,
  ⟨0x6020, 3, 3, 1, .u16, .rwp, true, 256⟩,
  ⟨0x6030, 1, 1, 8, .bool, .rwp, false, 0⟩,
  ⟨0x6030, 2, 2, 8, .u16, .rwp, false, 0⟩,
  ⟨0x6030, 3, 3, 8, .u16, .rwp, false, 0⟩,
  ⟨0x6030, 4, 4, 8, .u16, .rwp, false, 0⟩,
  ⟨0x6030, 5, 5, 8, (.blob 128), .rwp, false, 0⟩,
  ⟨0x6030, 6, 6, 8, .u16, .rwp, false, 0⟩,
  ⟨0x6030, 7, 7, 8, .u64, .rwp, false, 0⟩,
  ⟨0x6030, 8, 8, 8, .u32, .rwp, false, 0⟩,
  ⟨0x6030, 9, 9, 8, .u32, .rwp, true, 86400⟩,
  ⟨0x6030, 10, 10, 8, .u32, .rwp, true, 60⟩,
  ⟨0x6040, 1, 1, 1, .u32, .wo, false, 0⟩,
  ⟨0x6040, 2, 2, 1, .u8, .ro, false, 0⟩,
  ⟨0x6041, 1, 1, 1, (.blob 32), .wo, false, 0⟩,
  ⟨0x6041, 2, 2, 1, .u64, .ro, false, 0⟩,
  ⟨0x6042, 1, 1, 1, (.blob 32), .wo, false, 0⟩,
  ⟨0x6042, 2, 2, 1, .u8, .ro, false, 0⟩,
  ⟨0x6043, 1, 1, 1, .u16, .wo, false, 0⟩,
  ⟨0x61F0, 1, 1, 1, .u64, .ro, false, 0⟩,
  ⟨0x61F0, 2, 2, 1, .u64, .ro, false, 0⟩,
  ⟨0x61F0, 3, 3, 1, .u64, .ro, false, 0⟩]

/-- Dictionary rows, piece 11. -/
def odRows11 : List OdRow := [
  ⟨0x61F0, 4, 4, 1, .u64, .ro, false, 0⟩,
  ⟨0x61F0, 5, 5, 1, .u64, .ro, false, 0⟩,
  ⟨0x61F0, 6, 6, 1, .u16, .ro, false, 0⟩,
  ⟨0x61F0, 7, 7, 1, .u32, .ro, false, 0⟩,
  ⟨0x1000, 1, 1, 1, .str, .const, false, 0⟩,
  ⟨0x1000, 2, 2, 1, .str, .const, false, 0⟩,
  ⟨0x1000, 3, 3, 1, .str, .const, false, 0⟩,
  ⟨0x1000, 4, 4, 1, .str, .const, false, 0⟩,
  ⟨0x1000, 5, 5, 1, .str, .const, false, 0⟩,
  ⟨0x1000, 6, 6, 1, .u16, .const, false, 0⟩,
  ⟨0x1000, 7, 7, 1, .u32, .ro, false, 0⟩,
  ⟨0x1000, 8, 8, 1, .u32, .const, false, 0⟩,
  ⟨0x1000, 9, 9, 1, (.enum 2), .ro, false, 0⟩,
  ⟨0x1010, 1, 1, 1, .u64, .const, false, 0⟩,
  ⟨0x1010, 2, 2, 1, .u8, .ro, false, 0⟩,
  ⟨0x1010, 3, 3, 1, .u16, .rwp, true, 47120⟩,
  ⟨0x1010, 4, 4, 1, .u8, .ro, false, 0⟩,
  ⟨0x1020, 1, 1, 1, .u64, .ro, false, 0⟩,
  ⟨0x1020, 2, 2, 1, (.blob 32768), .ro, false, 0⟩,
  ⟨0x1030, 1, 1, 1, .u64, .ro, false, 0⟩,
  ⟨0x1030, 2, 2, 1, (.blob 1024), .ro, false, 0⟩,
  ⟨0x8000, 1, 1, 1, (.blob 97), .const, false, 0⟩,
  ⟨0x8000, 2, 2, 1, (.blob 4096), .const, false, 0⟩,
  ⟨0x8000, 3, 3, 1, .u8, .ro, false, 0⟩]

/-- Dictionary rows, piece 12. -/
def odRows12 : List OdRow := [
  ⟨0x8000, 4, 4, 1, .u8, .ro, false, 0⟩,
  ⟨0x8010, 1, 4, 1, (.blob 48), .ro, false, 0⟩,
  ⟨0x8010, 5, 5, 1, (.blob 49), .wo, false, 0⟩,
  ⟨0x8010, 6, 6, 1, .u8, .wo, false, 0⟩,
  ⟨0x8020, 1, 1, 1, .u8, .wo, false, 0⟩,
  ⟨0x8020, 2, 2, 1, .u64, .ro, false, 0⟩,
  ⟨0x8020, 3, 3, 1, .bool, .wo, false, 0⟩,
  ⟨0x8020, 4, 4, 1, .u8, .ro, false, 255⟩,
  ⟨0x9000, 1, 1, 1, (.enum 7), .ro, false, 1⟩,
  ⟨0x9000, 2, 2, 1, (.enum 8), .ro, false, 0⟩,
  ⟨0x9000, 3, 3, 1, .bool, .wo, false, 0⟩,
  ⟨0x9000, 4, 4, 1, .u16, .const, false, 30⟩,
  ⟨0x9000, 5, 5, 1, .u32, .rwp, true, 2000⟩,
  ⟨0x9000, 6, 6, 1, .u32, .ro, false, 0⟩,
  ⟨0x9010, 1, 1, 1, .u32, .wo, false, 0⟩,
  ⟨0x6200, 1, 1, 1, .u64, .ro, false, 0⟩,
  ⟨0x6200, 2, 2, 1, .u64, .ro, false, 0⟩,
  ⟨0x6200, 3, 3, 1, .u64, .ro, false, 0⟩,
  ⟨0x6200, 4, 4, 1, .u32, .ro, false, 0⟩,
  ⟨0x11F0, 1, 1, 1, .u8, .const, false, 8⟩,
  ⟨0x11F0, 2, 2, 1, .u16, .const, false, 64⟩,
  ⟨0x11F0, 3, 3, 1, .u16, .const, false, 256⟩,
  ⟨0x11F0, 4, 4, 1, .u32, .const, false, 536870912⟩,
  ⟨0x11F0, 5, 5, 1, .u8, .const, false, 128⟩]

/-- Dictionary rows, piece 13. -/
def odRows13 : List OdRow := [
  ⟨0x7100, 1, 1, 1, .u16, .rwp, false, 0⟩,
  ⟨0x7100, 2, 2, 1, (.blob 16), .rwp, false, 0⟩,
  ⟨0x7200, 1, 1, 1, .u32, .rwp, true, 60000⟩,
  ⟨0x7300, 1, 1, 1, .u64, .ro, false, 0⟩,
  ⟨0x7300, 2, 2, 1, .bool, .wo, false, 0⟩,
  ⟨0x7300, 3, 3, 1, .u64, .ro, false, 536870912⟩,
  ⟨0x6210, 1, 1, 1, .u64, .ro, false, 0⟩,
  ⟨0x6210, 2, 2, 1, .u64, .ro, false, 0⟩,
  ⟨0x6210, 3, 3, 1, .u64, .ro, false, 0⟩,
  ⟨0x6210, 4, 4, 1, .u64, .ro, false, 0⟩,
  ⟨0x6210, 5, 5, 1, .u64, .ro, false, 0⟩,
  ⟨0x1220, 1, 1, 1, .u8, .const, false, 6⟩,
  ⟨0x1220, 2, 2, 1, .u16, .const, false, 520⟩,
  ⟨0x1220, 3, 3, 1, .u8, .const, false, 3⟩,
  ⟨0x1220, 4, 4, 1, .u8, .const, false, 0⟩,
  ⟨0x1220, 5, 5, 1, .u8, .const, false, 105⟩,
  ⟨0x1220, 6, 6, 1, .u8, .const, false, 115⟩,
  ⟨0x2030, 1, 1, 1, .u32, .ro, false, 0⟩,
  ⟨0x2030, 2, 2, 1, .u32, .ro, false, 0⟩,
  ⟨0x2030, 3, 3, 1, .u32, .ro, false, 0⟩,
  ⟨0x2030, 4, 4, 1, .u8, .ro, false, 0⟩,
  ⟨0x2030, 5, 5, 1, .u8, .ro, false, 0⟩,
  ⟨0x2030, 6, 6, 1, (.blob 12), .ro, false, 0⟩,
  ⟨0x6220, 1, 1, 1, .u32, .ro, false, 0⟩]

/-- Dictionary rows, piece 14. -/
def odRows14 : List OdRow := [
  ⟨0x6220, 2, 2, 1, .u32, .ro, false, 0⟩,
  ⟨0x6220, 3, 3, 1, .u64, .ro, false, 0⟩,
  ⟨0x6220, 4, 4, 1, .u32, .ro, false, 0⟩]

/-- All rows of the dictionary. -/
def odRows : List OdRow :=
  odRows0 ++ odRows1 ++ odRows2 ++ odRows3 ++ odRows4 ++ odRows5 ++ odRows6 ++ odRows7 ++ odRows8 ++ odRows9 ++ odRows10 ++ odRows11 ++ odRows12 ++ odRows13 ++ odRows14

/-- The row of an entry. -/
def odRow (idx sub : Nat) : Option OdRow :=
  odRows.find? (fun r => r.idx ≤ idx && idx < r.idx + r.parts && r.s0 ≤ sub && sub ≤ r.s1)

/-- Whether an index exists; then its highest subindex (R613). -/
def odHighest (idx : Nat) : Option Nat :=
  match (odRows.filter (fun r => r.idx ≤ idx && idx < r.idx + r.parts)).map (·.s1) with
  | [] => none
  | l => some (l.foldl Nat.max 0)

/-- Bytes of a value of fixed width; zero for STR and BLOB. -/
def OdTy.bytes : OdTy → Nat
  | .u8 => 1 | .u16 => 2 | .u32 => 4 | .u64 => 8 | .i32 => 4 | .f32 => 4 | .bool => 1 | .enum _ => 1 | .str => 0 | .blob _ => 0

/-- Type codes (R612). -/
def OdTy.code : OdTy → Nat
  | .u8 => 1 | .u16 => 2 | .u32 => 3 | .u64 => 4 | .i32 => 5 | .f32 => 6 | .bool => 7 | .enum _ => 8 | .str => 9 | .blob _ => 10

/-- Access codes as DESCRIBE gives them (R613). -/
def OdAcc.code : OdAcc → Nat
  | .ro => 1 | .wo => 3 | .rwp => 4 | .const => 5

/-- An entry's default; the module limit's is the variant's. -/
def odDefault (idx sub : Nat) (ac : Bool) : Nat :=
  if idx = 0x2000 ∧ sub = 1 ∧ ac then 1600
  else if idx = 0x1220 ∧ sub = 4 ∧ ac then 6
  else match odRow idx sub with
    | some r => r.dflt
    | none => 0

/-- Key of an entry in the state's maps. -/
def odKey (idx sub : Nat) : Nat := idx * 256 + sub

end Sys2Proof.Machine
end

