-- ==== Sys2Proof/Machine/State.lean ====
section
/-! DEFINITION. The state of the FV-80 as plain data, its reset value, and the reasons a step can stop.
Maps are `SMap`s in canonical form; what a map does not list stands at its reset value, so reset lists little. -/

namespace Sys2Proof.Machine

/-- Reasons a step can stop with a fault. No rule of the spec stops the block for good: every fault of the spec is a
next state that fills an error register. -/
inductive Fault where
  /-- Raised by no meaning: the spec gives the block no condition that stops it. Safe. -/
  | halted
  deriving DecidableEq, Repr

/-- Reasons a command is refused by the model. -/
inductive Refusal where
  /-- Raised by an arm of `exec` whose command has no meaning yet; names its mnemonic. Safe. -/
  | notModelled (mnemonic : String)
  deriving DecidableEq, Repr

/-! ### Thread engine (02, 06) -/

/-- Thread-engine states (R86). -/
inductive TeState where
  | off | idle | running | draining | exception | clearing
  deriving DecidableEq, Repr

/-- One path of a group (R68 to R75). `entry` is the reconvergence entry whose point the path runs toward. -/
structure PathSt where
  pc : Nat
  mask : Nat
  entry : Option Nat := none
  atRecon : Bool := false
  atBarrier : Bool := false
  deriving DecidableEq, Repr

/-- One reconvergence-stack entry: its point, the lanes that join there, the entry that encloses it, and how many of
the 32 places it takes (R68: an indirect branch with k targets takes k - 1). -/
structure ReconEntry where
  id : Nat
  recon : Nat
  mask : Nat
  parent : Option Nat := none
  places : Nat := 1
  deriving DecidableEq, Repr

/-- Why a group issues nothing. -/
inductive Stall where
  | none
  | xlate
  | fence (full : Bool) (system : Bool)
  | mwait (n : Nat)
  | mxFull
  | sbFull
  | window
  deriving DecidableEq, Repr

/-- A resident group (R48, R52, R63, R68). The first path of `paths` is the one that runs. -/
structure Group where
  block : Nat := 0
  index : Nat := 0
  width : Nat := 32
  lanes : Nat := 0
  exited : Nat := 0
  paths : List PathSt := []
  count : Nat := 0
  entries : List ReconEntry := []
  nextEntry : Nat := 0
  regs : SMap W32 := []
  lfsr : SMap Nat := []
  stall : Stall := .none
  deriving DecidableEq, Repr

/-- A resident block (R49, R60, R61). -/
structure Block where
  linear : Nat
  slots : List Nat
  deriving DecidableEq, Repr

/-- A store-buffer entry (R219, R220). `bytes` lists the bytes written, by offset in the line. -/
structure SbEntry where
  line : Nat
  bytes : SMap (Option Byte) := []
  groups : List Nat := []
  closed : Bool := false
  hint : Nat := 0
  host : Bool := false
  ctx : Nat := 0
  part : Nat := 0
  deriving DecidableEq, Repr

/-- A translation held by a cache (R365): a page of `2 ^ size` bytes at `va`, its output, rights, hint and type. -/
structure Xent where
  ctx : Nat := 0
  part : Nat := 0
  va : Nat := 0
  size : Nat := 16
  out : Nat := 0
  ipa : Nat := 0
  host : Bool := false
  rd : Bool := false
  wr : Bool := false
  at_ : Bool := false
  hint : Nat := 0
  strict : Bool := false
  deriving DecidableEq, Repr

/-- An access of another core's group waiting at the owner of a local window (R247): its offset, bytes or register, the address of
the instruction after its load, and for an atomic its operation and its lanes with their operands. -/
structure WinAcc where
  src : Nat
  slot : Nat
  ctx : Nat
  off : Nat
  write : Bool
  size : Nat
  val : Nat
  rd : Nat
  lane : Nat := 0
  va : Nat := 0
  ipa : Nat := 0
  pc : Nat := 0
  next : Nat := 0
  op : Option AtomicOp := none
  lanes : List (Nat × Nat × Nat) := []
  deriving DecidableEq, Repr

/-- Settings of the kernel last launched on a core (R96, R196, R197). -/
structure Settings where
  round : Nat := 0
  intSat : Bool := false
  subn : Nat := 0
  seed : Nat := 0xACE1
  fv40 : Bool := false
  lmem : Nat := 0
  mxUse : Bool := false
  devEnq : Bool := false
  deriving DecidableEq, Repr

/-! ### Matrix engine (03) and densitometer (04) -/

/-- Matrix-engine states (R130). -/
inductive MxState where
  | off | idle | busy | error | clearing
  deriving DecidableEq, Repr

/-- A command in an engine queue (R93 to R95): its word, the operands captured at entry, its issuer, and what it read
and translated when it started (R128). -/
structure MxCmd where
  id : Nat
  fromSeq : Bool
  slot : Nat := 0
  ctx : Nat := 0
  part : Nat := 0
  word : Nat := 0
  pc : Nat := 0
  ra : Nat := 0
  rb : Nat := 0
  rc : Nat := 0
  rd : Nat := 0
  lane : Nat := 0
  started : Bool := false
  scale : Nat := 0
  centre : Int := 0
  pages : List Xent := []
  desc : List Byte := []
  deriving DecidableEq, Repr

/-- A stationary buffer (R101): K rows of N element codes, format, column scales and poison. -/
structure StatBuf where
  fmt : Nat := 0
  rows : List (List Nat) := []
  cscale : Option (List Nat) := none
  poison : Bool := false
  deriving DecidableEq, Repr

/-- An accumulator row of the drain buffer (R104): its tag (true: INT32) and values. -/
structure DrainRow where
  int : Bool
  vals : List Nat
  poison : Bool := false
  deriving DecidableEq, Repr

/-- A histogram set (R156, R157): counts of one slot, and who counted into it (a kernel, or a sequencer's step). -/
structure DensSet where
  idx : Nat := 0
  slot : Nat
  centre : Int := 0
  fmt : Nat := 0
  scale : Nat := 0
  mixedFmt : Bool := false
  mixedScale : Bool := false
  noScale : Bool := false
  srcs : List Nat := []
  bins : SMap Nat := []
  zeros : Nat := 0
  nans : Nat := 0
  under : Nat := 0
  overs : Nat := 0
  sats : Nat := 0
  flushes : Nat := 0
  deriving DecidableEq, Repr

/-- The matrix engine of a core. `drainFree` holds where MTILE left the drain buffer undefined: the first free value of its
rows (R115). -/
structure Mx where
  state : MxState := .off
  queue : List MxCmd := []
  nextId : Nat := 0
  active : StatBuf := {}
  shadow : StatBuf := {}
  activeValid : Bool := false
  shadowValid : Bool := false
  activeBuf : Bool := false
  drain : SMap (Option DrainRow) := []
  drainFree : Option Nat := none
  colLfsr : SMap Nat := []
  groupsOn : Nat := 0
  sets : List DensSet := []
  deriving DecidableEq, Repr

/-- A physical core slot. `cur` holds the settings of the resident kernel, `last` those of the kernel last launched on it. -/
structure Core where
  te : TeState := .off
  kernel : Option Nat := none
  ctx : Option Nat := none
  lastCtx : Option Nat := none
  last : Settings := {}
  cur : Settings := {}
  blocks : List Block := []
  groups : SMap Group := []
  l1 : List Nat := []
  sb : List SbEntry := []
  micro : List Xent := []
  winQ : List WinAcc := []
  mx : Mx := {}
  tearing : Bool := false
  cyc0 : Nat := 0
  iss0 : Nat := 0
  deriving DecidableEq, Repr

/-- A kernel descriptor's fields (R57). -/
structure KDesc where
  regs : Nat := 0
  width : Nat := 0
  lmemCore : Nat := 0
  lmemBlock : Nat := 0
  bx : Nat := 1
  by_ : Nat := 1
  bz : Nat := 1
  gx : Nat := 1
  gy : Nat := 1
  gz : Nat := 1
  code : Nat := 0
  arg : Nat := 0
  argSize : Nat := 0
  kclass : Nat := 0
  priv : Nat := 0
  privSize : Nat := 0
  devEnq : Bool := false
  mxUse : Bool := false
  intSat : Bool := false
  round : Nat := 0
  subn : Nat := 0
  fv40 : Bool := false
  seed : Nat := 0
  maxBlocks : Nat := 0
  deriving DecidableEq, Repr

/-- A launched kernel (R49, R67, R192, R193, R653). `mask` names logical cores of the cluster, `cores` physical slots. -/
structure Kernel where
  desc : KDesc := {}
  descVa : Nat := 0
  ctx : Nat := 0
  part : Nat := 0
  cl : Nat := 0
  queue : Nat := 0
  num : Nat := 0
  mask : Nat := 0
  cores : List Nat := []
  next : Nat := 0
  coresDone : List Nat := []
  occ : Nat := 0
  status : Nat := 0
  tFirst : Nat := 0
  started : Bool := false
  energy : Nat := 0
  slots : List Nat := []
  prof : List Nat := []
  relaunched : Bool := false
  dutyLow : Bool := false
  obsE : Rat := 0
  obsD : Rat := 0
  rank : Nat := 0
  deriving DecidableEq, Repr

/-! ### Sequencers (05) -/

/-- Sequencer states (R210). -/
inductive SqState where
  | off | idle | running | waiting | parked | error
  deriving DecidableEq, Repr

/-- A hardware-loop level (R186). -/
structure LoopLevel where
  start : Nat
  stop : Nat
  remaining : Nat
  index : Nat
  deriving DecidableEq, Repr

/-- A comparator (R191). -/
structure Cmpr where
  armed : Bool := false
  ctr : Nat := 0
  rel : Nat := 0
  val : Nat := 0
  deriving DecidableEq, Repr

/-- The wait that holds a sequencer (R204). -/
inductive SqWait where
  | none
  | mxFull
  | mwait (n : Nat)
  | launch8
  | launchMode
  | lwait (n : Nat)
  | kwait (k : Nat)
  | fwait (h : Nat) (v : Nat)
  | ewait (h : Nat)
  | fsig
  | sbar
  | fetch
  deriving DecidableEq, Repr

/-- A matrix command that a sequencer issued and that is not complete on all its cores (R199). -/
structure SeqMx where
  id : Nat
  left : List (Nat × Nat)
  deriving DecidableEq, Repr

/-- A cluster's sequencer. -/
structure Seq where
  state : SqState := .off
  s : SMap W64 := []
  c : SMap W64 := []
  csrc : SMap Nat := []
  k : SMap Cmpr := []
  loops : List LoopLevel := []
  mxMask : Nat := 0xFF
  mxStep : Nat := 0
  pc : Nat := 0
  launchNo : Nat := 0
  kcount : Nat := 0
  kflags : Nat := 0
  queue : Option Nat := none
  ctx : Nat := 0
  part : Nat := 0
  stepVa : Nat := 0
  rank : Nat := 0
  placed : Nat := 0
  wait : SqWait := .none
  ended : Bool := false
  yield : Bool := false
  inFlight : List Nat := []
  mxOut : List SeqMx := []
  nextMx : Nat := 0
  densCores : List Nat := []
  densSlots : List Nat := []
  cache : SMap (List Byte) := []
  micro : List Xent := []
  deriving DecidableEq, Repr

/-! ### Caches and the Tank (07) -/

/-- A line held by a cluster cache (R271, R289). `excl` holds for Exclusive and Modified. -/
structure CcLine where
  line : Nat
  way : Nat
  excl : Bool
  valid : Nat
  dirty : Nat
  noalloc : Bool := false
  part : Option Nat := none
  deriving DecidableEq, Repr

/-- A line held by a Tank cache way (R263, R285). -/
structure TkLine where
  line : Nat
  way : Nat
  valid : Nat
  dirty : Nat
  keep : Bool := false
  deriving DecidableEq, Repr

/-- A directory entry (R273). -/
structure DirEnt where
  line : Nat
  sharers : Nat := 0
  owner : Option Nat := none
  deriving DecidableEq, Repr

/-- A bank move in progress (R295). -/
structure BankMove where
  bank : Nat
  spare : Nat
  deriving DecidableEq, Repr

/-- The Tank of one die. -/
structure Die where
  tank : SMap (List TkLine) := []
  dir : SMap (List DirEnt) := []
  move : Option BankMove := none
  degraded : List Nat := []
  spares : SMap Nat := []
  keepParts : Nat := 0
  deriving DecidableEq, Repr

/-! ### External memory (08) -/

/-- Unit states (R317). -/
inductive UnitSt where
  | absent | training | inService | draining | quiesced | testing | failed
  deriving DecidableEq, Repr

/-- A unit of service (R303, R317 to R323). `asked` is the path whose QUIESCE or RETURN waits, `tArm` when a latch closed. -/
structure MemUnit where
  st : UnitSt := .absent
  cause : Nat := 0
  bytes : Nat := 0
  rate : Nat := 0
  width : Nat := 0
  gen : Nat := 0
  version : Nat := 0
  devid : Nat := 0
  linkUp : Bool := false
  quiescing : Bool := false
  changed : Bool := false
  toService : Bool := false
  returning : Bool := false
  latchOpen : Bool := false
  fitted : Bool := false
  power : Bool := false
  refresh2 : Bool := false
  halfBw : Bool := false
  passes : Nat := 0
  retrains : Nat := 0
  asked : Option Path := none
  tArm : Option Nat := none
  unacked : Nat := 0
  deriving DecidableEq, Repr

/-- A move-table entry (R326 to R330). State: 0 FREE, 1 MOVING, 2 COPIED, 3 FAILED. -/
structure Move where
  st : Nat := 0
  src : Nat := 0
  dst : Nat := 0
  len : Nat := 0
  status : Nat := 0
  lines : Nat := 0
  deriving DecidableEq, Repr

/-- A mirror-table entry (R342 to R345). State: 0 free, 1 paired, 2 SINGLE on primary, 3 SINGLE on mirror. -/
structure Mirror where
  st : Nat := 0
  primary : Nat := 0
  mirror : Nat := 0
  len : Nat := 0
  deriving DecidableEq, Repr

/-- What a tier holds of a sector whose current value has not been written back (R286, R291). -/
structure TierSector where
  bytes : List Byte
  poison : Bool
  deriving DecidableEq, Repr

/-- The external tiers, their tables and the Tank. -/
structure Ext where
  hbm : SMap MemUnit := []
  ddr : SMap MemUnit := []
  cxl : SMap MemUnit := []
  spared : SMap Bool := []
  sparing : List (Nat × Path) := []
  moves : SMap Move := []
  mirrors : SMap Mirror := []
  quarantine : List Nat := []
  qwritten : SMap Nat := []
  used : SMap Nat := []
  cc : SMap (List CcLine) := []
  die0 : Die := {}
  die1 : Die := {}
  stale : SMap (Option TierSector) := []
  poison : SMap Bool := []
  deriving DecidableEq, Repr

/-! ### Translation (09) -/

/-- An agent that a walk or an open fault holds (R353, R368, R371). -/
inductive Agent where
  | te (core slot : Nat)
  | mx (core : Nat)
  | seq (cl : Nat)
  deriving DecidableEq, Repr

/-- A walk in progress or queued (R367). Access: 0 read, 1 write, 2 atomic, 3 fetch. -/
structure Walk where
  id : Nat
  ctx : Nat
  va : Nat
  acc : Nat
  pc : Nat
  desc : Bool := false
  agents : List Agent := []
  deriving DecidableEq, Repr

/-- A translation fault as a walk meets it (R370, R377). -/
structure XFault where
  cause : Nat
  stage : Nat := 0
  level : Nat := 0
  acc : Nat := 0
  va : Nat := 0
  ipa : Nat := 0
  pc : Nat := 0
  deriving DecidableEq, Repr

/-- An entry of the open-fault table (R372). `window` is the merge window in µs as it stood when the fault opened (R385). -/
structure OpenFault where
  id : Nat
  ctx : Nat
  part : Nat
  f : XFault
  count : Nat := 1
  cores : List Nat := []
  seqs : List Nat := []
  agents : List Agent := []
  desc : Bool := false
  opened : Nat := 0
  window : Nat := 2
  windowOpen : Bool := true
  held : Bool := false
  record : Option Nat := none
  deriving DecidableEq, Repr

/-- A fault that waits at the walker for an open-fault entry (R373). -/
structure WaitFault where
  ctx : Nat
  part : Nat
  f : XFault
  agent : Agent
  desc : Bool := false
  deriving DecidableEq, Repr

/-- A walk-cache entry: the table that a non-leaf entry names (R365). -/
structure WcEnt where
  stage : Nat
  owner : Nat
  level : Nat
  addr : Nat
  table : Nat
  phys : Nat
  ipa : Nat := 0
  deriving DecidableEq, Repr

/-- An invalidation command waiting (R379, R381). -/
structure InvCmd where
  action : Nat
  ctx : Nat
  pages : Nat
  seq : Nat
  addr : Nat
  reserved : Bool := false
  deriving DecidableEq, Repr

/-- Translation. `badAddr` notes a TT_INVADDR written with bits set that lie outside ADDR (R381). -/
structure Xlate where
  die0 : List Xent := []
  die1 : List Xent := []
  walkCache : List WcEnt := []
  s2 : List Xent := []
  walks : List Walk := []
  nextWalk : Nat := 0
  faults : List OpenFault := []
  waiting : List WaitFault := []
  nextFault : Nat := 0
  inv : SMap (List InvCmd) := []
  badAddr : SMap Bool := []
  deriving DecidableEq, Repr

/-! ### Update units (10) -/

/-- Update-unit states (R413): BUSY, and OFFLINE by the loss of the domain, are seen from its shards and memory units. -/
inductive UuState where
  | off | idle | offline
  deriving DecidableEq, Repr

/-- A shard entry of an update list as read at acceptance (R397). -/
structure Shard where
  words : List W64
  unit : Nat
  deriving DecidableEq, Repr

/-- One part of an update request: its shards at one unit, and its record (R402 to R410). -/
structure Part where
  unit : Nat
  shards : List Nat
  next : Nat := 0
  ended : Bool := false
  status : Nat := 0
  torn : Bool := false
  applied : Nat := 0
  skipped : Nat := 0
  nonfinite : Nat := 0
  sum : W64 := 0
  failShard : Nat := 0
  failElem : Nat := 0
  deriving DecidableEq, Repr

/-- An accepted update request. -/
structure UpdReq where
  ctx : Nat := 0
  part : Nat := 0
  header : List W64 := []
  shards : List Shard := []
  parts : List Part := []
  handed : Nat := 0
  stop : Option Nat := none
  deriving DecidableEq, Repr

/-- A shard waiting at, or run by, a unit. -/
structure ShardJob where
  queue : Nat
  shard : Nat
  deriving DecidableEq, Repr

/-- An update unit. -/
structure Uu where
  state : UuState := .off
  jobs : List ShardJob := []
  lfsr : Nat := 0xACE1
  part : Nat := 0
  deriving DecidableEq, Repr

/-- A rule write that waits for the requests, by queue, that use the rule (R395). -/
structure RuleWait where
  path : Path
  part : Nat
  rule : Nat
  data : List Byte
  queues : List Nat
  deriving DecidableEq, Repr

/-- Update units and requests. -/
structure Upd where
  units : SMap Uu := []
  reqs : SMap UpdReq := []
  ruleWait : List RuleWait := []
  deriving DecidableEq, Repr

/-! ### Host link (11) -/

/-- A PCIe function of the module (R423 to R431, R439, R445). -/
structure Fn where
  d3 : Bool := false
  msixEn : Bool := false
  fnMask : Bool := false
  unmasked : SMap Bool := []
  msixPend : SMap Bool := []
  barLog : Nat := 0
  aperture : Nat := 0
  misses : Nat := 0
  deriving DecidableEq, Repr

/-- A Message Signalled Interrupt sent. -/
structure Msix where
  fn : Nat
  vector : Nat
  deriving DecidableEq, Repr

/-- An error logged in Advanced Error Reporting (R441). -/
inductive AerErr where
  | unsupportedRequest (fn : Nat)
  | poisonedReceived (fn : Nat)
  | completerAbort (fn : Nat)
  | completionTimeout
  | internalError
  | ideCheck
  deriving DecidableEq, Repr

/-- An answer that the link gave: the last read completion, or a DOE reply. -/
inductive HostReply where
  | data (bytes : List Byte) (poison : Bool)
  | unsupported
  | completerAbort
  | doe (bytes : List Byte)
  | spdm (bytes : List Byte)
  deriving DecidableEq, Repr

/-- The host link. `policy` is the IDE policy in force (R443, R447). -/
structure HostLink where
  up : Bool := false
  rate : Nat := 0
  width : Nat := 0
  flit : Bool := false
  ide : Nat := 0
  fns : SMap Fn := []
  vfEnable : Bool := false
  numVfs : Nat := 0
  ari : Bool := false
  pasid : Bool := false
  sent : List Msix := []
  aer : List AerErr := []
  reply : List HostReply := []
  perst : Bool := true
  policy : Nat := 1
  cfgReady : Bool := false
  deriving DecidableEq, Repr

/-! ### Objects and submission (12) -/

/-- States of an object (R451). -/
inductive ObjSt where
  | free | live | dying | reclaiming
  deriving DecidableEq, Repr

/-- A context (R448, R457, R460). `killed` holds the time of CTX_KILL. -/
structure CtxObj where
  st : ObjSt := .free
  refs : Nat := 0
  part : Nat := 0
  gen : Nat := 0
  enqQuota : Nat := 0
  memQuota : Nat := 0
  syncQuota : Nat := 0
  enqUsed : Nat := 0
  killed : Option Nat := none
  epoch : Nat := 0
  deriving DecidableEq, Repr

/-- Queue states (R462). -/
inductive QSt where
  | none | stopped | idle | active | stopping
  deriving DecidableEq, Repr

/-- The fields of an accepted entry (R464, R465). -/
structure Entry where
  kind : Nat := 0
  fmt : Nat := 0
  irq : Bool := false
  obj : Nat := 0
  statusVa : Nat := 0
  waits : List (Nat × Nat) := []
  sigs : List (Nat × Nat) := []
  mems : List Nat := []
  deriving DecidableEq, Repr

/-- Where an accepted entry stands: waiting under R475, handed on, or ready to complete with a status. -/
inductive HeldPhase where
  | waiting | handed | done (status : Nat)
  deriving DecidableEq, Repr

/-- The entry that a queue holds (R470), with its bytes. `quiet` holds when no record, status word or message is to be written. -/
structure Held where
  entry : Entry
  phase : HeldPhase
  tAccept : Nat
  refused : Bool := false
  quiet : Bool := false
  stopAfter : Bool := false
  raw : List Byte := []
  deriving DecidableEq, Repr

/-- A queue (R461 to R463, R468, R478). `gens` lists announced entries: the tail a doorbell set, and its generation. -/
structure Queue where
  st : QSt := .none
  ring : Nat := 0
  compl : Nat := 0
  ctx : Nat := 0
  sizeLog : Nat := 0
  fmt : Nat := 0
  device : Bool := false
  rt : Bool := false
  irqEn : Bool := false
  vector : Nat := 0
  weight : Nat := 1
  timeoutMs : Nat := 0
  preemptUs : Nat := 0
  refs : Nat := 0
  ost : ObjSt := .free
  head : Nat := 0
  tail : Nat := 0
  seq : Nat := 0
  pending : Bool := false
  badTail : Bool := false
  errors : Nat := 0
  errSeq : Nat := 0
  errStatus : Nat := 0
  gens : List (Nat × Nat) := []
  held : Option Held := none
  vtime : Rat := 0
  epoch : Nat := 0
  deriving DecidableEq, Repr

/-- A fence or event (R451, R452, R481). -/
structure SyncObj where
  st : ObjSt := .free
  event : Bool := false
  refs : Nat := 0
  ctx : Nat := 0
  value : Nat := 0
  error : Bool := false
  alias_ : Bool := false
  remote : Bool := false
  lost : Bool := false
  exported : Bool := false
  nonce : Nat := 0
  subs : List (Nat × Nat) := []
  owner : Option Nat := none
  shadow : Nat := 0
  target : Nat := 0
  node : Nat := 0
  freeGen : Option Nat := none
  hold : Bool := false
  epoch : Nat := 0
  deriving DecidableEq, Repr

/-- A memory object (R451, R452). -/
structure MemObj where
  st : ObjSt := .free
  refs : Nat := 0
  ctx : Nat := 0
  base : Nat := 0
  size : Nat := 0
  freeGen : Option Nat := none
  hold : Bool := false
  notify : Option (Nat × Nat) := none
  epoch : Nat := 0
  deriving DecidableEq, Repr

/-- A FENCE_IMPORT_REMOTE that awaits its answer (R483). -/
structure RemoteImport where
  part : Nat
  ctx : Nat
  node : Nat
  token : Nat
  handle : Nat
  tSent : Nat
  deriving DecidableEq, Repr

/-- Objects. -/
structure Objects where
  ctxs : SMap CtxObj := []
  queues : SMap Queue := []
  syncs : SMap SyncObj := []
  mems : SMap MemObj := []
  imports : List RemoteImport := []
  epoch : Nat := 0
  tEpoch : Nat := 0
  epochUs : Nat := 100
  deriving DecidableEq, Repr

/-! ### Partitions, steps and the Meter (13) -/

/-- States of a partition (R497). -/
inductive PartSt where
  | absent | active | changing | resetting
  deriving DecidableEq, Repr

/-- A layout of a partition (R491, R544). Ranges are (base, GiB). -/
structure Layout where
  clusters : Nat := 0
  sets : Nat := 0
  ways : Nat := 0
  store : Nat := 0
  ddr : List (Nat × Nat) := []
  cxl : List (Nat × Nat) := []
  enabled : Bool := false
  deriving DecidableEq, Repr

/-- A partition. Powers are in watts; `budget`, `rtReserve` and `derate` are the entries as the last window took them. `rtUse` holds the real-time cluster-ticks of the last 100 buckets. -/
structure Partn where
  st : PartSt := .absent
  lay : Layout := {}
  compat : Bool := false
  subnFlush : Bool := false
  share : Rat := 0
  rtBudget : Rat := 0
  beBudget : Rat := 0
  rtProj : Rat := 0
  beProj : Rat := 0
  used : Rat := 0
  below : Nat := 0
  budget : Nat := 0
  rtReserve : Nat := 0
  derate : Nat := 85
  rtUse : List Nat := []
  rtCur : Nat := 0
  lastFv40 : Nat := 0
  deriving DecidableEq, Repr

/-- States of a step (R504). -/
inductive StepSt where
  | waiting | ready | running | yielding | parked
  deriving DecidableEq, Repr

/-- An accepted step, keyed by its queue (R466, R504). `cls` are the placed clusters by rank, `awake` those that have started
or resumed since placement, `watch` the progress watchdog time of its admission in ms, `obj` its step object, `parkSrc` and `parkDens` the counter sources and the slots still to
be closed by rank, for which a park image has no place. -/
structure StepRec where
  st : StepSt := .waiting
  ctx : Nat := 0
  part : Nat := 0
  va : Nat := 0
  stream : Nat := 0
  arg : Nat := 0
  deadlineUs : Nat := 0
  energyUJ : Nat := 0
  clusters : Nat := 0
  sclass : Nat := 0
  yieldOk : Bool := false
  tAccept : Nat := 0
  tPlaced : Nat := 0
  tMark : Nat := 0
  tYield : Nat := 0
  cls : List Nat := []
  stopping : Bool := false
  status : Nat := 0
  slot : Option Nat := none
  rt : Bool := false
  rtPool : Bool := false
  proj : Rat := 0
  admitted : Bool := false
  deferred : Bool := false
  forRt : Bool := false
  drained : Bool := false
  e0 : Rat := 0
  d0 : Rat := 0
  lastProgress : Nat := 0
  watch : Nat := 0
  obj : List Byte := []
  parkSrc : SMap (SMap Nat) := []
  parkDens : SMap (List Nat) := []
  awake : List Nat := []
  deriving DecidableEq, Repr

/-- Phases of a layout change (R497 to R503). -/
inductive LayPhase where
  | preparation | modeWait | mode
  deriving DecidableEq, Repr

/-- The APPLY or RESET in progress (R495 to R503). -/
structure LayChange where
  reset : Bool := false
  parts : List Nat := []
  target : List Layout := []
  phase : LayPhase := .preparation
  byRegister : Bool := false
  path : Path := .firmware
  tPrep : Nat := 0
  deriving DecidableEq, Repr

/-- A mode change (R533, R534). Value: the point, the mode, or zero. -/
structure ModeReq where
  kind : Nat := 1
  part : Nat := 0
  scope : Nat := 0
  value : Nat := 0
  deriving DecidableEq, Repr

/-- Phases of the mode controller (R534). -/
inductive ModePhase where
  | idle | stage | commit
  deriving DecidableEq, Repr

/-- The mode controller. `left` lists the units that have not reported. -/
structure ModeCtl where
  epoch : Nat := 0
  phase : ModePhase := .idle
  cur : ModeReq := {}
  waiting : List ModeReq := []
  left : List ModeUnit := []
  tStage : Nat := 0
  deriving DecidableEq, Repr

/-- An entry of the learned energy table (R518). -/
structure Learned where
  idx : Nat
  valid : Bool := true
  kind : Nat
  part : Nat
  cls : Nat
  count : Nat
  e0 : W32
  d0 : W32
  upd : Nat
  deriving DecidableEq, Repr

/-- A maintenance step of the firmware (R510, R539). -/
structure Maint where
  work : MaintWork
  part : Option Nat := none
  running : Bool := false
  deriving DecidableEq, Repr

/-- The Meter (R516 to R531). `limit` and `reserve` are as the last window took them, `total` is the input power. -/
structure Meter where
  temps : List Int := []
  base : Rat := 0
  theta : Rat := 1
  avail : Rat := 0
  fits : Nat := 0
  stopped : Bool := false
  learned : List Learned := []
  limit : Nat := 2600
  reserve : Nat := 100
  total : Nat := 0
  upCount : Nat := 0
  windows : Nat := 0
  tWin : Nat := 0
  deriving DecidableEq, Repr

/-- Partitions, scheduler, Meter and mode controller. `densSrc` lists, by partition * 1024 + slot, who wrote counts into
the slot's partial record (04 R159). -/
structure Parts where
  parts : SMap Partn := []
  steps : SMap StepRec := []
  kernels : SMap Kernel := []
  nextKernel : Nat := 0
  layout : Option LayChange := none
  modes : ModeCtl := {}
  meter : Meter := {}
  maint : List Maint := []
  lastCtx : SMap Nat := []
  densSrc : SMap (List Nat) := []
  deriving DecidableEq, Repr

/-! ### Niandop Link (14) -/

/-- A fabric port (R546 to R550): masks of its quads in service and of those that train. -/
structure Port where
  module : Option CageModule := none
  refused : Bool := false
  inService : Nat := 0
  training : Nat := 0
  deriving DecidableEq, Repr

/-- Peer states (R559). -/
inductive PeerSt where
  | closed | opening | open_ | lost
  deriving DecidableEq, Repr

/-- A packet for a peer: its type (R556) and the header fields that its type uses. A DATA packet names where its data is read
again for a retransmission (R562): `srcKind` 1 a VA of the group's context, 2 an IPA of its partition, 0 nowhere. -/
structure LkPkt where
  type : Nat
  group : Nat := 0
  addr : Nat := 0
  epoch : Nat := 0
  run : Nat := 0
  op : Nat := 0
  mask : Nat := 0
  poison : Bool := false
  payload : List Byte := []
  srcKind : Nat := 0
  src : Nat := 0
  deriving DecidableEq, Repr

/-- A packet sent and not acknowledged (R561 to R563): the plane it last left on, and how often it was sent again. -/
structure TxPkt where
  psn : Nat
  pkt : LkPkt
  plane : Nat
  tSent : Nat
  tFirst : Nat := 0
  tries : Nat := 0
  resent : Bool := false
  deriving DecidableEq, Repr

/-- A frame that the module sent (R555). -/
structure LkTx where
  node : Nat
  plane : Nat
  psn : Nat
  cum : Nat
  ts : Nat
  pkt : LkPkt
  deriving DecidableEq, Repr

/-- A peer (R559 to R564). -/
structure Peer where
  st : PeerSt := .closed
  inc : Nat := 0
  planes : Nat := 0
  nextPsn : Nat := 0
  window : Nat := 0
  unacked : List TxPkt := []
  waitTx : List LkPkt := []
  cum : Nat := 0
  performed : List Nat := []
  heldSig : List Frame := []
  srtt : Nat := 0
  lastHeard : Nat := 0
  sinceAck : Nat := 0
  grow : Nat := 0
  tOpen : Nat := 0
  leaving : Bool := false
  deriving DecidableEq, Repr

/-- Bytes that have arrived for a run in a region: a scratch slot, or 65,536 plus a destination chunk (R575, R577). -/
structure Got where
  run : Nat
  region : Nat
  bytes : Nat
  deriving DecidableEq, Repr

/-- An operation's runs (R570 to R579): the run that runs or ran last, the run before it, the run that ended last, what has
arrived, the targets served (scratch by member, forwarded chunks from 65,536), reduction steps done, and the run that each
member's CREDIT names, plus one. -/
structure Run where
  running : Bool := false
  name : Nat := 0
  prev : Option Nat := none
  lastTrigger : Nat := 0
  lastDone : Option Nat := none
  status : Nat := 0
  tStart : Nat := 0
  got : List Got := []
  sentTo : List Nat := []
  step : Nat := 0
  credits : SMap Nat := []
  deriving DecidableEq, Repr

/-- Niandop Link. `on` holds while the fabric runs; `stopped` holds after PREPARE_MODULE (15 R607). -/
structure Link where
  ports : SMap Port := []
  inc : Nat := 0
  peers : SMap Peer := []
  groups : SMap (List Byte) := []
  ops : SMap (List Byte) := []
  runs : SMap Run := []
  tx : List LkTx := []
  on : Bool := false
  stopped : Bool := false
  nextPlane : Nat := 0
  deriving DecidableEq, Repr

/-! ### Negatives and repair (15) -/

/-- The negative engine of a partition (R588 to R593). The cost `c` and the history are in ticks; `due` is the next due time,
`tDue` when DUE was signalled, `tRise` when TRIGGER last rose, `seen` the nodes counted and when. -/
structure Plan where
  state : Nat := 0
  n : Nat := 0
  c : Nat := 0
  hist : List Nat := []
  tLast : Nat := 0
  due : Nat := 0
  tDue : Nat := 0
  tRise : Nat := 0
  late : Bool := false
  done : Nat := 0
  seen : List (Nat × Nat) := []
  deriving DecidableEq, Repr

/-- The digest command that runs (R597, R598). -/
structure DigestJob where
  compare : Bool := false
  part : Nat := 0
  len : Nat := 0
  addr : Nat := 0
  out : Nat := 0
  ref : Nat := 0
  deriving DecidableEq, Repr

/-- A service command that waits for its answer, and the path that gave it (R605, R608). -/
inductive SvcWait where
  | brick (p : Path) (n : Nat)
  | core (p : Path) (logical : Nat)
  deriving DecidableEq, Repr

/-- Resilience. -/
structure Resil where
  plans : SMap Plan := []
  digest : Option DigestJob := none
  svc : List SvcWait := []
  coreMap : SMap Nat := []
  absent : SMap Bool := []
  retired : SMap Bool := []
  leds : SMap Bool := []
  deriving DecidableEq, Repr

/-! ### Management (16) -/

/-- Stages of start-up (R635). -/
inductive Stage where
  | rom | waitImage | verify | start | ready | warm
  deriving DecidableEq, Repr

/-- An EVENT frame that awaits EVENT_ACK (R627): its REQ, when it was first and last sent, and its payload. -/
structure TuiEvent where
  req : Nat
  tFirst : Nat
  tLast : Nat
  body : List Byte
  deriving DecidableEq, Repr

/-- A Tuinias session (R624 to R627). `script` holds what the controller's SESSION_FINISH signs; `born` rises from one session
to the next (the model's own). -/
structure Session where
  id : Nat := 0
  owner : Nat := 0
  opened : Bool := false
  hostKey : List Byte := []
  script : List Byte := []
  txSeq : Nat := 0
  rxSeq : Nat := 0
  seen : List Nat := []
  tLast : Nat := 0
  tOpen : Nat := 0
  born : Nat := 0
  events : List TuiEvent := []
  evReq : Nat := 0
  deriving DecidableEq, Repr

/-- A Tuinias frame that the module sent. -/
structure TuiOut where
  session : Nat
  type : Nat
  req : Nat
  status : Nat
  body : List Byte
  deriving DecidableEq, Repr

/-- An OD_REQUEST that an item holds up (R615, R623): the reply so far, the answer to the item that waits, the items after it,
and the writes whose effect follows the reply. -/
structure TuiReq where
  req : Nat
  sealed : Bool
  done : List Byte
  answered : Option Nat := none
  rest : List OdItem
  posts : List (Nat × Nat × Nat) := []
  deriving DecidableEq, Repr

/-- An event-log record (R643). -/
structure Event where
  code : Nat
  severity : Nat
  unit : Nat
  time : Nat
  count : Nat
  data : Nat
  deriving DecidableEq, Repr

/-- The firmware loader (R632). -/
structure Loader where
  busy : Bool := false
  source : Nat := 0
  size : Nat := 0
  addr : Nat := 0
  next : Nat := 0
  reads : SMap Nat := []
  deriving DecidableEq, Repr

/-- Management. `warming` holds from a hub warm reset until READY, `inReset` while PERST# holds the hub, `silent` when the module
may not transmit on the segment, and `down` when the hub cannot continue. -/
structure Mgmt where
  stage : Stage := .rom
  image : SMap (List Byte) := []
  imageSize : Nat := 0
  held : Bool := false
  loader : Loader := {}
  runArb : Nat := 0
  runSlot : Nat := 0
  keyRevoked : Nat := 0
  owners : SMap (List Byte) := []
  ownerRevoked : Nat := 0
  floor : Nat := 0
  raisesLeft : Nat := 255
  sessions : SMap Session := []
  reqs : SMap (Option TuiReq) := []
  tx : List TuiOut := []
  events : List Event := []
  eventCount : Nat := 0
  changes : List Nat := []
  trainDone : Bool := false
  restoreDone : Bool := false
  tRestore : Nat := 0
  wdTimes : List Nat := []
  slotId : Nat := 0
  silent : Bool := false
  down : Bool := false
  warming : Bool := false
  inReset : Bool := false
  measured : List Byte := []
  deriving DecidableEq, Repr

/-! ### Observation (17) and power (18) -/

/-- A trace reel (R655, R656). `flush` notes a flush that waits for the other half. -/
structure Reel where
  fill : List (List W64) := []
  flush : Bool := false
  waiting : Option (List (List W64)) := none
  deriving DecidableEq, Repr

/-- A contact sheet being written (R663): the hung queue and its context, the cause, when the context was frozen, and the
store buffers as they stood then. -/
structure Sheet where
  queue : Nat
  ctx : Nat
  part : Nat
  cause : Nat
  tFreeze : Nat
  sb : List (Nat × List SbEntry) := []
  deriving DecidableEq, Repr

/-- Observation. -/
structure Observe where
  plans : SMap (List Byte) := []
  reels : SMap Reel := []
  sheet : Option Sheet := none
  deriving DecidableEq, Repr

/-- Phases of the module's power (R680 to R683). The held state notes whether it stands for want of bricks. -/
inductive PwrPhase where
  | off | on
  | held (few : Bool)
  deriving DecidableEq, Repr

/-- A power brick (R676 to R679). -/
structure Brick where
  present : Bool := false
  genuine : Bool := false
  failed : Bool := false
  delivering : Bool := false
  released : Bool := false
  deriving DecidableEq, Repr

/-- A fan (R685). -/
structure Fan where
  fitted : Bool := false
  running : Bool := false
  released : Bool := false
  deriving DecidableEq, Repr

/-- Power and mechanics. `pins` holds what J2, J3 and the segment showed when PWR_EN last rose. -/
structure Power where
  pwrEn : Bool := true
  pins : PowerPins := { j2Ok := true, slotId := 0, addressInUse := false }
  phase : PwrPhase := .on
  holdoff : Bool := false
  bricks : SMap Brick := []
  fans : SMap Fan := []
  deriving DecidableEq, Repr

/-- Clocks (01 R32 to R38). -/
structure Clocks where
  osc : Bool := false
  rootMHz : Nat := 2400
  target : Nat := 5
  refLost : Bool := false
  deriving DecidableEq, Repr

/-- The state of the FV-80. `pending` is the queue of waiting commands, `now` the timestamp counter (R34), `free` the
MODEL's counter of free values. -/
structure State where
  pending : List Instr := []
  free : Nat := 0
  now : Nat := 0
  ac : Bool := false
  regs : SMap W64 := []
  actLow : SMap W32 := []
  buf4 : SMap Byte := []
  od : SMap W64 := []
  odBlob : SMap (List Byte) := []
  mem : SMap Byte := []
  hostMem : SMap Byte := []
  hostFail : List Nat := []
  clk : Clocks := {}
  cores : SMap Core := []
  seqs : SMap Seq := []
  ext : Ext := {}
  xl : Xlate := {}
  upd : Upd := {}
  host : HostLink := {}
  obj : Objects := {}
  pt : Parts := {}
  lk : Link := {}
  ng : Resil := {}
  mg : Mgmt := {}
  obs : Observe := {}
  pw : Power := {}
  deriving DecidableEq, Repr

/-- The machine right after power-on reset (01 R34, R39; 16 R635, R636; 18 R680): the registers
and dictionary entries at their defaults, memory listing nothing, six genuine bricks delivering (DESIGN CHOICE, log 10). -/
def State.reset : State :=
  { pw := { bricks := (List.range 6).map (fun n => (n, { present := true, genuine := true, delivering := true })),
            fans := (List.range 6).map (fun n => (n, { fitted := true, running := true })) } }

end Sys2Proof.Machine
end

