-- ==== Sys2Proof/Machine/Flags.lean ====
section
/-! DEFINITION. Status codes (00_scope.md R15 to R17) and the sticky flags of the number formats (04 R175, 05 R195). -/

namespace Sys2Proof.Machine

/-- Status code OK. -/
def stOk : Nat := 0x00
/-- Status code PARTIAL. -/
def stPartial : Nat := 0x01
/-- Status code TIMEOUT. -/
def stTimeout : Nat := 0x02
/-- Status code XLATE_FAULT. -/
def stXlate : Nat := 0x03
/-- Status code RIGHTS_FAULT. -/
def stRights : Nat := 0x04
/-- Status code POISON. -/
def stPoison : Nat := 0x05
/-- Status code ABORTED. -/
def stAborted : Nat := 0x06
/-- Status code FENCE_ERROR. -/
def stFenceError : Nat := 0x07
/-- Status code WAIT_CYCLE. -/
def stWaitCycle : Nat := 0x08
/-- Status code QUOTA. -/
def stQuota : Nat := 0x09
/-- Status code BAD_DESCRIPTOR. -/
def stBadDesc : Nat := 0x0A
/-- Status code PREEMPTED. -/
def stPreempted : Nat := 0x0B
/-- Status code UNIT_OFFLINE. -/
def stUnitOffline : Nat := 0x0C
/-- Status code DEVICE_LOST. -/
def stDeviceLost : Nat := 0x0D

/-- R17: the first condition in time stands, but DEVICE_LOST takes precedence. -/
def combineStatus (first new : Nat) : Nat :=
  if new = stDeviceLost then stDeviceLost else if first = stOk then new else first

/-- Bits of MX_NUMFLAGS: FLUSHED, SAT, NAN, ACC_SAT (04 R175). -/
structure NumFlags where
  flushed : Bool := false
  sat : Bool := false
  nan : Bool := false
  accSat : Bool := false
  deriving DecidableEq, Repr

/-- The flags as bits [3:0]. -/
def NumFlags.code (f : NumFlags) : Nat := b2n f.flushed + 2 * b2n f.sat + 4 * b2n f.nan + 8 * b2n f.accSat

/-- The union of two sets of flags: they are sticky. -/
def NumFlags.or (a b : NumFlags) : NumFlags :=
  { flushed := a.flushed || b.flushed, sat := a.sat || b.sat, nan := a.nan || b.nan, accSat := a.accSat || b.accSat }

end Sys2Proof.Machine
end

