-- ==== Sys2Proof/Machine/RegTable.lean ====
section
/-! DEFINITION. The register tables of the spec as data: every register of every page with its fields, access codes and
reset values (00_scope.md R8, R12; 01 R46; the register sections of each chapter). -/

namespace Sys2Proof.Machine

/-- Access codes of register fields (R12); `reserved` is R11's. -/
inductive Acc where
  | ro | rw | wo | w1c | rwp | const | reserved
  deriving DecidableEq, Repr

/-- Reset values: a number, or one that the page's instance or the variant fixes at manufacture. -/
inductive RstVal where
  | num (n : Nat) | slot | inst | instPred | mcKind | mcUnits | mcInst | variant | fans | reelKib
  deriving DecidableEq, Repr

/-- A field: its bits, access code and reset value. -/
structure RegField where
  hi : Nat
  lo : Nat
  acc : Acc
  rst : RstVal
  deriving DecidableEq, Repr

/-- The kinds of register page (R46, R619, R488). -/
inductive Blk where
  | te | mx | sq | cc | tk | mc | xl | tt | uu | hq | lk | pt | mt | ng | mg | db | bar4 | doorbell
  deriving DecidableEq, Repr

/-- A register: its block, the instances that have it, its offset, its width in bytes, how often it repeats by partition
or core (`sub`, stride 0x100) and by index, whether its writes need a privileged path, and its fields. -/
structure RegRow where
  name : String
  blk : Blk
  iLo : Nat
  iHi : Nat
  off : Nat
  bytes : Nat
  sub : Nat
  idxN : Nat
  idxS : Nat
  priv : Bool
  fields : List RegField
  deriving DecidableEq, Repr

/-- A field of one access code with a numeric reset value. -/
def fld (a : Acc) (hi lo rst : Nat) : RegField := { hi := hi, lo := lo, acc := a, rst := .num rst }

/-- A CONST field whose value the page fixes. -/
def fldC (hi lo : Nat) (v : RstVal) : RegField := { hi := hi, lo := lo, acc := .const, rst := v }

/-- The registers of the TE page. -/
def regsTe : List RegRow := [
  ⟨"TE_ID", .te, 0, 255, 0x0, 4, 1, 1, 0, false,
    [fld .reserved 31 17 0, fld .ro 16 16 0, fldC 15 8 .slot, fld .reserved 7 7 0, fld .ro 6 0 0]⟩,
  ⟨"TE_CTRL", .te, 0, 255, 0x10, 4, 1, 1, 0, false,
    [fld .reserved 31 2 0, fld .rwp 1 1 0, fld .rwp 0 0 0]⟩,
  ⟨"TE_STATUS", .te, 0, 255, 0x14, 4, 1, 1, 0, false,
    [fld .reserved 31 24 0, fld .ro 23 16 0, fld .ro 15 8 0, fld .ro 7 5 0, fld .reserved 4 0 0]⟩,
  ⟨"TE_OCC", .te, 0, 255, 0x20, 4, 1, 1, 0, false,
    [fld .reserved 31 24 0, fld .ro 23 20 0, fld .reserved 19 18 0, fld .ro 17 16 0, fld .ro 15 8 0, fld .ro 7 0 0]⟩,
  ⟨"TE_EXC_INFO", .te, 0, 255, 0x30, 4, 1, 1, 0, false,
    [fld .w1c 31 31 0, fld .reserved 30 24 0, fld .ro 23 16 0, fld .ro 15 8 0, fld .reserved 7 6 0, fld .ro 5 0 0]⟩,
  ⟨"TE_EXC_PC", .te, 0, 255, 0x38, 8, 1, 1, 0, false,
    [fld .reserved 63 57 0, fld .ro 56 0 0]⟩,
  ⟨"TE_EXC_MASK", .te, 0, 255, 0x40, 8, 1, 1, 0, false,
    [fld .ro 63 0 0]⟩,
  ⟨"TE_LOSTST", .te, 0, 255, 0x48, 4, 1, 1, 0, false,
    [fld .reserved 31 6 0, fld .ro 5 0 0]⟩,
  ⟨"TE_KDESC", .te, 0, 255, 0x50, 8, 1, 1, 0, false,
    [fld .reserved 63 57 0, fld .ro 56 7 0, fld .reserved 6 0 0]⟩,
  ⟨"TE_CTX", .te, 0, 255, 0x58, 4, 1, 1, 0, false,
    [fld .ro 31 31 0, fld .reserved 30 10 0, fld .ro 9 0 0]⟩,
  ⟨"TE_SBSTAT", .te, 0, 255, 0x60, 4, 1, 1, 0, false,
    [fld .reserved 31 22 0, fld .ro 21 16 0, fld .reserved 15 14 0, fld .ro 13 8 0, fld .reserved 7 6 0, fld .ro 5 0 0]⟩,
  ⟨"TE_SBSTALL", .te, 0, 255, 0x68, 8, 1, 1, 0, false,
    [fld .ro 63 0 0]⟩,
  ⟨"TE_SBMERGE", .te, 0, 255, 0x70, 8, 1, 1, 0, false,
    [fld .ro 63 0 0]⟩,
  ⟨"TE_FENCEWAIT", .te, 0, 255, 0x78, 8, 1, 1, 0, false,
    [fld .ro 63 0 0]⟩]

/-- The registers of the MX page. -/
def regsMx : List RegRow := [
  ⟨"MX_CAPS", .mx, 0, 255, 0x0, 4, 1, 1, 0, false,
    [fld .const 31 24 4, fld .const 23 16 16, fld .const 15 8 128, fld .const 7 0 128]⟩,
  ⟨"MX_CTRL", .mx, 0, 255, 0x10, 4, 1, 1, 0, false,
    [fld .reserved 31 1 0, fld .rwp 0 0 0]⟩,
  ⟨"MX_STATUS", .mx, 0, 255, 0x14, 4, 1, 1, 0, false,
    [fld .reserved 31 21 0, fld .ro 20 16 0, fld .ro 15 12 0, fld .ro 11 11 0, fld .ro 10 10 0, fld .ro 9 9 0, fld .ro 8 8 0, fld .ro 7 7 0, fld .reserved 6 3 0, fld .ro 2 0 0]⟩,
  ⟨"MX_ERR_INFO", .mx, 0, 255, 0x30, 4, 1, 1, 0, false,
    [fld .w1c 31 31 0, fld .reserved 30 24 0, fld .ro 23 16 0, fld .ro 15 8 0, fld .ro 7 7 0, fld .reserved 6 6 0, fld .ro 5 0 0]⟩,
  ⟨"MX_ERR_CMD", .mx, 0, 255, 0x38, 8, 1, 1, 0, false,
    [fld .ro 63 0 0]⟩,
  ⟨"MX_ERR_PC", .mx, 0, 255, 0x40, 8, 1, 1, 0, false,
    [fld .reserved 63 57 0, fld .ro 56 0 0]⟩,
  ⟨"MX_BEATS", .mx, 0, 255, 0x50, 8, 1, 1, 0, false,
    [fld .ro 63 0 0]⟩,
  ⟨"MX_SLIP", .mx, 0, 255, 0x58, 8, 1, 1, 0, false,
    [fld .ro 63 0 0]⟩,
  ⟨"MX_FREEZE", .mx, 0, 255, 0x60, 8, 1, 1, 0, false,
    [fld .ro 63 0 0]⟩,
  ⟨"MX_WELT", .mx, 0, 255, 0x68, 4, 1, 1, 0, false,
    [fld .reserved 31 24 0, fld .ro 23 16 0, fld .ro 15 8 0, fld .ro 7 4 0, fld .ro 3 0 0]⟩,
  ⟨"MX_NUMFLAGS", .mx, 0, 255, 0x70, 4, 1, 1, 0, false,
    [fld .reserved 31 4 0, fld .ro 3 3 0, fld .ro 2 2 0, fld .ro 1 1 0, fld .ro 0 0 0]⟩,
  ⟨"MX_DENS", .mx, 0, 255, 0x78, 4, 1, 1, 0, false,
    [fld .reserved 31 24 0, fld .ro 23 16 0, fld .ro 15 8 0, fld .ro 7 0 0]⟩]

/-- The registers of the SQ page. -/
def regsSq : List RegRow := [
  ⟨"SQ_ID", .sq, 0, 15, 0x0, 4, 1, 1, 0, false,
    [fld .reserved 31 16 0, fld .ro 15 8 0, fld .reserved 7 4 0, fldC 3 0 .inst]⟩,
  ⟨"SQ_CTRL", .sq, 0, 15, 0x10, 4, 1, 1, 0, false,
    [fld .reserved 31 1 0, fld .rwp 0 0 0]⟩,
  ⟨"SQ_STATUS", .sq, 0, 15, 0x14, 4, 1, 1, 0, false,
    [fld .reserved 31 28 0, fld .ro 27 24 0, fld .ro 23 20 0, fld .ro 19 16 0, fld .ro 15 8 0, fld .reserved 7 6 0, fld .ro 5 3 0, fld .ro 2 0 0]⟩,
  ⟨"SQ_PC", .sq, 0, 15, 0x18, 8, 1, 1, 0, false,
    [fld .reserved 63 57 0, fld .ro 56 0 0]⟩,
  ⟨"SQ_STEP", .sq, 0, 15, 0x20, 8, 1, 1, 0, false,
    [fld .reserved 63 57 0, fld .ro 56 0 0]⟩,
  ⟨"SQ_CTX", .sq, 0, 15, 0x28, 4, 1, 1, 0, false,
    [fld .ro 31 31 0, fld .reserved 30 10 0, fld .ro 9 0 0]⟩,
  ⟨"SQ_ERR_INFO", .sq, 0, 15, 0x30, 4, 1, 1, 0, false,
    [fld .w1c 31 31 0, fld .reserved 30 24 0, fld .ro 23 16 0, fld .ro 15 8 0, fld .ro 7 7 0, fld .reserved 6 0 0]⟩,
  ⟨"SQ_ERR_INSTR", .sq, 0, 15, 0x38, 8, 1, 1, 0, false,
    [fld .ro 63 0 0]⟩,
  ⟨"SQ_ERR_PC", .sq, 0, 15, 0x40, 8, 1, 1, 0, false,
    [fld .reserved 63 57 0, fld .ro 56 0 0]⟩,
  ⟨"SQ_INSTRS", .sq, 0, 15, 0x50, 8, 1, 1, 0, false,
    [fld .ro 63 0 0]⟩,
  ⟨"SQ_MXSTALL", .sq, 0, 15, 0x58, 8, 1, 1, 0, false,
    [fld .ro 63 0 0]⟩]

/-- The registers of the CC page. -/
def regsCc : List RegRow := [
  ⟨"CC_CAPS", .cc, 0, 15, 0x0, 4, 1, 1, 0, false,
    [fld .const 31 24 16, fld .reserved 23 16 0, fld .const 15 0 8192]⟩,
  ⟨"CC_WAYPWR", .cc, 0, 15, 0x10, 4, 1, 1, 0, false,
    [fld .reserved 31 16 0, fld .rwp 15 2 16383, fld .ro 1 0 3]⟩,
  ⟨"CC_WAYSTAT", .cc, 0, 15, 0x14, 4, 1, 1, 0, false,
    [fld .ro 31 16 0, fld .ro 15 0 65535]⟩,
  ⟨"CC_ERR_INFO", .cc, 0, 15, 0x30, 4, 1, 1, 0, false,
    [fld .w1c 31 31 0, fld .reserved 30 24 0, fld .ro 23 16 0, fld .ro 15 8 0, fld .ro 7 4 0, fld .ro 3 0 0]⟩,
  ⟨"CC_ERR_ADDR", .cc, 0, 15, 0x38, 8, 1, 1, 0, false,
    [fld .reserved 63 52 0, fld .ro 51 7 0, fld .reserved 6 0 0]⟩,
  ⟨"CC_CECOUNT", .cc, 0, 15, 0x40, 4, 1, 1, 0, false,
    [fld .ro 31 0 0]⟩,
  ⟨"CC_HITS", .cc, 0, 15, 0x50, 8, 1, 1, 0, false,
    [fld .ro 63 0 0]⟩,
  ⟨"CC_MISSES", .cc, 0, 15, 0x58, 8, 1, 1, 0, false,
    [fld .ro 63 0 0]⟩,
  ⟨"CC_WBACK", .cc, 0, 15, 0x60, 8, 1, 1, 0, false,
    [fld .ro 63 0 0]⟩]

/-- The registers of the TK page. -/
def regsTkA : List RegRow := [
  ⟨"TK_CAPS", .tk, 0, 1, 0x0, 4, 1, 1, 0, false,
    [fld .const 31 24 16, fld .const 23 16 16, fld .const 15 0 512]⟩,
  ⟨"TK_WAYASSIGN", .tk, 0, 1, 0x10, 4, 1, 1, 0, false,
    [fld .ro 31 16 0, fld .ro 15 0 0]⟩,
  ⟨"TK_WAYPART", .tk, 0, 1, 0x18, 8, 1, 1, 0, false,
    [fld .reserved 63 48 0, fld .ro 47 0 0]⟩,
  ⟨"TK_STATUS", .tk, 0, 1, 0x20, 4, 1, 1, 0, false,
    [fld .ro 31 24 0, fld .reserved 23 16 0, fld .ro 15 11 0, fld .ro 10 6 0, fld .reserved 5 3 0, fld .ro 2 2 0, fld .ro 1 1 0, fld .ro 0 0 0]⟩,
  ⟨"TK_KEEPLIM", .tk, 0, 1, 0x28, 4, 1, 1, 0, false,
    [fld .ro 31 0 2290649224]⟩,
  ⟨"TK_KEEPCLR", .tk, 0, 1, 0x2C, 4, 1, 1, 0, false,
    [fld .reserved 31 8 0, fld .wo 7 0 0]⟩,
  ⟨"TK_RETIRE", .tk, 0, 1, 0x30, 4, 1, 1, 0, true,
    [fld .wo 31 31 0, fld .reserved 30 9 0, fld .wo 8 0 0]⟩,
  ⟨"TK_ERR_INFO", .tk, 0, 1, 0x40, 4, 1, 1, 0, false,
    [fld .w1c 31 31 0, fld .reserved 30 24 0, fld .ro 23 16 0, fld .ro 15 8 0, fld .ro 7 4 0, fld .ro 3 0 0]⟩,
  ⟨"TK_ERR_ADDR", .tk, 0, 1, 0x48, 8, 1, 1, 0, false,
    [fld .reserved 63 61 0, fld .ro 60 52 0, fld .ro 51 7 0, fld .reserved 6 0 0]⟩]

/-- The remaining registers of the TK page. -/
def regsTkB : List RegRow := [
  ⟨"TK_SPARE", .tk, 0, 1, 0x100, 4, 1, 16, 4, false,
    [fld .ro 31 31 0, fld .reserved 30 9 0, fld .ro 8 0 0]⟩,
  ⟨"TK_CECOUNT", .tk, 0, 1, 0x50, 8, 1, 1, 0, false,
    [fld .ro 63 0 0]⟩,
  ⟨"TK_UECOUNT", .tk, 0, 1, 0x58, 8, 1, 1, 0, false,
    [fld .ro 63 0 0]⟩,
  ⟨"TK_HITS", .tk, 0, 1, 0x80, 8, 1, 1, 0, false,
    [fld .ro 63 0 0]⟩,
  ⟨"TK_MISSES", .tk, 0, 1, 0x88, 8, 1, 1, 0, false,
    [fld .ro 63 0 0]⟩,
  ⟨"TK_DECLINED", .tk, 0, 1, 0x90, 8, 1, 1, 0, false,
    [fld .ro 63 0 0]⟩,
  ⟨"TK_LASTDROP", .tk, 0, 1, 0x98, 8, 1, 1, 0, false,
    [fld .ro 63 0 0]⟩,
  ⟨"TK_DIRRECALL", .tk, 0, 1, 0xA0, 8, 1, 1, 0, false,
    [fld .ro 63 0 0]⟩]

/-- All registers of the TK page. -/
def regsTk : List RegRow := regsTkA ++ regsTkB

/-- The registers of the MC page. -/
def regsMc : List RegRow := [
  ⟨"MC_CAPS", .mc, 0, 15, 0x0, 4, 1, 1, 0, false,
    [fldC 31 28 .mcKind, fldC 27 24 .mcUnits, fld .reserved 23 4 0, fldC 3 0 .mcInst]⟩,
  ⟨"MC_UNIT", .mc, 0, 15, 0x10, 8, 1, 4, 8, false,
    [fld .ro 63 32 0, fld .ro 31 16 0, fld .ro 15 12 0, fld .ro 11 8 0, fld .reserved 7 3 0, fld .ro 2 0 0]⟩,
  ⟨"MC_SPARE", .mc, 0, 15, 0x30, 4, 1, 1, 0, false,
    [fld .ro 31 0 0]⟩,
  ⟨"MC_ERR_INFO", .mc, 0, 15, 0x40, 4, 1, 1, 0, false,
    [fld .w1c 31 31 0, fld .reserved 30 24 0, fld .ro 23 16 0, fld .ro 15 8 0, fld .ro 7 6 0, fld .reserved 5 5 0, fld .ro 4 0 0]⟩,
  ⟨"MC_ERR_ADDR", .mc, 0, 15, 0x48, 8, 1, 1, 0, false,
    [fld .reserved 63 52 0, fld .ro 51 7 0, fld .reserved 6 0 0]⟩,
  ⟨"MC_CECOUNT", .mc, 0, 15, 0x50, 8, 1, 1, 0, false,
    [fld .ro 63 0 0]⟩,
  ⟨"MC_UECOUNT", .mc, 0, 15, 0x58, 8, 1, 1, 0, false,
    [fld .ro 63 0 0]⟩,
  ⟨"MC_RDLINES", .mc, 0, 15, 0x60, 8, 1, 1, 0, false,
    [fld .ro 63 0 0]⟩,
  ⟨"MC_WRLINES", .mc, 0, 15, 0x68, 8, 1, 1, 0, false,
    [fld .ro 63 0 0]⟩,
  ⟨"MC_TGCTRL", .mc, 0, 15, 0x80, 4, 1, 1, 0, true,
    [fld .wo 31 31 0, fld .wo 30 30 0, fld .reserved 29 27 0, fld .rwp 26 24 0, fld .rwp 23 20 0, fld .reserved 19 16 0, fld .rwp 15 8 1, fld .reserved 7 2 0, fld .rwp 1 0 0]⟩,
  ⟨"MC_TGSTAT", .mc, 0, 15, 0x88, 8, 1, 1, 0, false,
    [fld .ro 63 32 0, fld .ro 31 16 0, fld .reserved 15 2 0, fld .ro 1 1 0, fld .ro 0 0 0]⟩,
  ⟨"MC_TGFIRST", .mc, 0, 15, 0x90, 8, 1, 1, 0, false,
    [fld .reserved 63 52 0, fld .ro 51 5 0, fld .reserved 4 0 0]⟩]

/-- The registers of the XL page. -/
def regsXl : List RegRow := [
  ⟨"XL_LINK", .xl, 0, 3, 0x10, 4, 1, 1, 0, false,
    [fld .ro 31 31 0, fld .reserved 30 28 0, fld .ro 27 24 0, fld .ro 23 16 0, fld .ro 15 8 0, fld .reserved 7 6 0, fld .ro 5 3 0, fld .ro 2 0 0]⟩,
  ⟨"XL_SIZE", .xl, 0, 3, 0x18, 8, 1, 1, 0, false,
    [fld .ro 63 0 0]⟩,
  ⟨"XL_DEVID", .xl, 0, 3, 0x20, 4, 1, 1, 0, false,
    [fld .ro 31 16 0, fld .ro 15 0 0]⟩,
  ⟨"XL_RETRAINS", .xl, 0, 3, 0x50, 8, 1, 1, 0, false,
    [fld .ro 63 0 0]⟩,
  ⟨"XL_ERR_INFO", .xl, 0, 3, 0x40, 4, 1, 1, 0, false,
    [fld .w1c 31 31 0, fld .reserved 30 24 0, fld .ro 23 16 0, fld .ro 15 8 0, fld .ro 7 6 0, fld .reserved 5 5 0, fld .ro 4 0 0]⟩,
  ⟨"XL_ERR_ADDR", .xl, 0, 3, 0x48, 8, 1, 1, 0, false,
    [fld .reserved 63 52 0, fld .ro 51 7 0, fld .reserved 6 0 0]⟩,
  ⟨"XL_RDLINES", .xl, 0, 3, 0x60, 8, 1, 1, 0, false,
    [fld .ro 63 0 0]⟩,
  ⟨"XL_WRLINES", .xl, 0, 3, 0x68, 8, 1, 1, 0, false,
    [fld .ro 63 0 0]⟩,
  ⟨"XL_TGCTRL", .xl, 0, 3, 0x80, 4, 1, 1, 0, true,
    [fld .wo 31 31 0, fld .wo 30 30 0, fld .reserved 29 27 0, fld .rwp 26 24 0, fld .rwp 23 20 0, fld .reserved 19 16 0, fld .rwp 15 8 1, fld .reserved 7 2 0, fld .rwp 1 0 0]⟩,
  ⟨"XL_TGSTAT", .xl, 0, 3, 0x88, 8, 1, 1, 0, false,
    [fld .ro 63 32 0, fld .ro 31 16 0, fld .reserved 15 2 0, fld .ro 1 1 0, fld .ro 0 0 0]⟩,
  ⟨"XL_TGFIRST", .xl, 0, 3, 0x90, 8, 1, 1, 0, false,
    [fld .reserved 63 52 0, fld .ro 51 5 0, fld .reserved 4 0 0]⟩]

/-- The registers of the TT page. -/
def regsTtA : List RegRow := [
  ⟨"TT_CAPS", .tt, 0, 0, 0x0, 4, 1, 1, 0, false,
    [fld .const 31 16 32768, fld .const 15 8 64, fld .const 7 0 64]⟩,
  ⟨"TT_CTXBASE", .tt, 0, 0, 0x10, 8, 1, 1, 0, false,
    [fld .reserved 63 52 0, fld .rwp 51 15 0, fld .reserved 14 0 0]⟩,
  ⟨"TT_WALKSTAT", .tt, 0, 0, 0x20, 4, 1, 1, 0, false,
    [fld .reserved 31 25 0, fld .ro 24 16 0, fld .reserved 15 7 0, fld .ro 6 0 0]⟩,
  ⟨"TT_WALKS", .tt, 0, 0, 0x40, 8, 1, 1, 0, false,
    [fld .ro 63 0 0]⟩,
  ⟨"TT_WALKREADS", .tt, 0, 0, 0x48, 8, 1, 1, 0, false,
    [fld .ro 63 0 0]⟩,
  ⟨"TT_MIRRORREADS", .tt, 0, 0, 0x50, 8, 1, 1, 0, false,
    [fld .ro 63 0 0]⟩,
  ⟨"TT_S2ROOT", .tt, 0, 0, 0x1000, 8, 8, 1, 0, false,
    [fld .reserved 63 52 0, fld .rwp 51 12 0, fld .reserved 11 1 0, fld .rwp 0 0 0]⟩,
  ⟨"TT_TBLBASE", .tt, 0, 0, 0x1008, 8, 8, 1, 0, false,
    [fld .reserved 63 52 0, fld .rwp 51 21 0, fld .reserved 20 16 0, fld .rwp 15 0 0]⟩,
  ⟨"TT_TBLHOST", .tt, 0, 0, 0x1010, 8, 8, 1, 0, false,
    [fld .reserved 63 57 0, fld .rwp 56 21 0, fld .reserved 20 0 0]⟩,
  ⟨"TT_FQBASE", .tt, 0, 0, 0x1018, 8, 8, 1, 0, false,
    [fld .reserved 63 52 0, fld .rwp 51 18 0, fld .reserved 17 0 0]⟩,
  ⟨"TT_FQCTRL", .tt, 0, 0, 0x1020, 4, 8, 1, 0, false,
    [fld .rwp 31 31 0, fld .reserved 30 11 0, fld .rwp 10 0 0]⟩,
  ⟨"TT_FQHEAD", .tt, 0, 0, 0x1024, 4, 8, 1, 0, false,
    [fld .ro 31 0 0]⟩]

/-- The remaining registers of the TT page. -/
def regsTtB : List RegRow := [
  ⟨"TT_FQTAIL", .tt, 0, 0, 0x1028, 4, 8, 1, 0, false,
    [fld .rw 31 0 0]⟩,
  ⟨"TT_FQSTAT", .tt, 0, 0, 0x102C, 4, 8, 1, 0, false,
    [fld .w1c 31 31 0, fld .w1c 30 30 0, fld .reserved 29 9 0, fld .ro 8 0 0]⟩,
  ⟨"TT_RESOLVE", .tt, 0, 0, 0x1030, 8, 8, 1, 0, false,
    [fld .wo 63 60 0, fld .reserved 59 32 0, fld .wo 31 0 0]⟩,
  ⟨"TT_RESSTAT", .tt, 0, 0, 0x1038, 4, 8, 1, 0, false,
    [fld .w1c 31 31 0, fld .reserved 30 0 0]⟩,
  ⟨"TT_INVADDR", .tt, 0, 0, 0x1040, 8, 8, 1, 0, false,
    [fld .reserved 63 57 0, fld .rw 56 16 0, fld .reserved 15 0 0]⟩,
  ⟨"TT_INVCMD", .tt, 0, 0, 0x1048, 8, 8, 1, 0, false,
    [fld .wo 63 60 0, fld .wo 59 50 0, fld .wo 49 32 0, fld .wo 31 0 0]⟩,
  ⟨"TT_INVDONE", .tt, 0, 0, 0x1050, 4, 8, 1, 0, false,
    [fld .ro 31 0 0]⟩,
  ⟨"TT_INVSTAT", .tt, 0, 0, 0x1054, 4, 8, 1, 0, false,
    [fld .w1c 31 31 0, fld .reserved 30 13 0, fld .ro 12 8 0, fld .ro 7 0 0]⟩,
  ⟨"TT_DCHITS", .tt, 1, 2, 0x40, 8, 1, 1, 0, false,
    [fld .ro 63 0 0]⟩,
  ⟨"TT_DCMISSES", .tt, 1, 2, 0x48, 8, 1, 1, 0, false,
    [fld .ro 63 0 0]⟩,
  ⟨"TT_UCMISSES", .tt, 1, 2, 0x50, 8, 1, 1, 0, false,
    [fld .ro 63 0 0]⟩,
  ⟨"TT_DCPARITY", .tt, 1, 2, 0x58, 8, 1, 1, 0, false,
    [fld .ro 63 0 0]⟩]

/-- All registers of the TT page. -/
def regsTt : List RegRow := regsTtA ++ regsTtB

/-- The registers of the UU page. -/
def regsUu : List RegRow := [
  ⟨"UU_CAPS", .uu, 0, 47, 0x0, 4, 1, 1, 0, false,
    [fld .const 31 24 16, fld .const 23 16 64, fld .const 15 8 8, fld .reserved 7 6 0, fldC 5 0 .inst]⟩,
  ⟨"UU_CTRL", .uu, 0, 47, 0x10, 4, 1, 1, 0, false,
    [fld .reserved 31 1 0, fld .rwp 0 0 0]⟩,
  ⟨"UU_STATUS", .uu, 0, 47, 0x14, 4, 1, 1, 0, false,
    [fld .reserved 31 23 0, fld .ro 22 16 0, fld .reserved 15 11 0, fld .ro 10 8 0, fld .reserved 7 3 0, fld .ro 2 0 0]⟩,
  ⟨"UU_ERR_INFO", .uu, 0, 47, 0x30, 4, 1, 1, 0, false,
    [fld .w1c 31 31 0, fld .reserved 30 24 0, fld .ro 23 16 0, fld .ro 15 8 0, fld .ro 7 7 0, fld .reserved 6 3 0, fld .ro 2 0 0]⟩,
  ⟨"UU_ERR_ADDR", .uu, 0, 47, 0x38, 8, 1, 1, 0, false,
    [fld .reserved 63 57 0, fld .ro 56 0 0]⟩,
  ⟨"UU_ELEMS", .uu, 0, 47, 0x50, 8, 1, 1, 0, false,
    [fld .ro 63 0 0]⟩,
  ⟨"UU_SKIPS", .uu, 0, 47, 0x58, 8, 1, 1, 0, false,
    [fld .ro 63 0 0]⟩,
  ⟨"UU_SUMELEMS", .uu, 0, 47, 0x60, 8, 1, 1, 0, false,
    [fld .ro 63 0 0]⟩,
  ⟨"UU_TORN", .uu, 0, 47, 0x68, 8, 1, 1, 0, false,
    [fld .ro 63 0 0]⟩]

/-- The registers of the HQ page. -/
def regsHq : List RegRow := [
  ⟨"HQ_CAPS", .hq, 0, 0, 0x0, 4, 1, 1, 0, false,
    [fld .const 31 24 128, fld .reserved 23 18 0, fld .const 17 16 3, fld .reserved 15 0 0]⟩,
  ⟨"HQ_OBJBASE", .hq, 0, 0, 0x10, 8, 1, 1, 0, false,
    [fld .reserved 63 52 0, fld .ro 51 21 0, fld .reserved 20 0 0]⟩,
  ⟨"HQ_EPOCH", .hq, 0, 0, 0x18, 8, 1, 1, 0, false,
    [fld .ro 63 0 0]⟩,
  ⟨"HQ_PART", .hq, 1, 8, 0x0, 4, 1, 1, 0, false,
    [fld .reserved 31 3 0, fldC 2 0 .instPred]⟩,
  ⟨"HQ_CMD", .hq, 1, 8, 0x10, 8, 1, 1, 0, false,
    [fld .wo 63 56 0, fld .reserved 55 0 0]⟩,
  ⟨"HQ_ARG", .hq, 1, 8, 0x20, 8, 1, 4, 8, false,
    [fld .rw 63 0 0]⟩,
  ⟨"HQ_CMDSTAT", .hq, 1, 8, 0x40, 4, 1, 1, 0, false,
    [fld .ro 31 31 0, fld .w1c 30 30 0, fld .reserved 29 8 0, fld .ro 7 0 0]⟩,
  ⟨"HQ_CMDRES", .hq, 1, 8, 0x48, 8, 1, 1, 0, false,
    [fld .ro 63 0 0]⟩]

/-- The registers of the LK page. -/
def regsLkA : List RegRow := [
  ⟨"LK_CAPS", .lk, 0, 0, 0x0, 4, 1, 1, 0, false,
    [fld .const 31 24 8, fld .const 23 16 16, fld .const 15 0 4096]⟩,
  ⟨"LK_NODE", .lk, 0, 0, 0x10, 4, 1, 1, 0, false,
    [fld .ro 31 31 0, fld .reserved 30 16 0, fld .ro 15 0 0]⟩,
  ⟨"LK_INC", .lk, 0, 0, 0x14, 4, 1, 1, 0, false,
    [fld .ro 31 0 0]⟩,
  ⟨"LK_PLANES", .lk, 0, 0, 0x18, 4, 1, 1, 0, false,
    [fld .ro 31 0 0]⟩,
  ⟨"LK_PEERS", .lk, 0, 0, 0x20, 4, 1, 1, 0, false,
    [fld .reserved 31 29 0, fld .ro 28 16 0, fld .reserved 15 13 0, fld .ro 12 0 0]⟩,
  ⟨"LK_TXPKTS", .lk, 0, 0, 0x40, 8, 1, 1, 0, false,
    [fld .ro 63 0 0]⟩,
  ⟨"LK_RXPKTS", .lk, 0, 0, 0x48, 8, 1, 1, 0, false,
    [fld .ro 63 0 0]⟩,
  ⟨"LK_RETX", .lk, 0, 0, 0x50, 8, 1, 1, 0, false,
    [fld .ro 63 0 0]⟩,
  ⟨"LK_DUPS", .lk, 0, 0, 0x58, 8, 1, 1, 0, false,
    [fld .ro 63 0 0]⟩,
  ⟨"LK_NAKS", .lk, 0, 0, 0x60, 8, 1, 1, 0, false,
    [fld .ro 63 0 0]⟩]

/-- The remaining registers of the LK page. -/
def regsLkB : List RegRow := [
  ⟨"LK_DROPS", .lk, 0, 0, 0x68, 8, 1, 1, 0, false,
    [fld .ro 63 0 0]⟩,
  ⟨"LK_LOST", .lk, 0, 0, 0x70, 8, 1, 1, 0, false,
    [fld .ro 63 0 0]⟩,
  ⟨"LK_PSTATUS", .lk, 1, 8, 0x10, 4, 1, 1, 0, false,
    [fld .reserved 31 24 0, fld .ro 23 20 0, fld .reserved 19 16 0, fld .ro 15 8 0, fld .ro 7 6 0, fld .ro 5 5 0, fld .ro 4 4 0, fld .reserved 3 3 0, fld .ro 2 0 0]⟩,
  ⟨"LK_QCTRL", .lk, 1, 8, 0x18, 4, 1, 1, 0, false,
    [fld .reserved 31 8 0, fld .rwp 7 4 0, fld .wo 3 0 0]⟩,
  ⟨"LK_FECCOR", .lk, 1, 8, 0x40, 8, 1, 4, 8, false,
    [fld .ro 63 0 0]⟩,
  ⟨"LK_FECUNC", .lk, 1, 8, 0x60, 8, 1, 4, 8, false,
    [fld .ro 63 0 0]⟩,
  ⟨"LK_PRBSCTRL", .lk, 1, 8, 0x80, 4, 1, 1, 0, false,
    [fld .wo 31 31 0, fld .wo 30 30 0, fld .reserved 29 19 0, fld .rwp 18 16 0, fld .rwp 15 0 0]⟩,
  ⟨"LK_PRBSSTAT", .lk, 1, 8, 0x88, 4, 1, 1, 0, false,
    [fld .ro 31 16 0, fld .ro 15 0 0]⟩,
  ⟨"LK_PRBSERR", .lk, 1, 8, 0x100, 8, 1, 16, 8, false,
    [fld .ro 63 0 0]⟩,
  ⟨"LK_ROUTE", .lk, 1, 8, 0x8000, 4, 1, 2048, 4, false,
    [fld .rwp 31 0 0]⟩]

/-- All registers of the LK page. -/
def regsLk : List RegRow := regsLkA ++ regsLkB

/-- The registers of the PT page. -/
def regsPt : List RegRow := [
  ⟨"PT_CAPS", .pt, 0, 0, 0x0, 4, 1, 1, 0, false,
    [fld .reserved 31 24 0, fld .const 23 16 8, fld .const 15 8 16, fld .const 7 0 8]⟩,
  ⟨"PT_EPOCH", .pt, 0, 0, 0x10, 8, 1, 1, 0, false,
    [fld .ro 63 32 0, fld .ro 31 0 0]⟩,
  ⟨"PT_MODESTAT", .pt, 0, 0, 0x18, 4, 1, 1, 0, false,
    [fld .ro 31 24 0, fld .reserved 23 20 0, fld .ro 19 16 0, fld .ro 15 8 0, fld .reserved 7 2 0, fld .ro 1 0 0]⟩,
  ⟨"PT_LAG", .pt, 0, 0, 0x20, 4, 1, 1, 0, false,
    [fld .reserved 31 17 0, fld .ro 16 16 0, fld .ro 15 0 0]⟩,
  ⟨"PT_CLMAP", .pt, 0, 0, 0x28, 8, 1, 1, 0, false,
    [fld .ro 63 0 18446744073709551615]⟩,
  ⟨"PT_STATE", .pt, 0, 0, 0x1000, 4, 8, 1, 0, false,
    [fld .reserved 31 3 0, fld .ro 2 0 0]⟩,
  ⟨"PT_HBMSETS", .pt, 0, 0, 0x1008, 4, 8, 1, 0, false,
    [fld .ro 31 0 0]⟩,
  ⟨"PT_SYSAREA", .pt, 0, 0, 0x1010, 8, 8, 1, 0, false,
    [fld .reserved 63 52 0, fld .ro 51 22 0, fld .reserved 21 0 0]⟩,
  ⟨"PT_ERRVEC", .pt, 0, 0, 0x1018, 4, 8, 1, 0, false,
    [fld .reserved 31 10 0, fld .w1c 9 0 0]⟩,
  ⟨"PT_ERRIRQ", .pt, 0, 0, 0x101C, 4, 8, 1, 0, false,
    [fld .rwp 31 31 0, fld .reserved 30 11 0, fld .rwp 10 0 0]⟩,
  ⟨"PT_RESET", .pt, 0, 0, 0x1020, 4, 8, 1, 0, false,
    [fld .wo 31 31 0, fld .reserved 30 0 0]⟩,
  ⟨"PT_SCHED", .pt, 0, 0, 0x1028, 8, 8, 1, 0, false,
    [fld .reserved 63 48 0, fld .ro 47 40 0, fld .ro 39 32 0, fld .ro 31 24 0, fld .ro 23 16 0, fld .reserved 15 10 0, fld .ro 9 0 0]⟩,
  ⟨"PT_MISSES", .pt, 0, 0, 0x1030, 8, 8, 1, 0, false,
    [fld .ro 63 0 0]⟩,
  ⟨"PT_PREEMPTS", .pt, 0, 0, 0x1038, 8, 8, 1, 0, false,
    [fld .ro 63 32 0, fld .ro 31 0 0]⟩]

/-- The registers of the MT page. -/
def regsMt : List RegRow := [
  ⟨"MT_CAPS", .mt, 0, 0, 0x0, 4, 1, 1, 0, false,
    [fld .const 31 24 144, fld .const 23 16 6, fld .const 15 8 6, fld .reserved 7 1 0, fldC 0 0 .variant]⟩,
  ⟨"MT_POINT", .mt, 0, 0, 0x10, 4, 1, 1, 0, false,
    [fld .reserved 31 24 0, fld .ro 23 20 5, fld .ro 19 16 0, fld .reserved 15 12 0, fld .ro 11 8 5, fld .reserved 7 5 0, fld .ro 4 4 0, fld .reserved 3 3 0, fld .ro 2 0 5]⟩,
  ⟨"MT_POWER", .mt, 0, 0, 0x18, 8, 1, 1, 0, false,
    [fld .ro 63 48 0, fld .ro 47 32 0, fld .ro 31 16 0, fld .ro 15 0 0]⟩,
  ⟨"MT_THERMAL", .mt, 0, 0, 0x20, 8, 1, 1, 0, false,
    [fld .reserved 63 41 0, fld .ro 40 32 256, fld .ro 31 24 0, fld .ro 23 16 0, fld .ro 15 8 0, fld .ro 7 0 0]⟩,
  ⟨"MT_DUTY", .mt, 0, 0, 0x30, 8, 1, 1, 0, false,
    [fld .ro 63 0 18446744073709551615]⟩,
  ⟨"MT_ENERGY", .mt, 0, 0, 0x40, 8, 1, 1, 0, false,
    [fld .ro 63 0 0]⟩,
  ⟨"MT_BRICK", .mt, 0, 0, 0x100, 4, 1, 6, 8, false,
    [fld .ro 31 31 0, fld .ro 30 30 0, fld .reserved 29 16 0, fld .ro 15 0 0]⟩,
  ⟨"MT_PSHARE", .mt, 0, 0, 0x1000, 8, 8, 1, 0, false,
    [fld .ro 63 48 0, fld .ro 47 32 0, fld .ro 31 16 0, fld .ro 15 0 0]⟩,
  ⟨"MT_PUSED", .mt, 0, 0, 0x1008, 4, 8, 1, 0, false,
    [fld .reserved 31 16 0, fld .ro 15 0 0]⟩,
  ⟨"MT_PADMIT", .mt, 0, 0, 0x1010, 8, 8, 1, 0, false,
    [fld .ro 63 32 0, fld .ro 31 0 0]⟩]

/-- The registers of the NG page. -/
def regsNg : List RegRow := [
  ⟨"NG_CAPS", .ng, 0, 0, 0x0, 4, 1, 1, 0, false,
    [fld .const 31 24 6, fldC 23 16 .fans, fld .const 15 8 64, fld .const 7 0 20]⟩,
  ⟨"NG_DIGSTAT", .ng, 0, 0, 0x10, 8, 1, 1, 0, false,
    [fld .ro 63 32 0, fld .reserved 31 9 0, fld .ro 8 8 0, fld .ro 7 0 0]⟩,
  ⟨"NG_EVENT", .ng, 0, 0, 0x18, 4, 1, 1, 0, false,
    [fld .reserved 31 6 0, fld .w1c 5 5 0, fld .w1c 4 4 0, fld .w1c 3 3 0, fld .w1c 2 2 0, fld .w1c 1 1 0, fld .w1c 0 0 0]⟩,
  ⟨"NG_IRQ", .ng, 0, 0, 0x1C, 4, 1, 1, 0, false,
    [fld .rwp 31 31 0, fld .reserved 30 11 0, fld .rwp 10 0 0]⟩,
  ⟨"NG_PSTAT", .ng, 0, 0, 0x1000, 8, 8, 1, 0, false,
    [fld .ro 63 32 0, fld .reserved 31 3 0, fld .ro 2 0 0]⟩,
  ⟨"NG_TAU", .ng, 0, 0, 0x1008, 8, 8, 1, 0, false,
    [fld .ro 63 32 0, fld .ro 31 0 0]⟩,
  ⟨"NG_MTBF", .ng, 0, 0, 0x1010, 8, 8, 1, 0, false,
    [fld .ro 63 58 0, fld .ro 57 0 0]⟩,
  ⟨"NG_NEXT", .ng, 0, 0, 0x1018, 8, 8, 1, 0, false,
    [fld .ro 63 0 0]⟩]

/-- The registers of the MG page. -/
def regsMg : List RegRow := [
  ⟨"MG_CAPS", .mg, 0, 0, 0x0, 4, 1, 1, 0, false,
    [fld .const 31 28 4, fld .const 27 24 4, fld .const 23 16 4, fld .const 15 0 1024]⟩,
  ⟨"MG_STATUS", .mg, 0, 0, 0x10, 4, 1, 1, 0, false,
    [fld .ro 31 31 0, fld .ro 30 30 0, fld .ro 29 29 0, fld .reserved 28 19 0, fld .ro 18 16 0, fld .ro 15 8 0, fld .reserved 7 3 0, fld .ro 2 0 1]⟩,
  ⟨"MG_ALERT", .mg, 0, 0, 0x18, 4, 1, 1, 0, false,
    [fld .reserved 31 8 0, fld .w1c 7 7 0, fld .w1c 6 6 0, fld .w1c 5 5 0, fld .w1c 4 4 0, fld .w1c 3 3 0, fld .w1c 2 2 0, fld .w1c 1 1 0, fld .w1c 0 0 0]⟩,
  ⟨"MG_ALERTMASK", .mg, 0, 0, 0x1C, 4, 1, 1, 0, false,
    [fld .reserved 31 8 0, fld .rwp 7 0 255]⟩,
  ⟨"MG_DISCARD", .mg, 0, 0, 0x20, 8, 1, 1, 0, false,
    [fld .ro 63 32 0, fld .ro 31 0 0]⟩,
  ⟨"MG_WDOG", .mg, 0, 0, 0x28, 4, 1, 1, 0, false,
    [fld .ro 31 24 0, fld .reserved 23 16 0, fld .ro 15 0 0]⟩,
  ⟨"MG_EVTHEAD", .mg, 0, 0, 0x30, 8, 1, 1, 0, false,
    [fld .ro 63 0 0]⟩]

/-- The registers of the DB page. -/
def regsDb : List RegRow := [
  ⟨"DB_CAPS", .db, 0, 16, 0x0, 4, 1, 1, 0, false,
    [fld .const 31 24 8, fldC 23 12 .reelKib, fld .reserved 11 0 0]⟩,
  ⟨"DB_CSSTAT", .db, 0, 0, 0x10, 8, 1, 1, 0, false,
    [fld .ro 63 32 0, fld .ro 31 31 0, fld .reserved 30 28 0, fld .ro 27 24 0, fld .reserved 23 10 0, fld .ro 9 0 0]⟩,
  ⟨"DB_CSREL", .db, 0, 0, 0x18, 4, 1, 1, 0, false,
    [fld .reserved 31 1 0, fld .wo 0 0 0]⟩,
  ⟨"DB_CSBASE", .db, 0, 0, 0x20, 8, 1, 1, 0, false,
    [fld .reserved 63 52 0, fld .ro 51 29 1, fld .reserved 28 0 0]⟩,
  ⟨"DB_RCTRL", .db, 0, 16, 0x100, 4, 1, 1, 0, false,
    [fld .rwp 31 31 0, fld .wo 30 30 0, fld .rwp 29 29 0, fld .reserved 28 26 0, fld .rwp 25 16 0, fld .rwp 15 12 0, fld .reserved 11 6 0, fld .rwp 5 0 0]⟩,
  ⟨"DB_RDEST", .db, 0, 16, 0x108, 8, 1, 1, 0, false,
    [fld .rwp 63 63 0, fld .reserved 62 57 0, fld .rwp 56 15 0, fld .reserved 14 4 0, fld .rwp 3 0 0]⟩,
  ⟨"DB_RHEAD", .db, 0, 16, 0x110, 8, 1, 1, 0, false,
    [fld .ro 63 0 0]⟩,
  ⟨"DB_RLOST", .db, 0, 16, 0x118, 8, 1, 1, 0, false,
    [fld .ro 63 0 0]⟩,
  ⟨"DB_PMCTRL", .db, 1, 16, 0x1000, 4, 9, 1, 0, false,
    [fld .rwp 31 31 0, fld .rwp 30 30 0, fld .reserved 29 10 0, fld .rwp 9 0 0]⟩,
  ⟨"DB_PMSEL", .db, 1, 16, 0x1010, 4, 9, 4, 4, false,
    [fld .reserved 31 8 0, fld .ro 7 0 0]⟩,
  ⟨"DB_PMSEL4", .db, 1, 16, 0x1020, 4, 9, 4, 4, false,
    [fld .reserved 31 8 0, fld .rwp 7 0 0]⟩,
  ⟨"DB_PMCNT", .db, 1, 16, 0x1040, 8, 9, 4, 8, false,
    [fld .ro 63 0 0]⟩,
  ⟨"DB_PMCNT4", .db, 1, 16, 0x1060, 8, 9, 4, 8, false,
    [fld .rwp 63 0 0]⟩,
  ⟨"DB_CYCLES", .db, 1, 16, 0x1080, 8, 9, 1, 0, false,
    [fld .ro 63 0 0]⟩,
  ⟨"DB_ISSUED", .db, 1, 16, 0x1088, 8, 9, 1, 0, false,
    [fld .ro 63 0 0]⟩]

/-- The registers of the B4 page of BAR4. -/
def regsBar4 : List RegRow := [
  ⟨"MG_ODCMD", .bar4, 0, 0, 0x10000, 8, 1, 1, 0, false,
    [fld .wo 63 56 0, fld .reserved 55 48 0, fld .wo 47 32 0, fld .wo 31 24 0, fld .reserved 23 20 0, fld .wo 19 16 0, fld .reserved 15 13 0, fld .wo 12 0 0]⟩,
  ⟨"MG_ODSTAT", .bar4, 0, 0, 0x10008, 4, 1, 1, 0, false,
    [fld .ro 31 31 0, fld .w1c 30 30 0, fld .reserved 29 24 0, fld .ro 23 16 0, fld .reserved 15 13 0, fld .ro 12 0 0]⟩,
  ⟨"MG_LDADDR", .bar4, 0, 0, 0x12000, 8, 1, 1, 0, false,
    [fld .rw 63 12 0, fld .reserved 11 0 0]⟩,
  ⟨"MG_LDCTRL", .bar4, 0, 0, 0x12008, 4, 1, 1, 0, false,
    [fld .wo 31 31 0, fld .ro 30 30 0, fld .reserved 29 27 0, fld .rw 26 0 0]⟩]

/-- The registers of the DBELL page. -/
def regsDoorbell : List RegRow := [
  ⟨"HQ_DBTAIL", .doorbell, 0, 4095, 0x0, 4, 1, 1, 0, false,
    [fld .rw 31 0 0]⟩,
  ⟨"HQ_DBHEAD", .doorbell, 0, 4095, 0x8, 4, 1, 1, 0, false,
    [fld .ro 31 0 0]⟩,
  ⟨"HQ_DBSEQ", .doorbell, 0, 4095, 0x10, 8, 1, 1, 0, false,
    [fld .ro 63 0 0]⟩,
  ⟨"HQ_DBSTATE", .doorbell, 0, 4095, 0x18, 4, 1, 1, 0, false,
    [fld .w1c 31 31 0, fld .reserved 30 13 0, fld .ro 12 12 0, fld .ro 11 11 0, fld .ro 10 9 0, fld .ro 8 8 0, fld .reserved 7 4 0, fld .ro 3 3 0, fld .ro 2 0 0]⟩]

/-- The registers of a kind of page. -/
def blkRegs : Blk → List RegRow
  | .te => regsTe
  | .mx => regsMx
  | .sq => regsSq
  | .cc => regsCc
  | .tk => regsTk
  | .mc => regsMc
  | .xl => regsXl
  | .tt => regsTt
  | .uu => regsUu
  | .hq => regsHq
  | .lk => regsLk
  | .pt => regsPt
  | .mt => regsMt
  | .ng => regsNg
  | .mg => regsMg
  | .db => regsDb
  | .bar4 => regsBar4
  | .doorbell => regsDoorbell

/-- The kind of page, its instance and the offset within it that a register-space offset names (R46). BAR4's own
window stands at 0x400_0000 and above, so that one map of registers serves both. -/
def locate (off : Nat) : Option (Blk × Nat × Nat) :=
  let pg := off / 0x10000
  let o := off % 0x10000
  if off < 0x2000000 then
    let slot := off / 0x20000
    if slot % 16 < 9 then (if pg % 2 = 0 then some (.te, slot, o) else some (.mx, slot, o)) else none
  else if pg < 0x220 then (if pg % 2 = 0 then some (.sq, (pg - 0x200) / 2, o) else some (.cc, (pg - 0x200) / 2, o))
  else if pg < 0x222 then some (.tk, pg - 0x220, o)
  else if 0x230 ≤ pg ∧ pg < 0x240 then some (.mc, pg - 0x230, o)
  else if 0x240 ≤ pg ∧ pg < 0x244 then some (.xl, pg - 0x240, o)
  else if 0x250 ≤ pg ∧ pg < 0x253 then some (.tt, pg - 0x250, o)
  else if 0x260 ≤ pg ∧ pg < 0x290 then some (.uu, pg - 0x260, o)
  else if 0x290 ≤ pg ∧ pg < 0x2A0 then some (.hq, pg - 0x290, o)
  else if 0x2A0 ≤ pg ∧ pg < 0x2A9 then some (.lk, pg - 0x2A0, o)
  else if pg = 0x2B0 then some (.pt, 0, o)
  else if pg = 0x2B1 then some (.mt, 0, o)
  else if pg = 0x2B2 then some (.ng, 0, o)
  else if pg = 0x2B3 then some (.mg, 0, o)
  else if 0x2C0 ≤ pg ∧ pg < 0x2D1 then some (.db, pg - 0x2C0, o)
  else if 0x300 ≤ pg ∧ pg < 0x400 then some (.doorbell, (off - 0x3000000) / 0x1000, off % 0x1000)
  else if 0x400 ≤ pg ∧ pg < 0x410 then some (.bar4, 0, off - 0x4000000)
  else none

/-- Whether a row's register stands at offset `o` of instance `i`; then the offset within the register. -/
def RegRow.hit (r : RegRow) (i o : Nat) : Option Nat :=
  if i < r.iLo ∨ r.iHi < i ∨ o < r.off then none
  else
    let d := o - r.off
    let d := if r.sub > 1 then (if d / 0x100 < r.sub then d % 0x100 else 0x10000) else d
    if r.idxN > 1 then (if d / r.idxS < r.idxN ∧ d % r.idxS < r.bytes then some (d % r.idxS) else none)
    else if d < r.bytes then some d else none

/-- The register at a register-space offset: its row, its page's instance and the byte within it. -/
def findReg (off : Nat) : Option (RegRow × Nat × Nat) :=
  match locate off with
  | none => none
  | some (b, i, o) =>
    (blkRegs b).findSome? (fun r => match r.hit i o with | some d => some (r, i, d) | none => none)

/-- A field's reset value on instance `i`; `ac` is the variant. -/
def RstVal.value (v : RstVal) (i : Nat) (ac : Bool) : Nat :=
  match v with
  | .num n => n
  | .slot => i
  | .inst => i
  | .instPred => i - 1
  | .mcKind => if i < 8 then 0 else 1
  | .mcUnits => if i < 8 then 4 else 2
  | .mcInst => i % 8
  | .variant => b2n ac
  | .fans => if ac then 6 else 0
  | .reelKib => if i = 0 then 0x100 else 0x40

/-- A register's reset value. -/
def RegRow.reset (r : RegRow) (i : Nat) (ac : Bool) : Nat :=
  r.fields.foldl (fun a f => a + (f.rst.value i ac) * 2 ^ f.lo) 0

/-- The reset value of the register at an offset; zero where none stands (R10). -/
def resetOf (off : Nat) (ac : Bool) : Nat :=
  match findReg off with
  | some (r, i, _) => r.reset i ac
  | none => 0

end Sys2Proof.Machine
end

