-- ==== Sys2Proof/Machine/Ops.lean ====
section
/-! DEFINITION. The named operations over registers, dictionary entries, engines' records, the event log, interrupts and
error records: each piece of state has one reader and one writer here. -/

namespace Sys2Proof.Machine

/-! ### Register offsets (01 R46) -/

/-- Offset in a TE_ page. -/
def teR (slot o : Nat) : Nat := slot * 0x20000 + o
/-- Offset in an MX_ page. -/
def mxR (slot o : Nat) : Nat := slot * 0x20000 + 0x10000 + o
/-- Offset in an SQ_ page. -/
def sqR (cl o : Nat) : Nat := 0x2000000 + cl * 0x20000 + o
/-- Offset in a CC_ page. -/
def ccR (cl o : Nat) : Nat := 0x2010000 + cl * 0x20000 + o
/-- Offset in a TK_ page. -/
def tkR (die o : Nat) : Nat := 0x2200000 + die * 0x10000 + o
/-- Offset in an MC_ page. -/
def mcR (i o : Nat) : Nat := 0x2300000 + i * 0x10000 + o
/-- Offset in an XL_ page. -/
def xlR (p o : Nat) : Nat := 0x2400000 + p * 0x10000 + o
/-- Offset in the hub walker's TT_ page. -/
def ttR (o : Nat) : Nat := 0x2500000 + o
/-- Offset in the TT_ block of partition p. -/
def ttP (p o : Nat) : Nat := 0x2501000 + p * 0x100 + o
/-- Offset in a die's TT_ page. -/
def ttD (die o : Nat) : Nat := 0x2510000 + die * 0x10000 + o
/-- Offset in a UU_ page. -/
def uuR (u o : Nat) : Nat := 0x2600000 + u * 0x10000 + o
/-- Offset in the HQ_ page of partition p. -/
def hqP (p o : Nat) : Nat := 0x2910000 + p * 0x10000 + o
/-- Offset in HQ_ page 0. -/
def hqR (o : Nat) : Nat := 0x2900000 + o
/-- Offset in an LK_ page: 0 common, 1 to 8 ports. -/
def lkR (i o : Nat) : Nat := 0x2A00000 + i * 0x10000 + o
/-- Offset in the PT_ page. -/
def ptR (o : Nat) : Nat := 0x2B00000 + o
/-- Offset in the PT_ block of partition p. -/
def ptP (p o : Nat) : Nat := 0x2B01000 + p * 0x100 + o
/-- Offset in the MT_ page. -/
def mtR (o : Nat) : Nat := 0x2B10000 + o
/-- Offset in the MT_ block of partition p. -/
def mtP (p o : Nat) : Nat := 0x2B11000 + p * 0x100 + o
/-- Offset in the NG_ page. -/
def ngR (o : Nat) : Nat := 0x2B20000 + o
/-- Offset in the NG_ block of partition p. -/
def ngP (p o : Nat) : Nat := 0x2B21000 + p * 0x100 + o
/-- Offset in the MG_ page. -/
def mgR (o : Nat) : Nat := 0x2B30000 + o
/-- Offset in a DB_ page. -/
def dbR (i o : Nat) : Nat := 0x2C00000 + i * 0x10000 + o
/-- Offset of queue q's doorbell page. -/
def dbell (q o : Nat) : Nat := 0x3000000 + q * 0x1000 + o
/-- Offset in BAR4's window, as the register map keys it. -/
def b4R (o : Nat) : Nat := 0x4000000 + o

/-! ### Stored registers -/

/-- The stored value of the register at an offset. -/
def State.reg (s : State) (off : Nat) : Nat :=
  (s.regs.getD off (BitVec.ofNat 64 (resetOf off s.ac))).toNat

/-- Store a register's value. -/
def State.setReg (s : State) (off v : Nat) : State :=
  { s with regs := s.regs.set off (BitVec.ofNat 64 (resetOf off s.ac)) (BitVec.ofNat 64 v) }

/-- Bits `[hi:lo]` of a register. -/
def State.rf (s : State) (off hi lo : Nat) : Nat := bits (s.reg off) hi lo

/-- Set bits `[hi:lo]` of a register. -/
def State.setRf (s : State) (off hi lo v : Nat) : State := s.setReg off (setBits (s.reg off) hi lo v)

/-- Add to a 64-bit counter. -/
def State.bump (s : State) (off n : Nat) : State := s.setReg off (s.reg off + n)

/-- Add to a saturating counter of `w` bits that stands at bits `[lo+w-1:lo]`. -/
def State.bumpSat (s : State) (off lo w n : Nat) : State :=
  s.setRf off (lo + w - 1) lo (Nat.min (s.rf off (lo + w - 1) lo + n) (2 ^ w - 1))

/-! ### Dictionary entries -/

/-- The stored value of a dictionary entry of fixed width. -/
def State.odGet (s : State) (idx sub : Nat) : Nat :=
  (s.od.getD (odKey idx sub) (BitVec.ofNat 64 (odDefault idx sub s.ac))).toNat

/-- Store a dictionary entry. -/
def State.odSet (s : State) (idx sub v : Nat) : State :=
  { s with od := s.od.set (odKey idx sub) (BitVec.ofNat 64 (odDefault idx sub s.ac)) (BitVec.ofNat 64 v) }

/-- Add to a counting dictionary entry. -/
def State.odBump (s : State) (idx sub n : Nat) : State := s.odSet idx sub (s.odGet idx sub + n)

/-- Add to a counting dictionary entry of `w` bits that saturates. -/
def State.odBumpSat (s : State) (idx sub w n : Nat) : State :=
  s.odSet idx sub (Nat.min (s.odGet idx sub + n) (2 ^ w - 1))

/-- A STR or BLOB entry. -/
def State.blob (s : State) (idx sub : Nat) : List Byte := s.odBlob.getD (odKey idx sub) []

/-- Store a STR or BLOB entry. -/
def State.setBlob (s : State) (idx sub : Nat) (v : List Byte) : State :=
  { s with odBlob := s.odBlob.set (odKey idx sub) [] v }

/-! ### Free values (log 2) -/

/-- Draw a free value: the model's counter advances. -/
def State.draw (s : State) : W64 × State := (Config.freeWord s.free, { s with free := s.free + 1 })

/-! ### Engines and objects: one reader and one writer each -/

/-- A physical core. -/
def State.core (s : State) (slot : Nat) : Core := s.cores.getD slot {}
/-- Store a core. -/
def State.setCore (s : State) (slot : Nat) (c : Core) : State := { s with cores := s.cores.set slot {} c }
/-- Change a core. -/
def State.modCore (s : State) (slot : Nat) (f : Core → Core) : State := s.setCore slot (f (s.core slot))
/-- A core's matrix engine. -/
def State.mx (s : State) (slot : Nat) : Mx := (s.core slot).mx
/-- Change a core's matrix engine. -/
def State.modMx (s : State) (slot : Nat) (f : Mx → Mx) : State := s.modCore slot (fun c => { c with mx := f c.mx })
/-- A sequencer. -/
def State.seq (s : State) (cl : Nat) : Seq := s.seqs.getD cl {}
/-- Store a sequencer. -/
def State.setSeq (s : State) (cl : Nat) (q : Seq) : State := { s with seqs := s.seqs.set cl {} q }
/-- Change a sequencer. -/
def State.modSeq (s : State) (cl : Nat) (f : Seq → Seq) : State := s.setSeq cl (f (s.seq cl))
/-- A context. -/
def State.ctx (s : State) (c : Nat) : CtxObj := s.obj.ctxs.getD c {}
/-- Store a context. -/
def State.setCtx (s : State) (c : Nat) (v : CtxObj) : State :=
  { s with obj := { s.obj with ctxs := s.obj.ctxs.set c {} v } }
/-- Change a context. -/
def State.modCtx (s : State) (c : Nat) (f : CtxObj → CtxObj) : State := s.setCtx c (f (s.ctx c))
/-- A queue. -/
def State.queue (s : State) (q : Nat) : Queue := s.obj.queues.getD q {}
/-- Store a queue. -/
def State.setQueue (s : State) (q : Nat) (v : Queue) : State :=
  { s with obj := { s.obj with queues := s.obj.queues.set q {} v } }
/-- Change a queue. -/
def State.modQueue (s : State) (q : Nat) (f : Queue → Queue) : State := s.setQueue q (f (s.queue q))
/-- A fence or event. -/
def State.sync (s : State) (h : Nat) : SyncObj := s.obj.syncs.getD h {}
/-- Store a fence or event. -/
def State.setSync (s : State) (h : Nat) (v : SyncObj) : State :=
  { s with obj := { s.obj with syncs := s.obj.syncs.set h {} v } }
/-- Change a fence or event. -/
def State.modSync (s : State) (h : Nat) (f : SyncObj → SyncObj) : State := s.setSync h (f (s.sync h))
/-- A memory object. -/
def State.memObj (s : State) (h : Nat) : MemObj := s.obj.mems.getD h {}
/-- Store a memory object. -/
def State.setMemObj (s : State) (h : Nat) (v : MemObj) : State :=
  { s with obj := { s.obj with mems := s.obj.mems.set h {} v } }
/-- A partition. -/
def State.part (s : State) (p : Nat) : Partn := s.pt.parts.getD p {}
/-- Store a partition. -/
def State.setPart (s : State) (p : Nat) (v : Partn) : State :=
  { s with pt := { s.pt with parts := s.pt.parts.set p {} v } }
/-- Change a partition. -/
def State.modPart (s : State) (p : Nat) (f : Partn → Partn) : State := s.setPart p (f (s.part p))
/-- The step that a queue offers. -/
def State.stepOf (s : State) (q : Nat) : Option StepRec := s.pt.steps.find q
/-- Store a step. -/
def State.setStep (s : State) (q : Nat) (v : StepRec) : State := { s with pt := { s.pt with steps := s.pt.steps.put q v } }
/-- Forget a step. -/
def State.delStep (s : State) (q : Nat) : State := { s with pt := { s.pt with steps := s.pt.steps.del q } }
/-- Change a step. -/
def State.modStep (s : State) (q : Nat) (f : StepRec → StepRec) : State :=
  match s.stepOf q with
  | some r => s.setStep q (f r)
  | none => s
/-- A launched kernel. -/
def State.kernel (s : State) (k : Nat) : Option Kernel := s.pt.kernels.find k
/-- Store a kernel. -/
def State.setKernel (s : State) (k : Nat) (v : Kernel) : State :=
  { s with pt := { s.pt with kernels := s.pt.kernels.put k v } }
/-- Forget a kernel; the compatibility hold of its partition counts from its end (13 R538). -/
def State.delKernel (s : State) (k : Nat) : State :=
  let t := match s.kernel k with
    | some x => if x.desc.fv40 then s.modPart x.part (fun p => { p with lastFv40 := s.now }) else s
    | none => s
  { t with pt := { t.pt with kernels := t.pt.kernels.del k } }
/-- A unit of service. -/
def State.unit (s : State) (u : UnitId) : MemUnit :=
  if u.kind = 0 then s.ext.hbm.getD u.num {} else if u.kind = 1 then s.ext.ddr.getD u.num {} else s.ext.cxl.getD u.num {}
/-- Store a unit of service. -/
def State.setUnit (s : State) (u : UnitId) (v : MemUnit) : State :=
  if u.kind = 0 then { s with ext := { s.ext with hbm := s.ext.hbm.set u.num {} v } }
  else if u.kind = 1 then { s with ext := { s.ext with ddr := s.ext.ddr.set u.num {} v } }
  else { s with ext := { s.ext with cxl := s.ext.cxl.set u.num {} v } }
/-- Change a unit of service. -/
def State.modUnit (s : State) (u : UnitId) (f : MemUnit → MemUnit) : State := s.setUnit u (f (s.unit u))
/-- The Tank of a die. -/
def State.die (s : State) (d : Nat) : Die := if d = 0 then s.ext.die0 else s.ext.die1
/-- Store the Tank of a die. -/
def State.setDie (s : State) (d : Nat) (v : Die) : State :=
  if d = 0 then { s with ext := { s.ext with die0 := v } } else { s with ext := { s.ext with die1 := v } }
/-- Change the Tank of a die. -/
def State.modDie (s : State) (d : Nat) (f : Die → Die) : State := s.setDie d (f (s.die d))
/-- An update unit. -/
def State.uu (s : State) (u : Nat) : Uu := s.upd.units.getD u {}
/-- Change an update unit. -/
def State.modUu (s : State) (u : Nat) (f : Uu → Uu) : State :=
  { s with upd := { s.upd with units := s.upd.units.upd u {} f } }
/-- A PCIe function. -/
def State.fn (s : State) (f : Nat) : Fn := s.host.fns.getD f {}
/-- Change a PCIe function. -/
def State.modFn (s : State) (f : Nat) (g : Fn → Fn) : State :=
  { s with host := { s.host with fns := s.host.fns.upd f {} g } }
/-- A fabric peer. -/
def State.peer (s : State) (n : Nat) : Peer := s.lk.peers.getD n {}
/-- Change a fabric peer. -/
def State.modPeer (s : State) (n : Nat) (f : Peer → Peer) : State :=
  { s with lk := { s.lk with peers := s.lk.peers.upd n {} f } }
/-- A fabric port, 1 to 8. -/
def State.port (s : State) (n : Nat) : Port := s.lk.ports.getD n {}
/-- Change a fabric port. -/
def State.modPort (s : State) (n : Nat) (f : Port → Port) : State :=
  { s with lk := { s.lk with ports := s.lk.ports.upd n {} f } }

/-- Whether a context stands still while its contact sheet is written (17 R663). -/
def State.frozen (s : State) (c : Nat) : Bool :=
  match s.obs.sheet with
  | some x => x.ctx = c
  | none => false

/-! ### Clusters, cores and partitions -/

/-- The physical slots of a cluster (01 R24). -/
def clSlots (cl : Nat) : List Nat := (List.range 9).map (fun p => cl * 16 + p)

/-- The cluster of a physical slot (01 R24). -/
def slotCl (slot : Nat) : Nat := slot / 16

/-- The die of a cluster. -/
def clDie (cl : Nat) : Nat := cl / 8

/-- The physical slot that carries logical core n of a cluster, if one does (01 R23, R25; log 6). -/
def State.slotOf (s : State) (cl n : Nat) : Option Nat :=
  if s.ng.absent.getD (cl * 8 + n) false then none else some (cl * 16 + s.ng.coreMap.getD (cl * 8 + n) n)

/-- The logical core number that a physical slot carries. -/
def State.logicalOf (s : State) (slot : Nat) : Option Nat :=
  ((List.range 8).find? (fun n => s.slotOf (slotCl slot) n = some slot)).map (fun n => slotCl slot * 8 + n)

/-- The present cores of a cluster that a mask of logical indices names (05 R192). -/
def State.maskSlots (s : State) (cl mask : Nat) : List Nat :=
  (bitList 8 mask).filterMap (fun n => s.slotOf cl n)

/-- The partition that holds a cluster in the applied layout. -/
def State.clPart (s : State) (cl : Nat) : Option Nat :=
  (List.range 8).find? (fun p => (s.part p).lay.enabled && bit (s.part p).lay.clusters cl)

/-- The clusters of a partition. -/
def State.partCls (s : State) (p : Nat) : List Nat := bitList 16 (s.part p).lay.clusters

/-- Local-memory size of a core in bytes (R57, R196). -/
def State.lmemOf (s : State) (slot : Nat) : Nat :=
  let c := s.core slot
  (256 + 64 * (if c.kernel.isSome then c.cur.lmem else c.last.lmem)) * 1024

/-! ### Paths (00 R13) -/

/-- Whether a path is privileged (R13). A session's path is `i` for session i of 0 to 3, or `i + 4 k` for its request k that an
item holds up. -/
def State.privileged (s : State) (p : Path) : Bool :=
  match p with
  | .pf => true
  | .firmware => true
  | .session i => (s.mg.sessions.getD (i % 4) {}).opened
  | .vf _ => false
  | .engine _ => false

/-- Count a write discarded for want of privilege (R699). -/
def State.discardRwp (s : State) : State := s.bumpSat (mgR 0x20) 32 32 1

/-- Count a write discarded because all that it reaches is RO or CONST, or under R619, R638 or R639 (R699). -/
def State.discardRo (s : State) : State := s.bumpSat (mgR 0x20) 0 32 1

/-! ### Events, alerts and interrupts -/

/-- Set a bit of MG_ALERT (16 R644, R645). -/
def State.alert (s : State) (b : Nat) : State := s.setReg (mgR 0x18) (s.reg (mgR 0x18) ||| 2 ^ b)

/-- The ALERT line of J3 (16 R644; 18 R682, R690): high impedance where the module has no power. -/
def State.alertLine (s : State) : Bool :=
  match s.pw.phase with
  | .off => false
  | .held _ => s.pw.pwrEn
  | .on => (s.reg (mgR 0x18)) &&& (s.reg (mgR 0x1C)) != 0

/-- The SERVICE line of J3: a service LED is lit (16 R644). -/
def State.serviceLine (s : State) : Bool := s.pw.phase = .on && s.ng.leds ≠ []

/-- Numbers of the open sessions. -/
def State.openSessions (s : State) : List Nat := (s.mg.sessions.filter (fun e => e.2.opened)).map (·.1)

/-- Close a session, and what its requests hold (16 R626). -/
def State.closeSession (s : State) (i : Nat) : State :=
  { s with mg := { s.mg with sessions := s.mg.sessions.set i {} {}, reqs := s.mg.reqs.filter (fun e => e.1 % 4 ≠ i) } }

/-- Send a frame of an open session (16 R622, R626): its SEQ rises by one, and the session closes when SEQ reaches 2^32. A module
that may not transmit sends nothing (16 R620). -/
def State.tuiSend (s : State) (i type req status : Nat) (body : List Byte) : State :=
  let x := s.mg.sessions.getD i {}
  if s.mg.silent || !x.opened then s
  else
    let t := { s with mg := { s.mg with tx := { session := x.id, type := type, req := req, status := status, body := body } :: s.mg.tx, sessions := s.mg.sessions.set i {} { x with txSeq := x.txSeq + 1 } } }
    if 2 ^ 32 ≤ x.txSeq + 1 then t.closeSession i else t

/-- Send an EVENT to a session and keep it until EVENT_ACK (16 R627). The module numbers its EVENTs by REQ (log 35). -/
def State.sendEvent (s : State) (i : Nat) (body : List Byte) : State :=
  let n := (s.mg.sessions.getD i {}).evReq
  let t := s.tuiSend i 0x30 n 0 body
  if (t.mg.sessions.getD i {}).opened then
    { t with mg := { t.mg with sessions := t.mg.sessions.upd i {} (fun x => { x with events := x.events ++ [{ req := n, tFirst := s.now, tLast := s.now, body := body }], evReq := (n + 1) % 65536 }) } }
  else t

/-- The 32 bytes of an event record (16 R643). -/
def Event.bytes (e : Event) : List Byte :=
  leBytes 8 e.time ++ leBytes 2 e.code ++ leBytes 1 e.severity ++ leBytes 1 e.unit ++ leBytes 4 e.count ++ leBytes 16 e.data

/-- Write an event record and report it to every open session (16 R627, R643). The list holds the last 1,024, newest first. -/
def State.logEvent (s : State) (code sev unit data : Nat) : State :=
  let n := s.mg.eventCount
  let e : Event := { code := code, severity := sev, unit := unit, time := s.now, count := (n + 1) % 2 ^ 32, data := data }
  let t := { s with mg := { s.mg with events := (e :: s.mg.events).take 1024, eventCount := n + 1 } }
  t.openSessions.foldl (fun t i => t.sendEvent i e.bytes) t

/-- Whether virtual function k (1 to 8) is enabled (11 R423, R424). -/
def State.vfOn (s : State) (k : Nat) : Bool :=
  s.host.vfEnable && decide (1 ≤ k) && decide (k ≤ s.host.numVfs) && (decide (k < 8) || s.host.ari)

/-- The function that owns a partition (11 R439). -/
def State.fnOf (s : State) (p : Nat) : Nat := if s.vfOn (p + 1) then p + 1 else 0

/-- An event on a vector of a function (11 R439, R440; during a hub warm reset none is sent, 16 R639). -/
def State.msix (s : State) (f v : Nat) : State :=
  let x := s.fn f
  if !x.msixEn || decide ((if f = 0 then 2048 else 256) ≤ v) then s.odBump 0x61B0 3 1
  else if s.mg.stage = .warm ∨ s.mg.warming ∨ s.mg.down then s
  else if x.fnMask || !(x.unmasked.getD v false) then s.modFn f (fun y => { y with msixPend := y.msixPend.set v false true })
  else { s with host := { s.host with sent := { fn := f, vector := v } :: s.host.sent } }

/-- Log an error in Advanced Error Reporting (11 R441). -/
def State.aer (s : State) (e : AerErr) : State := { s with host := { s.host with aer := e :: s.host.aer } }

/-- The hub cannot continue (08 R700, 11 R441): INTERNAL_ERROR, the alert bit, and no further entry or command. -/
def State.internalError (s : State) : State :=
  let t := ((s.aer .internalError).logEvent 0x0040 2 0 0).alert 2
  { t with mg := { t.mg with down := true } }

/-- Set a bit of a partition's error vector (13 R540): a bit that becomes set sends the vector of PT_ERRIRQ. -/
def State.errVec (s : State) (p b : Nat) : State :=
  let off := ptP p 0x18
  if bit (s.reg off) b then s
  else
    let t := s.setReg off (s.reg off ||| 2 ^ b)
    if bit (t.reg (ptP p 0x1C)) 31 then t.msix (t.fnOf p) (t.rf (ptP p 0x1C) 10 0) else t

/-- Set a bit of NG_EVENT: one that becomes set sends NG_IRQ's vector of the PF (15 R609). -/
def State.ngEvent (s : State) (b : Nat) : State :=
  if bit (s.reg (ngR 0x18)) b then s
  else
    let s := s.setReg (ngR 0x18) (s.reg (ngR 0x18) ||| 2 ^ b)
    if bit (s.reg (ngR 0x1C)) 31 then s.msix 0 (s.rf (ngR 0x1C) 10 0) else s

/-- An error record register whose bit 31 is VALID and whose MORE stands in [15:8]: a later error only counts (02 R84,
03 R109, 05 R209, and the CC_, TK_, MC_ and XL_ records). `f` fills the rest of the record. -/
def State.errRecord (s : State) (off v : Nat) (f : State → State) : State :=
  if bit (s.reg off) 31 then s.bumpSat off 8 8 1 else f (s.setReg off (2 ^ 31 + v))

/-- Apply an operation to each of a list. -/
def State.each {α : Type} (s : State) (l : List α) (f : State → α → State) : State := l.foldl f s

end Sys2Proof.Machine
end

