-- ==== Sys2Proof/Machine/Mem.lean ====
section
/-! DEFINITION. Memory: decoding of device physical addresses (01 R42 to R45, 07 R282, 08 R305, R308), the caches and the
Tank (07), moves, mirrors, poison and bandwidth regulators (08), and the reads and writes that engines perform. -/

namespace Sys2Proof.Machine

/-! ### Address map -/

/-- What a device physical address names. -/
inductive Region where
  | hbm (set : Nat)
  | tank (die way : Nat)
  | window (slot off : Nat)
  | ddr (ch : Nat)
  | cxl (port : Nat)
  | reg (off : Nat)
  | none
  deriving DecidableEq, Repr

/-- Base of the local-memory window of a slot (R44). -/
def winBase (slot : Nat) : Nat := 0x008400000000 + slot * 0x100000

/-- Base of HBM channel set n (R305). -/
def hbmBase (n : Nat) : Nat := n * 0x400000000

/-- Base of DDR channel c (R308). -/
def ddrBase (c : Nat) : Nat := 0x100000000000 + c * 0x8000000000

/-- Base of CXL port p (R43). -/
def cxlBase (p : Nat) : Nat := 0x200000000000 + p * 0x40000000000

/-- Base of the device register space (R42). -/
def regBase : Nat := 0xF00000000000

/-- Populated bytes of an HBM channel set (R305). -/
def hbmSetBytes : Nat := 9000000000

/-- Decode a device physical address against the populated ranges, ABSENT units apart (R42, R45). -/
def State.decode (s : State) (pa : Nat) : Region :=
  if pa < 0x008000000000 then
    let set := pa / 0x400000000
    if set < 32 ∧ pa % 0x400000000 < hbmSetBytes ∧ (s.unit ⟨0, set⟩).st ≠ .absent then .hbm set else .none
  else if pa < 0x008400000000 then
    let o := pa - 0x008000000000
    if o % 0x20000000 < 0xF000000 then .tank (o / 0x200000000) (o % 0x200000000 / 0x20000000) else .none
  else if pa < 0x008410000000 then
    let o := pa - 0x008400000000
    let slot := o / 0x100000
    if slot % 16 < 9 ∧ o % 0x100000 < s.lmemOf slot then .window slot (o % 0x100000) else .none
  else if 0x100000000000 ≤ pa ∧ pa < 0x180000000000 then
    let c := (pa - 0x100000000000) / 0x8000000000
    if (pa - 0x100000000000) % 0x8000000000 < (s.unit ⟨1, c⟩).bytes ∧ (s.unit ⟨1, c⟩).st ≠ .absent then .ddr c else .none
  else if 0x200000000000 ≤ pa ∧ pa < 0x300000000000 then
    let p := (pa - 0x200000000000) / 0x40000000000
    if (pa - 0x200000000000) % 0x40000000000 < (s.unit ⟨2, p⟩).bytes ∧ (s.unit ⟨2, p⟩).st ≠ .absent then .cxl p else .none
  else if regBase ≤ pa ∧ pa < regBase + 0x4000000 then .reg (pa - regBase)
  else .none

/-- The unit of service behind a region. -/
def Region.unit : Region → Option UnitId
  | .hbm n => some ⟨0, n⟩
  | .ddr c => some ⟨1, c⟩
  | .cxl p => some ⟨2, p⟩
  | _ => Option.none

/-- The home die of a line's address (R28). -/
def homeDie (pa : Nat) : Nat :=
  if pa < 0x008000000000 then pa / 0x4000000000 / 4
  else if pa < 0x008400000000 then (pa - 0x008000000000) / 0x200000000
  else pa / 0x1000 % 2

/-- The bank of a line (R278, R282). -/
def bankOf (pa : Nat) : Nat :=
  if 0x008000000000 ≤ pa ∧ pa < 0x008400000000 then pa % 0x20000000 / 128 % 512
  else
    let l := pa / 128
    (bits l 8 0) ^^^ (bits l 17 9) ^^^ (bits l 26 18) ^^^ (bits l 35 27) ^^^ (bits l 44 36)

/-- The set of a line within its bank (R278, R282). -/
def setOf (pa : Nat) : Nat :=
  if 0x008000000000 ≤ pa ∧ pa < 0x008400000000 then pa % 0x20000000 / 128 / 512 else (pa / 128 / 512) % 3840

/-- Who makes an access: its partition, the cluster cache and the L1 it goes through, and whether the page is
device-strict (07 R264, R281). `free` accesses are not charged (15 R597). -/
structure Who where
  part : Option Nat := none
  ctx : Option Nat := none
  cl : Option Nat := none
  core : Option Nat := none
  strict : Bool := false
  free : Bool := false
  deriving DecidableEq, Repr

/-- Hints as codes (07 R287): 0 NONE, 1 STREAM, 2 KEEP, 3 LAST. -/
def Hint.code : Hint → Nat
  | .none => 0 | .stream => 1 | .keep => 2 | .last => 3

/-- The owner of Tank way w in the applied layout, and whether it is a store way (R280). -/
def State.wayOwner (s : State) (w : Nat) : Option (Nat × Bool) :=
  ((List.range 8).find? (fun p => (s.part p).lay.enabled && bit (s.part p).lay.ways w)).map
    (fun p => (p, bit (s.part p).lay.store w))

/-- The cache ways of a partition (R281). -/
def State.cacheWays (s : State) (p : Nat) : List Nat :=
  (bitList 16 (s.part p).lay.ways).filter (fun w => !bit (s.part p).lay.store w)

/-- Whether an access may use a store way (R282): its own partition's, or any when it carries no partition. -/
def State.storeWayOk (s : State) (w : Who) (way : Nat) : Bool :=
  match s.wayOwner way with
  | some (p, true) => (match w.part with | some q => decide (p = q) | none => true)
  | _ => false

/-! ### Tiers -/

/-- Bytes of device memory as performed (06 R216). -/
def State.rdBytes (s : State) (pa n : Nat) : List Byte := (List.range n).map (fun i => s.mem.getD (pa + i) 0)

/-- Write bytes of device memory. -/
def State.wrBytes (s : State) (pa : Nat) (bs : List Byte) : State :=
  { s with mem := (List.zip (List.range bs.length) bs).foldl (fun m e => m.set (pa + e.1) 0 e.2) s.mem }

/-- Whether a 32 B sector is poisoned (08 R336). -/
def State.poisoned (s : State) (sec : Nat) : Bool := s.ext.poison.getD sec false

/-- Mark or clear a sector's poison. -/
def State.setPoison (s : State) (sec : Nat) (b : Bool) : State :=
  { s with ext := { s.ext with poison := s.ext.poison.set sec false b } }

/-- Before a sector becomes dirty: keep what the tier holds of it, unless it is dirty already (07 R286, R291). -/
def State.keepTier (s : State) (sec : Nat) : State :=
  match s.ext.stale.getD sec none with
  | some _ => s
  | none => { s with ext := { s.ext with
      stale := s.ext.stale.set sec none (some { bytes := s.rdBytes (sec * 32) 32, poison := s.poisoned sec }) } }

/-- A sector's current value has reached the tier. -/
def State.clean (s : State) (sec : Nat) : State :=
  { s with ext := { s.ext with stale := s.ext.stale.set sec none none } }

/-- A dirty sector is discarded: memory holds what the tier last held (R291). -/
def State.dropDirty (s : State) (sec : Nat) : State :=
  match s.ext.stale.getD sec none with
  | none => s
  | some t => ((s.wrBytes (sec * 32) t.bytes).setPoison sec t.poison).clean sec

/-- The sectors of a line that a mask names. -/
def lineSecs (pa mask : Nat) : List Nat := (bitList 4 mask).map (fun i => pa / 128 * 4 + i)

/-- Count lines read from or written to a unit (R348, R349). -/
def State.countLine (s : State) (u : UnitId) (write : Bool) : State :=
  let o := if write then 0x68 else 0x60
  if u.kind = 0 then s.bump (mcR (u.num / 4) o) 1
  else if u.kind = 1 then s.bump (mcR (8 + u.num / 2) o) 1
  else s.bump (xlR u.num o) 1

/-- Depth of a partition's bucket for a tier, in bytes (08 R332, R350). -/
def State.bucketDepth (s : State) (p kind : Nat) : Nat := s.odGet (0x3200 + p) (2 * kind + 2) * 1024

/-- Charge a 128 B line operation to a partition's bucket (R332, R333). A bucket that runs out has made the operation
wait inside its command: its level stays at empty (timing, log 8). A rate of zero is no limit. -/
def State.charge (s : State) (w : Who) (kind : Nat) : State :=
  match w.part with
  | none => s
  | some p =>
    if w.free || s.odGet (0x3200 + p) (2 * kind + 1) = 0 then s
    else { s with ext := { s.ext with
      used := s.ext.used.upd (p * 4 + kind) 0 (fun v => Nat.min (v + 128) (s.bucketDepth p kind)) } }

/-- How a unit serves an access that needs it (R317, R315, R320). -/
inductive Serve where
  | ok | wait | offline | lost
  deriving DecidableEq, Repr

/-- R317's column for the unit's state. -/
def State.serves (s : State) (u : UnitId) : Serve :=
  let m := s.unit u
  match m.st with
  | .absent => .offline
  | .training => if m.toService then .wait else .offline
  | .inService => if u.kind = 2 ∧ !m.linkUp then .wait else .ok
  | .draining => if m.quiescing then .wait else if u.kind = 2 ∧ !m.linkUp then .wait else .ok
  | .quiesced => .offline
  | .testing => .offline
  | .failed => if u.kind = 2 then .lost else .offline

/-! ### Tank lines -/

/-- The Tank lines of the set of a line. -/
def State.tkSet (s : State) (pa : Nat) : List TkLine :=
  (s.die (homeDie pa)).tank.getD (bankOf pa * 3840 + setOf pa) []

/-- Replace the Tank lines of the set of a line. -/
def State.setTkSet (s : State) (pa : Nat) (l : List TkLine) : State :=
  s.modDie (homeDie pa) (fun d => { d with tank := d.tank.set (bankOf pa * 3840 + setOf pa) [] l })

/-- A line in the Tank. -/
def State.tkFind (s : State) (pa : Nat) : Option TkLine := (s.tkSet pa).find? (fun t => t.line = pa / 128)

/-- Change a line in the Tank where it stands. -/
def State.tkMod (s : State) (pa : Nat) (f : TkLine → TkLine) : State :=
  s.setTkSet pa (listMod (s.tkSet pa) (fun t => t.line = pa / 128) f)

/-- Make a line the most recently used of its set. -/
def State.tkTouch (s : State) (pa : Nat) : State :=
  match s.tkFind pa with
  | some t => s.setTkSet pa (t :: (s.tkSet pa).filter (fun x => x.line ≠ pa / 128))
  | none => s

/-- Remove a line from the Tank. -/
def State.tkDrop (s : State) (pa : Nat) : State := s.setTkSet pa ((s.tkSet pa).filter (fun x => x.line ≠ pa / 128))

/-- Write sectors back to the tier, or discard and count them where the unit is out of service (07 R284, 08 R324). -/
def State.writeBack (s : State) (w : Who) (pa mask : Nat) : State :=
  if mask = 0 then s
  else match (s.decode (pa / 128 * 128)).unit with
    | none => s.each (lineSecs pa mask) (fun t x => t.dropDirty x)
    | some u =>
      match s.serves u with
      | .ok => ((s.each (lineSecs pa mask) (fun t x => t.clean x)).countLine u true).charge w u.kind
      | .wait => ((s.each (lineSecs pa mask) (fun t x => t.clean x)).countLine u true).charge w u.kind
      | _ => (s.each (lineSecs pa mask) (fun t x => t.dropDirty x)).odBump 0x6180 0x0A 1

/-- Evict a Tank line: its dirty sectors go to the tier, charged to the owner of the way (R284, R333). -/
def State.tkEvict (s : State) (t : TkLine) : State :=
  (s.writeBack { part := (s.wayOwner t.way).map (·.1) } (t.line * 128) t.dirty).tkDrop (t.line * 128)

/-- Whether the home bank of a line is degraded (R296). -/
def State.degradedBank (s : State) (pa : Nat) : Bool := (s.die (homeDie pa)).degraded.contains (bankOf pa)

/-- The KEEP limit of a partition (R285, 0x3110 + p:01). -/
def State.keepLimit (s : State) (p : Nat) : Nat := s.odGet (0x3110 + p) 1

/-- Give a line of partition p its KEEP mark under R285. -/
def State.tkKeep (s : State) (p pa : Nat) : State :=
  let ways := s.cacheWays p
  let marked := (s.tkSet pa).filter (fun t => t.keep && ways.contains t.way && t.line ≠ pa / 128)
  let t :=
    if marked.length < s.keepLimit p then s
    else match marked.reverse with
      | v :: _ => s.setTkSet pa (listMod (s.tkSet pa) (fun x => x.line = v.line) (fun x => { x with keep := false }))
      | [] => s
  if s.keepLimit p = 0 then s else t.tkMod pa (fun x => { x with keep := true })

/-- Allocate a line into a cache way of a partition under R284; none when it has no cache way or the bank is degraded. -/
def State.tkAlloc (s : State) (w : Who) (pa : Nat) (l : TkLine) : Option State :=
  match w.part with
  | none => none
  | some p =>
    let ways := s.cacheWays p
    if ways = [] ∨ s.degradedBank pa then none
    else
      let set := s.tkSet pa
      match ways.find? (fun x => !(set.any (fun t => t.way = x))) with
      | some x => some (s.setTkSet pa ({ l with way := x } :: set))
      | none =>
        let mine := (set.filter (fun t => ways.contains t.way)).reverse
        match (mine.filter (fun t => !t.keep) ++ mine.filter (fun t => t.keep)) with
        | v :: _ =>
          let t := s.tkEvict v
          some (t.setTkSet pa ({ l with way := v.way } :: t.tkSet pa))
        | [] => none

/-! ### Cluster caches and the directory -/

/-- Lines of a cluster cache, most recently used first. -/
def State.ccLines (s : State) (cl : Nat) : List CcLine := s.ext.cc.getD cl []

/-- Replace the lines of a cluster cache. -/
def State.setCc (s : State) (cl : Nat) (l : List CcLine) : State :=
  { s with ext := { s.ext with cc := s.ext.cc.set cl [] l } }

/-- A line in a cluster cache. -/
def State.ccFind (s : State) (cl pa : Nat) : Option CcLine := (s.ccLines cl).find? (fun x => x.line = pa / 128)

/-- Directory key of a line's set: bank and 256 sets (R273; the set's index bits are PRESUMED, log 16). -/
def dirKey (pa : Nat) : Nat := bankOf pa * 256 + pa / 128 / 512 % 256

/-- The directory entries of a line's set, most recently used first. -/
def State.dirSet (s : State) (pa : Nat) : List DirEnt := (s.die (homeDie pa)).dir.getD (dirKey pa) []

/-- Replace the directory entries of a line's set. -/
def State.setDirSet (s : State) (pa : Nat) (l : List DirEnt) : State :=
  s.modDie (homeDie pa) (fun d => { d with dir := d.dir.set (dirKey pa) [] l })

/-- The L1s of a cluster drop a line (R269), but for one core's. -/
def State.dropL1 (s : State) (cl pa : Nat) (but : Option Nat) : State :=
  s.each (clSlots cl) (fun t c =>
    if some c = but then t
    else if (t.core c).l1.contains (pa / 128) then t.modCore c (fun x => { x with l1 := x.l1.filter (· ≠ pa / 128) }) else t)

/-- A cluster cache loses a line: no data moves, the L1s drop it, the directory forgets the cluster. -/
def State.ccForget (s : State) (cl pa : Nat) : State :=
  let t := (s.setCc cl ((s.ccLines cl).filter (fun x => x.line ≠ pa / 128))).dropL1 cl pa none
  t.setDirSet pa (((t.dirSet pa).map (fun e =>
    if e.line = pa / 128 then { e with sharers := e.sharers &&& (0xFFFF - 2 ^ cl), owner := if e.owner = some cl then none else e.owner } else e)).filter
    (fun e => e.sharers ≠ 0 || e.owner ≠ none))

/-- Dirty sectors reach the line's Tank bank from an eviction or a recall (R286): merged where the line stands, else
allocated, else written to the tier. -/
def State.tkTakeDirty (s : State) (w : Who) (pa mask : Nat) (noalloc : Bool) : State :=
  if mask = 0 then s
  else match s.tkFind pa with
    | some _ => s.tkMod pa (fun t => { t with valid := t.valid ||| mask, dirty := t.dirty ||| mask })
    | none =>
      if 0x008000000000 ≤ pa ∧ pa < 0x008400000000 then s.each (lineSecs pa mask) (fun t x => t.clean x)
      else if noalloc then s.writeBack w pa mask
      else match s.tkAlloc w pa { line := pa / 128, way := 0, valid := mask, dirty := mask } with
        | some t => t
        | none => s.writeBack w pa mask

/-- Take a line away from a cluster cache, its dirty sectors going into the Tank (R273). -/
def State.ccRecall (s : State) (cl pa : Nat) : State :=
  match s.ccFind cl pa with
  | none => s
  | some l => (s.tkTakeDirty { part := l.part } pa l.dirty l.noalloc).ccForget cl pa

/-- Offer a clean evicted line to its home bank (R286): taken into an invalid way or over a clean line with no KEEP mark;
otherwise declined and counted. -/
def State.tkOfferClean (s : State) (w : Who) (pa : Nat) (l : CcLine) : State :=
  match s.tkFind pa with
  | some _ => s.tkTouch pa
  | none =>
    if 0x008000000000 ≤ pa ∧ pa < 0x008400000000 then s
    else
      let decline := s.bump (tkR (homeDie pa) 0x90) 1
      match w.part with
      | none => decline
      | some p =>
        let ways := s.cacheWays p
        let set := s.tkSet pa
        if ways = [] ∨ l.noalloc ∨ s.degradedBank pa then decline
        else match ways.find? (fun x => !(set.any (fun t => t.way = x))) with
          | some x => s.setTkSet pa ({ line := pa / 128, way := x, valid := l.valid, dirty := 0 } :: set)
          | none =>
            match ((set.filter (fun t => ways.contains t.way && t.dirty = 0 && !t.keep)).reverse) with
            | v :: _ => s.setTkSet pa ({ line := pa / 128, way := v.way, valid := l.valid, dirty := 0 }
                          :: set.filter (fun t => t.line ≠ v.line))
            | [] => decline

/-- A cluster cache evicts a line (R274): dirty sectors are taken by the bank, a clean line is offered. -/
def State.ccEvict (s : State) (cl pa : Nat) : State :=
  match s.ccFind cl pa with
  | none => s
  | some l =>
    let w : Who := { part := l.part }
    let t := if l.dirty ≠ 0 then (s.tkTakeDirty w pa l.dirty l.noalloc).bump (ccR cl 0x60) 1 else s.tkOfferClean w pa l
    t.ccForget cl pa

/-- Enter a line into the directory: a full set recalls its least recently used entry (R273). -/
def State.dirEnter (s : State) (pa : Nat) (f : DirEnt → DirEnt) : State :=
  let set := s.dirSet pa
  match set.find? (fun e => e.line = pa / 128) with
  | some e => s.setDirSet pa (f e :: set.filter (fun x => x.line ≠ pa / 128))
  | none =>
    let t :=
      if set.length < 16 then s
      else match set.reverse with
        | v :: _ => ((List.range 16).foldl (fun t c => t.ccRecall c (v.line * 128)) s).bump (tkR (homeDie pa) 0xA0) 1
        | [] => s
    t.setDirSet pa (f { line := pa / 128 } :: (t.dirSet pa))

/-- Ways of a cluster cache that are powered and take allocations (R276). -/
def State.ccWays (s : State) (cl : Nat) : List Nat :=
  (bitList 16 (s.rf (ccR cl 0x14) 15 0)).filter (fun w => !bit (s.reg (ccR cl 0x14)) (16 + w))

/-- The set of a line in a cluster cache (8,192 sets, R263; the index bits are PRESUMED, log 16). -/
def ccSetOf (pa : Nat) : Nat := pa / 128 % 8192

/-- Put a line into a cluster cache, evicting the least recently used line of the set among the allocating ways when
none is free. A line filled under STREAM goes to the least recently used place (R289). -/
def State.ccInsert (s : State) (cl pa : Nat) (l : CcLine) : State :=
  let ways := s.ccWays cl
  let set := (s.ccLines cl).filter (fun x => ccSetOf (x.line * 128) = ccSetOf pa)
  let place (t : State) (x : Nat) : State :=
    if l.noalloc then t.setCc cl (t.ccLines cl ++ [{ l with way := x }]) else t.setCc cl ({ l with way := x } :: t.ccLines cl)
  match ways.find? (fun x => !(set.any (fun y => y.way = x))) with
  | some x => place s x
  | none =>
    match (set.filter (fun y => ways.contains y.way)).reverse with
    | v :: _ => place (s.ccEvict cl (v.line * 128)) v.way
    | [] => s

/-! ### Fills and mirrors -/

/-- The mirror entry whose primary range holds a line, with the line's place in the mirror range. -/
def State.mirrorOf (s : State) (pa : Nat) : Option (Mirror × Nat) :=
  (s.ext.mirrors.find? (fun e => e.2.st ≠ 0 && e.2.primary ≤ pa && pa < e.2.primary + e.2.len)).map
    (fun e => (e.2, e.2.mirror + (pa - e.2.primary)))

/-- The move-table entry that has copied a source line, with the line's destination (08 R328, R329). -/
def State.forwardOf (s : State) (pa : Nat) : Option Nat :=
  (s.ext.moves.find? (fun e => e.2.st ≠ 0 && e.2.src ≤ pa / 128 * 128 && pa < e.2.src + e.2.lines * 128)).map
    (fun e => e.2.dst + (pa - e.2.src))

/-- The address that serves a line: a copied source line at its destination, a primary that is SINGLE on its mirror
there (R328, R345). -/
def State.route (s : State) (pa : Nat) : Nat :=
  match s.forwardOf pa with
  | some d => d
  | none =>
    match s.mirrorOf pa with
    | some (m, d) => if m.st = 3 then d else pa
    | none => pa

/-- List a poisoned line in quarantine (08 R339). -/
def State.quarantineAdd (s : State) (line : Nat) : State :=
  if s.ext.quarantine.contains line ∨ 4096 ≤ s.ext.quarantine.length then s
  else
    let t := { s with ext := { s.ext with quarantine := s.ext.quarantine ++ [line] } }
    t.odSet 0x3502 1 t.ext.quarantine.length

/-- A fill of a line from its tier: the read is counted and charged; a poisoned sector is recovered from the mirror where
the mirror's sector is good, else the line is quarantined (R339, R344). -/
def State.fillFrom (s : State) (w : Who) (pa : Nat) : State :=
  let line := pa / 128
  match (s.decode (line * 128)).unit with
  | none => s
  | some u =>
    let t := (s.countLine u false).charge w u.kind
    let bad := (lineSecs pa 15).filter (fun x => t.poisoned x && (t.ext.stale.getD x none).isNone)
    if bad = [] then t
    else
      match t.mirrorOf (line * 128) with
      | some (m, d) =>
        if m.st = 1 ∧ bad.all (fun x => !t.poisoned (d / 32 + x % 4)) then
          ((t.each bad (fun t x => (t.wrBytes (x * 32) (t.rdBytes ((d / 32 + x % 4) * 32) 32)).setPoison x false)).odBump 0x6180 6 1)
        else t.quarantineAdd line
      | none => t.quarantineAdd line

/-! ### Accesses at the home bank and above -/

/-- Whether the bank treats every access as STREAM (R281, R296). -/
def State.asStream (s : State) (w : Who) (pa : Nat) : Bool :=
  (match w.part with | some p => (s.cacheWays p).isEmpty | none => true) || s.degradedBank pa

/-- A read of a line at its home bank (07 R288). -/
def State.tkRead (s : State) (w : Who) (h pa : Nat) : State :=
  let d := homeDie pa
  if 0x008000000000 ≤ pa ∧ pa < 0x008400000000 then s.bump (tkR d 0x80) 1
  else if w.strict then s.fillFrom w pa
  else
    let h := if s.asStream w pa then 1 else h
    match s.tkFind pa with
    | some t =>
      let s := if t.valid = 15 then s.bump (tkR d 0x80) 1
               else ((s.bump (tkR d 0x88) 1).fillFrom w pa).tkMod pa (fun x => { x with valid := 15 })
      if h = 1 then s
      else
        let s := s.tkTouch pa
        if h = 2 then (match w.part with | some p => s.tkKeep p pa | none => s) else s
    | none =>
      let s := (s.bump (tkR d 0x88) 1).fillFrom w pa
      if h = 1 then s
      else match s.tkAlloc w pa { line := pa / 128, way := 0, valid := 15, dirty := 0 } with
        | some t => if h = 2 then (match w.part with | some p => t.tkKeep p pa | none => t) else t
        | none => s

/-- A LAST read (07 R290): dirty sectors are recalled, every copy dropped and the dirty data discarded. The data returned
is read before this by the caller. -/
def State.lastDrop (s : State) (pa : Nat) : State :=
  let t := (List.range 16).foldl (fun t c => (t.ccForget c pa)) s
  let t := t.tkDrop pa
  (t.each (lineSecs pa 15) (fun t x => t.dropDirty x)).bump (tkR (homeDie pa) 0x98) 1

/-- A read of a line by an engine through its L1 and cluster cache (R265, R268, R271, R289). -/
def State.lineRead (s : State) (w : Who) (h pa : Nat) : State :=
  if w.strict then s.tkRead w 1 pa
  else match w.cl with
    | none =>
      let t := (List.range 16).foldl (fun t c => match t.ccFind c pa with
        | some l => if l.dirty ≠ 0 then t.ccRecall c pa else t
        | none => t) s
      t.tkRead w h pa
    | some cl =>
      let inL1 := match w.core with | some c => (s.core c).l1.contains (pa / 128) | none => false
      if inL1 then s
      else
        let s := match s.ccFind cl pa with
          | some l =>
            if l.valid = 15 then
              (s.bump (ccR cl 0x50) 1).setCc cl (if h = 1 then s.ccLines cl else l :: (s.ccLines cl).filter (fun x => x.line ≠ pa / 128))
            else
              let t := (s.bump (ccR cl 0x58) 1).tkRead w h pa
              t.setCc cl (listMod (t.ccLines cl) (fun x => x.line = pa / 128) (fun x => { x with valid := 15 }))
          | none =>
            let t := s.bump (ccR cl 0x58) 1
            let t := (List.range 16).foldl (fun t c => match t.ccFind c pa with
              | some l => if l.excl then t.ccRecall c pa else t
              | none => t) t
            let t := t.tkRead w h pa
            let t := t.ccInsert cl pa { line := pa / 128, way := 0, excl := false, valid := 15, dirty := 0, noalloc := h = 1, part := w.part }
            t.dirEnter pa (fun e => { e with sharers := e.sharers ||| 2 ^ cl })
        match w.core with
        | none => s
        | some c =>
          let lines := (1024 * 1024 - s.lmemOf c) / 128
          let sets := lines / 4
          s.modCore c (fun x =>
            let same := x.l1.filter (fun y => y % sets = pa / 128 % sets)
            let l := if same.length < 4 then x.l1 else x.l1.filter (fun y => some y ≠ same.getLast?)
            { x with l1 := if h = 1 then l ++ [pa / 128] else (pa / 128) :: l })

/-- A write of a line's sectors at its home bank: dirty in a cache way, or written to the tier (R288, 06 R238, 08 R343).
`any` names the sectors written, `full` those written whole. Called before the bytes change. -/
def State.tkWrite (s : State) (w : Who) (h pa any full : Nat) : State :=
  let d := homeDie pa
  let secs := lineSecs pa any
  if 0x008000000000 ≤ pa ∧ pa < 0x008400000000 then s.bump (tkR d 0x80) 1
  else
    let region := s.decode (pa / 128 * 128)
    let through : Bool := (match region with | .cxl _ => true | _ => false) || (match s.mirrorOf pa with | some _ => true | none => false) || w.strict
    let h := if s.asStream w pa then 1 else h
    let toTier (t : State) : State :=
      match region.unit with
      | some u =>
        let t := ((t.each secs (fun t x => t.clean x)).countLine u true).charge w u.kind
        if u.kind = 2 then t.modUnit u (fun m => { m with unacked := m.unacked + 1 }) else t
      | none => t
    match s.tkFind pa with
    | some _ =>
      let t := if h = 1 then s else s.tkTouch pa
      let t := if h = 2 then (match w.part with | some p => t.tkKeep p pa | none => t) else t
      let t := if decide (any ≠ full) && (match t.tkFind pa with | some x => x.valid ||| full != 15 | none => false)
               then (t.fillFrom w pa).tkMod pa (fun x => { x with valid := 15 }) else t
      if through then toTier (t.tkMod pa (fun x => { x with valid := x.valid ||| any }))
      else (t.each secs (fun t x => t.keepTier x)).tkMod pa (fun x => { x with valid := x.valid ||| any, dirty := x.dirty ||| any })
    | none =>
      let part := decide (any ≠ full)
      let s := if part then s.fillFrom w pa else s
      if h = 1 ∨ w.strict then toTier s
      else match s.tkAlloc w pa { line := pa / 128, way := 0, valid := if part then 15 else full, dirty := 0 } with
        | none => toTier s
        | some t =>
          let t := if h = 2 then (match w.part with | some p => t.tkKeep p pa | none => t) else t
          if through then toTier t
          else (t.each secs (fun t x => t.keepTier x)).tkMod pa (fun x => { x with dirty := any })

/-- Every copy of a line in cluster caches other than `but` is invalidated, dirty sectors going into the Tank (R221, R271). -/
def State.invalidateCopies (s : State) (pa : Nat) (but : Option Nat) : State :=
  (List.range 16).foldl (fun t c => if some c = but then t else match t.ccFind c pa with
    | some _ => t.ccRecall c pa
    | none => t) s

/-- A write performed at the home bank (06 R224): all other copies are invalidated first. -/
def State.bankWrite (s : State) (w : Who) (h pa any full : Nat) : State :=
  (s.invalidateCopies pa none).tkWrite w h pa any full

/-- A write performed in a cluster cache that holds the line exclusive (06 R221, 07 R271). CXL lines, primaries of
mirrored objects and device-strict pages are written at the bank (06 R238, 08 R343, 07 R264). -/
def State.ownedWrite (s : State) (w : Who) (cl h pa any full : Nat) : State :=
  let region := s.decode (pa / 128 * 128)
  let atBank : Bool := (match region with | .cxl _ => true | _ => false) || (match s.mirrorOf pa with | some _ => true | none => false) || w.strict
  if atBank then s.bankWrite w h pa any full
  else
    let s := s.invalidateCopies pa (some cl)
    let s := s.dropL1 cl pa w.core
    let tank := s.tkFind pa
    let old := s.ccFind cl pa
    let have_ := (match old with | some l => l.valid | none => 0) ||| (match tank with | some t => t.valid | none => 0)
    let part := decide (any ≠ full) && decide (have_ ||| full ≠ 15)
    let s := if part then s.fillFrom w pa else s
    let dirty := any ||| (match old with | some l => l.dirty | none => 0) ||| (match tank with | some t => t.dirty | none => 0)
    let valid := if part then 15 else have_ ||| any
    let s := s.tkDrop pa
    let s := s.each (lineSecs pa any) (fun t x => t.keepTier x)
    let noalloc := (match old with | some l => l.noalloc | none => decide (h = 1))
    let l : CcLine := { line := pa / 128, way := (match old with | some l => l.way | none => 0), excl := true,
                        valid := valid, dirty := dirty, noalloc := noalloc, part := w.part }
    let s := match old with
      | some _ => s.setCc cl (l :: (s.ccLines cl).filter (fun x => x.line ≠ pa / 128))
      | none => s.ccInsert cl pa l
    s.dirEnter pa (fun e => { e with sharers := 0, owner := some cl })

/-! ### Reads and writes of bytes -/

/-- What an access met. -/
structure MemRes where
  st : State
  data : List Byte := []
  poison : List Nat := []
  vas : List (Nat × Nat) := []
  undec : Option Nat := none
  status : Option Nat := none
  wait : Bool := false

/-- The pieces of a range within 128 B lines: address and length (01 R45, 06 R244). -/
def linePieces (fuel pa n : Nat) : List (Nat × Nat) :=
  match fuel with
  | 0 => []
  | f + 1 => if n = 0 then [] else
      let k := Nat.min n (128 - pa % 128)
      (pa, k) :: linePieces f (pa + k) (n - k)

/-- Pieces of a range; every access spans fewer lines than its bytes plus two. -/
def pieces (pa n : Nat) : List (Nat × Nat) := linePieces (n / 128 + 2) pa n

/-- Sectors that a piece touches, and those it covers whole, as masks within the line. -/
def pieceMasks (pa n : Nat) : Nat × Nat :=
  let o := pa % 128
  let any := (List.range 4).filter (fun i => o < i * 32 + 32 && i * 32 < o + n)
  let full := (List.range 4).filter (fun i => o ≤ i * 32 && i * 32 + 32 ≤ o + n)
  (ofBitList any, ofBitList full)

/-- Whether a line can be served now: none when it waits (R317); else ok, undecoded, or the status it completes with.
Lines present in the Tank or a cluster cache are served though their unit has failed (R324). -/
inductive LineServe where
  | ok | undec | wait | err (status : Nat)
  deriving DecidableEq, Repr

/-- Whether a line's home bank is being moved to a spare, and no cluster cache holds the line: accesses wait (07 R295). -/
def State.bankMoving (s : State) (pa : Nat) : Bool :=
  (match (s.die (homeDie pa)).move with | some m => decide (m.bank = bankOf pa) | none => false)
    && !(List.range 16).any (fun c => (s.ccFind c pa).isSome)

/-- How a line is served to `w` (01 R45, 07 R282, R295, 08 R317, R324). -/
def State.lineServe (s : State) (w : Who) (write : Bool) (pa : Nat) : LineServe :=
  match s.decode pa with
  | .none => .undec
  | .reg _ => .undec
  | .window _ _ => .ok
  | .tank _ way => if !s.storeWayOk w way then .undec else if s.bankMoving pa then .wait else .ok
  | r =>
    match r.unit with
    | none => .undec
    | some u =>
      if s.bankMoving pa then .wait
      else match s.serves u with
      | .ok => .ok
      | .wait =>
        if (s.unit u).quiescing then .wait
        else if !write && ((s.tkFind pa).isSome || (List.range 16).any (fun c => (s.ccFind c pa).isSome)) then .ok else .wait
      | .offline =>
        if (s.unit u).st = .failed && ((s.tkFind pa).isSome || (List.range 16).any (fun c => (s.ccFind c pa).isSome)) then .ok
        else .err stUnitOffline
      | .lost =>
        if (s.tkFind pa).isSome || (List.range 16).any (fun c => (s.ccFind c pa).isSome) then .ok else .err stDeviceLost

/-- Read one piece. A line out of service reads as poison; a degraded bank's store-way lines too (R296). -/
def State.readPiece (w : Who) (h : Nat) (r : MemRes) (pc : Nat × Nat) : MemRes :=
  let pa := r.st.route pc.1
  let n := pc.2
  let secs := lineSecs pa (pieceMasks pa n).1
  match r.st.lineServe w false pa with
  | .wait => { r with wait := true }
  | .undec => { r with data := r.data ++ List.replicate n 0, undec := r.undec.orElse (fun _ => some pc.1) }
  | .err c => { r with data := r.data ++ List.replicate n 0, poison := r.poison ++ secs,
                       status := some (combineStatus (r.status.getD 0) c) }
  | .ok =>
    match r.st.decode pa with
    | .window _ _ => { r with data := r.data ++ r.st.rdBytes pa n, poison := r.poison ++ secs.filter (fun x => r.st.poisoned x) }
    | .tank _ _ =>
      if r.st.degradedBank pa then { r with data := r.data ++ List.replicate n 0, poison := r.poison ++ secs }
      else
        let t := r.st.lineRead w (if h = 3 then 0 else h) pa
        { r with st := t, data := r.data ++ t.rdBytes pa n, poison := r.poison ++ secs.filter (fun x => t.poisoned x) }
    | _ =>
      let last := decide (h = 3) && !w.strict
      let t := if last then { r.st with ext := r.st.ext } else r.st.lineRead w h pa
      let t := if last && (t.tkFind pa).isNone && !((List.range 16).any (fun c => (t.ccFind c pa).isSome)) then t.fillFrom w pa else t
      let d := t.rdBytes pa n
      let bad := secs.filter (fun x => t.poisoned x)
      { r with st := if last then t.lastDrop pa else t, data := r.data ++ d, poison := r.poison ++ bad }

/-- Read bytes of device memory at a physical address. When a piece waits, nothing of the access is done. -/
def State.readMem (s : State) (w : Who) (h pa n : Nat) : MemRes :=
  let r := (pieces pa n).foldl (State.readPiece w h) { st := s }
  if r.wait then { st := s, wait := true } else r

/-- Set or clear poison over a write: a sector written whole takes `p`, one written in part keeps its own, or takes
poison with the data (R336). -/
def State.poisonWrite (s : State) (pa any full : Nat) (p : Bool) : State :=
  let s := s.each (lineSecs pa full) (fun t x => t.setPoison x p)
  if p then s.each (lineSecs pa any) (fun t x => t.setPoison x true) else s

/-- A quarantined line leaves the list when its four sectors have been written whole (R339). -/
def State.quarantineWrite (s : State) (pa full : Nat) : State :=
  let line := pa / 128
  if s.ext.quarantine.contains line then
    let m := (s.ext.qwritten.getD line 0) ||| full
    if m = 15 then
      let t := { s with ext := { s.ext with quarantine := s.ext.quarantine.filter (· ≠ line), qwritten := s.ext.qwritten.set line 0 0 } }
      t.odSet 0x3502 1 t.ext.quarantine.length
    else { s with ext := { s.ext with qwritten := s.ext.qwritten.set line 0 m } }
  else s

/-- The bytes of a paired mirror line follow the primary's (R343). -/
def State.mirrorWrite (s : State) (pa : Nat) : State :=
  match s.mirrorOf pa with
  | some (m, d) =>
    if m.st = 1 then
      let t := s.wrBytes (d / 128 * 128) (s.rdBytes (pa / 128 * 128) 128)
      let t := t.each (List.range 4) (fun t i => t.setPoison (d / 128 * 4 + i) (t.poisoned (pa / 128 * 4 + i)))
      match (t.decode d).unit with | some u => t.countLine u true | none => t
    else s
  | none => s

/-- Where a write is performed: at the home bank (R224), or in the cluster cache of an owner (R221). -/
inductive WriteAt where
  | bank
  | owner (cl : Nat)
  deriving DecidableEq, Repr

/-- Write one piece. -/
def State.writePiece (w : Who) (h : Nat) (at_ : WriteAt) (p : Bool) (r : MemRes) (pc : Nat × Nat) : MemRes :=
  let pa := r.st.route pc.1
  let n := pc.2
  let bs := r.data.take n
  let rest := r.data.drop n
  let (any, full) := pieceMasks pa n
  match r.st.lineServe w true pa with
  | .wait => { r with wait := true }
  | .undec => { r with data := rest, undec := r.undec.orElse (fun _ => some pc.1) }
  | .err c => { r with data := rest, status := some (combineStatus (r.status.getD 0) c) }
  | .ok =>
    match r.st.decode pa with
    | .window _ _ => { r with st := (r.st.wrBytes pa bs).poisonWrite pa any full p, data := rest }
    | .tank _ _ =>
      if r.st.degradedBank pa then { r with data := rest }
      else
        let t := match at_ with
          | .bank => r.st.bankWrite w h pa any full
          | .owner cl => r.st.ownedWrite w cl h pa any full
        { r with st := (t.wrBytes pa bs).poisonWrite pa any full p, data := rest }
    | _ =>
      let t := match at_ with
        | .bank => r.st.bankWrite w h pa any full
        | .owner cl => r.st.ownedWrite w cl h pa any full
      let t := ((t.wrBytes pa bs).poisonWrite pa any full p).quarantineWrite pa full
      { r with st := t.mirrorWrite pa, data := rest }

/-- Write bytes of device memory at a physical address; `p` carries poison. When a piece waits, nothing is done. -/
def State.writeMem (s : State) (w : Who) (h : Nat) (at_ : WriteAt) (pa : Nat) (bs : List Byte) (p : Bool) : MemRes :=
  let r := (pieces pa bs.length).foldl (State.writePiece w h at_ p) { st := s, data := bs }
  if r.wait then { st := s, wait := true } else r

/-! ### Host memory (06 R237, 11 R437) -/

/-- Whether device reads of a host address fail (11 R437). -/
def State.hostBad (s : State) (a n : Nat) : Bool := s.hostFail.any (fun x => x < a + n && a < x + 4096)

/-- Read host memory; `none` is a failed read, delivered as poison and logged (R437). -/
def State.hostRead (s : State) (a n : Nat) : Option (List Byte) :=
  if s.hostBad a n then none else some ((List.range n).map (fun i => s.hostMem.getD (a + i) 0))

/-- Count and log a failed device read of host memory (R437). -/
def State.hostReadFailed (s : State) : State := (s.aer .completionTimeout).odBump 0x61B0 5 1

/-- Write host memory (06 R237). -/
def State.hostWrite (s : State) (a : Nat) (bs : List Byte) : State :=
  { s with hostMem := (List.zip (List.range bs.length) bs).foldl (fun m e => m.set (a + e.1) 0 e.2) s.hostMem }

/-! ### The device's own structures (08 R700) -/

/-- An access of the front end, firmware or an engine of the hub to a structure of its own. -/
def ownAccess : Who := {}

/-- Write a structure of the device's own; a unit out of service loses the write, which is counted (R700). -/
def State.ownWrite (s : State) (pa : Nat) (bs : List Byte) : State :=
  let r := s.writeMem ownAccess 0 .bank pa bs false
  match r.status with
  | some _ => r.st.odBump 0x6180 0x0B 1
  | none => r.st

/-- Read a structure of the device's own: bytes, and the status that its unit gives. -/
def State.ownRead (s : State) (pa n : Nat) : List Byte × Option Nat × State :=
  let r := s.readMem ownAccess 0 pa n
  (r.data, (match r.status with | some c => some c | none => if r.poison ≠ [] then some stPoison else none), r.st)

/-- The lowest channel set of a partition, and its system area (13 R493). -/
def State.sysArea (s : State) (p : Nat) : Nat :=
  match (bitList 32 (s.part p).lay.sets) with
  | 0 :: _ => 0x40000000
  | n :: _ => hbmBase n
  | [] => 0

/-- The slot area of a partition (13 R493, 04 R162). -/
def State.slotArea (s : State) (p : Nat) : Nat := s.sysArea p

/-- The save area of a partition (13 R493). -/
def State.saveArea (s : State) (p : Nat) : Nat := s.sysArea p + 0x200000

end Sys2Proof.Machine
end

