-- ==== Sys2Proof/Machine/ObsOps.lean ====
section
/-! DEFINITION. Recording: core counters and reel records (17_observation.md R650, R651, R655 to R658). -/

namespace Sys2Proof.Machine

/-- Offset of a register of a core in its cluster's DB_ page (R670). -/
def dbCore (slot o : Nat) : Nat := dbR (1 + slotCl slot) (0x1000 + 0x100 * (slot % 16) + o)

/-- An event of a core's counters happened `n` times (R650, R651). Counters 4 to 7 obey FREEZE and FILTER. -/
def State.coreEvent (s : State) (slot code n : Nat) : State :=
  let s := if code = 1 then s.bump (dbCore slot 0x80) n else if code = 2 then s.bump (dbCore slot 0x88) n else s
  let ctl := s.reg (dbCore slot 0)
  let ctx := ((s.core slot).ctx).getD 1024
  s.each (List.range 8) (fun t k =>
    let on : Bool := decide (k < 4) || (!bit ctl 31 && (!bit ctl 30 || decide (bits ctl 9 0 = ctx)))
    if on && decide (t.rf (dbCore slot (0x10 + 4 * k)) 7 0 = code) && decide (code ≠ 0) then t.bump (dbCore slot (0x40 + 8 * k)) n else t)

/-- The records that half a reel holds: 32 KiB of a cluster's, 128 KiB of the hub's (R655). -/
def reelHalf (unit : Nat) : Nat := if unit = 0 then 4096 else 1024

/-- Change a reel. -/
def State.modReel (s : State) (unit : Nat) (f : Reel → Reel) : State :=
  { s with obs := { s.obs with reels := s.obs.reels.upd unit {} f } }

/-- A reel: 0 the hub's, 1 + c cluster c's. -/
def State.reelOf (s : State) (unit : Nat) : Reel := s.obs.reels.getD unit {}

/-- Move a full half, or one that a flush asks for, to drain where the other half is free (R655, R656). -/
def Reel.turn (r : Reel) (cap : Nat) : Reel :=
  if r.waiting = none ∧ (cap ≤ r.fill.length ∨ r.flush) then { fill := [], waiting := if r.fill = [] then none else some r.fill } else r

/-- Record an event in a reel whose class bit and filter let it in; a record that finds both halves full is lost
(R656 to R658). -/
def State.reel (s : State) (unit cls ty src ctx a b c : Nat) : State :=
  let ctl := s.reg (dbR unit 0x100)
  if !bit ctl 31 || !bit ctl cls || (bit ctl 29 && decide (bits ctl 25 16 ≠ ctx)) then s
  else
    let r := s.reelOf unit
    if reelHalf unit ≤ r.fill.length then (s.bump (dbR unit 0x118) 1).odBump 0x6210 3 1
    else
      let rec_ : List W64 := [BitVec.ofNat 64 s.now, BitVec.ofNat 64 (a * 2 ^ 32 + ty * 2 ^ 24 + src * 2 ^ 16 + ctx), BitVec.ofNat 64 b, BitVec.ofNat 64 c]
      s.modReel unit (fun r => Reel.turn { r with fill := r.fill ++ [rec_] } (reelHalf unit))

/-- A record of a cluster's reel. -/
def State.reelCl (s : State) (cl cls ty ctx a b c : Nat) : State := s.reel (1 + cl) cls ty cl ctx a b c

end Sys2Proof.Machine
end

