-- ==== Sys2Proof/Machine/Xlat.lean ====
section
/-! DEFINITION. Translation (09_address_translation.md): the two-stage walk, the translation caches, faults and their
records, and invalidation. -/

namespace Sys2Proof.Machine

/-- Access kinds of a fault record (R377). -/
def accRead : Nat := 0
/-- A write. -/
def accWrite : Nat := 1
/-- An atomic. -/
def accAtomic : Nat := 2
/-- A fetch. -/
def accFetch : Nat := 3

/-- The status of a fault cause (R370). -/
def causeStatus (c : Nat) : Nat :=
  if c = 0x72 ∨ c = 0x76 then stRights else if c = 0x77 ∨ c = 0x79 then stPoison else stXlate

/-- Lowest address bit that a level indexes (R355). -/
def lvlShift (lvl : Nat) : Nat := if lvl = 0 then 16 else 21 + 9 * (lvl - 1)

/-- Index into the table of a level (R355). -/
def lvlIndex (lvl a : Nat) : Nat := if lvl = 0 then bits a 20 16 else bits a (lvlShift lvl + 8) (lvlShift lvl)

/-- Bytes of a table of a level (R355). -/
def tblBytes (lvl : Nat) : Nat := if lvl = 0 then 256 else 4096

/-- Whether a valid entry is malformed (R357). -/
def badEntry (stage lvl e : Nat) : Bool :=
  let table := bit e 1
  let addr := (bits e 56 8) * 256
  let host := bit e 61
  (bits e 7 2 != 0)
    || (!table && decide (3 ≤ lvl)) || (table && decide (lvl = 0))
    || (table && (bits e 63 57 != 0))
    || (!table && ((stage = 2 && host) || (stage = 1 && bit e 60)))
    || (if table then addr % tblBytes (lvl - 1) != 0 else addr % 2 ^ lvlShift lvl != 0)
    || (!(host && !table) && decide (2 ^ 52 ≤ addr))

/-- What a walk met: its state and result; `wait` when a table's unit makes the walk wait. -/
structure WalkRes (α : Type) where
  st : State
  out : Except XFault α
  wait : Bool := false

/-- The table region of a partition (R362): base and size. -/
def State.tblRegion (s : State) (p : Nat) : Nat × Nat :=
  ((s.rf (ttP p 0x08) 51 21) * 0x200000, (s.rf (ttP p 0x08) 15 0) * 0x200000)

/-- Whether a table lies in the partition's region (R362). -/
def State.tblOk (s : State) (p pa bytes : Nat) : Bool :=
  let (b, n) := s.tblRegion p
  decide (b ≤ pa) && decide (pa + bytes ≤ b + n)

/-- Read a table entry through its home bank (R363, R364): poisoned sectors are served and repaired from the host mirror. -/
def State.readEntry (s : State) (p pa : Nat) (f : XFault) : WalkRes Nat :=
  let r := s.readMem { part := some p } 0 pa 8
  let t := r.st.bump (ttR 0x48) 1
  if r.wait then { st := s, out := .ok 0, wait := true }
  else if r.undec.isSome then { st := t, out := .error { f with cause := 0x74 } }
  else if r.poison = [] then { st := t, out := .ok (leNat r.data) }
  else
    let line := pa / 128 * 128
    let mirror := (t.rf (ttP p 0x10) 56 21) * 0x200000 + (line - (t.tblRegion p).1)
    match t.hostRead mirror 128 with
    | none => { st := t.hostReadFailed, out := .error { f with cause := 0x77 } }
    | some bs =>
      let bad := (lineSecs line 15).filter (fun x => t.poisoned x)
      let t := t.each bad (fun t x => (t.writeMem { part := some p } 0 .bank (x * 32) (slice bs (x % 4 * 32) 32) false).st)
      let t := (t.bump (ttR 0x50) 1).odBump 0x6190 4 1
      { st := t, out := .ok (leNat (slice bs (pa % 128) 8)) }

/-- A walk-cache entry for a level (R365). -/
def State.wcFind (s : State) (stage owner lvl a : Nat) : Option WcEnt :=
  s.xl.walkCache.find? (fun e => e.stage = stage && e.owner = owner && e.level = lvl && e.addr = a / 2 ^ lvlShift lvl)

/-- Enter a walk-cache entry; 4,096 entries, least recently used first out (R365). -/
def State.wcPut (s : State) (e : WcEnt) : State :=
  { s with xl := { s.xl with walkCache := (e :: s.xl.walkCache).take 4096 } }

/-- A stage-2 walk below a table (R355 to R358): the leaf's translation of an IPA. -/
def State.s2Walk : Nat → State → Nat → Nat → Nat → Nat → WalkRes Xent
  | 0, s, _, _, _, _ => { st := s, out := .error { cause := 0x73 } }
  | fuel + 1, s, p, ipa, lvl, table =>
    let f : XFault := { cause := 0x74, stage := 2, level := lvl, ipa := ipa }
    match s.wcFind 2 p lvl ipa with
    | some e => State.s2Walk fuel s p ipa (lvl - 1) e.phys
    | none =>
      if !s.tblOk p table (tblBytes lvl) then { st := s, out := .error f }
      else
        let r := s.readEntry p (table + 8 * lvlIndex lvl ipa) f
        if r.wait then { st := s, out := .error f, wait := true }
        else match r.out with
          | .error x => { st := r.st, out := .error x }
          | .ok e =>
            if !bit e 0 then { st := r.st, out := .error { f with cause := 0x71 } }
            else if badEntry 2 lvl e then { st := r.st, out := .error { f with cause := 0x73 } }
            else
              let addr := (bits e 56 8) * 256
              if bit e 1 then
                let t := r.st.wcPut { stage := 2, owner := p, level := lvl, addr := ipa / 2 ^ lvlShift lvl, table := addr, phys := addr, ipa := ipa }
                State.s2Walk fuel t p ipa (lvl - 1) addr
              else
                let sz := lvlShift lvl
                { st := r.st, out := .ok { part := p, va := ipa / 2 ^ sz * 2 ^ sz, size := sz, out := addr, ipa := ipa / 2 ^ sz * 2 ^ sz,
                                           rd := bit e 57, wr := bit e 58, at_ := bit e 59, hint := bits e 63 62, strict := bit e 60 } }

/-- Stage-2 translation of an IPA through the hub's stage-2 cache (R365). -/
def State.s2Xlate (s : State) (p ipa : Nat) : WalkRes Xent :=
  match s.xl.s2.find? (fun e => e.part = p && e.va = ipa / 2 ^ e.size * 2 ^ e.size) with
  | some e => { st := { s with xl := { s.xl with s2 := e :: s.xl.s2.filter (· ≠ e) } }, out := .ok e }
  | none =>
    let root := s.reg (ttP p 0)
    if !bit root 0 then { st := s, out := .error { cause := 0x71, stage := 2, level := 4, ipa := ipa } }
    else
      let r := State.s2Walk 6 s p ipa 4 ((bits root 51 12) * 4096)
      match r.out with
      | .ok e => { r with st := { r.st with xl := { r.st.xl with s2 := (e :: r.st.xl.s2).take 1024 } } }
      | .error _ => r

/-- A context-table entry (R361): its three words, or a fault. -/
structure CtxEnt where
  hostOk : Bool
  part : Nat
  pasid : Nat
  root : Nat
  deriving DecidableEq, Repr

/-- Read a context's table entry (R361). A poisoned entry is TABLE_POISON (DESIGN CHOICE, log 17). -/
def State.ctxEntry (s : State) (c : Nat) : WalkRes CtxEnt :=
  let base := (s.rf (ttR 0x10) 51 15) * 0x8000
  let r := s.readMem ownAccess 0 (base + 32 * c) 32
  if r.wait then { st := s, out := .error { cause := 0x78 }, wait := true }
  else if r.undec.isSome then { st := r.st, out := .error { cause := 0x78 } }
  else if r.poison ≠ [] then { st := r.st, out := .error { cause := 0x77 } }
  else
    let w0 := sliceNat r.data 0 8
    let w1 := sliceNat r.data 8 8
    if !bit w0 31 || bits w0 29 27 != 0 || bits w0 23 20 != 0 || bits w0 63 32 != 0 || bits w1 63 52 != 0
        || sliceNat r.data 16 16 != 0 then { st := r.st, out := .error { cause := 0x78 } }
    else { st := r.st, out := .ok { hostOk := bit w0 30, part := bits w0 26 24, pasid := bits w0 19 0, root := bits w1 51 12 * 4096 } }

/-- A stage-1 walk below a table at an IPA; the table's own address goes through stage 2 (R358, R362). A stage-1 fault gives no
IPA: its access did not reach stage 2 (R377; DEDUCED, log 17). -/
def State.s1Walk : Nat → State → Nat → CtxEnt → Nat → Nat → Nat → WalkRes (Xent × Nat)
  | 0, s, _, _, _, _, _ => { st := s, out := .error { cause := 0x73 } }
  | fuel + 1, s, c, ce, va, lvl, table =>
    let f : XFault := { cause := 0x74, stage := 1, level := lvl }
    match s.wcFind 1 c lvl va with
    | some e => State.s1Walk fuel s c ce va (lvl - 1) e.table
    | none =>
      let r2 := s.s2Xlate ce.part table
      if r2.wait then { st := s, out := .error f, wait := true }
      else match r2.out with
        | .error x => { st := r2.st, out := .error x }
        | .ok e2 =>
          if !e2.rd then { st := r2.st, out := .error { f with cause := 0x72, stage := 2, ipa := table } }
          else
            let phys := e2.out + (table - e2.va)
            if !r2.st.tblOk ce.part phys (tblBytes lvl) then { st := r2.st, out := .error f }
            else
              let r := r2.st.readEntry ce.part (phys + 8 * lvlIndex lvl va) f
              if r.wait then { st := s, out := .error f, wait := true }
              else match r.out with
                | .error x => { st := r.st, out := .error x }
                | .ok e =>
                  if !bit e 0 then { st := r.st, out := .error { f with cause := 0x71 } }
                  else if badEntry 1 lvl e then { st := r.st, out := .error { f with cause := 0x73 } }
                  else
                    let addr := (bits e 56 8) * 256
                    if bit e 1 then
                      let t := r.st.wcPut { stage := 1, owner := c, level := lvl, addr := va / 2 ^ lvlShift lvl, table := addr, phys := phys, ipa := table }
                      State.s1Walk fuel t c ce va (lvl - 1) addr
                    else
                      let sz := lvlShift lvl
                      { st := r.st, out := .ok ({ ctx := c, part := ce.part, va := va / 2 ^ sz * 2 ^ sz, size := sz, out := addr, host := bit e 61,
                                                   rd := bit e 57, wr := bit e 58, at_ := bit e 59, hint := bits e 63 62 }, lvl) }

/-- Whether rights serve an access (R358). -/
def rightsOk (e : Xent) (acc : Nat) : Bool :=
  if acc = 1 then e.wr else if acc = 2 then e.rd && e.wr && e.at_ else e.rd

/-- A full walk for a context's access (R352 to R362): the complete translation or the fault. -/
def State.walkXlate (s : State) (c va acc : Nat) : WalkRes Xent :=
  let va := va % 2 ^ 57
  let s := (s.bump (ttR 0x40) 1).odBump 0x6190 3 1
  let rc := s.ctxEntry c
  let fill (x : XFault) : XFault := { x with acc := acc, va := va }
  if rc.wait then { st := s, out := .error { cause := 0x78 }, wait := true }
  else match rc.out with
    | .error x => { st := rc.st, out := .error (fill x) }
    | .ok ce =>
      let r1 := State.s1Walk 6 rc.st c ce va 4 ce.root
      if r1.wait then { st := s, out := .error { cause := 0x71 }, wait := true }
      else match r1.out with
        | .error x => { st := r1.st, out := .error (fill x) }
        | .ok (e1, lvl) =>
          if e1.host then
            if !ce.hostOk then { st := r1.st, out := .error (fill { cause := 0x76, stage := 1, level := lvl }) }
            else if acc = 2 ∨ !rightsOk e1 acc then { st := r1.st, out := .error (fill { cause := 0x72, stage := 1, level := lvl }) }
            else { st := r1.st, out := .ok e1 }
          else if !rightsOk e1 acc then { st := r1.st, out := .error (fill { cause := 0x72, stage := 1, level := lvl }) }
          else
            let ipa := e1.out + va % 2 ^ e1.size
            let r2 := r1.st.s2Xlate ce.part ipa
            if r2.wait then { st := s, out := .error { cause := 0x71 }, wait := true }
            else match r2.out with
              | .error x => { st := r2.st, out := .error (fill x) }
              | .ok e2 =>
                if !rightsOk e2 acc then
                  { st := r2.st, out := .error (fill { cause := 0x72, stage := 2, level := if e2.size = 16 then 0 else if e2.size = 21 then 1 else 2, ipa := ipa }) }
                else
                  let sz := Nat.min e1.size e2.size
                  let base := ipa / 2 ^ sz * 2 ^ sz
                  { st := r2.st, out := .ok { ctx := c, part := ce.part, va := va / 2 ^ sz * 2 ^ sz, size := sz, out := e2.out + (base - e2.va), ipa := base, rd := e1.rd && e2.rd, wr := e1.wr && e2.wr, at_ := e1.at_ && e2.at_, hint := e1.hint, strict := e2.strict } }

/-! ### Caches of translations (R365, R367) -/

/-- The set of a die-cache entry (4,096 sets; the index bits are PRESUMED, log 16). -/
def dieSet (e : Xent) : Nat := e.va / 2 ^ e.size % 4096

/-- Enter a translation into a die cache: 8 ways a set, least recently used out. -/
def diePut (l : List Xent) (e : Xent) : List Xent :=
  let same := l.filter (fun x => dieSet x = dieSet e && x.size = e.size)
  e :: (if same.length < 8 then l else l.filter (fun x => some x ≠ same.getLast?))

/-- The translations of a die. -/
def State.dieTlb (s : State) (d : Nat) : List Xent := if d = 0 then s.xl.die0 else s.xl.die1

/-- Replace the translations of a die. -/
def State.setDieTlb (s : State) (d : Nat) (l : List Xent) : State :=
  if d = 0 then { s with xl := { s.xl with die0 := l } } else { s with xl := { s.xl with die1 := l } }

/-- The die of an agent. -/
def Agent.die : Agent → Nat
  | .te c _ => c / 128
  | .mx c => c / 128
  | .seq cl => cl / 8

/-- An agent's micro-cache. -/
def State.microOf (s : State) : Agent → List Xent
  | .te c _ => (s.core c).micro
  | .mx c => (s.core c).micro
  | .seq cl => (s.seq cl).micro

/-- Replace an agent's micro-cache: 64 entries a core, 16 a sequencer (R365). -/
def State.setMicro (s : State) (a : Agent) (l : List Xent) : State :=
  match a with
  | .te c _ => s.modCore c (fun x => { x with micro := l.take 64 })
  | .mx c => s.modCore c (fun x => { x with micro := l.take 64 })
  | .seq cl => s.modSeq cl (fun x => { x with micro := l.take 16 })

/-- Whether a translation covers an address of a context. -/
def Xent.covers (e : Xent) (c va : Nat) : Bool := e.ctx = c && e.va = va / 2 ^ e.size * 2 ^ e.size

/-- Look up a translation with the rights an access needs, in the micro-cache and then the die cache (R367). -/
def State.xlLookup (s : State) (a : Agent) (c va acc : Nat) : Option Xent × State :=
  let va := va % 2 ^ 57
  match (s.microOf a).find? (fun e => e.covers c va && rightsOk e acc) with
  | some e => (some e, s.setMicro a (e :: (s.microOf a).filter (· ≠ e)))
  | none =>
    let d := a.die
    let s := s.bump (ttD d 0x50) 1
    match (s.dieTlb d).find? (fun e => e.covers c va && rightsOk e acc) with
    | some e =>
      let t := (s.setDieTlb d (e :: (s.dieTlb d).filter (· ≠ e))).bump (ttD d 0x40) 1
      (some e, t.setMicro a (e :: t.microOf a))
    | none => (none, s.bump (ttD d 0x48) 1)

/-- Fill an agent's caches with a translation that a walk found. -/
def State.xlFill (s : State) (a : Agent) (e : Xent) : State :=
  let t := if (s.dieTlb a.die).contains e then s else s.setDieTlb a.die (diePut (s.dieTlb a.die) e)
  t.setMicro a (e :: (t.microOf a).filter (· ≠ e))

/-! ### Walks and faults -/

/-- Whether an agent waits for a walk or a fault (R368, R371). A thread's walk holds its core's memory engine. -/
def State.agentBusy (s : State) (a : Agent) : Bool :=
  let same (b : Agent) : Bool := match a, b with
    | .te c _, .te d _ => c = d
    | .mx c, .mx d => c = d
    | .seq c, .seq d => c = d
    | _, _ => false
  s.xl.walks.any (fun w => w.agents.any same) || s.xl.faults.any (fun f => f.agents.any same)
    || s.xl.waiting.any (fun w => same w.agent)

/-- Register a miss: it joins the walk of its context and 64 KiB granule, or queues a new one (R367). -/
def State.startWalk (s : State) (a : Agent) (c va acc pc : Nat) (desc : Bool) : State :=
  let va := va % 2 ^ 57
  if s.xl.walks.any (fun w => w.ctx = c && w.va / 65536 = va / 65536 && w.acc = acc && w.desc = desc) then
    { s with xl := { s.xl with walks := listMod s.xl.walks (fun w => w.ctx = c && w.va / 65536 = va / 65536 && w.acc = acc && w.desc = desc) (fun w => { w with agents := w.agents ++ [a] }) } }
  else
    { s with xl := { s.xl with
        walks := s.xl.walks ++ [{ id := s.xl.nextWalk, ctx := c, va := va, acc := acc, pc := pc, desc := desc, agents := [a] }],
        nextWalk := s.xl.nextWalk + 1 } }

/-- The logical core and cluster bits that an agent sets in a record (R377). -/
def State.agentBits (s : State) (a : Agent) : List Nat × List Nat :=
  match a with
  | .te c _ => ((s.logicalOf c).toList, [])
  | .mx c => ((s.logicalOf c).toList, [])
  | .seq cl => ([], [cl])

/-- The 64 bytes of a fault record (R377). -/
def faultRecord (kind part ctx count : Nat) (f : XFault) (stamp : Nat) (cores seqs : List Nat) (other id : Nat) : List Byte :=
  let stage := if f.cause = 0x75 ∨ f.cause = 0x78 ∨ f.cause = 0x79 then 0 else f.stage
  leBytes 4 (kind * 2 ^ 24 + f.cause * 2 ^ 16 + causeStatus f.cause * 2 ^ 8 + stage * 64 + f.level * 8 + f.acc)
    ++ leBytes 4 (part * 2 ^ 29 + ctx * 2 ^ 16 + Nat.min count 0xFFFF)
    ++ leBytes 8 f.va ++ leBytes 8 f.ipa ++ leBytes 8 stamp
    ++ leBytes 8 (ofBitList (cores.filter (· < 64))) ++ leBytes 8 (ofBitList ((cores.filter (64 ≤ ·)).map (· - 64)))
    ++ leBytes 4 ((ofBitList seqs) * 2 ^ 16 + other) ++ leBytes 4 id ++ leBytes 8 f.pc

/-- Whether a partition's fault queue is full (R376). -/
def State.fqFull (s : State) (p : Nat) : Bool :=
  (s.rf (ttP p 0x24) 31 0 + 2 ^ 32 - s.rf (ttP p 0x28) 31 0) % 2 ^ 32 = 4096

/-- Write a record at the head of a partition's fault queue and raise the head (R376). `mk` makes the record from its ID. -/
def State.fqWrite (s : State) (p : Nat) (mk : Nat → List Byte) : State :=
  let h := s.rf (ttP p 0x24) 31 0
  let base := (s.rf (ttP p 0x18) 51 18) * 0x40000
  let r := s.writeMem ownAccess 0 .bank (base + (h % 4096) * 64) (mk h) false
  let t := if r.status.isSome then (r.st.odBump 0x6180 0x0B 1).odBump 0x6190 5 1 else r.st
  let t := (t.setReg (ttP p 0x24) ((h + 1) % 2 ^ 32)).odBump 0x6190 1 1
  if bit (t.reg (ttP p 0x20)) 31 then t.msix (t.fnOf p) (t.rf (ttP p 0x20) 10 0) else t

/-- A non-stalling fault record or a poison record: dropped when the queue is full (R371, R373). -/
def State.quietRecord (s : State) (kind p ctx : Nat) (f : XFault) (cores seqs : List Nat) (other : Nat) : State :=
  if s.fqFull p then (s.setReg (ttP p 0x2C) (s.reg (ttP p 0x2C) ||| 2 ^ 30)).odBump 0x6190 5 1
  else
    let t := s.fqWrite p (fun id => faultRecord kind p ctx 1 f s.now cores seqs other id)
    if kind = 3 then t else t.reel 0 4 0x13 0x42 ctx (s.rf (ttP p 0x24) 31 0) f.va f.cause

/-- A poison record (08 R338): cause POISON, the VA of the access, the line's address in IPA (R377). `x` is the line and the VA. -/
def State.poisonRecord (s : State) (p ctx : Nat) (x : Nat × Nat) (acc pc : Nat) (cores seqs : List Nat) (other : Nat) : State :=
  s.quietRecord 3 p ctx { cause := 0x79, acc := acc, va := x.2 % 2 ^ 57, ipa := x.1 * 128, pc := pc } cores seqs other

/-- The poisoned lines of an access at `va` whose bytes lie at `pa` on, each with the VA at which the access first reads it. `secs` are the
poisoned sectors (R377; DEDUCED, log 17: each line of a long access is an access of its own). -/
def lineVas (va pa : Nat) (secs : List Nat) : List (Nat × Nat) :=
  ((secs.map (fun x => x / 4)).eraseDups).map (fun l => (l, va + (l * 128 - pa)))

/-- Write an open fault's record, or let it wait for space (R372, R373). -/
def State.recordFault (s : State) (o : OpenFault) : State :=
  let put (s : State) (o : OpenFault) : State :=
    { s with xl := { s.xl with faults := listMod s.xl.faults (fun x => x.id = o.id) (fun _ => o) } }
  if s.fqFull o.part then
    let t := if o.held then s else (s.setReg (ttP o.part 0x2C) (s.reg (ttP o.part 0x2C) ||| 2 ^ 31)).setRf (ttP o.part 0x2C) 8 0 (s.rf (ttP o.part 0x2C) 8 0 + 1)
    put t { o with windowOpen := false, held := true }
  else
    let h := s.rf (ttP o.part 0x24) 31 0
    let t := s.fqWrite o.part (fun id => faultRecord 1 o.part o.ctx o.count o.f o.opened o.cores o.seqs 0 id)
    let t := (if o.held then t.setRf (ttP o.part 0x2C) 8 0 (t.rf (ttP o.part 0x2C) 8 0 - 1) else t).reel 0 4 0x13 0x42 o.ctx h o.f.va o.f.cause
    put t { o with windowOpen := false, held := false, record := some h }

/-- A stalling fault opens, joins an open fault, or waits at the walker (R371 to R373). -/
def State.raiseFault (s : State) (a : Agent) (c p : Nat) (f : XFault) (desc : Bool) : State :=
  let same (o : OpenFault) : Bool := o.ctx = c && o.f.cause = f.cause && o.f.va / 65536 = f.va / 65536 && o.desc = desc
  let b := s.agentBits a
  match s.xl.faults.find? same with
  | some o =>
    let o' := if o.windowOpen then
        { o with agents := o.agents ++ [a], count := Nat.min (o.count + 1) 0xFFFF, cores := o.cores ++ b.1, seqs := o.seqs ++ b.2 }
      else { o with agents := o.agents ++ [a] }
    ({ s with xl := { s.xl with faults := listMod s.xl.faults (fun x => x.id = o.id) (fun _ => o') } }).odBump 0x6190 2 1
  | none =>
    if s.xl.faults.length < 256 then
      { s with xl := { s.xl with
          faults := s.xl.faults ++ [{ id := s.xl.nextFault, ctx := c, part := p, f := f, cores := b.1, seqs := b.2, agents := [a],
                                      desc := desc, opened := s.now, window := s.odGet 0x3700 1 }],
          nextFault := s.xl.nextFault + 1 } }
    else { s with xl := { s.xl with waiting := s.xl.waiting ++ [{ ctx := c, part := p, f := f, agent := a, desc := desc }] } }

/-- Faults waiting at the walker enter the table as entries free (R373). -/
def State.admitWaiting : Nat → State → State
  | 0, s => s
  | n + 1, s =>
    match s.xl.waiting with
    | [] => s
    | w :: rest =>
      if s.xl.faults.length < 256 then
        State.admitWaiting n (({ s with xl := { s.xl with waiting := rest } }).raiseFault w.agent w.ctx w.part w.f w.desc)
      else s

/-- Close an open fault. A record that waits for space goes with it. -/
def State.closeFault (s : State) (o : OpenFault) : State :=
  let t := if o.held then s.setRf (ttP o.part 0x2C) 8 0 (s.rf (ttP o.part 0x2C) 8 0 - 1) else s
  let t := { t with xl := { t.xl with faults := t.xl.faults.filter (fun x => x.id ≠ o.id) } }
  State.admitWaiting (t.xl.waiting.length) t

/-- Release the stall of an agent whose walk or fault is over. -/
def State.wake (s : State) (a : Agent) : State :=
  match a with
  | .te c slot => s.modCore c (fun x => { x with groups := x.groups.upd slot {} (fun g => if g.stall = .xlate then { g with stall := .none } else g) })
  | .mx _ => s
  | .seq _ => s

/-- Forget every walk, fault and waiting fault of a context (R375, 13 R515): resolved as ABORT by the teardown. -/
def State.abortFaults (s : State) (c : Nat) : State :=
  let t := s.each (s.xl.faults.filter (fun o => o.ctx = c && o.held)) (fun t o => t.setRf (ttP o.part 0x2C) 8 0 (t.rf (ttP o.part 0x2C) 8 0 - 1))
  let t := { t with xl := { t.xl with walks := t.xl.walks.filter (fun w => w.ctx ≠ c), faults := t.xl.faults.filter (fun o => o.ctx ≠ c),
                                      waiting := t.xl.waiting.filter (fun w => w.ctx ≠ c) } }
  State.admitWaiting t.xl.waiting.length t

/-- Agents leave every walk and fault; a fault left with no access closes (13 R701). -/
def State.dropAgents (s : State) (p : Agent → Bool) : State :=
  let walks := (s.xl.walks.map (fun w => { w with agents := w.agents.filter (fun a => !p a) })).filter (fun w => w.agents ≠ [])
  let kept := s.xl.faults.map (fun o => { o with agents := o.agents.filter (fun a => !p a) })
  let t := s.each (kept.filter (fun o => o.agents = [] && o.held)) (fun t o => t.setRf (ttP o.part 0x2C) 8 0 (t.rf (ttP o.part 0x2C) 8 0 - 1))
  let t := { t with xl := { t.xl with walks := walks, faults := kept.filter (fun o => o.agents ≠ []),
                                      waiting := t.xl.waiting.filter (fun w => !p w.agent) } }
  State.admitWaiting t.xl.waiting.length t

/-! ### Translated accesses of engines that do not stall (R371) -/

/-- What a translated access met. `vas` gives each poisoned line the VA at which the access reads it. -/
structure VaRes where
  st : State
  data : List Byte := []
  poison : List Nat := []
  vas : List (Nat × Nat) := []
  fault : Option XFault := none
  status : Option Nat := none
  wait : Bool := false

/-- The pieces of a range within 64 KiB pages. -/
def pagePieces (fuel va n : Nat) : List (Nat × Nat) :=
  match fuel with
  | 0 => []
  | f + 1 => if n = 0 then [] else
      let k := Nat.min n (65536 - va % 65536)
      (va, k) :: pagePieces f (va + k) (n - k)

/-- Pages of a range. -/
def pages (va n : Nat) : List (Nat × Nat) := pagePieces (n / 65536 + 2) va n

/-- Who an access of the context's partition is at the hub. -/
def hubWho (e : Xent) : Who := { part := some e.part, ctx := some e.ctx, strict := e.strict }

/-- The status that an access meets at its unit, its poison and its fault. -/
def VaRes.stat (r : VaRes) : Nat :=
  match r.fault with
  | some f => causeStatus f.cause
  | none =>
    match r.status with
    | some c => c
    | none => if r.poison ≠ [] then stPoison else stOk

/-- Read one page's piece for an engine of the hub (front end, update unit, collective engine). -/
def State.hubReadPage (c : Nat) (acc : Nat) (r : VaRes) (pc : Nat × Nat) : VaRes :=
  if r.fault.isSome || r.wait then r
  else
    let w := r.st.walkXlate c pc.1 acc
    if w.wait then { r with wait := true }
    else match w.out with
      | .error f => { r with st := w.st, fault := some f }
      | .ok e =>
        let pa := e.out + (pc.1 % 2 ^ 57 - e.va)
        if e.host then
          match w.st.hostRead pa pc.2 with
          | some bs => { r with st := w.st, data := r.data ++ bs }
          | none => { r with st := w.st.hostReadFailed, data := r.data ++ List.replicate pc.2 0, poison := r.poison ++ [pa / 32], vas := r.vas ++ lineVas pc.1 pa [pa / 32] }
        else
          let m := w.st.readMem (hubWho e) e.hint pa pc.2
          if m.wait then { r with wait := true }
          else { r with st := m.st, data := r.data ++ m.data, poison := r.poison ++ m.poison, vas := r.vas ++ lineVas pc.1 pa m.poison, status := r.status.orElse (fun _ => m.status),
                        fault := m.undec.map (fun u => { cause := 0x75, acc := acc, va := pc.1, ipa := e.ipa + (u - e.out) }) }

/-- Read a context's memory for an engine of the hub. Where a unit makes it wait, nothing is done. -/
def State.hubRead (s : State) (c va n acc : Nat) : VaRes :=
  let r := (pages va n).foldl (State.hubReadPage c acc) { st := s }
  if r.wait then { st := s, wait := true } else r

/-- Write one page's piece for an engine of the hub. `data` holds what remains to be written. -/
def State.hubWritePage (c : Nat) (r : VaRes) (pc : Nat × Nat) : VaRes :=
  if r.fault.isSome || r.wait then r
  else
    let w := r.st.walkXlate c pc.1 accWrite
    if w.wait then { r with wait := true }
    else match w.out with
      | .error f => { r with st := w.st, fault := some f }
      | .ok e =>
        let pa := e.out + (pc.1 % 2 ^ 57 - e.va)
        let bs := r.data.take pc.2
        let rest := r.data.drop pc.2
        if e.host then { r with st := w.st.hostWrite pa bs, data := rest }
        else
          let m := w.st.writeMem (hubWho e) e.hint .bank pa bs false
          if m.wait then { r with wait := true }
          else { r with st := m.st, data := rest, status := r.status.orElse (fun _ => m.status),
                        fault := m.undec.map (fun u => { cause := 0x75, acc := 1, va := pc.1, ipa := e.ipa + (u - e.out) }) }

/-- Write a context's memory for an engine of the hub. -/
def State.hubWrite (s : State) (c va : Nat) (bs : List Byte) : VaRes :=
  let r := (pages va bs.length).foldl (State.hubWritePage c) { st := s, data := bs }
  if r.wait then { st := s, wait := true } else r

/-- The partition of a context, from its object (R448, R361). -/
def State.ctxPart (s : State) (c : Nat) : Nat := (s.ctx c).part

/-! ### Invalidation (R379) -/

/-- Whether a page of `2 ^ size` bytes at `a` overlaps a range. -/
def overlaps (a size base n : Nat) : Bool := a < base + n && base < a + 2 ^ size

/-- Keep only the translations and walk-cache entries that tests pass. -/
def State.xlFilter (s : State) (keep : Xent → Bool) (keepWc : WcEnt → Bool) (keepS2 : Xent → Bool) : State :=
  let t := { s with xl := { s.xl with die0 := s.xl.die0.filter keep, die1 := s.xl.die1.filter keep,
                                      walkCache := s.xl.walkCache.filter keepWc, s2 := s.xl.s2.filter keepS2 } }
  { t with cores := t.cores.mapAll {} (fun _ x => { x with micro := x.micro.filter keep }),
           seqs := t.seqs.mapAll {} (fun _ x => { x with micro := x.micro.filter keep }) }

/-- Remove what an invalidation command names (R379). -/
def State.invApply (s : State) (p : Nat) (c : InvCmd) : State :=
  let n := c.pages * 65536
  let wcOver (e : WcEnt) : Bool := overlaps (e.addr * 2 ^ lvlShift e.level) (lvlShift e.level) c.addr n
  if c.action = 2 then
    s.xlFilter (fun e => !(e.ctx = c.ctx && overlaps e.va e.size c.addr n)) (fun e => !(e.stage = 1 && e.owner = c.ctx && wcOver e)) (fun _ => true)
  else if c.action = 3 then s.xlFilter (fun e => e.ctx ≠ c.ctx) (fun e => !(e.stage = 1 && e.owner = c.ctx)) (fun _ => true)
  else if c.action = 4 then
    s.xlFilter (fun e => !(e.part = p && !e.host && overlaps e.ipa e.size c.addr n))
      (fun e => !(e.stage = 2 && e.owner = p && wcOver e) && !(e.stage = 1 && s.ctxPart e.owner = p && overlaps (e.ipa / 65536 * 65536) 16 c.addr n))
      (fun e => !(e.part = p && overlaps e.va e.size c.addr n))
  else if c.action = 5 then
    s.xlFilter (fun e => e.part ≠ p) (fun e => !(e.stage = 2 && e.owner = p) && !(e.stage = 1 && s.ctxPart e.owner = p)) (fun e => e.part ≠ p)
  else s

/-- Empty every translation of a partition (R375). -/
def State.xlEmptyPart (s : State) (p : Nat) : State := s.invApply p { action := 5, ctx := 0, pages := 0, seq := 0, addr := 0 }

end Sys2Proof.Machine
end

