-- ==== Sys2Proof/Machine/LkOps.lean ====
section
/-! DEFINITION. Sending on Niandop Link (14_niandop_link.md R546 to R563): planes, frames, connections and their windows. -/

namespace Sys2Proof.Machine

/-! ### Planes (R546, R549, R554) -/

/-- Quads of a port in service. -/
def Port.quads (p : Port) : Nat := popcount 4 p.inService

/-- The planes in service: the quads in service of ports with two or more (R549). -/
def State.planesUp (s : State) : Nat :=
  (List.range 8).foldl (fun m i => let p := s.port (i + 1); if 2 ≤ p.quads then m + p.inService * 2 ^ (4 * i) else m) 0

/-- Whether the fabric runs (R552, 15 R607). -/
def State.fabricOn (s : State) : Bool := s.lk.on && !s.lk.stopped

/-- The planes over which a node is routed (R554). -/
def State.routed (s : State) (n : Nat) : Nat :=
  (List.range 8).foldl (fun m i =>
    if bit (s.reg (lkR (i + 1) (0x8000 + 4 * (n / 32)))) (n % 32) then m ||| (s.planesUp &&& (0xF * 2 ^ (4 * i))) else m) 0

/-- The planes usable toward a peer: an OPEN peer's own planes bound them (R560). -/
def State.usable (s : State) (n : Nat) : Nat :=
  let p := s.peer n
  if p.st = .open_ then s.routed n &&& p.planes else s.routed n

/-- The next plane of a mask after one. -/
def nextPlane (mask last : Nat) : Option Nat := ((List.range 32).map (fun i => (last + 1 + i) % 32)).find? (fun x => bit mask x)

/-- The largest count of a 16-bit field of the Link's entries. -/
def State.lkCfg (s : State) (n : Nat) : Nat := s.odGet 0x5000 n

/-! ### Frames (R555 to R558) -/

/-- The hub reel's record of a frame at port Pk, sampled by LSAMPLE (17 R657 to R660). -/
def State.lkTrace (s : State) (ty node psn type plane c : Nat) : State :=
  let ls := s.rf (dbR 0 0x100) 15 12
  if (decide (type < 0x10) && psn % 2 ^ ls = 0) || (decide (0x10 ≤ type) && ls = 0) then s.reel 0 5 ty (0x48 + plane / 4 + 1) 0 node psn c else s

/-- A frame leaves on a plane: counted, with CUM and the time stamp. -/
def State.lkEmit (s : State) (node plane psn : Nat) (k : LkPkt) : State :=
  let f : LkTx := { node := node, plane := plane, psn := psn, cum := (s.peer node).cum, ts := s.now, pkt := k }
  let s := { s with lk := { s.lk with tx := f :: s.lk.tx, nextPlane := plane } }
  ((s.bump (lkR 0 0x40) 1).odBump 0x61E0 3 k.payload.length).lkTrace 0x20 node psn k.type plane k.type

/-- An unsequenced packet goes out on the next usable plane, if there is one. -/
def State.lkPlain (s : State) (node : Nat) (k : LkPkt) : State :=
  match nextPlane (s.usable node) s.lk.nextPlane with
  | some x => s.lkEmit node x 0 k
  | none => s

/-- A HELLO (R556, R560). -/
def State.helloPkt (s : State) (node inc : Nat) : LkPkt :=
  { type := 0x12, payload := leBytes 4 inc ++ leBytes 4 (s.peer node).inc ++ leBytes 4 s.planesUp ++ leBytes 4 0 }

/-- Send a HELLO. -/
def State.sendHello (s : State) (node : Nat) : State := s.lkPlain node (s.helloPkt node s.lk.inc)

/-- Send a HELLO on each usable plane (R559). -/
def State.helloAll (s : State) (node : Nat) : State :=
  s.each (bitList 32 (s.usable node)) (fun t x => t.lkEmit node x 0 (t.helloPkt node t.lk.inc))

/-! ### Connections (R559 to R563) -/

/-- Peers that are not CLOSED. -/
def State.heldPeers (s : State) : Nat := (s.lk.peers.filter (fun e => e.2.st ≠ .closed)).length

/-- Open a connection: to OPENING, with a HELLO on each usable plane. -/
def State.peerOpen (s : State) (n : Nat) : State :=
  (s.modPeer n (fun p => { p with st := .opening, inc := 0, planes := 0, tOpen := s.now, lastHeard := s.now })).helloAll n

/-- A peer goes OPEN: PSNs start at 1 in each direction, the window at 0x5000:0A, the round trip at 20 µs (R561 to R563). -/
def State.peerUp (s : State) (n : Nat) : State :=
  s.modPeer n (fun p => { p with st := .open_, nextPsn := 1, cum := 1, performed := [], heldSig := [], window := s.lkCfg 10, grow := 0, srtt := 2000, sinceAck := 0, unacked := [] })

/-- Send the oldest waiting packet of an OPEN peer, if the window and a plane allow it. -/
def State.lkPush (s : State) (n : Nat) : State :=
  let p := s.peer n
  match p.waitTx with
  | [] => s
  | k :: rest =>
    if p.st = .open_ && decide (p.unacked.length < p.window) then
      match nextPlane (s.usable n) s.lk.nextPlane with
      | some x =>
        let t := s.modPeer n (fun p => { p with waitTx := rest, nextPsn := (p.nextPsn + 1) % 2 ^ 32, unacked := p.unacked ++ [{ psn := p.nextPsn, pkt := k, plane := x, tSent := s.now, tFirst := s.now }] })
        t.lkEmit n x p.nextPsn k
      | none => s
    else s

/-- Send what waits for a peer, as far as its window goes. -/
def State.lkFlush (s : State) (n : Nat) : State := (List.range (s.peer n).waitTx.length).foldl (fun t _ => t.lkPush n) s

/-- Queue a sequenced packet for a node (R559, R561, R563). A packet for a peer that has announced leaving, or with the fabric
stopped or no plane toward the node, is lost; a lost SIGNAL is counted (R554, R564). -/
def State.lkSend (s : State) (node : Nat) (k : LkPkt) : State :=
  if !s.fabricOn || (s.peer node).leaving || s.routed node = 0 then (if k.type = 2 then s.odBump 0x61E0 5 1 else s)
  else
    let t := s.modPeer node (fun p => { p with waitTx := p.waitTx ++ [k] })
    match (s.peer node).st with
    | .closed => if s.heldPeers < 4096 then t.peerOpen node else t
    | .open_ => t.lkFlush node
    | _ => t

/-- The fabric starts: a new incarnation, not zero, and the transport runs (R560). -/
def State.fabricStart (s : State) : State :=
  let (w, t) := s.draw
  let inc := w.toNat % (2 ^ 32 - 1) + 1
  { t with lk := { t.lk with on := true, inc := inc, peers := [], runs := [] } }

/-! ### Groups and operations (R568, R570) -/

/-- The entry of a group: 64 bytes. -/
def State.lkGroup (s : State) (g : Nat) : List Byte := s.lk.groups.getD g []
/-- The entry of an operation: 64 bytes. -/
def State.lkOp (s : State) (o : Nat) : List Byte := s.lk.ops.getD o []
/-- Whether a group's or operation's entry is valid. -/
def entValid (b : List Byte) : Bool := bit (sliceNat b 0 4) 31
/-- PARTITION of a group. -/
def grpPart (b : List Byte) : Nat := bits (sliceNat b 0 4) 26 24
/-- CONTEXT of a group. -/
def grpCtx (b : List Byte) : Nat := bits (sliceNat b 0 4) 9 0
/-- EPOCH of a group. -/
def grpEpoch (b : List Byte) : Nat := sliceNat b 4 4
/-- SELF of a group. -/
def grpSelf (b : List Byte) : Nat := sliceNat b 10 2
/-- Members of a group: LAST + 1. -/
def grpN (b : List Byte) : Nat := sliceNat b 8 2 + 1
/-- MEMBERS of a group. -/
def grpMembers (b : List Byte) : Nat := sliceNat b 16 8

/-- The node of a member by rank. -/
def State.member (s : State) (g r : Nat) : Nat := leNat (s.ownRead (grpMembers (s.lkGroup g) + 2 * r) 2).1
/-- The nodes of a group in rank order. -/
def State.members (s : State) (g : Nat) : List Nat := (List.range (grpN (s.lkGroup g))).map (fun r => s.member g r)

/-- KIND of an operation: 0 ALL_REDUCE, 1 REDUCE_SCATTER, 2 ALL_GATHER, 3 BROADCAST, 4 PUT. -/
def opKind (b : List Byte) : Nat := bits (sliceNat b 0 4) 30 28
/-- Whether ALGO is RING. -/
def opRing (b : List Byte) : Bool := bits (sliceNat b 0 4) 27 26 = 1
/-- RED_OP. -/
def opRed (b : List Byte) : Nat := bits (sliceNat b 0 4) 25 24
/-- FMT. -/
def opFmt (b : List Byte) : Nat := bits (sliceNat b 0 4) 23 20
/-- GROUP. -/
def opGroup (b : List Byte) : Nat := bits (sliceNat b 0 4) 11 0
/-- DONE. -/
def opDone (b : List Byte) : Nat := sliceNat b 6 2
/-- TRIGGER. -/
def opTrigger (b : List Byte) : Nat := sliceNat b 4 2
/-- SRC_VA. -/
def opSrc (b : List Byte) : Nat := sliceNat b 8 8
/-- DST_IPA. -/
def opDst (b : List Byte) : Nat := sliceNat b 16 8
/-- SCRATCH_IPA. -/
def opScr (b : List Byte) : Nat := sliceNat b 24 8
/-- COUNT. -/
def opCount (b : List Byte) : Nat := sliceNat b 32 8
/-- RANK. -/
def opRank (b : List Byte) : Nat := sliceNat b 40 2
/-! ### Memory by IPA, for the receive side and the collective engine (R565, R571) -/

/-- Read one page's piece by IPA. -/
def State.ipaReadPage (p : Nat) (r : VaRes) (pc : Nat × Nat) : VaRes :=
  if r.fault.isSome || r.wait then r
  else
    let w := r.st.s2Xlate p pc.1
    if w.wait then { r with wait := true }
    else match w.out with
      | .error f => { r with st := w.st, fault := some f }
      | .ok e =>
        if !e.rd then { r with st := w.st, fault := some { cause := 0x72, stage := 2, ipa := pc.1 } }
        else
          let m := w.st.readMem (hubWho e) e.hint (e.out + (pc.1 - e.va)) pc.2
          if m.wait then { r with wait := true }
          else { r with st := m.st, data := r.data ++ m.data, poison := r.poison ++ m.poison, status := r.status.orElse (fun _ => m.status),
                        fault := m.undec.map (fun _ => { cause := 0x75, ipa := pc.1 }) }

/-- Read a partition's memory by IPA. -/
def State.ipaRead (s : State) (p ipa n : Nat) : VaRes :=
  let r := (pages ipa n).foldl (State.ipaReadPage p) { st := s }
  if r.wait then { st := s, wait := true } else r

/-- Write one page's piece by IPA; `bad` marks poisoned sectors of the range by their number from its start, `at_` is how many
sectors came before. -/
def State.ipaWritePage (p : Nat) (bad : List Nat) (base : Nat) (r : VaRes) (pc : Nat × Nat) : VaRes :=
  if r.fault.isSome || r.wait then r
  else
    let w := r.st.s2Xlate p pc.1
    if w.wait then { r with wait := true }
    else match w.out with
      | .error f => { r with st := w.st, fault := some { f with acc := 1 } }
      | .ok e =>
        if !e.wr then { r with st := w.st, fault := some { cause := 0x72, stage := 2, ipa := pc.1, acc := 1 } }
        else
          let pa := e.out + (pc.1 - e.va)
          let m := w.st.writeMem (hubWho e) e.hint .bank pa (r.data.take pc.2) false
          if m.wait then { r with wait := true }
          else
            let marks := bad.filter (fun i => decide (pc.1 ≤ base + 32 * i) && decide (base + 32 * i < pc.1 + pc.2))
            let t := m.st.each marks (fun t i => t.setPoison ((pa + (base + 32 * i - pc.1)) / 32) true)
            { r with st := t, data := r.data.drop pc.2, status := r.status.orElse (fun _ => m.status),
                     fault := m.undec.map (fun _ => { cause := 0x75, ipa := pc.1, acc := 1 }) }

/-- Write a partition's memory by IPA, sectors of `bad` with poison. -/
def State.ipaWriteMem (s : State) (p ipa : Nat) (bs : List Byte) (bad : List Nat) : VaRes :=
  let r := (pages ipa bs.length).foldl (State.ipaWritePage p bad ipa) { st := s, data := bs }
  if r.wait then { st := s, wait := true } else r

end Sys2Proof.Machine
end

