-- ==== Sys2Proof/Machine/Gate.lean ====
section
/-! DEFINITION. Which accesses to the register space and the dictionary reach them (00_scope.md R13; 11_host_link.md R423,
R428, R435, R443, R445; 16_management_and_startup.md R614, R638, R639). -/

namespace Sys2Proof.Machine

/-- The function answers a request with Unsupported Request (11 R435). -/
def State.urAnswer (s : State) (f : Nat) : State :=
  if s.pw.phase = .on then (s.aer (.unsupportedRequest f)).odBump 0x61B0 4 1 else s

/-- Whether a function answers memory requests: it is enabled, its partition exists, it is in D0, and the IDE policy lets
the request in (R423, R424, R443, R445). -/
def State.fnServes (s : State) (f : Nat) : Bool :=
  s.pw.phase = .on && !(s.fn f).d3 && (f = 0 || (s.vfOn f && (s.part (f - 1)).st ≠ .absent)) && !(s.host.policy = 2 && s.host.ide ≠ 2)

/-- Whether an offset of the register space lies in the MG_ page. -/
def inMg (off : Nat) : Bool := decide (mgR 0 ≤ off) && decide (off < mgR 0 + 0x10000)

/-- An access of a host function to BAR0: performed when the function serves and the stage lets it reach the registers
(R638, R639); otherwise a write is discarded. -/
def State.hostGate (s : State) (f off : Nat) (act : State → State) : State :=
  if !s.fnServes f then s.urAnswer f
  else if s.mg.stage ≠ .ready && !inMg off then s.discardRo
  else act s

/-- A write to a register of the whole space, by a path that reaches it. `vf` says which function reaches it besides the PF
(R428); a register that a VF does not reach follows R10. A session reaches the dictionary only. -/
def State.regGate (s : State) (p : Path) (off : Nat) (vf : Option Nat) (act : State → State) : State :=
  match p with
  | .pf => s.hostGate 0 off act
  | .vf k => if vf = some k then s.hostGate k off act else if s.fnServes k then s else s.urAnswer k
  | .firmware => act s
  | .session _ => s
  | .engine _ => act s

/-- A write to a register that only privileged paths set. -/
def State.regGateP (s : State) (p : Path) (off : Nat) (act : State → State) : State :=
  s.regGate p off none (fun t => if t.privileged p then act t else t.discardRwp)

end Sys2Proof.Machine
end

