-- ==== Sys2Proof/Machine/OdOps.lean ====
section
/-! DEFINITION. How a dictionary item is admitted and answered (16_management_and_startup.md R614 to R617, R619, R623). -/

namespace Sys2Proof.Machine

/-- Whether a stage allows an item (R616). -/
def State.odStageOk (s : State) (idx sub : Nat) (write : Bool) : Bool :=
  let always := idx = 0x1000 || idx = 0x1010 || idx = 0x9000 || idx = 0x9010
  match s.mg.stage with
  | .ready => true
  | .start => always || !write || (match odRow idx sub with | some r => r.keep | none => true)
  | _ => always

/-- The stages in which the BAR4 window answers every item with UNIT_OFFLINE (R619). -/
def State.earlyStage (s : State) : Bool :=
  match s.mg.stage with
  | .start => false
  | .ready => false
  | _ => true

/-- The head of an item's reply (R623). -/
def replyHead (st len : Nat) : List Byte := leBytes 4 st ++ leBytes 2 len ++ leBytes 2 0

/-- MG_ODSTAT at the end of an item (R619). -/
def State.odStat (s : State) (st len : Nat) : State :=
  ((s.setRf (b4R 0x10008) 31 31 0).setRf (b4R 0x10008) 23 16 st).setRf (b4R 0x10008) 12 0 len

/-- Answer an item at once: MG_ODSTAT of the BAR4 window, or an OD_REPLY of the session (R619, R623). -/
def State.odReply (s : State) (p : Path) (st : Nat) : State :=
  match p with
  | .pf => s.odStat st 0
  | .session i => if i < 4 then s.tuiSend i 0x21 0 0 (replyHead st 0) else s
  | _ => s

/-- An item that waits holds up only its own request (R615): the BAR4 window is BUSY. -/
def State.odHold (s : State) (p : Path) : State :=
  match p with
  | .pf => s.setRf (b4R 0x10008) 31 31 1
  | _ => s

/-- Answer an item that waited. An OD_REQUEST that it held up goes on when time next passes. -/
def State.odAnswer (s : State) (p : Path) (st : Nat) : State :=
  match p with
  | .session i =>
    match s.mg.reqs.getD i none with
    | some r => { s with mg := { s.mg with reqs := s.mg.reqs.set i none (some { r with answered := some st }) } }
    | none => s.odReply p st
  | _ => s.odReply p st

/-- Whether the BAR4 window holds an item in progress. -/
def State.odBusy (s : State) (p : Path) : Bool := decide (p = .pf) && bit (s.reg (b4R 0x10008)) 31

/-- Note a write of an S entry (R617): the count, the change list, and a report to every other session. -/
def State.noteS (s : State) (p : Path) (idx sub : Nat) : State :=
  let t := s.odBump 0x1030 1 1
  let t := { t with mg := { t.mg with changes := (t.mg.changes ++ [odKey idx sub]).drop (t.mg.changes.length + 1 - 256) } }
  t.each (t.openSessions.filter (fun i => match p with | .session j => decide (j % 4 ≠ i) | _ => true)) (fun t i =>
    t.sendEvent i (leBytes 2 sub ++ leBytes 2 idx))

/-- Whether a path reaches the dictionary (R614). -/
def State.odReach (s : State) (p : Path) : Bool :=
  match p with
  | .pf => s.fnServes 0
  | .firmware => true
  | .session i => (s.mg.sessions.getD (i % 4) {}).opened
  | _ => false

/-- A write of a command entry: admitted by path and stage, then answered with the status that `act` gives, or held
where it gives none (R614 to R616, R619). A refused write counts in 0x6200:01. -/
def State.odCmd (s : State) (p : Path) (idx sub : Nat) (act : State → State × Option Nat) : State :=
  if !s.odReach p then (if p = .pf then s.urAnswer 0 else s)
  else if s.odBusy p then s.setRf (b4R 0x10008) 30 30 1
  else if !s.odStageOk idx sub true || (decide (p = .pf) && s.earlyStage) then (s.odBump 0x6200 1 1).odReply p stUnitOffline
  else
    let r := act s
    match r.2 with
    | some st => (if st = stOk then r.1 else r.1.odBump 0x6200 1 1).odReply p st
    | none => r.1.odHold p

/-- As `odCmd`, for an entry of class S: an accepted write is noted. -/
def State.odCmdS (s : State) (p : Path) (idx sub : Nat) (act : State → State × Option Nat) : State :=
  s.odCmd p idx sub (fun t => let r := act t; if r.2 = some stOk then (r.1.noteS p idx sub, r.2) else r)

end Sys2Proof.Machine
end

