-- ==== Sys2Proof/Machine/Boot.lean ====
section
/-! DEFINITION. The stages of the management core and its measurements (16_management_and_startup.md R620, R622, R629, R635 to
R637). -/

namespace Sys2Proof.Machine

/-- The code of a stage (R635). -/
def stageCode (g : Stage) : Nat :=
  match g with
  | .rom => 1 | .waitImage => 2 | .verify => 3 | .start => 4 | .ready => 5 | .warm => 6

/-- A frame outside any session (R622). A module with slot ID 7, or whose address is in use, sends nothing (R620). -/
def State.tuiPlain (s : State) (type req status : Nat) (body : List Byte) : State :=
  if s.mg.silent then s else { s with mg := { s.mg with tx := { session := 0, type := type, req := req, status := status, body := body } :: s.mg.tx } }

/-- The serial number as 16 bytes. -/
def serial16 : List Byte := slice Config.serial 0 16

/-- The PLCA ID: SLOT + 1, and none with slot ID 7 (R620). -/
def State.plca (s : State) : Nat := if s.mg.slotId = 7 then 0 else s.mg.slotId + 1

/-- ANNOUNCE (R622). -/
def State.announce (s : State) : State :=
  s.tuiPlain 0x02 0 0 (serial16 ++ leBytes 1 (stageCode s.mg.stage) ++ leBytes 1 (s.rf (mgR 0x10) 15 8) ++ leBytes 1 s.plca ++ leBytes 1 0 ++ leBytes 4 (s.odGet 0x1000 7))

/-- Enter a stage: MG_STATUS and 0x9000:01 show it, and an ANNOUNCE goes out (R622, R635). -/
def State.setStage (s : State) (g : Stage) : State :=
  let t := { s with mg := { s.mg with stage := g } }
  let t := (t.setRf (mgR 0x10) 2 0 (stageCode g)).setRf (mgR 0x10) 31 31 (b2n (decide (g = .ready)))
  (t.odSet 0x9000 1 (stageCode g)).announce

/-! ### Measurements (R629) -/

/-- The bytes of a name. -/
def strBytes (x : String) : List Byte := x.toList.map (fun c => BitVec.ofNat 8 c.toNat)

/-- The bytes of the image held, its header first. -/
def State.imageBytes (s : State) : List Byte := s.mg.image.flatMap (·.2)

/-- The S entries by key, with their types, in ascending index and subindex. -/
def sEntries : SMap OdTy :=
  let keys (r : OdRow) : List Nat := (List.range r.parts).flatMap (fun p => (List.range (r.s1 + 1 - r.s0)).map (fun i => odKey (r.idx + p) (r.s0 + i)))
  (odRows.filter (·.keep)).foldl (fun (m : SMap OdTy) r => (keys r).foldl (fun (m : SMap OdTy) k => SMap.put m k r.ty) m) []

/-- The values of the S entries in ascending index and subindex. -/
def State.sValues (s : State) : List Byte :=
  sEntries.flatMap (fun e => match e.2 with | .blob n => slice (s.blob (e.1 / 256) (e.1 % 256)) 0 n | ty => leBytes ty.bytes (s.odGet (e.1 / 256) (e.1 % 256)))

/-- The five measurements (R629). How the fuse state lies in its 160 bytes is open (log 14). -/
def State.measurements (s : State) : List (List Byte) :=
  [Config.romDigest, Config.sha384 (slice s.imageBytes 0 512), slice (Config.fuseState s.mg.keyRevoked (s.mg.owners.flatMap (·.2)) s.mg.ownerRevoked s.mg.floor) 0 160,
   Config.sha384 s.mg.measured, slice (strBytes (if s.ac then "FV-80-AC" else "FV-80-LC") ++ strBytes "A1") 0 16]

/-- Stage READY: the fabric is enabled when 0x5000:02 is TRUE, and the S entries are measured as they are applied (R629, R637). -/
def State.fwReady (s : State) : State :=
  let t := if s.odGet 0x5000 2 = 1 then s.fabricStart else s
  { t with mg := { t.mg with warming := false, measured := t.sValues } }.setStage .ready

end Sys2Proof.Machine
end

