-- ==== Sys2Proof/Machine/Float.lean ====
section
/-! DEFINITION. The number formats and their arithmetic (04_number_formats.md): values are exact dyadic numbers, computed
without error and rounded once where the spec rounds. -/

namespace Sys2Proof.Machine

/-- An exact value: `(-1)^neg * m * 2^e`, an infinity, or NaN. -/
inductive XVal where
  | fin (neg : Bool) (m : Nat) (e : Int)
  | inf (neg : Bool)
  | nan
  deriving DecidableEq, Repr

/-- Positive zero. -/
def XVal.zero : XVal := .fin false 0 0

/-- Whether a value is a zero. -/
def XVal.isZero : XVal → Bool
  | .fin _ m _ => m = 0
  | _ => false

/-- Whether a value is NaN. -/
def XVal.isNan : XVal → Bool
  | .nan => true
  | _ => false

/-- An integer as an exact value. -/
def XVal.ofInt (i : Int) : XVal := .fin (i < 0) i.natAbs 0

/-- Bits of a magnitude. -/
def bitLen (m : Nat) : Nat := if m = 0 then 0 else Nat.log2 m + 1

/-- floor(log2) of a non-zero finite magnitude. -/
def expOf (m : Nat) (e : Int) : Int := (bitLen m : Int) - 1 + e

/-- How a floating format encodes infinities and NaN (R137). -/
inductive FStyle where
  | ieee | finite | nan80
  deriving DecidableEq, Repr

/-- A floating format (R137). -/
structure Fmt where
  ebits : Nat
  fbits : Nat
  bias : Int
  style : FStyle
  deriving DecidableEq, Repr

/-- SF4 (R138). -/
def fmtSF4 : Fmt := ⟨2, 1, 1, .finite⟩
/-- SF6 (R139). -/
def fmtSF6 : Fmt := ⟨3, 2, 3, .finite⟩
/-- SF8e4. -/
def fmtSF8e4 : Fmt := ⟨4, 3, 7, .nan80⟩
/-- SF8e5. -/
def fmtSF8e5 : Fmt := ⟨5, 2, 15, .nan80⟩
/-- binary16. -/
def fmtB16 : Fmt := ⟨5, 10, 15, .ieee⟩
/-- bfloat16. -/
def fmtBf16 : Fmt := ⟨8, 7, 127, .ieee⟩
/-- binary32. -/
def fmtB32 : Fmt := ⟨8, 23, 127, .ieee⟩
/-- binary64 (02 R56). -/
def fmtB64 : Fmt := ⟨11, 52, 1023, .ieee⟩

/-- The floating format of a code (R91). -/
def fmtOf (code : Nat) : Option Fmt :=
  match code with
  | 2 => some fmtSF8e4
  | 3 => some fmtSF8e5
  | 4 => some fmtSF6
  | 5 => some fmtSF4
  | 6 => some fmtBf16
  | 7 => some fmtB16
  | 8 => some fmtB32
  | _ => none

/-- The width of an integer format's code (R136). -/
def intWidth (code : Nat) : Option Nat :=
  match code with
  | 0 => some 8
  | 1 => some 4
  | 9 => some 32
  | _ => none

/-- Bits of an element of a format. -/
def fmtBits (code : Nat) : Nat :=
  match code with
  | 0 => 8 | 1 => 4 | 2 => 8 | 3 => 8 | 4 => 6 | 5 => 4 | 6 => 16 | 7 => 16 | _ => 32

/-- emax of a format (R136, R137). -/
def emaxOf (code : Nat) : Int :=
  match code with
  | 0 => 6 | 1 => 2 | 2 => 8 | 3 => 16 | 4 => 4 | 5 => 2 | 6 => 127 | 7 => 15 | 8 => 127 | _ => 30

/-- The value of a floating code (R137). -/
def Fmt.decode (f : Fmt) (x : Nat) : XVal :=
  let s := bit x (f.ebits + f.fbits)
  let e := bits x (f.ebits + f.fbits - 1) f.fbits
  let m := x % 2 ^ f.fbits
  let top := 2 ^ f.ebits - 1
  if f.style = .nan80 ∧ s ∧ e = 0 ∧ m = 0 then .nan
  else if f.style = .ieee ∧ e = top then (if m = 0 then .inf s else .nan)
  else if e = 0 then
    if m = 0 then .fin (s && f.style = .ieee) 0 0 else .fin s m (1 - f.bias - f.fbits)
  else .fin s (m + 2 ^ f.fbits) ((e : Int) - f.bias - f.fbits)

/-- The value of a code of any format: integers are two's complement (R136). -/
def decodeVal (code x : Nat) : XVal :=
  match intWidth code with
  | some w => XVal.ofInt (toSigned w x)
  | none => match fmtOf code with
    | some f => f.decode x
    | none => .nan

/-- Exponent of a format's smallest normal value. -/
def Fmt.emin (f : Fmt) : Int := 1 - f.bias

/-- Largest finite magnitude of a format as mantissa and exponent. -/
def Fmt.maxFin (f : Fmt) : Nat × Int :=
  let top : Int := if f.style = .ieee then (2 ^ f.ebits : Nat) - 2 else (2 ^ f.ebits : Nat) - 1
  (2 ^ (f.fbits + 1) - 1, top - f.bias - f.fbits)

/-- Whether a non-zero magnitude is subnormal in a format: below its smallest normal value. -/
def Fmt.isSub (f : Fmt) (m : Nat) (e : Int) : Bool := m ≠ 0 && decide (expOf m e < f.emin)

/-! ### Rounding (R148 to R150) -/

/-- Rounding modes. Stochastic rounding carries the LFSR's new state r. -/
inductive Round where
  | nearest | toZero
  | stochastic (r : Nat)
  deriving DecidableEq, Repr

/-- `m * 2^e` rounded to a multiple of `2^q`, in units of `2^q`. -/
def roundTo (md : Round) (m : Nat) (e q : Int) : Nat :=
  if q ≤ e then m * 2 ^ (e - q).toNat
  else
    let sh := (q - e).toNat
    let n := m / 2 ^ sh
    let rem := m % 2 ^ sh
    match md with
    | .toZero => n
    | .nearest => if 2 * rem > 2 ^ sh ∨ (2 * rem = 2 ^ sh ∧ n % 2 = 1) then n + 1 else n
    | .stochastic r => if rem * 2 ^ 16 / 2 ^ sh + r ≥ 2 ^ 16 then n + 1 else n

/-- One step of the LFSR (R150). -/
def lfsrStep (x : Nat) : Nat :=
  let b := (b2n (bit x 15) + b2n (bit x 13) + b2n (bit x 12) + b2n (bit x 10)) % 2
  (x * 2 + b) % 2 ^ 16

/-- The seed of an LFSR: SR_SEED XOR (n × 0x0101), or 0xACE1 when that is zero (R150, R151). -/
def lfsrSeed (seed n : Nat) : Nat :=
  let x := (seed ^^^ (n * 0x0101)) % 2 ^ 16
  if x = 0 then 0xACE1 else x

/-- Encode a magnitude in a format's finite range; `n` counts units of `2^q`. -/
def Fmt.encodeFin (f : Fmt) (neg : Bool) (n : Nat) (q : Int) : Nat :=
  let sgn := b2n neg * 2 ^ (f.ebits + f.fbits)
  if n = 0 then (if f.style = .nan80 then 0 else sgn)
  else
    let ex := expOf n q
    if ex < f.emin then sgn + roundTo .toZero n q (f.emin - f.fbits)
    else sgn + (ex + f.bias).toNat * 2 ^ f.fbits + (roundTo .toZero n q (ex - f.fbits) - 2 ^ f.fbits)

/-- The canonical NaN of a format: 0x80 in SF8, +0 in SF4 and SF6 (R149). -/
def Fmt.nanCode (f : Fmt) : Nat :=
  match f.style with
  | .ieee => (2 ^ f.ebits - 1) * 2 ^ f.fbits + 2 ^ (f.fbits - 1)
  | .nan80 => 0x80
  | .finite => 0

/-- An infinity of an IEEE format. -/
def Fmt.infCode (f : Fmt) (neg : Bool) : Nat := b2n neg * 2 ^ (f.ebits + f.fbits) + (2 ^ f.ebits - 1) * 2 ^ f.fbits

/-- The largest finite code. -/
def Fmt.maxCode (f : Fmt) (neg : Bool) : Nat := f.encodeFin neg f.maxFin.1 f.maxFin.2

/-- What a conversion gave: the code, and whether it saturated or flushed. -/
structure Conv where
  code : Nat
  sat : Bool := false
  flushed : Bool := false
  deriving DecidableEq, Repr

/-- Conversion of an exact value to a floating format (R145, R148, R149). -/
def Fmt.conv (f : Fmt) (md : Round) (flush : Bool) (v : XVal) : Conv :=
  match v with
  | .nan => ⟨f.nanCode, false, false⟩
  | .inf s => if f.style = .ieee then ⟨f.infCode s, false, false⟩ else ⟨f.maxCode s, true, false⟩
  | .fin s m e =>
    if m = 0 then ⟨f.encodeFin s 0 0, false, false⟩
    else if flush && f.isSub m e then ⟨f.encodeFin s 0 0, false, true⟩
    else
      let q := max (expOf m e - f.fbits) (f.emin - f.fbits)
      let n := roundTo md m e q
      let (mm, me) := f.maxFin
      if n ≠ 0 ∧ (me < q ∨ mm < n * 2 ^ (q - me).toNat ∧ me ≤ q) then
        if f.style = .ieee ∧ md ≠ .toZero then ⟨f.infCode s, true, false⟩ else ⟨f.maxCode s, true, false⟩
      else ⟨f.encodeFin s n q, false, false⟩

/-- The exact integer nearest under a mode, of a finite value. -/
def roundInt (md : Round) (s : Bool) (m : Nat) (e : Int) : Int :=
  let n := roundTo md m e 0
  if s then -(n : Int) else n

/-- Conversion to an integer format of width w: rounded first, then checked against the range (R148, R149). -/
def convInt (w : Nat) (md : Round) (v : XVal) : Conv :=
  let hi : Int := ((2 ^ (w - 1) : Nat) : Int) - 1
  let lo : Int := -((2 ^ (w - 1) : Nat) : Int)
  match v with
  | .nan => ⟨0, false, false⟩
  | .inf s => ⟨ofSigned w (if s then lo else hi), true, false⟩
  | .fin s m e =>
    let i := roundInt md s m e
    if hi < i then ⟨ofSigned w hi, true, false⟩
    else if i < lo then ⟨ofSigned w lo, true, false⟩
    else ⟨ofSigned w i, false, false⟩

/-- Conversion to a format by its code. A binary32 value written as binary32 passes through with R145 applied. -/
def convTo (code : Nat) (md : Round) (flush : Bool) (v : XVal) : Conv :=
  match intWidth code with
  | some w => convInt w md v
  | none => match fmtOf code with
    | some f => f.conv md flush v
    | none => ⟨0, false, false⟩

/-! ### Exact operations and binary32 and binary64 -/

/-- Exact sum; opposite infinities give NaN (R143). An exact zero sum is +0 unless both are negative zero. -/
def XVal.add : XVal → XVal → XVal
  | .nan, _ => .nan
  | _, .nan => .nan
  | .inf a, .inf b => if a = b then .inf a else .nan
  | .inf a, _ => .inf a
  | _, .inf b => .inf b
  | .fin s m e, .fin t n f =>
    let q := min e f
    let a : Int := (m * 2 ^ (e - q).toNat : Nat)
    let b : Int := (n * 2 ^ (f - q).toNat : Nat)
    let x := (if s then -a else a) + (if t then -b else b)
    if x = 0 then .fin (s && t) 0 0 else .fin (x < 0) x.natAbs q

/-- Exact product; infinity times zero is NaN. -/
def XVal.mul : XVal → XVal → XVal
  | .nan, _ => .nan
  | _, .nan => .nan
  | .inf a, .inf b => .inf (a != b)
  | .inf a, .fin t n _ => if n = 0 then .nan else .inf (a != t)
  | .fin s m _, .inf b => if m = 0 then .nan else .inf (s != b)
  | .fin s m e, .fin t n f => if m = 0 ∨ n = 0 then .fin (s != t) 0 0 else .fin (s != t) (m * n) (e + f)

/-- The negative of a value. -/
def XVal.neg : XVal → XVal
  | .nan => .nan
  | .inf a => .inf (!a)
  | .fin s m e => .fin (!s) m e

/-- Whether a value is below another: −0 counts as less than +0 (02 R77). NaN compares false. -/
def XVal.lt : XVal → XVal → Bool
  | .nan, _ => false
  | _, .nan => false
  | .inf a, .inf b => a && !b
  | .inf a, _ => a
  | _, .inf b => !b
  | .fin s m e, .fin t n f =>
    let q := min e f
    let a : Int := (m * 2 ^ (e - q).toNat : Nat)
    let b : Int := (n * 2 ^ (f - q).toNat : Nat)
    let x := (if s then -a else a)
    let y := (if t then -b else b)
    decide (x < y) || (decide (x = y) && s && !t)

/-- Exact quotient to 64 bits and more, its lowest bit sticky: every later rounding is that of the exact quotient. -/
def XVal.div : XVal → XVal → XVal
  | .nan, _ => .nan
  | _, .nan => .nan
  | .inf _, .inf _ => .nan
  | .inf a, .fin t _ _ => .inf (a != t)
  | .fin s _ _, .inf b => .fin (s != b) 0 0
  | .fin s m e, .fin t n f =>
    if n = 0 then (if m = 0 then .nan else .inf (s != t))
    else if m = 0 then .fin (s != t) 0 0
    else
      let k := bitLen n + 64
      .fin (s != t) (2 * (m * 2 ^ k / n) + b2n (decide (m * 2 ^ k % n ≠ 0))) (e - f - (k : Int) - 1)

/-- Integer square root, bit by bit from bit `i - 1`. -/
def isqrtFrom (n : Nat) : Nat → Nat → Nat
  | 0, r => r
  | i + 1, r => isqrtFrom n i (if (r + 2 ^ i) * (r + 2 ^ i) ≤ n then r + 2 ^ i else r)

/-- Integer square root. -/
def isqrt (n : Nat) : Nat := isqrtFrom n (bitLen n / 2 + 1) 0

/-- Square root with a sticky lowest bit. -/
def XVal.sqrt : XVal → XVal
  | .nan => .nan
  | .inf a => if a then .nan else .inf false
  | .fin s m e =>
    if m = 0 then .fin s 0 0
    else if s then .nan
    else
      let odd : Nat := (e % 2).toNat
      let x := m * 2 ^ (odd + 128)
      let r := isqrt x
      .fin false (2 * r + b2n (decide (r * r ≠ x))) ((e - (odd : Int) - 128) / 2 - 1)

/-- A binary32 word's value. -/
def b32 (x : Nat) : XVal := fmtB32.decode (x % 2 ^ 32)

/-- Round an exact value to binary32, to nearest even; subnormals kept. -/
def toB32 (v : XVal) : Nat := (fmtB32.conv .nearest false v).code

/-- Round an exact value to binary32 under the subnormal mode; says whether it flushed (R145). -/
def toB32f (flush : Bool) (v : XVal) : Nat × Bool :=
  let c := fmtB32.conv .nearest flush v
  (c.code, c.flushed)

/-- binary32 addition to nearest even. -/
def addB32 (a b : Nat) : Nat := toB32 ((b32 a).add (b32 b))

/-- binary32 multiplication to nearest even. -/
def mulB32 (a b : Nat) : Nat := toB32 ((b32 a).mul (b32 b))

/-- binary32 fused multiply-add. -/
def fmaB32 (a b c : Nat) : Nat := toB32 (((b32 a).mul (b32 b)).add (b32 c))

/-- A binary64 word's value. -/
def b64 (x : Nat) : XVal := fmtB64.decode (x % 2 ^ 64)

/-- Round to binary64. -/
def toB64 (v : XVal) : Nat := (fmtB64.conv .nearest false v).code

/-- A bfloat16 word's value. -/
def bf16 (x : Nat) : XVal := fmtBf16.decode (x % 2 ^ 16)

/-- Widen bfloat16 to binary32 (R152): exact. -/
def widenBf16 (x : Nat) : Nat := (x % 2 ^ 16) * 2 ^ 16

/-- The canonical binary32 NaN (R143). -/
def nanB32 : Nat := 0x7FC00000

/-- binary32 minimum and maximum by value: NaN gives the canonical NaN, −0 is below +0 (02 R77, 14 R578). -/
def minB32 (a b : Nat) : Nat :=
  if (b32 a).isNan || (b32 b).isNan then nanB32 else if (b32 b).lt (b32 a) then b else a

/-- See `minB32`. -/
def maxB32 (a b : Nat) : Nat :=
  if (b32 a).isNan || (b32 b).isNan then nanB32 else if (b32 a).lt (b32 b) then b else a

/-- Multiply a bfloat16 scale by 2^delta where that is exact and within 2^-120 and 2^120 in magnitude (R168). -/
def scaleBf16 (x : Nat) (delta : Int) : Option Nat :=
  match bf16 x with
  | .fin s m e =>
    if m = 0 then none
    else
      let ex := expOf m (e + delta)
      let small : Bool := ex < -120
      let large : Bool := ex > 120 || (ex = 120 && 2 ^ (bitLen m - 1) ≠ m)
      if small || large then none else some (fmtBf16.conv .nearest false (.fin s m (e + delta))).code
  | _ => none

/-- Split a class-32 operand into its high and low bfloat16 parts (R147). Under flush, a subnormal part is zero. -/
def splitB32 (flush : Bool) (x : Nat) : XVal × XVal :=
  let v := b32 x
  let h := bf16 (fmtBf16.conv .nearest false v).code
  let l := bf16 (fmtBf16.conv .nearest false (v.add h.neg)).code
  let fl (y : XVal) : XVal := match y with
    | .fin s m e => if flush && fmtBf16.isSub m e then .fin s 0 0 else .fin s m e
    | y => y
  (fl h, fl l)

end Sys2Proof.Machine
end

