-- ==== Sys2Proof/Machine/Plans.lean ====
section
/-! DEFINITION. The timing of negatives (15_negatives_and_repair.md R588 to R593): the interval, failures, and how a negative
ends. -/

namespace Sys2Proof.Machine

/-! ### The interval in binary64 (R589) -/

/-- A quotient of whole numbers rounded to binary64, to nearest even, as an exact value. -/
def quotB64 (num den : Nat) : XVal := b64 (toB64 ((XVal.ofInt num).div (XVal.ofInt den)))

/-- A value in seconds as a whole number of units of 1/`u` s, rounded down. -/
def secsTo (u : Nat) : XVal → Nat
  | .fin _ m e => if 0 ≤ e then m * u * 2 ^ e.toNat else m * u / 2 ^ (-e).toNat
  | _ => 0

/-- The mean of a history in ticks, in seconds. -/
def meanSecs (hist : List Nat) : XVal := quotB64 (sumNat hist) (Nat.max 1 hist.length * 100000000)

/-- τ of R589, in seconds, within its bounds. -/
def tauOf (c : Nat) (hist : List Nat) : XVal :=
  let x := b64 (toB64 (((XVal.fin false 2 0).mul (quotB64 c 100000000)).mul (meanSecs hist)))
  let t := b64 (toB64 x.sqrt)
  let lo := XVal.ofInt 30
  let hi := XVal.ofInt 21600
  if t.lt lo then lo else if hi.lt t then hi else t

/-- τ of a plan in ticks. -/
def Plan.tau (p : Plan) : Nat := secsTo 100000000 (tauOf p.c p.hist)

/-! ### Plans (R588) -/

/-- The plan of a partition. -/
def State.plan (s : State) (p : Nat) : Plan := s.ng.plans.getD p {}
/-- Change the plan of a partition. -/
def State.modPlan (s : State) (p : Nat) (f : Plan → Plan) : State := { s with ng := { s.ng with plans := s.ng.plans.upd p {} f } }
/-- Whether a plan is enabled. -/
def State.planOn (s : State) (p : Nat) : Bool := decide ((s.plan p).state ≠ 0)
/-- Entries of a plan. -/
def State.planOd (s : State) (p sub : Nat) : Nat := s.odGet (0x6030 + p) sub
/-- The operations of a plan: indices other than 0xFFFF. -/
def State.planOps (s : State) (p : Nat) : List Nat :=
  let b := s.blob (0x6030 + p) 5
  ((List.range 64).map (fun i => sliceNat b (2 * i) 2)).filter (· ≠ 0xFFFF)

/-- A plan is disabled: its last negative completed stays shown. -/
def State.planOff (s : State) (p : Nat) : State := (s.modPlan p (fun x => { done := x.done })).odSet (0x6030 + p) 1 0

/-- The plans of a context, or of a group, are disabled (R588). -/
def State.plansOff (s : State) (sub v : Nat) : State :=
  s.each ((List.range 8).filter (fun p => s.planOn p && decide (s.planOd p sub = v))) (fun t p => t.planOff p)

/-- A failure counts for a plan: the interval since the last joins the history, and a shortened τ moves the due time. The same
node counts once within 60 s (R591, R593). -/
def State.planFailure (s : State) (p : Nat) (node : Option Nat) : State :=
  let x := s.plan p
  let again : Bool := match node with | some n => x.seen.any (fun e => e.1 = n && decide (s.now < e.2 + 6000000000)) | none => false
  if x.state = 0 || again then s
  else
    let y := { x with hist := (x.hist ++ [s.now - x.tLast]).drop (x.hist.length - 31), tLast := s.now, seen := match node with | some n => (n, s.now) :: x.seen.filter (fun e => e.1 ≠ n) | none => x.seen }
    let due := if y.state = 1 ∧ y.tau < x.tau then Nat.max s.now (y.tRise + y.tau) else y.due
    (s.modPlan p (fun _ => { y with due := due })).odBump 0x61F0 2 1

/-- A member of groups is LOST: the plans that count those groups' failures (R591). -/
def State.planLost (s : State) (n : Nat) : State :=
  s.each ((List.range 8).filter (fun p => s.planOn p && entValid (s.lkGroup (s.planOd p 6)) && (s.members (s.planOd p 6)).contains n)) (fun t p => t.planFailure p (some n))

/-- This module failed for a context: a teardown by a fault, or a POISON or TORN part (R591). -/
def State.planFault (s : State) (c : Nat) : State :=
  s.each ((List.range 8).filter (fun p => s.planOn p && decide (s.planOd p 2 = c))) (fun t p => t.planFailure p (some (t.lkCfg 1)))

/-- A negative completes at the peer: its measured time is the new cost (R590, R592). -/
def State.negDone (s : State) (p : Nat) : State :=
  let s := s.modPlan p (fun x => let y := { x with c := s.now - x.tRise, done := x.n, n := x.n + 1, state := 1, late := false }; { y with due := y.tRise + y.tau })
  (s.odBump 0x61F0 1 1).ngEvent 0

/-- A negative fails: the next is due 30 s later (R592). -/
def State.negFail (s : State) (p : Nat) : State :=
  let s := s.modPlan p (fun x => { x with n := x.n + 1, state := 1, late := false, due := s.now + 3000000000 })
  (s.odBump 0x61F0 3 1).ngEvent 0

end Sys2Proof.Machine
end

