-- ==== Sys2Proof/Machine/Objs.lean ====
section
/-! DEFINITION. Shared operations over objects (12_objects_and_submission.md): references and reclamation, signals,
the holds of freed objects, and the completion of an entry. -/

namespace Sys2Proof.Machine

/-- Object kinds (R448). -/
def kCtx : Nat := 1
/-- Queue. -/
def kQueue : Nat := 2
/-- Memory object. -/
def kMem : Nat := 3
/-- Fence. -/
def kFence : Nat := 4
/-- Event. -/
def kEvent : Nat := 5

/-- The reference count of an object (R451). -/
def State.refsOf (s : State) (kind h : Nat) : Nat :=
  if kind = 1 then (s.ctx h).refs else if kind = 2 then (s.queue h).refs else if kind = 3 then (s.memObj h).refs else (s.sync h).refs

/-- The state of an object (R451). -/
def State.objSt (s : State) (kind h : Nat) : ObjSt :=
  if kind = 1 then (s.ctx h).st else if kind = 2 then (s.queue h).ost else if kind = 3 then (s.memObj h).st else (s.sync h).st

/-- Set an object's count; a DYING object whose count is zero goes to RECLAIMING (R455). -/
def State.setRefs (s : State) (kind h n : Nat) : State :=
  let next (st : ObjSt) : ObjSt := if st = .dying ∧ n = 0 then .reclaiming else st
  let e := s.obj.epoch
  if kind = 1 then s.modCtx h (fun x => { x with refs := n, st := next x.st, epoch := if next x.st = x.st then x.epoch else e })
  else if kind = 2 then s.modQueue h (fun x => { x with refs := n, ost := next x.ost, epoch := if next x.ost = x.ost then x.epoch else e })
  else if kind = 3 then s.setMemObj h (let x := s.memObj h; { x with refs := n, st := next x.st, epoch := if next x.st = x.st then x.epoch else e })
  else s.modSync h (fun x => { x with refs := n, st := next x.st, epoch := if next x.st = x.st then x.epoch else e })

/-- Take a reference (R453). -/
def State.addRef (s : State) (kind h : Nat) : State := s.setRefs kind h (s.refsOf kind h + 1)

/-- Drop a reference (R453). -/
def State.dropRef (s : State) (kind h : Nat) : State := s.setRefs kind h (s.refsOf kind h - 1)

/-- Put an object into DYING and drop its creation reference (R455). -/
def State.kill (s : State) (kind h : Nat) : State :=
  let t :=
    if kind = 1 then s.modCtx h (fun x => { x with st := .dying })
    else if kind = 2 then s.modQueue h (fun x => { x with ost := .dying })
    else if kind = 3 then s.setMemObj h { s.memObj h with st := .dying }
    else s.modSync h (fun x => { x with st := .dying })
  t.dropRef kind h

/-- Queues of a context. -/
def State.ctxQueues (s : State) (c : Nat) : List Nat :=
  (s.obj.queues.filter (fun e => e.2.ctx = c && e.2.ost ≠ .free)).map (·.1)

/-- Memory objects of a context that are not FREE. -/
def State.ctxMems (s : State) (c : Nat) : List Nat := (s.obj.mems.filter (fun e => e.2.ctx = c && e.2.st ≠ .free)).map (·.1)

/-- Fences and events of a context that are not FREE. -/
def State.ctxSyncs (s : State) (c : Nat) : List Nat := (s.obj.syncs.filter (fun e => e.2.ctx = c && e.2.st ≠ .free)).map (·.1)

/-- Contexts of a partition that are not FREE. -/
def State.partCtxs (s : State) (p : Nat) : List Nat := (s.obj.ctxs.filter (fun e => e.2.part = p && e.2.st ≠ .free)).map (·.1)

/-! ### Generations and holds (R457) -/

/-- Distance of an entry index or tail ahead of a queue's HEAD (R463). -/
def Queue.ahead (q : Queue) (n : Nat) : Nat := (n + 2 ^ 32 - q.head) % 2 ^ 32

/-- The generation of the entry at HEAD: the first mark beyond it. -/
def Queue.headGen (q : Queue) : Nat :=
  match q.gens.find? (fun m => 0 < q.ahead m.1) with
  | some m => m.2
  | none => 0

/-- Forget marks that HEAD has reached. -/
def Queue.prune (q : Queue) : Queue :=
  { q with gens := q.gens.filter (fun m => 0 < q.ahead m.1 && q.ahead m.1 ≤ (q.tail + 2 ^ 32 - q.head) % 2 ^ 32) }

/-- Whether every queue of a context has dealt with every entry at or below a generation. -/
def State.gensDone (s : State) (c g : Nat) : Bool :=
  (s.ctxQueues c).all (fun q => (s.queue q).gens.all (fun m => g < m.2))

/-- Release the holds of a context's freed objects that no announced entry can still name (R457). -/
def State.releaseHolds (s : State) (c : Nat) : State :=
  let s := s.each (s.ctxMems c) (fun t h =>
    let m := t.memObj h
    match m.freeGen with
    | some g => if m.hold && t.gensDone c g then (t.setMemObj h { m with hold := false }).dropRef kMem h else t
    | none => t)
  s.each (s.ctxSyncs c) (fun t h =>
    let m := t.sync h
    match m.freeGen with
    | some g => if m.hold && t.gensDone c g then (t.setSync h { m with hold := false }).dropRef kFence h else t
    | none => t)

/-- Set a queue's HEAD, forget the marks passed and release holds. -/
def State.setHead (s : State) (q head : Nat) : State :=
  let t := s.modQueue q (fun x => Queue.prune { x with head := head % 2 ^ 32 })
  t.releaseHolds (t.queue q).ctx

/-! ### Fences and events (R479 to R483) -/

/-- The fence that a handle's value stands in: the original of a local alias. -/
def State.original (s : State) (h : Nat) : Nat :=
  let f := s.sync h
  if f.alias_ && !f.remote then f.target else h

/-- Write a fence's shadow (R480): ERROR at SHADOW + 8, then VALUE; a failure records a non-stalling fault. -/
def State.writeShadow (s : State) (h : Nat) : State :=
  let f := s.sync h
  if f.shadow = 0 then s
  else
    let r1 := s.hubWrite f.ctx (f.shadow + 8) (leBytes 8 (b2n f.error))
    let r2 := r1.st.hubWrite f.ctx f.shadow (leBytes 8 f.value)
    match r1.fault.orElse (fun _ => r2.fault) with
    | some x => r2.st.quietRecord 2 (r2.st.ctxPart f.ctx) f.ctx x [] [] 1
    | none => r2.st

/-- A FENCE_CHANGE to the holder of an alias (14 R556). -/
def pktFenceChange (alias_ v : Nat) (err : Bool) : LkPkt :=
  { type := 0x05, payload := leBytes 2 alias_ ++ leBytes 2 (b2n err) ++ leBytes 4 0 ++ leBytes 8 v }

/-- A SIGNAL to the owner of a fence (14 R556). -/
def pktSignal (handle v : Nat) (err : Bool) : LkPkt :=
  { type := 0x02, payload := leBytes 2 handle ++ leBytes 2 (b2n err) ++ leBytes 4 0 ++ leBytes 8 v }

/-- A SUBSCRIBE with a token and an alias (14 R556). -/
def pktSubscribe (token alias_ : Nat) : LkPkt := { type := 0x03, payload := leBytes 4 token ++ leBytes 2 alias_ ++ leBytes 2 0 }

/-- An UNSUBSCRIBE (14 R556). -/
def pktUnsubscribe (handle alias_ : Nat) : LkPkt := { type := 0x06, payload := leBytes 2 handle ++ leBytes 2 alias_ ++ leBytes 4 0 }

/-- After a change of a fence: its shadow, and a change message to each subscriber (R480, R483). -/
def State.fenceChanged (s : State) (h : Nat) : State :=
  let t := s.writeShadow h
  let f := t.sync h
  t.each f.subs (fun t n => t.lkSend n.1 (pktFenceChange n.2 f.value f.error))

/-- The end of a negative that runs: complete when every operation's DONE reached it without the error bit, failed when one
reached it with the bit (15 R592). -/
def State.negCheck (s : State) (p : Nat) : State :=
  let x := s.plan p
  let dones := (s.planOps p).map (fun o => s.sync (s.original (opDone (s.lkOp o))))
  if x.state ≠ 3 then s
  else if dones.any (fun f => decide (x.n ≤ f.value) && f.error) then s.negFail p
  else if dones.all (fun f => decide (x.n ≤ f.value)) then s.negDone p
  else s

/-- The negative engine sees a fence change: TRIGGER rises to the negative that is DUE, or a DONE rises (15 R592, R593). -/
def State.planWatch (s : State) (h : Nat) : State :=
  s.each (List.range 8) (fun t p =>
    let x := t.plan p
    if x.state = 0 then t
    else if x.state = 2 && decide (t.original (t.planOd p 4) = h) && decide ((t.sync h).value = x.n) then
      (t.modPlan p (fun x => { x with state := 3, tRise := t.now })).negCheck p
    else t.negCheck p)

/-- Signal a fence that stands on this module (R479). -/
def State.signalLocal (s : State) (h v : Nat) (err : Bool) : State :=
  let f := s.sync h
  if v ≤ f.value && (!err || f.error) then s
  else ((s.setSync h { f with value := Nat.max f.value v, error := f.error || err }).fenceChanged h).planWatch h

/-- Signal a fence by a handle: an alias acts on its original; a remote alias travels to the owner (R479, 05 R200). -/
def State.signal (s : State) (h v : Nat) (err : Bool) : State :=
  let f := s.sync h
  if f.alias_ && f.remote then s.lkSend f.node (pktSignal f.target v err)
  else s.signalLocal (s.original h) v err

/-- Add one to an event's count, which stops at its top (05 R202). -/
def State.signalEvent (s : State) (h : Nat) : State :=
  s.modSync h (fun e => { e with value := Nat.min (e.value + 1) 0xFFFFFFFF })

/-- Whether a handle is a fence (or event) of a context that an entry of generation `g` may name (R449, R457, R471). -/
def State.fenceOk (s : State) (c h g : Nat) (event : Bool) : Bool :=
  let f := s.sync h
  f.ctx = c && f.event = event &&
    (f.st = .live || (f.st = .dying && (match f.freeGen with | some k => decide (g ≤ k) | none => false)))

/-- Whether a handle is a memory object that an entry of generation `g` may name. -/
def State.memOk (s : State) (c h g : Nat) : Bool :=
  let m := s.memObj h
  m.ctx = c && (m.st = .live || (m.st = .dying && (match m.freeGen with | some k => decide (g ≤ k) | none => false)))

/-- Whether a stream instruction of a context may name a handle (R449). -/
def State.streamHandle (s : State) (c h : Nat) (event : Bool) : Bool :=
  let f := s.sync h
  f.ctx = c && f.event = event && (f.st = .live || f.st = .dying)

/-- Whether a wait is met, and the status that ends it instead (R475). -/
def State.waitStatus (s : State) (h v : Nat) : Option Nat :=
  let o := s.sync (s.original h)
  let a := s.sync h
  if a.remote && a.lost then some stDeviceLost
  else if o.error then some stFenceError
  else if v ≤ o.value then some stOk
  else none

/-- The owner queue of a fence as R473 takes it. -/
def State.ownerQ (s : State) (h : Nat) : Option Nat :=
  let f := s.sync h
  if f.alias_ && f.remote then none else (s.sync (s.original h)).owner

/-- Fences of a context with local aliases or remote subscribers take the error bit (R485, 16 R639). With `outside`,
only subscribers and aliases of other partitions count; with `remoteOnly`, only subscribers (R486). -/
def State.errorFences (s : State) (c : Nat) (outside remoteOnly : Bool) : State :=
  s.each (s.ctxSyncs c) (fun t h =>
    let f := t.sync h
    let aliased := t.obj.syncs.any (fun e => e.2.alias_ && !e.2.remote && e.2.target = h && e.2.st ≠ .free &&
      (!outside || t.ctxPart e.2.ctx ≠ t.ctxPart c))
    if f.event || f.alias_ || f.error || !((aliased && !remoteOnly) || f.subs ≠ []) then t
    else ((t.setSync h { f with error := true }).odBump 0x61C0 5 1).fenceChanged h)

/-! ### Completion of entries (R474 to R478) -/

/-- The signals of an entry's status (R477). -/
def State.entrySignals (s : State) (e : Entry) (status : Nat) : State :=
  if status = stPartial then s else s.each e.sigs (fun t g => t.signal g.1 g.2 (decide (status ≠ stOk)))

/-- The references that an accepted entry holds (R453). -/
def entryRefs (e : Entry) : List (Nat × Nat) :=
  e.waits.map (fun w => (kFence, w.1)) ++ e.sigs.map (fun w => (kFence, w.1)) ++ e.mems.map (fun m => (kMem, m))

/-- A write of the front end for an entry: a fault is recorded and stops the queue (R476). -/
def State.frontWrite (s : State) (c va : Nat) (bs : List Byte) : State × Bool :=
  let r := s.hubWrite c va bs
  match r.fault with
  | some x => (r.st.quietRecord 2 (s.ctxPart c) c x [] [] 1, true)
  | none => (r.st, false)

/-- The front end looks for more work (R468): IDLE when the ring is empty, else ACTIVE. -/
def State.fetchNext (s : State) (q : Nat) : State :=
  s.modQueue q (fun x =>
    if x.st = .active then (if x.head = x.tail then { x with st := .idle, pending := false } else { x with pending := false }) else x)

/-- Forget the update request of a queue: its shards leave the units (10 R399). -/
def State.dropUpd (s : State) (q : Nat) : State :=
  { s with upd := { s.upd with reqs := s.upd.reqs.del q, units := s.upd.units.mapAll {} (fun _ x => { x with jobs := x.jobs.filter (fun j => j.queue ≠ q) }), ruleWait := s.upd.ruleWait.map (fun w => { w with queues := w.queues.filter (· ≠ q) }) } }

/-- Complete the entry that a queue holds, with a status, in the order of R476. -/
def State.completeEntry (s : State) (q status : Nat) : State :=
  match (s.queue q).held with
  | none => s
  | some h =>
    let c := (s.queue q).ctx
    let e := h.entry
    let s := if h.quiet then s else s.entrySignals e status
    let seq := ((s.queue q).seq + 1) % 2 ^ 64
    let bad := decide (status ≠ stOk)
    let s := s.modQueue q (fun x => { x with seq := seq, errors := if bad then Nat.min (x.errors + 1) 0xFFFFFFFF else x.errors, errSeq := if bad then seq else x.errSeq, errStatus := if bad then status else x.errStatus })
    let x := s.queue q
    let (s, f1) := if h.quiet ∨ e.statusVa = 0 then (s, false)
      else s.frontWrite c e.statusVa (leBytes 8 (status + (seq % 2 ^ 56) * 256))
    let (s, f2) := if h.quiet then (s, false)
      else
        let body := leBytes 4 status ++ leBytes 4 x.errors ++ leBytes 8 s.now ++ leBytes 8 x.errSeq ++ leBytes 4 x.errStatus ++ List.replicate 28 0
        let (s, a) := s.frontWrite c (x.compl + 8) body
        let (s, b) := s.frontWrite c x.compl (leBytes 8 seq)
        (s, a || b)
    let s := if !h.quiet && x.irqEn && (e.irq || decide (e.fmt = 1)) then s.msix (s.fnOf (s.ctxPart c)) x.vector else s
    let s := if h.refused then s else s.each (entryRefs e) (fun t r => t.dropRef r.1 r.2)
    let s := (if x.device then s.modCtx c (fun k => { k with enqUsed := k.enqUsed - 1 }) else s).odBump 0x61C0 1 1
    let s := s.modQueue q (fun y => { y with held := none, st := if y.st = .stopping ∨ f1 ∨ f2 ∨ h.stopAfter then (if y.st = .none then .none else .stopped) else y.st })
    ((s.delStep q).dropUpd q).fetchNext q

/-- The held entry is over: it waits for its completion with a status. A status set before stands (00 R17). -/
def State.endHeld (s : State) (q status : Nat) (quiet : Bool) : State :=
  s.modQueue q (fun x => { x with held := x.held.map (fun h =>
    match h.phase with
    | .done c => { h with phase := .done (combineStatus c status), quiet := h.quiet || quiet }
    | _ => { h with phase := .done status, quiet := h.quiet || quiet }) })

end Sys2Proof.Machine
end

