-- ==== Sys2Proof/Machine/LkRuns.lean ====
section
/-! DEFINITION. The collective engine of Niandop Link (14_niandop_link.md R564, R568 to R580): groups, operations, runs, and what the
loss of a peer does. -/

namespace Sys2Proof.Machine

/-! ### Groups and operations (R568, R570) -/

/-- Bytes of an element (R570). -/
def opElem (b : List Byte) : Nat := if opFmt b = 8 ∨ opFmt b = 9 then 4 else 2
/-- Whether an operation reduces. -/
def opReduces (b : List Byte) : Bool := decide (opKind b < 2)

/-- The run record of an operation. -/
def State.run (s : State) (o : Nat) : Run := s.lk.runs.getD o {}
/-- Change the run record of an operation. -/
def State.modRun (s : State) (o : Nat) (f : Run → Run) : State := { s with lk := { s.lk with runs := s.lk.runs.upd o {} f } }

/-- What the engine needs of an operation at hand. -/
structure OpView where
  o : Nat
  e : List Byte
  g : List Byte
  gi : Nat
  n : Nat
  self : Nat
  nodes : List Nat
  chunk : Nat
  total : Nat

/-- View an operation with its group: `chunk` is C and `total` COUNT, in bytes. -/
def State.opView (s : State) (o : Nat) : OpView :=
  let e := s.lkOp o
  let gi := opGroup e
  let g := s.lkGroup gi
  { o := o, e := e, g := g, gi := gi, n := grpN g, self := grpSelf g, nodes := s.members gi, chunk := opCount e / grpN g * opElem e, total := opCount e * opElem e }

/-- The node of a rank. -/
def OpView.node (v : OpView) (r : Nat) : Nat := v.nodes.getD r 0
/-- Ranks other than this module's. -/
def OpView.others (v : OpView) : List Nat := (List.range v.n).filter (· ≠ v.self)
/-- The rank that follows in the ring. -/
def OpView.succ (v : OpView) : Nat := (v.self + 1) % v.n
/-- The rank before in the ring. -/
def OpView.pred (v : OpView) : Nat := (v.self + v.n - 1) % v.n
/-- Bytes of the destination at this module (R571). -/
def OpView.dstBytes (v : OpView) : Nat :=
  if opKind v.e = 1 then v.chunk else if opKind v.e = 4 then (if opRank v.e = v.self then v.total else 0) else v.total
/-- Bytes of the scratch (R571). -/
def OpView.scrBytes (v : OpView) : Nat := if opReduces v.e then (if opRing v.e then 2 * v.chunk else (v.n - 1) * v.chunk) else 0

/-! ### The end of a run (R572, R574, R579) -/

/-- A RUN_ABORT (R556). -/
def pktRunAbort (v : OpView) (run st : Nat) : LkPkt :=
  { type := 0x08, group := v.gi, epoch := grpEpoch v.g, run := run, op := v.o, payload := leBytes 1 st ++ leBytes 7 0 }

/-- A run ends with a status: DONE is signalled with the trigger's value, with the error bit unless it is OK (R574). What had
arrived for it is forgotten. -/
def State.runEnd (s : State) (o st : Nat) : State :=
  let r := s.run o
  let t := (s.modRun o (fun r => { r with running := false, status := st, prev := some r.name, lastDone := some r.name, got := r.got.filter (fun x => x.run ≠ r.name), sentTo := [], step := 0 })).odBump 0x61E0 (if st = stOk then 1 else 2) 1
  t.signal (opDone (s.lkOp o)) r.lastTrigger (decide (st ≠ stOk))

/-- A run fails at this module: its packets that wait are dropped, and every other member is told (R579). -/
def State.runFail (s : State) (o st : Nat) : State :=
  if !(s.run o).running then s
  else
    let v := s.opView o
    let name := (s.run o).name
    let s := s.each v.others (fun t q => t.modPeer (v.node q) (fun p => { p with waitTx := p.waitTx.filter (fun k => !(k.type = 1 && k.op = o && k.run = name)) }))
    let s := s.each v.others (fun t q => t.lkSend (v.node q) (pktRunAbort v name st))
    s.runEnd o st

/-- A running run ends with ABORTED and nobody is told (R569, R572, R579). -/
def State.runAbort (s : State) (o : Nat) : State := if (s.run o).running then s.runEnd o stAborted else s

/-- Clear an operation. -/
def State.opClear (s : State) (o : Nat) : State :=
  let t := s.runAbort o
  { t with lk := { t.lk with ops := t.lk.ops.del o, runs := t.lk.runs.del o } }

/-- The operations of a group. -/
def State.opsOf (s : State) (g : Nat) : List Nat := (s.lk.ops.filter (fun e => opGroup e.2 = g)).map (·.1)

/-- Clear a group and its operations (R572). -/
def State.groupClear (s : State) (g : Nat) : State :=
  let t := s.each (s.opsOf g) (fun t o => t.opClear o)
  State.plansOff { t with lk := { t.lk with groups := t.lk.groups.del g } } 6 g

/-- A context leaves LIVE: its groups are cleared (R572), and its negative plan is disabled (15 R588). -/
def State.ctxGroupsClear (s : State) (c : Nat) : State :=
  (s.plansOff 2 c).each ((s.lk.groups.filter (fun e => grpCtx e.2 = c)).map (·.1)) (fun t g => t.groupClear g)

/-! ### Sending a range (R555, R558, R565, R575) -/

/-- The packets of a range toward an address: within the payload size and the 64 KiB blocks of the destination. -/
def dataPieces (fuel off dst n size : Nat) : List (Nat × Nat) :=
  match fuel with
  | 0 => []
  | f + 1 => if n = 0 then [] else
      let k := Nat.min n (Nat.min size (65536 - dst % 65536))
      (off, k) :: dataPieces f (off + k) (dst + k) (n - k) size

/-- Where the engine reads: nothing, a VA of the group's context, or an IPA of its partition. -/
def State.lkRead (s : State) (v : OpView) (kind a n : Nat) : VaRes :=
  if kind = 1 then s.hubRead (grpCtx v.g) a n accRead else s.ipaRead (grpPart v.g) a n

/-- The mask of poisoned data sectors of a packet: the sector mask of R558, when any sector of its source is poisoned. -/
def packetMask (r : VaRes) (n : Nat) : Nat :=
  if r.poison = [] then 0 else 2 ^ (n / 32) - 1

/-- A range is sent to a node: each packet reads its own piece. The state, and the fault or status that ends the run. -/
structure SendRes where
  st : State
  fail : Option Nat := none
  wait : Bool := false

/-- A failed access of the collective engine: its record, and the status that the run takes (R371, R579). -/
def State.lkFault (s : State) (v : OpView) (x : XFault) : State :=
  s.quietRecord 2 (grpPart v.g) (grpCtx v.g) x [] [] 4

/-- Send one piece read from memory. -/
def State.sendPiece (v : OpView) (node run kind src dst : Nat) (r : SendRes) (p : Nat × Nat) : SendRes :=
  if r.wait || r.fail.isSome then r
  else
    let x := r.st.lkRead v kind (src + p.1) p.2
    if x.wait then { r with wait := true }
    else match x.fault with
      | some f => { st := x.st.lkFault v f, fail := some (causeStatus f.cause) }
      | none =>
        let bad := (x.poison.length ≠ 0 : Bool)
        let k : LkPkt := { type := 1, group := v.gi, addr := dst + p.1, epoch := grpEpoch v.g, run := run, op := v.o, mask := packetMask x p.2, poison := bad, payload := x.data, srcKind := kind, src := src + p.1 }
        match x.status with
        | some c => if x.poison = [] then { st := x.st, fail := some c } else { st := x.st.lkSend node k }
        | none => { st := x.st.lkSend node k }

/-- Send `n` bytes from memory to a node's address. An unreachable member fails the run with DEVICE_LOST (R554, R579). -/
def State.sendRange (s : State) (v : OpView) (rank run kind src dst n : Nat) : SendRes :=
  let node := v.node rank
  if s.routed node = 0 then { st := s, fail := some stDeviceLost }
  else (dataPieces (n / 32 + n / 65536 + 2) 0 dst n (s.lkCfg 6)).foldl (State.sendPiece v node run kind src dst) { st := s }

/-- Send bytes at hand to a node's address: they can not be read again. -/
def State.sendBytes (s : State) (v : OpView) (rank run dst : Nat) (bs : List Byte) : SendRes :=
  let node := v.node rank
  if s.routed node = 0 then { st := s, fail := some stDeviceLost }
  else
    { st := s.each (dataPieces (bs.length / 32 + bs.length / 65536 + 2) 0 dst bs.length (s.lkCfg 6)) (fun t p =>
        t.lkSend node { type := 1, group := v.gi, addr := dst + p.1, epoch := grpEpoch v.g, run := run, op := v.o, payload := slice bs p.1 p.2 }) }

/-! ### Reductions (R578) -/

/-- Combine two binary32 values: a NaN makes the result NaN. -/
def redF (op a b : Nat) : Nat :=
  let x := b32 a
  let y := b32 b
  if x.isNan || y.isNan then nanB32
  else if op = 0 then addB32 a b
  else if op = 1 then (if x.lt y then b else a)
  else (if y.lt x then b else a)

/-- Combine two INT32 values: sums wrap. -/
def redI (op a b : Nat) : Nat :=
  if op = 0 then (a + b) % 2 ^ 32
  else if op = 1 then (if toSigned 32 a < toSigned 32 b then b else a)
  else (if toSigned 32 b < toSigned 32 a then b else a)

/-- An element widened to what the combination works in. -/
def redWiden (fmt x : Nat) : Nat := if fmt = 9 then x else toB32 (decodeVal fmt x)

/-- A combined value written in FMT, rounded once to nearest even with gradual underflow. -/
def redNarrow (fmt x : Nat) : Nat := if fmt = 9 ∨ fmt = 8 then x else (convTo fmt .nearest false (b32 x)).code

/-- The elements of a range of bytes. -/
def elems (sz : Nat) : Nat → List Byte → List Nat
  | 0, _ => []
  | n + 1, bs => leNat (bs.take sz) :: elems sz n (bs.drop sz)

/-- Combine contributions, in the order given, and round once. -/
def reduceBytes (e : List Byte) (parts : List (List Byte)) : List Byte :=
  let sz := opElem e
  let wide := parts.map (fun b => (elems sz (b.length / sz) b).map (redWiden (opFmt e)))
  match wide with
  | [] => []
  | first :: rest =>
    let f := if opFmt e = 9 then redI (opRed e) else redF (opRed e)
    let sum := rest.foldl (fun acc x => List.zipWith f acc x) first
    sum.flatMap (fun x => leBytes sz (redNarrow (opFmt e) x))

/-- Put a contribution into a list by its key. -/
def insertKey (x : Nat × List Byte) : List (Nat × List Byte) → List (Nat × List Byte)
  | [] => [x]
  | y :: l => if x.1 < y.1 then x :: y :: l else y :: insertKey x l

/-- Combine contributions. The order in which they combine is not promised (R578, R173): each has a free value as its key (log 32). -/
def State.combine (s : State) (e : List Byte) (parts : List (List Byte)) : List Byte :=
  let keyed := (parts.zip (List.range parts.length)).foldr (fun x l => insertKey ((Config.freeWord (s.free + x.2)).toNat, x.1) l) []
  reduceBytes e (keyed.map (·.2))

/-- The free values of a combination are drawn. -/
def State.combined (s : State) (n : Nat) : State := { s with free := s.free + n }

/-- Bytes read for a reduction; poison is consumed: the run fails with POISON, and a record names the line (R579, 08 R338). -/
structure GatherRes where
  st : State
  parts : List (List Byte) := []
  fail : Option Nat := none
  wait : Bool := false

/-- Read one contribution. -/
def State.gatherOne (v : OpView) (n : Nat) (r : GatherRes) (x : Nat × Nat) : GatherRes :=
  if r.wait || r.fail.isSome then r
  else
    let y := r.st.lkRead v x.1 x.2 n
    if y.wait then { r with wait := true }
    else match y.fault with
      | some f => { r with st := y.st.lkFault v f, fail := some (causeStatus f.cause) }
      | none =>
        match y.status with
        | some c => { r with st := y.st, fail := some c }
        | none =>
          if y.poison = [] then { r with st := y.st, parts := r.parts ++ [y.data] }
          else
            { r with st := y.st.each ((y.poison.map (fun z => z / 4)).eraseDups.map (fun l => (l, ((y.vas.find? (fun e => e.1 = l)).map (·.2)).getD 0))) (fun t l => t.poisonRecord (grpPart v.g) (grpCtx v.g) l accRead 0 [] [] 4), fail := some stPoison }

/-- Write a range at this module's destination. -/
def State.lkWrite (s : State) (v : OpView) (ipa : Nat) (bs : List Byte) : SendRes :=
  let r := s.ipaWriteMem (grpPart v.g) ipa bs []
  if r.wait then { st := s, wait := true }
  else match r.fault with
    | some f => { st := r.st.lkFault v f, fail := some (causeStatus f.cause) }
    | none => { st := r.st, fail := r.status }

/-! ### The course of a run (R575 to R577) -/

/-- Bytes that have arrived for the current run in a region. -/
def Run.arrived (r : Run) (region : Nat) : Nat := sumNat ((r.got.filter (fun x => x.run = r.name && x.region = region)).map (·.bytes))

/-- Whether scratch data of the current run may go to a member: its CREDIT names the run before, or there was none (R577). -/
def Run.credited (r : Run) (rank : Nat) : Bool :=
  match r.prev with
  | none => true
  | some k => r.credits.getD rank 0 = k + 1

/-- A CREDIT (R556, R577). -/
def pktCredit (v : OpView) (run : Nat) : LkPkt := { type := 0x07, group := v.gi, epoch := grpEpoch v.g, run := run, op := v.o }

/-- What a step of a run did: nothing was to do, it went on, it waits for a unit, or the run fails. -/
inductive RunStep where
  | idle
  | went (s : State)
  | wait
  | fail (s : State) (status : Nat)

/-- From a send or a write: mark it done. -/
def SendRes.toStep (r : SendRes) (f : State → State) : RunStep :=
  if r.wait then .wait else match r.fail with | some c => .fail r.st c | none => .went (f r.st)

/-- Send a chunk to a member under DIRECT step 1, if it has not gone and may go. -/
def State.directScratch (s : State) (v : OpView) : RunStep :=
  let r := s.run v.o
  match v.others.find? (fun q => !r.sentTo.contains q && r.credited q) with
  | none => .idle
  | some q =>
    let slot := if v.self < q then v.self else v.self - 1
    (s.sendRange v q r.name 1 (opSrc v.e + q * v.chunk) (opScr v.e + slot * v.chunk) v.chunk).toStep (fun t => t.modRun v.o (fun x => { x with sentTo := x.sentTo ++ [q] }))

/-- Reduce when every slot of the own chunk has arrived (DIRECT step 2). -/
def State.directReduce (s : State) (v : OpView) : RunStep :=
  let r := s.run v.o
  if r.step ≠ 0 || !(List.range (v.n - 1)).all (fun i => decide (v.chunk ≤ r.arrived i)) then .idle
  else
    let g := (((1, opSrc v.e + v.self * v.chunk) :: (List.range (v.n - 1)).map (fun i => (2, opScr v.e + i * v.chunk))).foldl (State.gatherOne v v.chunk) { st := s })
    if g.wait then .wait
    else match g.fail with
      | some c => .fail g.st c
      | none =>
        let at_ := opDst v.e + (if opKind v.e = 0 then v.self * v.chunk else 0)
        ((g.st.combined g.parts.length).lkWrite v at_ (g.st.combine v.e g.parts)).toStep (fun t =>
          (t.each v.others (fun t q => t.lkSend (v.node q) (pktCredit v r.name))).modRun v.o (fun x => { x with step := 1 }))

/-- Send the own chunk of the destination, or the source of a gather, to a member's destination once (DIRECT step 3). -/
def State.directGather (s : State) (v : OpView) : RunStep :=
  let r := s.run v.o
  let k := opKind v.e
  let may : Bool := if k = 0 then decide (r.step = 1) else if k = 2 then true else if k = 3 then decide (opRank v.e = v.self) else k = 4 && decide (opRank v.e ≠ v.self)
  let dest : List Nat := if k = 4 then [opRank v.e] else v.others
  if k = 1 || !may then .idle
  else match dest.find? (fun q => !r.sentTo.contains (65536 + q)) with
    | none => .idle
    | some q =>
      let off := if k = 0 ∨ k = 2 then v.self * v.chunk else 0
      let n := if k = 0 ∨ k = 2 then v.chunk else v.total
      (s.sendRange v q r.name (if k = 0 then 2 else 1) (if k = 0 then opDst v.e + off else opSrc v.e) (opDst v.e + off) n).toStep (fun t =>
        t.modRun v.o (fun x => { x with sentTo := x.sentTo ++ [65536 + q] }))

/-- The own part of a gather's or a broadcast's destination is copied from the source, once. -/
def State.ownCopy (s : State) (v : OpView) : RunStep :=
  let r := s.run v.o
  let k := opKind v.e
  if r.sentTo.contains (65536 + v.self) || !(k = 2 || (k = 3 && opRank v.e = v.self)) then .idle
  else
    let n := if k = 2 then v.chunk else v.total
    let y := s.lkRead v 1 (opSrc v.e) n
    if y.wait then .wait
    else match y.fault with
      | some f => .fail (y.st.lkFault v f) (causeStatus f.cause)
      | none =>
        let w := y.st.ipaWriteMem (grpPart v.g) (opDst v.e + (if k = 2 then v.self * v.chunk else 0)) y.data (if y.poison = [] then [] else List.range (n / 32))
        if w.wait then .wait
        else match w.fault, w.status with
          | some f, _ => .fail (w.st.lkFault v f) (causeStatus f.cause)
          | none, some c => .fail w.st c
          | none, none => .went (w.st.modRun v.o (fun x => { x with sentTo := x.sentTo ++ [65536 + v.self] }))

/-- The first transfer of a ring's reduction: the own source's chunk of the member before goes to the successor (R576). -/
def State.ringStart (s : State) (v : OpView) : RunStep :=
  let r := s.run v.o
  if !opReduces v.e || r.sentTo.contains v.succ || !r.credited v.succ || v.n = 1 then .idle
  else
    (s.sendRange v v.succ r.name 1 (opSrc v.e + v.pred * v.chunk) (opScr v.e) v.chunk).toStep (fun t => t.modRun v.o (fun x => { x with sentTo := x.sentTo ++ [v.succ] }))

/-- A reduction step of a ring: the chunk that arrived is combined with the own one and forwarded; the last is written (R576). -/
def State.ringReduce (s : State) (v : OpView) : RunStep :=
  let r := s.run v.o
  let t := r.step
  let slot := t % 2
  if !opReduces v.e || !r.sentTo.contains v.succ || decide (v.n ≤ t + 1) || decide (r.arrived slot < (t / 2 + 1) * v.chunk) then .idle
  else
    let c := (v.self + 2 * v.n - 2 - t) % v.n
    let g := ([(1, opSrc v.e + c * v.chunk), (2, opScr v.e + slot * v.chunk)].foldl (State.gatherOne v v.chunk) { st := s })
    if g.wait then .wait
    else match g.fail with
      | some f => .fail g.st f
      | none =>
        let sum := g.st.combine v.e g.parts
        let u := g.st.combined g.parts.length
        if t + 2 < v.n then
          (u.sendBytes v v.succ r.name (opScr v.e + (t + 1) % 2 * v.chunk) sum).toStep (fun x => x.modRun v.o (fun y => { y with step := t + 1 }))
        else
          (u.lkWrite v (opDst v.e + (if opKind v.e = 0 then v.self * v.chunk else 0)) sum).toStep (fun x =>
            (x.lkSend (v.node v.pred) (pktCredit v r.name)).modRun v.o (fun y => { y with step := t + 1 }))

/-- The chunks that a ring forwards: the own one once it stands, and each that has arrived, unless the successor has it (R576). -/
def State.ringForward (s : State) (v : OpView) : RunStep :=
  let r := s.run v.o
  let k := opKind v.e
  let has (q : Nat) : Bool :=
    if k = 0 then (if q = v.self then decide (v.n ≤ r.step + 1) else decide (v.chunk ≤ r.arrived (65536 + q)))
    else if q = v.self then r.sentTo.contains (65536 + v.self) else decide (v.chunk ≤ r.arrived (65536 + q))
  if v.n = 1 then .idle
  else if k = 0 ∨ k = 2 then
    match (List.range v.n).find? (fun q => decide (q ≠ v.succ) && has q && !r.sentTo.contains (131072 + q)) with
    | none => .idle
    | some q => (s.sendRange v v.succ r.name 2 (opDst v.e + q * v.chunk) (opDst v.e + q * v.chunk) v.chunk).toStep (fun t => t.modRun v.o (fun x => { x with sentTo := x.sentTo ++ [131072 + q] }))
  else if k = 3 then
    let ready := if opRank v.e = v.self then true else decide (v.total ≤ r.arrived 65536)
    if !ready || v.succ = opRank v.e || r.sentTo.contains 131072 then .idle
    else
      let own := decide (opRank v.e = v.self)
      (s.sendRange v v.succ r.name (if own then 1 else 2) (if own then opSrc v.e else opDst v.e) (opDst v.e) v.total).toStep (fun t => t.modRun v.o (fun x => { x with sentTo := x.sentTo ++ [131072] }))
  else .idle

/-- The next step that a run can take. -/
def State.runStep (s : State) (v : OpView) : RunStep :=
  let orElse (a : RunStep) (b : RunStep) : RunStep := match a with | .idle => b | x => x
  if opRing v.e && decide (opKind v.e ≠ 4) then
    orElse (s.ringStart v) (orElse (s.ringReduce v) (orElse (s.ownCopy v) (s.ringForward v)))
  else
    orElse (if opReduces v.e then s.directScratch v else .idle) (orElse (if opReduces v.e then s.directReduce v else .idle) (orElse (s.ownCopy v) (s.directGather v)))

/-- Take every step that a run can take now. -/
def State.runGo : Nat → State → OpView → State
  | 0, s, _ => s
  | n + 1, s, v =>
    match s.runStep v with
    | .idle => s
    | .wait => s
    | .went t => State.runGo n t v
    | .fail t c => t.runFail v.o c

/-- A running operation goes on as far as it can. -/
def State.opAdvance (s : State) (o : Nat) : State :=
  if (s.run o).running then
    let v := s.opView o
    State.runGo (4 * v.n + 8) s v
  else s

/-- Whether packets of a run are not acknowledged (R574). -/
def State.runUnacked (s : State) (o name : Nat) : Bool :=
  let mine (k : LkPkt) : Bool := k.type = 1 && k.op = o && k.run = name
  s.lk.peers.any (fun e => e.2.waitTx.any mine || e.2.unacked.any (fun x => mine x.pkt))

/-- Whether a run is complete at this module (R574). -/
def State.runDone (s : State) (o : Nat) : Bool :=
  let r := s.run o
  let v := s.opView o
  let k := opKind v.e
  let arrivals : Bool :=
    if k = 0 ∨ k = 2 then v.others.all (fun q => decide (v.chunk ≤ r.arrived (65536 + q)))
    else if k = 3 then decide (opRank v.e = v.self) || decide (v.total ≤ r.arrived 65536)
    else if k = 4 then decide (opRank v.e ≠ v.self) || v.n = 1 || decide (v.total ≤ r.arrived 65536)
    else true
  let reduced : Bool := !opReduces v.e || (if opRing v.e then decide (v.n ≤ r.step + 1) else r.step = 1)
  r.running && arrivals && reduced && (match s.runStep v with | .idle => true | _ => false) && !s.runUnacked o r.name
    && (!opReduces v.e || opRing v.e || v.others.all (fun q => r.sentTo.contains q)) && (!opRing v.e || !opReduces v.e || v.n = 1 || r.sentTo.contains v.succ)

/-! ### Loss of a peer (R564) -/

/-- Whether a valid group or a subscription links this module and a node (R564). -/
def State.linked (s : State) (n : Nat) : Bool :=
  s.lk.groups.any (fun e => (s.members e.1).contains n)
    || s.obj.syncs.any (fun e => e.2.st ≠ .free && (e.2.subs.any (fun x => x.1 = n) || (e.2.alias_ && e.2.remote && e.2.node = n)))

/-- The consequences of LOST; the peer then goes to CLOSED (R559, R564; 15 R591). -/
def State.peerLost (s : State) (n : Nat) : State :=
  let p := s.peer n
  if p.st = .closed then s
  else
    let sigs := (p.unacked.filter (fun x => x.pkt.type = 2)).length + (p.waitTx.filter (fun k => k.type = 2)).length
    let s := (((s.modPeer n (fun p => { leaving := p.leaving })).bump (lkR 0 0x70) 1).odBump 0x61E0 5 sigs).planLost n
    let s := s.each ((s.obj.syncs.filter (fun e => e.2.st ≠ .free && e.2.alias_ && e.2.remote && e.2.node = n)).map (·.1)) (fun t h => t.modSync h (fun f => { f with lost := true }))
    let s := s.each (s.obj.syncs.map (·.1)) (fun t h =>
      let gone := ((t.sync h).subs.filter (fun x => x.1 = n)).length
      if gone = 0 then t
      else t.each (List.range gone) (fun t _ => (t.modSync h (fun f => { f with subs := f.subs.filter (fun x => x.1 ≠ n) })).dropRef kFence h))
    let s := s.each ((s.lk.runs.filter (fun e => e.2.running && (s.members (opGroup (s.lkOp e.1))).contains n)).map (·.1)) (fun t o => t.runFail o stDeviceLost)
    match s.lk.peers.find? (fun e => e.2.st = .closed && e.2.waitTx ≠ []) with
    | some e => if s.fabricOn && decide (s.heldPeers < 4096) then s.peerOpen e.1 else s
    | none => s

end Sys2Proof.Machine
end

