-- ==== Sys2Proof/Machine/MeterOps.lean ====
section
/-! DEFINITION. Shared operations of the Meter: the operating-point factors, the learned energy table and the time that
steps and kernels are observed over (13_partitions_and_meter.md R516 to R522), and requests of mode changes (R533, R537). -/

namespace Sys2Proof.Machine

/-! ### Factors (R522) -/

/-- CORECLK relative to point 0. -/
def sigmaOf (j : Nat) : Rat :=
  match j with
  | 0 => 1 | 1 => 882 / 1000 | 2 => 765 / 1000 | 3 => 647 / 1000 | 4 => 529 / 1000 | _ => 353 / 1000

/-- Relative power. -/
def piOf (j : Nat) : Rat :=
  match j with
  | 0 => 1 | 1 => 80 / 100 | 2 => 62 / 100 | 3 => 46 / 100 | 4 => 33 / 100 | _ => 18 / 100

/-- The energy factor. -/
def epsOf (j : Nat) : Rat :=
  match j with
  | 0 => 1 | 1 => 907 / 1000 | 2 => 811 / 1000 | 3 => 711 / 1000 | 4 => 623 / 1000 | _ => 510 / 1000

/-- The last point reached, MT_POINT.CURRENT (01 R38). -/
def State.point (s : State) : Nat := s.rf (mtR 0x10) 2 0

/-! ### binary32 and rationals -/

/-- The rational value of a finite binary32 word; 0 for the others. -/
def ratOfB32 (x : Nat) : Rat :=
  match b32 x with
  | .fin n m e =>
    let v : Rat := if 0 ≤ e then ((m * 2 ^ e.toNat : Nat) : Rat) else (m : Rat) / ((2 ^ (-e).toNat : Nat) : Rat)
    if n then -v else v
  | _ => 0

/-- A rational rounded to binary32, to nearest even (DEDUCED: R518 gives the type, no rounding; log 25). -/
def ratToB32 (r : Rat) : Nat :=
  let n := r.num.natAbs
  let sh := bitLen r.den + 30
  let q := n * 2 ^ sh / r.den
  let m := 2 * q + b2n (n * 2 ^ sh % r.den ≠ 0)
  toB32 (.fin (r.num < 0) m (-((sh : Int) + 1)))

/-- A non-negative rational rounded down to a whole number of `w` bits, stopping at the top. -/
def ratNat (w : Nat) (r : Rat) : Nat := Nat.min r.floor.toNat (2 ^ w - 1)

/-! ### The learned energy table (R518, R519) -/

/-- The entry of a key, if the table holds one. -/
def State.learnedFind (s : State) (kind p cls : Nat) : Option Learned :=
  s.pt.meter.learned.find? (fun l => l.valid && l.kind = kind && l.part = p && l.cls = cls)

/-- The power of an entry at a point (R522). -/
def Learned.power (l : Learned) (j : Nat) : Rat := ratOfB32 l.e0.toNat / ratOfB32 l.d0.toNat * piOf j

/-- Put an entry in the table: a new key takes a free entry of its set, or its least recently updated one (R518). -/
def State.learnedPut (s : State) (l : Learned) : State :=
  let m := s.pt.meter
  match m.learned.find? (fun x => x.valid && x.kind = l.kind && x.part = l.part && x.cls = l.cls) with
  | some x => { s with pt := { s.pt with meter := { m with learned := m.learned.map (fun y => if y.idx = x.idx then { l with idx := x.idx } else y), upCount := m.upCount + 1 } } }
  | none =>
    let set := Config.learnedSet l.part l.kind l.cls % 4096
    let mine := m.learned.filter (fun x => x.valid && x.idx / 4 = set)
    let old := mine.foldl (fun (a : Option Learned) x => match a with | none => some x | some y => if x.upd < y.upd then some x else some y) none
    let idx := match (List.range 4).find? (fun i => !mine.any (fun x => x.idx = 4 * set + i)) with
      | some i => 4 * set + i
      | none => (old.map (·.idx)).getD (4 * set)
    { s with pt := { s.pt with meter := { m with learned := { l with idx := idx } :: m.learned.filter (fun x => x.idx ≠ idx), upCount := m.upCount + 1 } } }

/-- Observe an energy and a duration, normalised to point 0, for a key (R519). -/
def State.observe (s : State) (kind p cls : Nat) (e d : Rat) : State :=
  let u := s.pt.meter.upCount
  let a : Rat := 1 / ((2 ^ s.odGet 0x2020 1 : Nat) : Rat)
  match s.learnedFind kind p cls with
  | none => s.learnedPut { idx := 0, kind := kind, part := p, cls := cls, count := 1, e0 := BitVec.ofNat 32 (ratToB32 e), d0 := BitVec.ofNat 32 (ratToB32 d), upd := u }
  | some l =>
    let e0 := ratOfB32 l.e0.toNat
    let d0 := ratOfB32 l.d0.toNat
    s.learnedPut { l with count := Nat.min (l.count + 1) 0xFFFF, e0 := BitVec.ofNat 32 (ratToB32 (e0 + a * (e - e0))), d0 := BitVec.ofNat 32 (ratToB32 (d0 + a * (d - d0))), upd := u }

/-! ### Issue duty (R529) -/

/-- The issue duty n of a cluster, 1 to 16. -/
def State.duty (s : State) (cl : Nat) : Nat := s.rf (mtR 0x30) (4 * cl + 3) (4 * cl) + 1

/-- Set the issue duty of a cluster; kernels that run there note a duty below 16/16 (17 R653). -/
def State.setDuty (s : State) (cl n : Nat) : State :=
  let s := s.setRf (mtR 0x30) (4 * cl + 3) (4 * cl) (n - 1)
  if n < 16 then { s with pt := { s.pt with kernels := s.pt.kernels.map (fun e => (e.1, if e.2.cl = cl then { e.2 with dutyLow := true } else e.2)) } } else s

/-- The part of a time in which the issue duty of clusters allowed issue, in microseconds: the mean over them (R519;
DEDUCED, log 25). -/
def State.dutyTime (s : State) (cls : List Nat) (ticks : Nat) : Rat :=
  if cls = [] then 0 else ((sumNat (cls.map (fun c => s.duty c)) * ticks : Nat) : Rat) / ((16 * cls.length * 100 : Nat) : Rat)

/-- Account the time since the window began, or since a step was placed, to its observed duration (R519). -/
def State.stepTime (s : State) (q : Nat) : State :=
  match s.stepOf q with
  | none => s
  | some r => s.setStep q { r with d0 := r.d0 + s.dutyTime r.cls (s.now - Nat.max r.tPlaced s.pt.meter.tWin) * sigmaOf s.point }

/-- The same for a kernel, from its first block's start. -/
def State.kernelTime (s : State) (k : Nat) : State :=
  match s.kernel k with
  | none => s
  | some x => if x.started then s.setKernel k { x with obsD := x.obsD + s.dutyTime [x.cl] (s.now - Nat.max x.tFirst s.pt.meter.tWin) * sigmaOf s.point } else s

/-! ### Requests of mode changes (R533, R537, R538) -/

/-- Request a mode change: a waiting kind-1 request, and a waiting one of kind 2 or 3 for the same partition, are
replaced (R537). -/
def State.modeRequest (s : State) (r : ModeReq) : State :=
  let m := s.pt.modes
  let same (x : ModeReq) : Bool := x.kind = r.kind && (r.kind = 1 || ((r.kind = 2 || r.kind = 3) && x.part = r.part))
  let w := if m.waiting.any same then m.waiting.map (fun x => if same x then r else x) else m.waiting ++ [r]
  { s with pt := { s.pt with modes := { m with waiting := w } } }

/-- Whether a unit is a core or a sequencer of a partition. -/
def State.unitOfPart (s : State) (p : Nat) (u : ModeUnit) : Bool :=
  match u with
  | .core slot => (s.partCls p).contains (slotCl slot)
  | .seq cl => (s.partCls p).contains cl
  | _ => false

/-- Whether launches of a partition wait: one of its units has not reported the epoch being committed (R536). -/
def State.launchHeld (s : State) (p : Nat) : Bool :=
  s.pt.modes.phase = .commit && s.pt.modes.left.any (fun u => s.unitOfPart p u)

/-- Request compatibility mode ON where a kernel needs it and no such change is under way (R538). -/
def State.askCompat (s : State) (p : Nat) : State :=
  let m := s.pt.modes
  let on (x : ModeReq) : Bool := x.kind = 2 && x.part = p && x.value = 1
  if (m.phase ≠ .idle && on m.cur) || m.waiting.any on then s else s.modeRequest { kind := 2, part := p, scope := 2 ^ p, value := 1 }

end Sys2Proof.Machine
end

