-- ==== Sys2Proof/Machine/Teardown.lean ====
section
/-! DEFINITION. Draining and discarding store buffers (06 R219 to R221, R256 to R259), clearing a core (02 R64, 03 R131),
leaving clusters, and the teardown of a context or of one step (13 R515, R701). -/

namespace Sys2Proof.Machine

/-! ### Store buffers -/

/-- Who a core's thread engine is to memory. -/
def coreWho (slot part ctx : Nat) (strict : Bool) : Who :=
  { part := some part, ctx := some ctx, cl := some (slotCl slot), core := some slot, strict := strict }

/-- Add a condition to the step that a queue holds (00 R17): the step goes on, its status remembers. -/
def State.stepStatus (s : State) (q status : Nat) : State :=
  s.modStep q (fun r => { r with status := combineStatus r.status status })

/-- The status of a step that stops for a cause: what it only remembered gives way to the first cause that stops it, but for
DEVICE_LOST (00 R17, 08 R338). -/
def StepRec.endStatus (r : StepRec) (st : Nat) : Nat :=
  if r.stopping || r.status = stDeviceLost then combineStatus r.status st else st

/-- The queue whose step runs on a cluster. -/
def State.clQueue (s : State) (cl : Nat) : Option Nat := (s.seq cl).queue

/-- Drain an entry of a store buffer into the cluster cache in one operation (R220, R221). `none` when its home path
makes it wait. An entry whose unit is out of service is discarded, and its step remembers the status (08 R317). -/
def State.drainSb (s : State) (slot idx : Nat) : Option State :=
  match (s.core slot).sb[idx]? with
  | none => none
  | some e =>
    let gone (t : State) : State := t.modCore slot (fun c => { c with sb := c.sb.eraseIdx idx })
    if e.host then
      some (gone (s.each e.bytes (fun t b => match b.2 with | some v => t.hostWrite (e.line * 128 + b.1) [v] | none => t)))
    else
      let pa := s.route (e.line * 128)
      let w := coreWho slot e.part e.ctx false
      let offs := e.bytes.map (·.1)
      let any := ofBitList ((List.range 4).filter (fun i => offs.any (fun o => o / 32 = i)))
      let full := ofBitList ((List.range 4).filter (fun i => (List.range 32).all (fun j => offs.contains (i * 32 + j))))
      match s.lineServe w true pa with
      | .wait => none
      | .undec => some (gone s)
      | .err c =>
        let t := gone s
        some (match t.clQueue (slotCl slot) with | some q => t.stepStatus q c | none => t)
      | .ok =>
        let t := s.ownedWrite w (slotCl slot) e.hint pa any full
        let t := t.each e.bytes (fun t b => match b.2 with | some v => t.wrBytes (pa + b.1) [v] | none => t)
        let t := ((t.poisonWrite pa any full false).quarantineWrite pa full).mirrorWrite pa
        some (gone t)

/-- Drain every entry of a core that can drain; those whose path is blocked stay. -/
def State.drainAll : Nat → State → Nat → Nat → State
  | 0, s, _, _ => s
  | n + 1, s, slot, i =>
    if (s.core slot).sb.length ≤ i then s
    else match s.drainSb slot i with
      | some t => State.drainAll n t slot i
      | none => State.drainAll n s slot (i + 1)

/-- Drain a core's buffer. -/
def State.drainCore (s : State) (slot : Nat) : State := State.drainAll 33 s slot 0

/-- Discard a core's buffered stores and count them (R257, R258). -/
def State.discardSb (s : State) (slot : Nat) : State :=
  let n := (s.core slot).sb.length
  let t := (s.modCore slot (fun c => { c with sb := [] })).setRf (teR slot 0x48) 5 0 (Nat.min n 32)
  t.odBump 0x6160 1 n

/-! ### Clearing -/

/-- Zero a core's local-memory window (02 R64). -/
def State.clearLocal (s : State) (slot : Nat) : State :=
  { s with mem := s.mem.filter (fun e => !(winBase slot ≤ e.1 && e.1 < winBase slot + 0x100000)),
           ext := { s.ext with poison := s.ext.poison.filter (fun e => !(winBase slot / 32 ≤ e.1 && e.1 < winBase slot / 32 + 0x8000)) } }

/-- The matrix engine after a clear (03 R131): buffers, drain rows, tags and valid bits zero. -/
def Mx.cleared (m : Mx) : Mx :=
  { m with active := {}, shadow := {}, activeValid := false, shadowValid := false, drain := [], drainFree := none, queue := [], sets := [] }

/-- The effects of CLEARING on a core (02 R64, R86; 03 R131; 05 R197; 07 R270; 09 R365): registers, local memory, matrix
buffers and counters zero, L1 and micro-cache empty, settings of R197. -/
def State.clearCore (s : State) (slot : Nat) : State :=
  let t := (s.clearLocal slot).modCore slot (fun c => { c with l1 := [], micro := [], last := {}, cur := {}, groups := [], blocks := [], kernel := none, ctx := none, lastCtx := none, mx := c.mx.cleared })
  ((t.setReg (mxR slot 0x50) 0).setReg (mxR slot 0x58) 0).setReg (mxR slot 0x60) 0

/-- A core enters CLEARING, its matrix engine with it (R86, R130). -/
def State.enterClearing (s : State) (slot : Nat) : State :=
  (s.clearCore slot).modCore slot (fun c =>
    { c with te := .clearing, tearing := false, mx := { c.mx with state := if c.mx.state = .off then .off else .clearing } })

/-! ### Leaving clusters -/

/-- A sequencer goes to IDLE at the end of its step, or OFF when its ENABLE was cleared (05 R210, R211). -/
def State.seqIdle (s : State) (cl : Nat) : State :=
  let on := bit (s.reg (sqR cl 0x10)) 0
  s.modSeq cl (fun q =>
    { state := if on then .idle else .off, pc := q.pc, stepVa := q.stepVa, ctx := q.ctx, nextMx := q.nextMx })

/-- Cluster-ticks of a step since it was last accounted. -/
def State.stepTicks (s : State) (r : StepRec) : Nat := r.cls.length * (s.now - r.tMark)

/-- Account a running step's cluster-time to the real-time use of its partition (13 R506). -/
def State.accountRt (s : State) (q : Nat) : State :=
  match s.stepOf q with
  | none => s
  | some r =>
    let s := s.setStep q { r with tMark := s.now }
    if r.rt && r.cls ≠ [] then s.modPart r.part (fun p => { p with rtCur := p.rtCur + r.cls.length * (s.now - r.tMark) }) else s

/-- A step leaves its clusters: v(q) rises, its projection is removed, its clusters remember the context (13 R505, R508,
R525). Sequencers are not touched. -/
def State.stepLeave (s : State) (q : Nat) : State :=
  match s.stepOf q with
  | none => s
  | some r =>
    let s := (s.accountRt q).stepTime q
    let us : Rat := ((r.cls.length * (s.now - r.tPlaced) : Nat) : Rat) / 100
    let s := s.modQueue q (fun x => { x with vtime := x.vtime + us / (Nat.max 1 x.weight : Nat) })
    let s := { s with pt := { s.pt with lastCtx := r.cls.foldl (fun m c => m.set c 0 (r.ctx + 1)) s.pt.lastCtx } }
    let s := if r.admitted then
        s.modPart r.part (fun p => if r.rtPool then { p with rtProj := p.rtProj - r.proj } else { p with beProj := p.beProj - r.proj })
      else s
    s.modStep q (fun x => { x with cls := [], admitted := false, proj := 0 })

/-- Free the park slot of a step. -/
def State.freeSlot (s : State) (q : Nat) : State := s.modStep q (fun x => { x with slot := none })

/-! ### Stopping cores -/

/-- Stop a core's work: its groups issue no more, its matrix engine discards its queue (13 R515 step 2, 03 R132). Its
buffer drains, or is discarded with `discard`; a core whose buffer cannot drain stays tearing until the drain limit. -/
def State.stopCore (s : State) (slot : Nat) (discard : Bool) : State :=
  let s := s.modCore slot (fun c => { c with groups := [], blocks := [], winQ := c.winQ.filter (fun a => slotCl a.src ≠ slotCl slot), mx := { c.mx with queue := [] } })
  let s := if discard then s.discardSb slot else s.drainCore slot
  if (s.core slot).te = .off then s
  else if (s.core slot).sb = [] then s.enterClearing slot
  else s.modCore slot (fun c => { c with tearing := true })

/-- Kernels of a context, or of one queue's step. -/
def State.kernelsOf (s : State) (p : Kernel → Bool) : List Nat := (s.pt.kernels.filter (fun e => p e.2)).map (·.1)

/-- Cores that run kernels a test picks, or hold their blocks. -/
def State.coresRunning (s : State) (p : Nat → Bool) : List Nat :=
  (s.cores.filter (fun e => match e.2.kernel with | some k => p k | none => false)).map (·.1)

/-- Update work of a context stops at its next block boundary with a status (10 R408). -/
def State.stopUpdates (s : State) (c status : Nat) : State :=
  { s with upd := { s.upd with reqs := s.upd.reqs.map (fun e =>
      (e.1, if e.2.ctx = c ∧ e.2.stop = none then { e.2 with stop := some status } else e.2)) } }

/-! ### Teardown -/

/-- Stop the sequencers and cores of one step (R515 steps 1 to 4 restricted to it, R701). -/
def State.stopStep (s : State) (q : Nat) (discard : Bool) : State :=
  let ks := s.kernelsOf (fun k => k.queue = q)
  let cls := (s.seqs.filter (fun e => e.2.queue = some q)).map (·.1)
  let used := s.coresRunning (fun k => ks.contains k)
  let mxCores := (cls.flatMap clSlots).filter (fun c => (s.mx c).queue.any (fun m => m.fromSeq))
  let cores := used ++ mxCores.filter (fun c => !used.contains c)
  let s := s.dropAgents (fun a => match a with
    | .te c _ => cores.contains c
    | .mx c => cores.contains c
    | .seq cl => cls.contains cl)
  let s := s.each cores (fun t c => t.stopCore c discard)
  let s := s.each ks (fun t k => t.delKernel k)
  let s := s.each cls (fun t c => t.seqIdle c)
  (s.stepLeave q).freeSlot q

/-- Steps of a context that run or are parked. -/
def State.admittedSteps (s : State) (c : Nat) : List Nat :=
  (s.pt.steps.filter (fun e => e.2.ctx = c && (e.2.st = .running || e.2.st = .yielding || e.2.st = .parked))).map (·.1)

/-- Teardown of a context (R515). `cause` is the queue whose step caused it, with its status; every other running or
parked step completes with ABORTED. A fault counts as a failure of the context's negative plan (15 R591). -/
def State.teardown (s : State) (c : Nat) (cause : Option (Nat × Nat)) (discard quiet : Bool) : State :=
  let steps := s.admittedSteps c
  let s := s.abortFaults c
  let s := s.each steps (fun t q => t.stopStep q discard)
  let s := (s.stopUpdates c stAborted).odBump 0x61D0 9 1
  let s := match cause with | some (_, st) => if st = stTimeout then s else s.planFault c | none => s
  s.each steps (fun t q =>
    let own := match cause with | some (k, st) => if k = q then st else stAborted | none => stAborted
    let r := t.stepOf q
    let e := (r.map (fun x => x.endStatus own)).getD own
    (t.modStep q (fun x => { x with st := .running, status := e })).endHeld q e quiet)

/-- Tear one step down on its own (R701): it completes with ABORTED. -/
def State.tearStep (s : State) (q : Nat) : State := (s.stopStep q false).endHeld q stAborted false

/-- Drop the creation references of a context's objects and of the context (12 R485 step 4); its groups are cleared
(14 R572). -/
def State.dropObjects (s : State) (c : Nat) : State :=
  let s := s.releaseHolds c
  let s := s.each (s.ctxQueues c) (fun t q => if (t.queue q).ost = .live then (t.kill kQueue q).modQueue q (fun x => { x with st := .none }) else t)
  let s := s.each (s.ctxMems c) (fun t h => if (t.memObj h).st = .live then t.kill kMem h else t)
  let s := s.each (s.ctxSyncs c) (fun t h => if (t.sync h).st = .live then t.kill kFence h else t)
  if (s.ctx c).st = .live then (s.kill kCtx c).ctxGroupsClear c else s

/-- End a context at once, with no record, status word or message (12 R486, 13 R503): its work is torn down, its queues
skip their entries, its fences take the error bit, and its objects lose their creation references. -/
def State.killNow (s : State) (c : Nat) (outside remoteOnly discard : Bool) : State :=
  let s := s.teardown c none discard true
  let s := s.stopUpdates c stAborted
  let s := s.each (s.ctxQueues c) (fun t q =>
    let t := (t.endHeld q stAborted true).completeEntry q stAborted
    let t := t.setHead q (t.queue q).tail
    (t.modQueue q (fun x => { x with st := .stopped, gens := [] })).delStep q)
  (s.errorFences c outside remoteOnly).dropObjects c

end Sys2Proof.Machine
end

