-- ==== Sys2Proof/Machine/UpdateOps.lean ====
section
/-! DEFINITION. Shared operations of the update units (10_update_units.md): the recurrence in binary32, rules, lists, parts and
the reads and writes of a block. -/

namespace Sys2Proof.Machine

/-! ### Division, square root and powers (R388, R390) -/

/-- binary32 subtraction. -/
def subB32 (a b : Nat) : Nat := toB32 ((b32 a).add (b32 b).neg)
/-- binary32 division. -/
def divB32 (a b : Nat) : Nat := toB32 ((b32 a).div (b32 b))
/-- binary32 square root. -/
def sqrtB32 (a : Nat) : Nat := toB32 (b32 a).sqrt
/-- Magnitude of a binary32 word. -/
def absB32 (a : Nat) : Nat := a % 2 ^ 31
/-- Whether a binary32 word is finite. -/
def finB32 (a : Nat) : Bool := bits a 30 23 ≠ 255
/-- binary32 one. -/
def oneB32 : Nat := 0x3F800000
/-- binary64 addition. -/
def addB64 (a b : Nat) : Nat := toB64 ((b64 a).add (b64 b))
/-- binary64 multiplication. -/
def mulB64 (a b : Nat) : Nat := toB64 ((b64 a).mul (b64 b))
/-- Widen binary32 to binary64. -/
def widenB32 (a : Nat) : Nat := toB64 (b32 a)

/-- a^t in binary64 by repeated squaring, from the lowest bit of t (DEDUCED, log 28). -/
def powB64 : Nat → Nat → Nat → Nat → Nat
  | 0, _, _, acc => acc
  | n + 1, b, t, acc => if t = 0 then acc else powB64 n (mulB64 b b) (t / 2) (if t % 2 = 1 then mulB64 acc b else acc)

/-- The factor 1 − a^t of R390. -/
def biasOf (on : Bool) (a t : Nat) : Nat :=
  if on then subB32 oneB32 (toB32 (b64 (powB64 32 (widenB32 a) t 0x3FF0000000000000))) else oneB32

/-! ### Rules (R393, R394) -/

/-- A rule's fields. -/
structure UuRule where
  valid : Bool
  hasM : Bool
  hasV : Bool
  absV : Bool
  biasM : Bool
  biasV : Bool
  round : Nat
  wf : Nat
  mf : Nat
  vf : Nat
  gf : Nat
  a1 : Nat
  b1 : Nat
  a2 : Nat
  b2 : Nat
  c1 : Nat
  c2 : Nat
  c3 : Nat
  c4 : Nat
  eps : Nat
  maxNorm : Nat

/-- Read a rule from its 64 bytes. -/
def ruleOf (b : List Byte) : UuRule :=
  let w := sliceNat b 0 4
  let f (i : Nat) : Nat := sliceNat b (4 * i) 4
  { valid := bit w 31, hasM := bit w 30, hasV := bit w 29, absV := bit w 28, biasM := bit w 27, biasV := bit w 26, round := bits w 25 24,
    wf := bits w 23 20, mf := bits w 19 16, vf := bits w 15 12, gf := bits w 11 8,
    a1 := f 1, b1 := f 2, a2 := f 3, b2 := f 4, c1 := f 5, c2 := f 6, c3 := f 7, c4 := f 8, eps := f 9, maxNorm := f 10 }

/-- Whether a rule that sets VALID is refused (R394). A negative zero MAX_NORM is not negative. -/
def ruleBad (b : List Byte) : Bool :=
  let r := ruleOf b
  let fmtBad (x : Nat) : Bool := x ≠ 6 && x ≠ 8
  r.valid && (r.round = 3 || fmtBad r.wf || fmtBad r.mf || fmtBad r.vf || fmtBad r.gf || sliceNat b 0 1 ≠ 0
    || (List.range 10).any (fun i => !finB32 (sliceNat b (4 * i + 4) 4)) || (bit r.maxNorm 31 && absB32 r.maxNorm ≠ 0)
    || sliceNat b 0x2C 20 ≠ 0)

/-- Rule r of a partition as all 48 units hold it. -/
def State.rule (s : State) (p r : Nat) : UuRule := ruleOf (s.blob (0x3820 + p) (r + 1))

/-! ### Elements (R388, R389, R392) -/

/-- Bytes of an element of a rule's format. -/
def uuBytes (f : Nat) : Nat := if f = 6 then 2 else 4

/-- Element i of an array of bytes, widened to binary32. -/
def uuLoad (f : Nat) (b : List Byte) (i : Nat) : Nat := if f = 6 then widenBf16 (sliceNat b (2 * i) 2) else sliceNat b (4 * i) 4

/-- Round a result to its format: the bytes, and the LFSR after (R389). -/
def uuStore (r : UuRule) (f l v : Nat) : List Byte × Nat :=
  if f = 6 then
    let l' := if r.round = 2 then lfsrStep l else l
    let md : Round := if r.round = 0 then .nearest else if r.round = 1 then .toZero else .stochastic l'
    (leBytes 2 (fmtBf16.conv md false (b32 v)).code, l')
  else (leBytes 4 v, l)

/-- Settings of a pass over a block. -/
structure UuArgs where
  eta : Nat
  gscale : Nat
  clip : Nat
  bc1 : Nat
  bc2 : Nat

/-- sign(x) of R388, in binary32. -/
def signB32 (x : Nat) : Nat := if absB32 x = 0 then 0 else if (b32 x).isNan then nanB32 else (x / 2 ^ 31 % 2) * 2 ^ 31 + oneB32

/-- What an element became: w, m and v, and whether it counts in NONFINITE; `none` where its gradient keeps them (R392). -/
structure UuElem where
  w : Nat
  m : Nat
  v : Nat
  keep : Bool := false
  bad : Bool := false

/-- The recurrence of R388 on one element. -/
def uuElem (r : UuRule) (a : UuArgs) (w m v gin : Nat) : UuElem :=
  let g := mulB32 a.gscale gin
  if !finB32 g then { w := w, m := m, v := v, keep := true, bad := true }
  else
    let m := if r.hasM then m else 0
    let v := if r.hasV then v else 0
    let m1 := addB32 (mulB32 r.a1 m) (mulB32 r.b1 g)
    let q := if r.absV then absB32 g else mulB32 g g
    let v1 := addB32 (mulB32 r.a2 v) (mulB32 r.b2 q)
    let d := if r.hasV then addB32 (sqrtB32 (divB32 v1 a.bc2)) r.eps else oneB32
    let u := addB32 (addB32 (addB32 (divB32 (mulB32 r.c1 (divB32 m1 a.bc1)) d) (mulB32 r.c2 w)) (mulB32 r.c3 g)) (mulB32 r.c4 (signB32 m1))
    let w1 := subB32 w (mulB32 (mulB32 a.eta a.clip) u)
    { w := w1, m := m1, v := v1, bad := !finB32 w1 || (r.hasM && !finB32 m1) || (r.hasV && !finB32 v1) }

/-- A block being computed: the bytes of w, m and v, the LFSR, and the non-finite count. -/
structure UuBlock where
  w : List Byte := []
  m : List Byte := []
  v : List Byte := []
  l : Nat
  bad : Nat := 0

/-- Compute element i of a block. -/
def uuStep (r : UuRule) (a : UuArgs) (wb mb vb gb : List Byte) (k : UuBlock) (i : Nat) : UuBlock :=
  let e := uuElem r a (uuLoad r.wf wb i) (uuLoad r.mf mb i) (uuLoad r.vf vb i) (uuLoad r.gf gb i)
  let n := k.bad + b2n e.bad
  if e.keep then
    { k with w := k.w ++ slice wb (i * uuBytes r.wf) (uuBytes r.wf), m := k.m ++ slice mb (i * uuBytes r.mf) (uuBytes r.mf), v := k.v ++ slice vb (i * uuBytes r.vf) (uuBytes r.vf), bad := n }
  else
    let (w, l) := uuStore r r.wf k.l e.w
    let (m, l) := if r.hasM then uuStore r r.mf l e.m else ([], l)
    let (v, l) := if r.hasV then uuStore r r.vf l e.v else ([], l)
    { w := k.w ++ w, m := k.m ++ m, v := k.v ++ v, l := l, bad := n }

/-! ### Units (R386, R413) -/

/-- The units of service of an update unit's domain: none for those at the Tank. -/
def uuDomain (u : Nat) : List UnitId :=
  if u < 36 then (if u % 18 < 16 then [⟨0, u / 18 * 16 + u % 18⟩] else [])
  else if u < 44 then [⟨1, 2 * (u - 36)⟩, ⟨1, 2 * (u - 36) + 1⟩]
  else [⟨2, u - 44⟩]

/-- Whether a unit of service is IN_SERVICE or DRAINING (08 R317). -/
def State.serving (s : State) (u : UnitId) : Bool := (s.unit u).st = .inService || (s.unit u).st = .draining

/-- Whether every memory unit of an update unit's domain is out of service. -/
def State.uuOut (s : State) (u : Nat) : Bool := uuDomain u ≠ [] && (uuDomain u).all (fun m => !s.serving m)

/-- Whether an update unit takes shards (R413). -/
def State.uuOpen (s : State) (u : Nat) : Bool := (s.uu u).state ≠ .off && (s.uu u).state ≠ .offline && !s.uuOut u

/-- UU_STATUS.STATE (R413). -/
def State.uuStateCode (s : State) (u : Nat) : Nat :=
  if (s.uu u).state = .off then 0 else if !s.uuOpen u then 3 else if (s.uu u).jobs = [] then 1 else 2

/-- Whether a physical address lies in an update unit's domain (R386). -/
def State.inDomain (s : State) (u pa : Nat) : Bool :=
  match s.decode pa with
  | .hbm n => u = 18 * (n / 16) + n % 16
  | .tank d w => u = 18 * d + 16 + w % 2
  | .ddr c => u = 36 + c / 2
  | .cxl p => u = 44 + p
  | _ => false

/-! ### Lists (R396 to R398) -/

/-- The header's fields. -/
def updPass (h : List Byte) : Nat := sliceNat h 3 1
/-- SHARDS. -/
def updShards (h : List Byte) : Nat := bits (sliceNat h 0 4) 12 0
/-- STEP. -/
def updStep (h : List Byte) : Nat := bits (sliceNat h 8 8) 62 0
/-- RESULT_VA. -/
def updResult (h : List Byte) : Nat := sliceNat h 0x10 8
/-- ETA. -/
def updEta (h : List Byte) : Nat := sliceNat h 0x18 4
/-- GSCALE. -/
def updGscale (h : List Byte) : Nat := sliceNat h 0x1C 4
/-- GNORM. -/
def updGnorm (h : List Byte) : Nat := sliceNat h 0x20 4
/-- STEP_T. -/
def updStepT (h : List Byte) : Nat := sliceNat h 0x24 4
/-- SR_SEED. -/
def updSeed (h : List Byte) : Nat := sliceNat h 0x28 2

/-- Whether a header is refused (R398): the conditions that need no shard. -/
def updHeadBad (h : List Byte) : Bool :=
  (updPass h ≠ 1 && updPass h ≠ 2) || updShards h = 0 || 4096 < updShards h || bits (sliceNat h 0 4) 23 13 ≠ 0
    || sliceNat h 4 4 ≠ 0 || bit (sliceNat h 8 8) 63 || updStep h = 0 || 2 ^ 57 ≤ updResult h || updResult h % 64 ≠ 0
    || sliceNat h 0x2A 22 ≠ 0 || (updPass h = 2 && (!finB32 (updEta h) || !finB32 (updGscale h)))

/-- A shard's fields. -/
def shUnit (b : List Byte) : Nat := bits (sliceNat b 0 4) 31 26
/-- RULE. -/
def shRule (b : List Byte) : Nat := bits (sliceNat b 0 4) 25 22
/-- KIND. -/
def shKind (b : List Byte) : Nat := bits (sliceNat b 0 4) 21 20
/-- COUNT. -/
def shCount (b : List Byte) : Nat := sliceNat b 4 4
/-- W_VA. -/
def shW (b : List Byte) : Nat := sliceNat b 8 8
/-- M_VA. -/
def shM (b : List Byte) : Nat := sliceNat b 0x10 8
/-- V_VA. -/
def shV (b : List Byte) : Nat := sliceNat b 0x18 8
/-- G_VA. -/
def shG (b : List Byte) : Nat := sliceNat b 0x20 8
/-- TAG_VA. -/
def shTag (b : List Byte) : Nat := sliceNat b 0x28 8
/-- INDEX_VA. -/
def shIndex (b : List Byte) : Nat := sliceNat b 0x30 8
/-- RCOUNT_VA. -/
def shRcount (b : List Byte) : Nat := sliceNat b 0x38 8
/-- ROWLEN. -/
def shRowlen (b : List Byte) : Nat := sliceNat b 0x40 4
/-- TABLE_ROWS. -/
def shRows (b : List Byte) : Nat := sliceNat b 0x44 4

/-- Whether a shard entry is refused (R398). Pass 1 uses only the fields that R398 names, so only those are checked
there (DEDUCED, log 28). Bits [63:57] of a VA are zero, as R397 says of W_VA. -/
def State.shardBad (s : State) (p : Nat) (h b : List Byte) : Bool :=
  let r := s.rule p (shRule b)
  let va (x al : Nat) : Bool := 2 ^ 57 ≤ x || x % al ≠ 0
  let rows := shKind b = 1
  let common : Bool := 48 ≤ shUnit b || 1 < shKind b || sliceNat b 0 4 % 2 ^ 20 ≠ 0 || sliceNat b 0x48 56 ≠ 0 || shCount b = 0 || !r.valid
    || va (shG b) (uuBytes r.gf) || (rows && (shRowlen b = 0 || 65536 < shRowlen b || shRows b = 0))
  if updPass h = 1 then common
  else common || va (shW b) (uuBytes r.wf) || (r.hasM && va (shM b) (uuBytes r.mf)) || (r.hasV && va (shV b) (uuBytes r.vf))
    || va (shTag b) 8 || (rows && (va (shIndex b) 4 || va (shRcount b) 4))
    || (!rows && updStepT h = 0 && (r.biasM || r.biasV))

/-- The words of a list of bytes. -/
def wordsOf (b : List Byte) : List W64 := (List.range (b.length / 8)).map (fun i => BitVec.ofNat 64 (sliceNat b (8 * i) 8))

/-- The bytes of words. -/
def bytesOf (l : List W64) : List Byte := l.flatMap (fun w => leBytes 8 w.toNat)

/-- The parts of a request: every unit that a shard names, ascending (R399). -/
def partsOf (l : List (List Byte)) : List Part :=
  (List.range 48).filterMap (fun u =>
    let mine := (List.range l.length).filter (fun i => shUnit (l.getD i []) = u)
    if mine = [] then none else some { unit := u, shards := mine })

/-! ### Parts (R408 to R410) -/

/-- An accepted request. -/
def State.req (s : State) (q : Nat) : Option UpdReq := s.upd.reqs.find q

/-- Change an accepted request. -/
def State.modReq (s : State) (q : Nat) (f : UpdReq → UpdReq) : State :=
  match s.req q with
  | some r => { s with upd := { s.upd with reqs := s.upd.reqs.put q (f r) } }
  | none => s

/-- Change a part of a request. -/
def State.modPartOf (s : State) (q u : Nat) (f : Part → Part) : State :=
  s.modReq q (fun r => { r with parts := listMod r.parts (fun p => p.unit = u) f })

/-- A part of a request. -/
def UpdReq.part_ (r : UpdReq) (u : Nat) : Option Part := r.parts.find? (fun p => p.unit = u)

/-- A part's record (R410). -/
def Part.bytes (p : Part) : List Byte :=
  leBytes 4 (p.failShard * 2 ^ 16 + b2n p.torn * 2 ^ 8 + p.status) ++ leBytes 4 p.applied ++ leBytes 4 p.skipped ++ leBytes 4 p.nonfinite
    ++ leBytes 8 p.sum.toNat ++ leBytes 4 p.failElem ++ leBytes 4 0

/-- A write to the result area; a fault is recorded and nothing else follows (R371, R410). -/
def State.resultWrite (s : State) (r : UpdReq) (off other : Nat) (bs : List Byte) : State :=
  let w := s.hubWrite r.ctx (updResult (bytesOf r.header) + off) bs
  match w.fault with
  | some f => w.st.quietRecord 2 r.part r.ctx f [] [] other
  | none => w.st

/-- A part ends: its record is written, and a failure is logged at its unit (R410, R414); a POISON or
TORN one counts as a failure of the context's negative plan (15 R591). -/
def State.endPart (s : State) (q u st : Nat) (torn : Bool) (failShard failElem wva : Nat) : State :=
  match s.req q with
  | none => s
  | some r =>
    match r.part_ u with
    | none => s
    | some p =>
      if p.ended then s
      else
        let p := { p with ended := true, status := st, torn := torn, failShard := if st = stOk then 0xFFFF else failShard, failElem := if st = stOk then 0 else failElem }
        let s := s.modPartOf q u (fun _ => p)
        let s := if st = stOk then s else
          (s.errRecord (uuR u 0x30) (st * 2 ^ 16 + b2n torn * 2 ^ 7 + r.part) (fun t => t.setReg (uuR u 0x38) (wva % 2 ^ 57))).odBump 0x61A0 2 1
        let s := if torn || st = stPoison then s.planFault r.ctx else s
        s.resultWrite r (0x40 + 32 * u) 2 p.bytes

/-- Count what a block did to its part. -/
def State.countPart (s : State) (q u app skip nf : Nat) : State :=
  s.modPartOf q u (fun p => { p with applied := p.applied + app, skipped := p.skipped + skip, nonfinite := p.nonfinite + nf })

/-- A read of an update unit: what it met, with its fault or poison recorded (R371, R408, 08 R338). -/
def State.uuRead (s : State) (r : UpdReq) (va n : Nat) : VaRes :=
  let m := s.hubRead r.ctx va n accRead
  let t := match m.fault with
    | some f => m.st.quietRecord 2 r.part r.ctx f [] [] 2
    | none =>
      if m.status.isSome then m.st
      else m.st.each m.vas (fun t l => t.poisonRecord r.part r.ctx l accRead 0 [] [] 2)
  { m with st := t }

/-- Check a range page by page: with a unit, that it lies in the unit's domain (R402); without, that it can be written, so that
no fault cuts a block's writes (R371, R404, R408). -/
def State.uuCheck (s : State) (r : UpdReq) (va n acc : Nat) (dom : Option Nat) : VaRes :=
  (pages va n).foldl (fun (a : VaRes) pc =>
    if a.fault.isSome || a.wait || a.status.isSome then a
    else
      let w := a.st.walkXlate r.ctx pc.1 acc
      if w.wait then { a with wait := true }
      else match w.out with
        | .error f => { a with st := w.st.quietRecord 2 r.part r.ctx f [] [] 2, fault := some f }
        | .ok e =>
          let pa := e.out + (pc.1 % 2 ^ 57 - e.va)
          match dom with
          | some u => if e.host || !w.st.inDomain u pa then { a with st := w.st, status := some stBadDesc } else { a with st := w.st }
          | none =>
            if e.host then { a with st := w.st }
            else match w.st.lineServe (hubWho e) true (w.st.route pa) with
              | .wait => { a with wait := true }
              | .undec => { a with st := w.st.quietRecord 2 r.part r.ctx { cause := 0x75, acc := accWrite, va := pc.1, ipa := e.ipa } [] [] 2, fault := some { cause := 0x75 } }
              | .err c => { a with st := w.st, status := some c }
              | .ok => { a with st := w.st }) { st := s }

/-- A write of an update unit. -/
def State.uuWrite (s : State) (r : UpdReq) (va : Nat) (bs : List Byte) : VaRes := s.hubWrite r.ctx va bs

end Sys2Proof.Machine
end

