-- ==== Sys2Proof/Machine/Update.lean ====
section
/-! DEFINITION. The commands of the update units (10_update_units.md). -/

namespace Sys2Proof.Machine

/-! ### Running a shard (R401, R402) -/

/-- How far a shard got: the state, and how it stopped, if it did. -/
structure ShardRun where
  st : State
  fail : Option Nat := none
  torn : Bool := false
  elem : Nat := 0
  wva : Nat := 0
  wait : Bool := false

/-- A shard stops at a block with a status. -/
def ShardRun.stop (k : ShardRun) (s : State) (st elem wva : Nat) : ShardRun := { k with st := s, fail := some st, elem := elem, wva := wva }

/-- Blocks of a shard (R402). -/
def shBlocks (b : List Byte) : Nat := if shKind b = 1 then shCount b else cdiv (shCount b) 4096

/-- First element of block k, as positions of g, and the block's elements. -/
def shSpan (b : List Byte) (k : Nat) : Nat × Nat :=
  if shKind b = 1 then (k * shRowlen b, shRowlen b) else (k * 4096, Nat.min 4096 (shCount b - k * 4096))

/-- The element number that FAIL_ELEM gives for block k (R410). -/
def shElem (b : List Byte) (k : Nat) : Nat := if shKind b = 1 then k else k * 4096

/-- Pass 1 over one block (R401). -/
def pass1Block (q u : Nat) (r : UpdReq) (b : List Byte) (k : ShardRun) (n : Nat) : ShardRun :=
  if k.fail.isSome || k.wait then k
  else
    let rule := k.st.rule r.part (shRule b)
    let (e0, len) := shSpan b n
    let sz := uuBytes rule.gf
    let m := k.st.uuRead r (shG b + e0 * sz) (len * sz)
    if m.wait then { k with wait := true }
    else if m.stat ≠ stOk then k.stop m.st m.stat (shElem b n) (shW b + e0 * uuBytes rule.wf)
    else
      let gs := updGscale (bytesOf r.header)
      let xs := (List.range len).map (fun i => mulB32 gs (uuLoad rule.gf m.data i))
      let good := xs.filter finB32
      let t := m.st.modPartOf q u (fun p => { p with nonfinite := p.nonfinite + (len - good.length), sum := BitVec.ofNat 64 (good.foldl (fun a x => addB64 a (mulB64 (widenB32 x) (widenB32 x))) p.sum.toNat) })
      { k with st := (t.bump (uuR u 0x60) good.length).odBump 0x61A0 5 (len - good.length) }

/-- Where a block of pass 2 has its tag, w, m, v, g and row count, and its bias-correction t. -/
structure BlockAt where
  tag : Nat
  w : Nat
  m : Nat
  v : Nat
  g : Nat
  cnt : Option Nat := none

/-- The addresses of block n, `row` being the table row of a rows shard (R403, R406). -/
def blockAt (rule : UuRule) (b : List Byte) (n row : Nat) : BlockAt :=
  let (e0, _) := shSpan b n
  let x := if shKind b = 1 then row * shRowlen b else e0
  { tag := shTag b + 8 * (if shKind b = 1 then row else n), w := shW b + x * uuBytes rule.wf, m := shM b + x * uuBytes rule.mf,
    v := shV b + x * uuBytes rule.vf, g := shG b + e0 * uuBytes rule.gf, cnt := if shKind b = 1 then some (shRcount b + 4 * row) else none }

/-- Several accesses in turn, until one fails or waits. -/
def allOk (s : State) (l : List (State → VaRes)) : VaRes :=
  l.foldl (fun (a : VaRes) f => if a.wait || a.stat ≠ stOk then a else let r := f a.st; { r with data := a.data ++ r.data }) { st := s }

/-- clip (R391). -/
def uuClip (rule : UuRule) (gnorm : Nat) : Nat :=
  if absB32 rule.maxNorm = 0 || !((b32 rule.maxNorm).lt (b32 gnorm)) then oneB32 else divB32 rule.maxNorm gnorm

/-- Apply a block of pass 2 whose tag lets it run (R402 to R406): checks and reads, then the writes between its two tags. -/
def applyBlock (q u : Nat) (r : UpdReq) (b : List Byte) (k : ShardRun) (n : Nat) (s : State) (a : BlockAt) : ShardRun :=
  let h := bytesOf r.header
  let rule := s.rule r.part (shRule b)
  let (_, len) := shSpan b n
  let ws := len * uuBytes rule.wf
  let ms := if rule.hasM then len * uuBytes rule.mf else 0
  let vs := if rule.hasV then len * uuBytes rule.vf else 0
  let gs := len * uuBytes rule.gf
  let dom := s.uuCheck r a.w ws accRead (some u)
  if dom.wait then { k with wait := true }
  else if dom.stat ≠ stOk then k.stop dom.st dom.stat (shElem b n) a.w
  else
    let rd (va len : Nat) (t : State) : VaRes := if len = 0 then { st := t } else t.uuRead r va len
    let cs := if a.cnt.isSome then 4 else 0
    let m := allOk dom.st [rd a.w ws, rd a.m ms, rd a.v vs, rd a.g gs, rd (a.cnt.getD 0) cs]
    if m.wait then { k with wait := true }
    else if m.stat ≠ stOk then k.stop m.st m.stat (shElem b n) a.w
    else
      let wr (va len : Nat) (t : State) : VaRes := if len = 0 then { st := t } else t.uuCheck r va len accWrite none
      let c := allOk m.st [wr a.tag 8, wr a.w ws, wr a.m ms, wr a.v vs, wr (a.cnt.getD 0) cs]
      if c.wait then { k with wait := true }
      else if c.stat ≠ stOk then k.stop c.st c.stat (shElem b n) a.w
      else
        let cnt := Nat.min (sliceNat m.data (ws + ms + vs + gs) 4 + 1) 0xFFFFFFFF
        let t := if a.cnt.isSome then cnt else updStepT h
        let args : UuArgs := { eta := updEta h, gscale := updGscale h, clip := uuClip rule (updGnorm h), bc1 := biasOf rule.biasM rule.a1 t, bc2 := biasOf rule.biasV rule.a2 t }
        let seed := (updSeed h ^^^ n) % 2 ^ 16
        let out := (List.range len).foldl (uuStep rule args (m.data.take ws) (slice m.data ws ms) (slice m.data (ws + ms) vs) (slice m.data (ws + ms + vs) gs)) { l := if seed = 0 then 0xACE1 else seed }
        let put (va : Nat) (bs : List Byte) (t : State) : State := if bs = [] then t else (t.uuWrite r va bs).st
        let step := updStep h
        let s := put a.tag (leBytes 8 (2 ^ 63 + step)) c.st
        let s := put a.v out.v (put a.m out.m (put a.w out.w s))
        let s := match a.cnt with | some va => put va (leBytes 4 cnt) s | none => s
        let s := put a.tag (leBytes 8 step) s
        let s := (s.countPart q u 1 0 out.bad).modUu u (fun x => { x with lfsr := out.l })
        { k with st := (s.bump (uuR u 0x50) len).odBump 0x61A0 5 out.bad }

/-- Pass 2 over one block (R402 to R407). -/
def pass2Block (q u : Nat) (r : UpdReq) (b : List Byte) (k : ShardRun) (n : Nat) : ShardRun :=
  if k.fail.isSome || k.wait then k
  else
    let rule := k.st.rule r.part (shRule b)
    let row := if shKind b = 1 then k.st.uuRead r (shIndex b + 4 * n) 4 else { st := k.st }
    let i := leNat row.data
    let a := blockAt rule b n i
    if row.wait then { k with wait := true }
    else if row.stat ≠ stOk then k.stop row.st row.stat (shElem b n) (shW b)
    else if shKind b = 1 && decide (shRows b ≤ i) then k.stop row.st stBadDesc (shElem b n) a.w
    else
      let tag := row.st.uuRead r a.tag 8
      let tv := leNat tag.data
      if tag.wait then { k with wait := true }
      else if tag.stat ≠ stOk then k.stop tag.st tag.stat (shElem b n) a.w
      else if bit tv 63 then
        { (k.stop ((tag.st.bump (uuR u 0x68) 1).odBump 0x61A0 4 1) stAborted (shElem b n) a.w) with torn := true }
      else if updStep (bytesOf r.header) ≤ tv then
        { k with st := ((tag.st.countPart q u 0 1 0).bump (uuR u 0x58) 1).odBump 0x61A0 3 1 }
      else applyBlock q u r b k n tag.st a

/-- Pass 1 over a shard. -/
def pass1Run (q u : Nat) (r : UpdReq) (b : List Byte) (s : State) : ShardRun :=
  (List.range (shBlocks b)).foldl (pass1Block q u r b) { st := s }

/-- Pass 2 over a shard; a GNORM that is not finite leaves the state as it was (R392). -/
def pass2Run (q u : Nat) (r : UpdReq) (b : List Byte) (s : State) : ShardRun :=
  let rule := s.rule r.part (shRule b)
  if absB32 rule.maxNorm ≠ 0 && !finB32 (updGnorm (bytesOf r.header)) then
    let n := if shKind b = 1 then shCount b * shRowlen b else shCount b
    { st := (s.countPart q u 0 0 n).odBump 0x61A0 5 n }
  else (List.range (shBlocks b)).foldl (pass2Block q u r b) { st := s }

/-- A unit has dealt with the shard at the front of its queue. -/
def State.popJob (s : State) (u : Nat) : State := s.modUu u (fun x => { x with jobs := x.jobs.tail })

/-- A part's shard is done: after its last the part is OK. -/
def State.shardDone (s : State) (q u : Nat) : State :=
  let s := s.modPartOf q u (fun p => { p with next := p.next + 1 })
  match (s.req q).bind (fun r => r.part_ u) with
  | some p => if p.next = p.shards.length then s.endPart q u stOk false 0 0 0 else s
  | none => s

/-- Run the shard at the front of a unit's queue, where its request is of this pass (R399, R408, R413). -/
def State.runFront (s : State) (u pass : Nat) (run : Nat → Nat → UpdReq → List Byte → State → ShardRun) : State :=
  match (s.uu u).jobs with
  | [] => s
  | j :: _ =>
    match s.req j.queue with
    | none => s.popJob u
    | some r =>
      if updPass (bytesOf r.header) ≠ pass then s
      else
        let b := bytesOf ((r.shards[j.shard]?.map (·.words)).getD [])
        let s := s.modUu u (fun x => { x with part := r.part })
        match r.part_ u with
        | none => s.popJob u
        | some p =>
          if p.ended then s.popJob u
          else match r.stop with
            | some st => (s.popJob u).endPart j.queue u st false j.shard 0 (shW b)
            | none =>
              if !s.uuOpen u then (s.popJob u).endPart j.queue u stUnitOffline false j.shard 0 (shW b)
              else
                let k := run j.queue u r b s
                if k.wait then s
                else match k.fail with
                  | some st => (k.st.popJob u).endPart j.queue u st k.torn j.shard k.elem k.wva
                  | none => (k.st.popJob u).shardDone j.queue u

/-- PASS1_SHARD: a unit runs the pass-1 shard at the front of its queue (R401). -/
def execPass1Shard (unit : Nat) (s : State) : Host.Outcome State Fault Refusal := .next (s.runFront unit 1 pass1Run)

/-- PASS2_SHARD: a unit runs the pass-2 shard at the front of its queue block by block (R402). -/
def execPass2Shard (unit : Nat) (s : State) : Host.Outcome State Fault Refusal := .next (s.runFront unit 2 pass2Run)

/-! ### Handing out and completing (R399, R409, R410) -/

/-- The request of a queue whose entry has been handed to the update units. -/
def State.handedReq (s : State) (q : Nat) : Option UpdReq :=
  match (s.queue q).held with
  | some h => if h.phase = .handed then s.req q else none
  | none => none

/-- SHARD_HANDOUT: the front end hands the next shard, in list order, to its unit when the unit's queue has room (R399). -/
def execShardHandout (queue : Nat) (s : State) : Host.Outcome State Fault Refusal :=
  match s.handedReq queue with
  | none => .next s
  | some r =>
    match r.shards[r.handed]? with
    | none => .next s
    | some sh =>
      let b := bytesOf sh.words
      let u := sh.unit
      let next (t : State) : State := t.modReq queue (fun x => { x with handed := x.handed + 1 })
      if (match r.part_ u with | some p => p.ended | none => true) then .next (next s)
      else match r.stop with
        | some st => .next (next (s.endPart queue u st false r.handed 0 (shW b)))
        | none =>
          if !s.uuOpen u then .next (next (s.endPart queue u stUnitOffline false r.handed 0 (shW b)))
          else if (s.uu u).jobs.length < 65 then
            .next (next (s.modUu u (fun x => { x with jobs := x.jobs ++ [{ queue := queue, shard := r.handed }] })))
          else .next s

/-- End every part of a stopped request that has not ended (R408). -/
def State.endStopped (s : State) (q : Nat) (r : UpdReq) : State :=
  match r.stop with
  | none => s
  | some st => s.each (r.parts.filter (fun p => !p.ended)) (fun t p =>
      let i := (p.shards[p.next]?).getD 0
      t.endPart q p.unit st false i 0 (shW (bytesOf ((r.shards[i]?.map (·.words)).getD []))))

/-- The result area's header and everything in it that no part writes (R410). -/
def State.resultHeader (s : State) (r : UpdReq) : State :=
  let has (u : Nat) : Bool := r.parts.any (fun p => p.unit = u)
  let done := ofBitList ((r.parts.filter (fun p => p.status = stOk)).map (·.unit))
  let present := ofBitList (r.parts.map (·.unit))
  let sum := r.parts.foldl (fun a p => addB64 a p.sum.toNat) 0
  let s := s.each ((List.range 48).filter (fun u => !has u)) (fun t u => t.resultWrite r (0x40 + 32 * u) 1 (List.replicate 32 0))
  let s := s.resultWrite r 0x640 1 (List.replicate 0x1C0 0)
  s.resultWrite r 0 1 (leBytes 8 done ++ leBytes 8 present ++ leBytes 8 sum ++ leBytes 4 (sumNat (r.parts.map (·.nonfinite))) ++ List.replicate 36 0)

/-- UPDATE_COMPLETE: once every part has ended, the front end writes the result header and the request is over (R409, R410). -/
def execUpdateComplete (queue : Nat) (s : State) : Host.Outcome State Fault Refusal :=
  match s.handedReq queue with
  | none => .next s
  | some r =>
    let s := s.endStopped queue r
    match s.req queue with
    | none => .next s
    | some r =>
      if r.parts.all (·.ended) then
        let st := if r.parts.all (fun p => p.status = stOk) then stOk else stPartial
        .next (((s.resultHeader r).odBump 0x61A0 1 1).endHeld queue st false)
      else .next s

/-! ### Rules (R394, R395) -/

/-- Queues whose accepted request names a rule. -/
def State.ruleUsers (s : State) (p r : Nat) : List Nat :=
  (s.upd.reqs.filter (fun e => e.2.part = p && e.2.shards.any (fun x => shRule (bytesOf x.words) = r))).map (·.1)

/-- What RULE_WRITE does, and its answer. -/
def State.ruleAct (t : State) (p : Path) (part rule : Nat) (data : List Byte) : State × Option Nat :=
  if data.length ≠ 64 || ruleBad data then (t, some stBadDesc)
    else ({ t with upd := { t.upd with ruleWait := t.upd.ruleWait ++ [{ path := p, part := part, rule := rule, data := data, queues := t.ruleUsers part rule }] } }, none)

/-- RULE_WRITE: a rule write is checked, and waits for the accepted requests that name the rule (R394, R395). -/
def execRuleWrite (p : Path) (part rule : Nat) (data : List Byte) (s : State) : Host.Outcome State Fault Refusal :=
  .next (s.odCmd p (0x3820 + part) (rule + 1) (fun t => t.ruleAct p part rule data))

/-- RULE_APPLIED: no request uses the old rule any more; all 48 units hold the new one and the write is answered (R395). -/
def execRuleApplied (part rule : Nat) (s : State) : Host.Outcome State Fault Refusal :=
  match s.upd.ruleWait.find? (fun w => w.part = part && w.rule = rule) with
  | none => .next s
  | some w =>
    if w.queues = [] then
      let t := { s with upd := { s.upd with ruleWait := s.upd.ruleWait.erase w } }
      .next ((t.setBlob (0x3820 + part) (rule + 1) w.data).odAnswer w.path stOk)
    else .next s

/-! ### Enabling units (R413) -/

/-- Change ENABLE of a unit: a busy unit that is disabled fails its shards with UNIT_OFFLINE (R413). -/
def State.uuEnable (s : State) (u : Nat) (on : Bool) : State :=
  let s := s.setRf (uuR u 0x10) 0 0 (b2n on)
  if on then s.modUu u (fun x => { x with state := .idle })
  else
    let jobs := (s.uu u).jobs
    if jobs = [] then s.modUu u (fun x => { x with state := .off })
    else
      let s := s.modUu u (fun x => { x with state := .offline, jobs := [] })
      s.each jobs (fun t j => t.endPart j.queue u stUnitOffline false j.shard 0 0)

/-- UU_ENABLE_WRITE (R413). -/
def execUuEnableWrite (p : Path) (unit : Nat) (on : Bool) (s : State) : Host.Outcome State Fault Refusal :=
  .next (s.regGateP p (uuR unit 0x10) (fun t => t.uuEnable unit on))

end Sys2Proof.Machine
end

