-- ==== Sys2Proof/Machine/ObjOps.lean ====
section
/-! DEFINITION. Shared operations of object commands (12_objects_and_submission.md): how a command of an HQ_ page starts and is
answered, handles and quotas, and what CTX_KILL, Q_RESET and reclaim epochs do. -/

namespace Sys2Proof.Machine

/-! ### Commands of an HQ_ page (R459, R460) -/

/-- Argument n of a partition's page. -/
def State.hqArg (s : State) (p n : Nat) : Nat := s.reg (hqP p (0x20 + 8 * n))

/-- The arguments' set bits lie within these masks (R460). -/
def State.hqMask (s : State) (p m0 m1 m2 m3 : Nat) : Bool :=
  let ok (n m : Nat) : Bool := decide (s.hqArg p n &&& m = s.hqArg p n)
  ok 0 m0 && ok 1 m1 && ok 2 m2 && ok 3 m3

/-- A command ends: its status and result (R459). -/
def State.hqAnswer (s : State) (p st res : Nat) : State :=
  let t := s.setReg (hqP p 0x40) (s.rf (hqP p 0x40) 30 30 * 2 ^ 30 + st)
  t.setReg (hqP p 0x48) res

/-- What a command does: its state, and its status and result, or none where it stays BUSY. -/
structure HqRes where
  st : State
  out : Option (Nat × Nat)

/-- A command is refused and changes nothing. -/
def hqNo (s : State) (st : Nat) : HqRes := { st := s, out := some (st, 0) }
/-- A command is done. -/
def hqOk (s : State) (res : Nat) : HqRes := { st := s, out := some (stOk, res) }

/-- Start a command of a partition's page by a path: a busy page discards it (R459); a privileged command from a path that
is not is refused (R460). The hub that cannot continue takes no command (08 R700). -/
def State.hqRun (s : State) (p : Path) (part : Nat) (priv : Bool) (act : State → HqRes) : State :=
  if s.mg.down then s
  else if bit (s.reg (hqP part 0x40)) 31 then (s.setRf (hqP part 0x40) 30 30 1).odBump 0x61C0 7 1
  else if priv && !s.privileged p then s.hqAnswer part stBadDesc 0
  else
    let r := act s
    match r.out with
    | some (st, res) => r.st.hqAnswer part st res
    | none => r.st.setRf (hqP part 0x40) 31 31 1

/-- The write of HQ_CMD that starts a command. -/
def State.hqCmd (s : State) (p : Path) (part : Nat) (priv : Bool) (act : State → HqRes) : State :=
  s.regGate p (hqP part 0x10) (some (part + 1)) (fun t => t.hqRun p part priv act)

/-! ### Handles (R448, R449, R455) -/

/-- Largest handles of the sections, plus one (R448). -/
def objCap (kind : Nat) : Nat := if kind = 1 then 1024 else if kind = 2 then 4096 else if kind = 3 then 1048576 else 65536

/-- The context that owns an object. -/
def State.objCtx (s : State) (kind h : Nat) : Nat :=
  if kind = 1 then h else if kind = 2 then (s.queue h).ctx else if kind = 3 then (s.memObj h).ctx else (s.sync h).ctx

/-- Whether a handle names an object of a kind that belongs to a partition and is not FREE. -/
def State.objIn (s : State) (p kind h : Nat) : Bool :=
  decide (h < objCap kind) && s.objSt kind h ≠ .free && s.ctxPart (s.objCtx kind h) = p
    && (kind < 4 || (s.sync h).event = decide (kind = 5))

/-- Whether a handle names a LIVE object of a kind and partition. -/
def State.objLive (s : State) (p kind h : Nat) : Bool := s.objIn p kind h && s.objSt kind h = .live

/-- The lowest number from `n` on that no entry of a map holds, whose entries stand from `n` on. -/
def lowestFree {α : Type} (used : α → Bool) : Nat → SMap α → Nat
  | n, [] => n
  | n, (k, v) :: t => if used v then (if k = n then lowestFree used (n + 1) t else n) else lowestFree used n t

/-- A FREE number below `n`: the first at or after a free value, around the end (which one is not stated, log 29). -/
def someFree {α : Type} (used : α → Bool) (n free : Nat) (m : SMap α) : List Nat :=
  let start := (Config.freeWord free).toNat % n
  ([lowestFree used start (m.filter (fun e => start ≤ e.1)), lowestFree used 0 m]).filter (· < n)

/-- A FREE handle of a fence or event, if the section has one. -/
def State.freeSync (s : State) : Option Nat :=
  (someFree (fun (x : SyncObj) => decide (x.st ≠ .free)) 65536 s.free s.obj.syncs).find? (fun h => (s.sync h).st = .free)

/-- A FREE handle of a memory object. -/
def State.freeMem (s : State) : Option Nat :=
  (someFree (fun (x : MemObj) => decide (x.st ≠ .free)) 1048576 s.free s.obj.mems).find? (fun h => (s.memObj h).st = .free)

/-- The free value that chose a handle is drawn. -/
def State.handleTaken (s : State) : State := { s with free := s.free + 1 }

/-- Whether a context may take one more fence or event (R460). -/
def State.syncRoom (s : State) (c : Nat) : Bool := decide ((s.ctxSyncs c).length < (s.ctx c).syncQuota)

/-- Take a handle of the fence and event section for a context: QUOTA where none is left. -/
def State.newSync (s : State) (c : Nat) (x : SyncObj) : HqRes :=
  match s.freeSync with
  | none => hqNo s stQuota
  | some h =>
    if s.syncRoom c then hqOk ((s.handleTaken.setSync h { x with st := .live, refs := 1, ctx := c }).addRef kCtx c) h else hqNo s stQuota

/-! ### Device memory of a partition (R458, R492) -/

/-- Whether a byte of device memory belongs to a partition: its channel sets less the firmware area, its DDR and CXL ranges,
and its store ways. -/
def State.partOwns (s : State) (p pa : Nat) : Bool :=
  let l := (s.part p).lay
  let inRange (r : Nat × Nat) : Bool := decide (r.1 ≤ pa) && decide (pa < r.1 + r.2 * 2 ^ 30)
  match s.decode pa with
  | .hbm n => bit l.sets n && decide (0x40000000 ≤ pa)
  | .tank _ w => s.wayOwner w = some (p, true)
  | .ddr _ => l.ddr.any inRange
  | .cxl _ => l.cxl.any inRange
  | _ => false

/-- Whether a 64 KiB page of a partition's IPA space has a stage-2 translation into its memory (R458). -/
def State.pageOwned (s : State) (p ipa : Nat) : WalkRes Bool :=
  let r := s.s2Xlate p ipa
  match r.out with
  | .error _ => { st := r.st, out := .ok false, wait := r.wait }
  | .ok e =>
    let pa := e.out + (ipa - e.va)
    { st := r.st, out := .ok (r.st.partOwns p pa && r.st.partOwns p (pa + 65535)), wait := r.wait }

/-- The check of a range, page by page: `none` where a page's walk waits (R458). -/
def State.rangeOwned : Nat → State → Nat → Nat → Option Bool × State
  | 0, s, _, _ => (some true, s)
  | n + 1, s, p, ipa =>
    let r := s.pageOwned p ipa
    if r.wait then (none, s)
    else match r.out with
      | .ok true => State.rangeOwned n r.st p (ipa + 65536)
      | _ => (some false, r.st)

/-! ### Queues -/

/-- A queue skips the entries that it has not accepted: HEAD goes to TAIL (R485, R486). Skipped entries of a device queue
leave the context's ENQ quota (05 R205). -/
def State.skipEntries (s : State) (q : Nat) : State :=
  let x := s.queue q
  let n := (x.tail + 2 ^ 32 - x.head) % 2 ^ 32
  let s := if x.device then s.modCtx x.ctx (fun k => { k with enqUsed := k.enqUsed - n }) else s
  s.setHead q x.tail

/-- End an accepted UPDATE that was handed on, at its block boundaries: its parts end, and it completes under R409
(10 R408). -/
def State.endUpdate (s : State) (q st : Nat) : State :=
  match s.handedReq q with
  | none => s
  | some _ =>
    let s := s.modReq q (fun r => { r with stop := some (r.stop.getD st) })
    match execUpdateComplete q s with
    | .next t => t
    | _ => s

/-- Whether a queue's entry still runs: a STEP that is running or yielding, or an UPDATE handed on (R485). -/
def State.entryRuns (s : State) (q : Nat) : Bool :=
  match (s.queue q).held with
  | none => false
  | some h => match h.phase with
    | .handed => (match s.stepOf q with | some r => r.st = .running || r.st = .yielding | none => true)
    | _ => false

/-- End the entry of a queue that is waiting, READY or PARKED with ABORTED; a park image is discarded (R485, R486). -/
def State.endIdle (s : State) (q st : Nat) : State :=
  match (s.queue q).held with
  | none => s
  | some h => match h.phase with
    | .done _ => s
    | _ => if s.entryRuns q then s
           else
             let e := match s.stepOf q with | some r => r.endStatus st | none => st
             (if (s.stepOf q).isSome then s.stopStep q false else s).endHeld q e false

/-- The steps of CTX_KILL that follow once no queue of the context holds an entry (R485 steps 3 and 4). -/
def State.killFinish (s : State) (c : Nat) : State :=
  if (s.ctx c).st = .live && (s.ctx c).killed.isSome && (s.ctxQueues c).all (fun q => (s.queue q).held = none) then
    (s.errorFences c false false).dropObjects c
  else s

/-- CTX_KILL (R485). -/
def State.ctxKill (s : State) (c : Nat) : State :=
  let s := s.modCtx c (fun x => { x with killed := some s.now })
  let s := s.each (s.ctxQueues c) (fun t q =>
    if (t.queue q).st = .none then t
    else
      let t := (t.endIdle q stAborted).skipEntries q
      t.modQueue q (fun x => { x with gens := [], st := if x.held = none then .stopped else .stopping }))
  (s.releaseHolds c).killFinish c

/-- Q_RESET (R486): the held entry ends and completes, the rest is skipped with SEQ following TAIL (log 29), and the queue is
STOPPED. -/
def State.qReset (s : State) (q : Nat) : State :=
  let s : State := match s.stepOf q with
    | some r =>
      if r.st = .parked then (s.stopStep q false).endHeld q (r.endStatus stPreempted) false
      else if r.st = .running || r.st = .yielding then s.tearStep q
      else s.endIdle q stAborted
    | none => (s.endUpdate q stAborted).endIdle q stAborted
  let s := match (s.queue q).held with
    | some h => (match h.phase with | .done st => s.completeEntry q st | _ => s)
    | none => s
  let x := s.queue q
  let n := (x.tail + 2 ^ 32 - x.head) % 2 ^ 32
  let s := s.skipEntries q
  (s.modQueue q (fun x => { x with seq := (x.seq + n) % 2 ^ 64, st := .stopped, gens := [] })).killFinish x.ctx

/-! ### Reclaim epochs (R455, R456) -/

/-- Whether a RECLAIMING object may be freed when an epoch ends: its count reached zero before the epoch began. -/
def ripeObj (s : State) (st : ObjSt) (e : Nat) : Bool := st = .reclaiming && decide (e < s.obj.epoch)

/-- A fence that becomes FREE lets its owner queue go, and an alias its original (R453, R483; log 29). -/
def State.syncGone (s : State) (h : Nat) (f : SyncObj) : State :=
  let s := match f.owner with | some q => s.dropRef kQueue q | none => s
  if !f.alias_ then s
  else if f.remote then (if f.lost then s else s.lkSend f.node (pktUnsubscribe f.target h))
  else s.dropRef kFence f.target

/-- Free the fences, events, memory objects and queues whose epoch has come, then the contexts (R455, R485). -/
def State.reclaim (s : State) : State :=
  let s := s.each (s.obj.mems.filter (fun e => ripeObj s e.2.st e.2.epoch)) (fun t e =>
    let t := ((t.setMemObj e.1 {}).dropRef kCtx e.2.ctx).odBump 0x61C0 6 1
    match e.2.notify with
    | some (f, v) => if (t.sync f).ctx = e.2.ctx ∧ (t.sync f).st ≠ .free then t.signal f v false else t
    | none => t)
  let s := s.each (s.obj.syncs.filter (fun e => ripeObj s e.2.st e.2.epoch)) (fun t e =>
    (((t.setSync e.1 {}).dropRef kCtx e.2.ctx).odBump 0x61C0 6 1).syncGone e.1 e.2)
  let s := s.each (s.obj.queues.filter (fun e => ripeObj s e.2.ost e.2.epoch)) (fun t e =>
    ((t.setQueue e.1 {}).dropRef kCtx e.2.ctx).odBump 0x61C0 6 1)
  s.each (s.obj.ctxs.filter (fun e => ripeObj s e.2.st e.2.epoch)) (fun t e =>
    let t := (t.setCtx e.1 {}).odBump 0x61C0 6 1
    { t with obs := { t.obs with plans := t.obs.plans.set e.1 [] [] } })

end Sys2Proof.Machine
end

