-- ==== Sys2Proof/Machine/Objects.lean ====
section
/-! DEFINITION. The object commands of the HQ_ pages and the end of a reclaim epoch (12_objects_and_submission.md R448 to
R461, R479 to R483, R485, R486). -/

namespace Sys2Proof.Machine

/-- The mask of a 64-bit argument that is all used. -/
def m64 : Nat := 2 ^ 64 - 1

/-! ### Contexts -/

/-- CTX_CREATE (R460). -/
def State.doCtxCreate (s : State) (p : Nat) : HqRes :=
  let a := s.hqArg p 0
  let b := s.hqArg p 1
  let c := bits a 9 0
  let q := bits a 28 16
  if !s.hqMask p (0x3FF + 0x1FFF * 2 ^ 16 + 2 ^ 31) m64 0 0 || 4096 < q || (s.ctx c).st ≠ .free then hqNo s stBadDesc
  else
    let r := s.ctxEntry c
    match r.out with
    | .error _ => hqNo s stBadDesc
    | .ok e =>
      if e.part ≠ p then hqNo s stBadDesc
      else
        let dflt (v sub : Nat) : Nat := if v = 0 then s.odGet 0x4270 sub else v
        hqOk (r.st.setCtx c { st := .live, refs := 1, part := p, enqQuota := if bit a 31 then s.odGet 0x4250 1 else q, memQuota := dflt (bits b 31 0) 3, syncQuota := dflt (bits b 63 32) 4 }) 0

/-- CTX_CREATE. -/
def execCtxCreate (p : Path) (part : Nat) (s : State) : Host.Outcome State Fault Refusal :=
  .next (s.hqCmd p part true (fun t => t.doCtxCreate part))

/-- CTX_KILL of a LIVE context (R485, R486). -/
def State.doCtxKill (s : State) (p : Nat) : HqRes :=
  let c := s.hqArg p 0
  if !s.hqMask p 0x3FF 0 0 0 || !s.objLive p kCtx c then hqNo s stBadDesc else hqOk (s.ctxKill c) 0

/-- CTX_KILL. -/
def execCtxKill (p : Path) (part : Nat) (s : State) : Host.Outcome State Fault Refusal :=
  .next (s.hqCmd p part false (fun t => t.doCtxKill part))

/-- The header of an object (R451). -/
def State.objHeader (s : State) (kind h : Nat) : Nat :=
  let st := match s.objSt kind h with | .free => 0 | .live => 1 | .dying => 2 | .reclaiming => 3
  s.refsOf kind h * 2 ^ 32 + st * 2 ^ 24 + kind * 2 ^ 20 + s.objCtx kind h

/-- OBJ_QUERY (R460): a FREE handle answers with STATE FREE and every other field zero (log 29). -/
def State.doObjQuery (s : State) (p : Nat) : HqRes :=
  let a := s.hqArg p 0
  let kind := bits a 23 20
  let h := bits a 19 0
  if !s.hqMask p 0xFFFFFF 0 0 0 || kind = 0 || 5 < kind || objCap kind ≤ h then hqNo s stBadDesc
  else if s.objSt kind h = .free then hqOk s 0
  else if s.objIn p kind h then hqOk s (s.objHeader kind h) else hqNo s stBadDesc

/-- OBJ_QUERY. -/
def execObjQuery (p : Path) (part : Nat) (s : State) : Host.Outcome State Fault Refusal :=
  .next (s.hqCmd p part false (fun t => t.doObjQuery part))

/-! ### Queues -/

/-- Real-time queues that exist. -/
def State.rtQueues (s : State) : Nat := (s.obj.queues.filter (fun e => e.2.rt && e.2.st ≠ .none)).length

/-- Q_CREATE (R460, R461). -/
def State.doQCreate (s : State) (p : Nat) : HqRes :=
  let a0 := s.hqArg p 0
  let a1 := s.hqArg p 1
  let a2 := s.hqArg p 2
  let a3 := s.hqArg p 3
  let q := bits a2 11 0
  let c := bits a2 21 12
  let sz := bits a2 26 22
  let fmt := bits a2 28 27
  let ms := bits a3 21 0
  if !s.hqMask p (2 ^ 57 - 2 ^ 12) (2 ^ 57 - 2 ^ 6) (2 ^ 51 - 1) (0x3FFFFF + 0xFFFF * 2 ^ 32) || !s.objLive p kCtx c || (s.queue q).ost ≠ .free
      || sz < 4 || 16 < sz || fmt = 0 || fmt = 3 || (bit a2 29 && fmt ≠ 2) || bits a2 50 43 = 0 || 3600000 < ms then hqNo s stBadDesc
  else if bit a2 30 && 128 ≤ s.rtQueues then hqNo s stQuota
  else
    let x : Queue := { st := .stopped, ring := a0, compl := a1, ctx := c, sizeLog := sz, fmt := fmt, device := bit a2 29, rt := bit a2 30, irqEn := bit a2 31, vector := bits a2 42 32, weight := bits a2 50 43, timeoutMs := if ms = 0 then s.odGet 0x4270 1 else ms, preemptUs := bits a3 47 32, refs := 1, ost := .live }
    hqOk ((s.setQueue q x).addRef kCtx c) 0

/-- Q_CREATE. -/
def execQCreate (p : Path) (part : Nat) (s : State) : Host.Outcome State Fault Refusal :=
  .next (s.hqCmd p part false (fun t => t.doQCreate part))

/-- A command that names a queue by ARG0 alone: refused unless the queue is LIVE and its state passes a test. -/
def State.onQueue (s : State) (p : Nat) (ok : QSt → Bool) (f : Nat → State → State) : HqRes :=
  let q := s.hqArg p 0
  if !s.hqMask p 0xFFF 0 0 0 || !s.objLive p kQueue q || !ok (s.queue q).st then hqNo s stBadDesc else hqOk (f q s) 0

/-- Q_START: the fetcher starts (R460, R468). -/
def State.doQStart (s : State) (p : Nat) : HqRes :=
  s.onQueue p (fun st => st = .stopped) (fun q t => (t.modQueue q (fun x => { x with st := .active })).fetchNext q)

/-- Q_START. -/
def execQStart (p : Path) (part : Nat) (s : State) : Host.Outcome State Fault Refusal :=
  .next (s.hqCmd p part false (fun t => t.doQStart part))

/-- Q_STOP: the held entry runs to completion, and the queue is then STOPPED (R460, R486). -/
def State.doQStop (s : State) (p : Nat) : HqRes :=
  s.onQueue p (fun st => st = .idle || st = .active) (fun q t =>
    t.modQueue q (fun x => { x with st := if x.held = none then .stopped else .stopping }))

/-- Q_STOP. -/
def execQStop (p : Path) (part : Nat) (s : State) : Host.Outcome State Fault Refusal :=
  .next (s.hqCmd p part false (fun t => t.doQStop part))

/-- Q_RESET (R486). -/
def State.doQReset (s : State) (p : Nat) : HqRes := s.onQueue p (fun st => st ≠ .none) (fun q t => t.qReset q)

/-- Q_RESET. -/
def execQReset (p : Path) (part : Nat) (s : State) : Host.Outcome State Fault Refusal :=
  .next (s.hqCmd p part false (fun t => t.doQReset part))

/-- Q_DESTROY (R460, R486): entries announced and not accepted go with the queue. -/
def State.doQDestroy (s : State) (p : Nat) : HqRes :=
  s.onQueue p (fun st => st = .stopped) (fun q t =>
    let t := (t.skipEntries q).modQueue q (fun x => { x with st := .none, gens := [] })
    (t.kill kQueue q).releaseHolds (t.queue q).ctx)

/-- Q_DESTROY. -/
def execQDestroy (p : Path) (part : Nat) (s : State) : Host.Outcome State Fault Refusal :=
  .next (s.hqCmd p part false (fun t => t.doQDestroy part))

/-! ### Memory objects -/

/-- MEM_CREATE (R458, R460). -/
def State.doMemCreate (s : State) (p : Nat) : HqRes :=
  let c := s.hqArg p 0
  let base := s.hqArg p 1
  let size := s.hqArg p 2
  if !s.hqMask p 0x3FF (2 ^ 52 - 1) m64 0 || !s.objLive p kCtx c || size = 0 || size % 65536 ≠ 0 || base % 65536 ≠ 0 then hqNo s stBadDesc
  else
    match s.freeMem with
    | none => hqNo s stQuota
    | some h =>
      if (s.ctx c).memQuota ≤ (s.ctxMems c).length then hqNo s stQuota
      else if 2 ^ 52 < base + size then hqNo s stXlate
      else match State.rangeOwned (size / 65536) s p base with
        | (none, _) => { st := s, out := none }
        | (some false, _) => hqNo s stXlate
        | (some true, t) => hqOk ((t.handleTaken.setMemObj h { st := .live, refs := 1, ctx := c, base := base, size := size }).addRef kCtx c) h

/-- MEM_CREATE. -/
def execMemCreate (p : Path) (part : Nat) (s : State) : Host.Outcome State Fault Refusal :=
  .next (s.hqCmd p part false (fun t => t.doMemCreate part))

/-- MEM_FREE (R457, R460): the object is DYING, with its FREE_GEN and a hold. FENCE and VALUE are ignored without NOTIFY
(log 29). -/
def State.doMemFree (s : State) (p : Nat) : HqRes :=
  let a := s.hqArg p 0
  let h := bits a 19 0
  let f := bits a 47 32
  let c := (s.memObj h).ctx
  if !s.hqMask p (0xFFFFF + 2 ^ 31 + 0xFFFF * 2 ^ 32) m64 0 0 || !s.objLive p kMem h
      || (bit a 31 && !(s.objLive p kFence f && (s.sync f).ctx = c)) then hqNo s stBadDesc
  else
    let x := { s.memObj h with freeGen := some (s.ctx c).gen, hold := true, notify := if bit a 31 then some (f, s.hqArg p 1) else none }
    hqOk ((((s.setMemObj h x).addRef kMem h).kill kMem h).releaseHolds c) 0

/-- MEM_FREE. -/
def execMemFree (p : Path) (part : Nat) (s : State) : Host.Outcome State Fault Refusal :=
  .next (s.hqCmd p part false (fun t => t.doMemFree part))

/-! ### Fences and events -/

/-- FENCE_CREATE (R460). -/
def State.doFenceCreate (s : State) (p : Nat) : HqRes :=
  let a := s.hqArg p 0
  let c := bits a 9 0
  let q := bits a 27 16
  let sh := s.hqArg p 2
  if !s.hqMask p (0x3FF + 0xFFF * 2 ^ 16 + 2 ^ 31) m64 (2 ^ 57 - 1) 0 || !s.objLive p kCtx c || sh % 16 ≠ 0
      || (bit a 31 && !(s.objLive p kQueue q && (s.queue q).ctx = c)) then hqNo s stBadDesc
  else
    let r := s.newSync c { value := s.hqArg p 1, owner := if bit a 31 then some q else none, shadow := sh }
    match r.out with
    | some (st, h) => if st = stOk && bit a 31 then hqOk (r.st.addRef kQueue q) h else r
    | none => r

/-- FENCE_CREATE. -/
def execFenceCreate (p : Path) (part : Nat) (s : State) : Host.Outcome State Fault Refusal :=
  .next (s.hqCmd p part false (fun t => t.doFenceCreate part))

/-- EVENT_CREATE (R460). -/
def State.doEventCreate (s : State) (p : Nat) : HqRes :=
  let c := s.hqArg p 0
  if !s.hqMask p 0x3FF 0 0 0 || !s.objLive p kCtx c then hqNo s stBadDesc else s.newSync c { event := true }

/-- EVENT_CREATE. -/
def execEventCreate (p : Path) (part : Nat) (s : State) : Host.Outcome State Fault Refusal :=
  .next (s.hqCmd p part false (fun t => t.doEventCreate part))

/-- Whether a handle names a LIVE fence or event of a partition. -/
def State.syncLive (s : State) (p h : Nat) : Bool := s.objLive p kFence h || s.objLive p kEvent h

/-- SYNC_FREE (R455, R457): the object is DYING, with its FREE_GEN and a hold; a fence lets its owner queue go when it is
freed for good. -/
def State.doSyncFree (s : State) (p : Nat) : HqRes :=
  let h := s.hqArg p 0
  let c := (s.sync h).ctx
  if !s.hqMask p 0xFFFF 0 0 0 || !s.syncLive p h then hqNo s stBadDesc
  else hqOk ((((s.modSync h (fun x => { x with freeGen := some (s.ctx c).gen, hold := true })).addRef kFence h).kill kFence h).releaseHolds c) 0

/-- SYNC_FREE. -/
def execSyncFree (p : Path) (part : Nat) (s : State) : Host.Outcome State Fault Refusal :=
  .next (s.hqCmd p part false (fun t => t.doSyncFree part))

/-- FENCE_SIGNAL (R479). -/
def State.doFenceSignal (s : State) (p : Nat) : HqRes :=
  let a := s.hqArg p 0
  let h := bits a 15 0
  if !s.hqMask p (0xFFFF + 2 ^ 31) m64 0 0 || !s.objLive p kFence h then hqNo s stBadDesc
  else hqOk (s.signal h (s.hqArg p 1) (bit a 31)) 0

/-- FENCE_SIGNAL. -/
def execFenceSignal (p : Path) (part : Nat) (s : State) : Host.Outcome State Fault Refusal :=
  .next (s.hqCmd p part false (fun t => t.doFenceSignal part))

/-- EVENT_SIGNAL (R460, 05 R202). -/
def State.doEventSignal (s : State) (p : Nat) : HqRes :=
  let h := s.hqArg p 0
  if !s.hqMask p 0xFFFF 0 0 0 || !s.objLive p kEvent h then hqNo s stBadDesc else hqOk (s.signalEvent h) 0

/-- EVENT_SIGNAL. -/
def execEventSignal (p : Path) (part : Nat) (s : State) : Host.Outcome State Fault Refusal :=
  .next (s.hqCmd p part false (fun t => t.doEventSignal part))

/-- FENCE_EXPORT (R481): a nonce is drawn at the first export; it is a free value (log 2). -/
def State.doFenceExport (s : State) (p : Nat) : HqRes :=
  let h := s.hqArg p 0
  let f := s.sync h
  if !s.hqMask p 0xFFFF 0 0 0 || !s.objLive p kFence h || (f.alias_ && f.remote) then hqNo s stBadDesc
  else
    let o := s.original h
    if (s.sync o).exported then hqOk s (o * 2 ^ 16 + (s.sync o).nonce)
    else
      let (w, t) := s.draw
      hqOk (t.modSync o (fun x => { x with exported := true, nonce := w.toNat % 2 ^ 16 })) (o * 2 ^ 16 + w.toNat % 2 ^ 16)

/-- FENCE_EXPORT. -/
def execFenceExport (p : Path) (part : Nat) (s : State) : Host.Outcome State Fault Refusal :=
  .next (s.hqCmd p part false (fun t => t.doFenceExport part))

/-- Whether a token names a LIVE exported fence of this module (R482, R483). -/
def State.tokenOk (s : State) (tok : Nat) : Bool :=
  let f := s.sync (tok / 2 ^ 16)
  f.st = .live && !f.event && f.exported && decide (f.nonce = tok % 2 ^ 16)

/-- FENCE_IMPORT (R482). -/
def State.doFenceImport (s : State) (p : Nat) (priv : Bool) : HqRes :=
  let c := s.hqArg p 0
  let tok := s.hqArg p 1
  let o := tok / 2 ^ 16
  if !s.hqMask p 0x3FF 0xFFFFFFFF 0 0 || !s.objLive p kCtx c || !s.tokenOk tok || (s.ctxPart (s.sync o).ctx ≠ p && !priv) then hqNo s stBadDesc
  else
    let r := s.newSync c { alias_ := true, target := o }
    match r.out with
    | some (st, h) => if st = stOk then hqOk (r.st.addRef kFence o) h else r
    | none => r

/-- FENCE_IMPORT. -/
def execFenceImport (p : Path) (part : Nat) (s : State) : Host.Outcome State Fault Refusal :=
  .next (s.hqCmd p part false (fun t => t.doFenceImport part (t.privileged p)))

/-- FENCE_IMPORT_REMOTE (R483): the quota is checked, and a subscription with the alias's handle goes to the owner. -/
def State.doFenceImportRemote (s : State) (p : Nat) : HqRes :=
  let a := s.hqArg p 0
  let c := bits a 9 0
  let tok := s.hqArg p 1
  if !s.hqMask p (0x3FF + 0xFFFF * 2 ^ 16) 0xFFFFFFFF 0 0 || !s.objLive p kCtx c then hqNo s stBadDesc
  else
    let r := s.newSync c { alias_ := true, remote := true, target := tok / 2 ^ 16, node := bits a 31 16 }
    match r.out with
    | some (st, h) =>
      if st = stOk then
        let t := r.st.lkSend (bits a 31 16) (pktSubscribe tok h)
        { st := { t with obj := { t.obj with imports := t.obj.imports ++ [{ part := p, ctx := c, node := bits a 31 16, token := tok, handle := h, tSent := s.now }] } }, out := none }
      else r
    | none => r

/-- FENCE_IMPORT_REMOTE. -/
def execFenceImportRemote (p : Path) (part : Nat) (s : State) : Host.Outcome State Fault Refusal :=
  .next (s.hqCmd p part false (fun t => t.doFenceImportRemote part))

/-- An import that fails: its handle goes back, and the command ends with a status (R483). -/
def State.importFail (s : State) (x : RemoteImport) (st : Nat) : State :=
  let t := { s with obj := { s.obj with imports := s.obj.imports.erase x } }
  ((t.setSync x.handle {}).dropRef kCtx x.ctx).hqAnswer x.part st 0

/-- IMPORT_REMOTE_TIMEOUT: no answer within 10 ms (R483). -/
def execImportRemoteTimeout (part : Nat) (s : State) : Host.Outcome State Fault Refusal :=
  match s.obj.imports.find? (fun x => x.part = part) with
  | none => .next s
  | some x => .next (if x.tSent + 1000000 ≤ s.now then s.importFail x stDeviceLost else s)

/-! ### References -/

/-- REF_ADD (R454). -/
def State.doRefAdd (s : State) (p : Nat) : HqRes :=
  let a := s.hqArg p 0
  let kind := bits a 23 20
  let h := bits a 19 0
  let n : Int := (s.refsOf kind h : Int) + toSigned 32 (s.hqArg p 1)
  if !s.hqMask p 0xFFFFFF 0xFFFFFFFF 0 0 || kind = 0 || 5 < kind || !s.objIn p kind h || s.objSt kind h = .reclaiming || n < 0
      || 0xFFFFFFFF < n then hqNo s stBadDesc
  else hqOk (s.setRefs kind h n.toNat) n.toNat

/-- REF_ADD. -/
def execRefAdd (p : Path) (part : Nat) (s : State) : Host.Outcome State Fault Refusal :=
  .next (s.hqCmd p part false (fun t => t.doRefAdd part))

/-! ### All commands by code (R460) -/

/-- What the command of a code does. A code with no command is refused. -/
def State.hqAct (s : State) (p : Path) (part code : Nat) : HqRes :=
  match code with
  | 0x01 => s.doCtxCreate part
  | 0x02 => s.doCtxKill part
  | 0x03 => s.doObjQuery part
  | 0x10 => s.doQCreate part
  | 0x11 => s.doQStart part
  | 0x12 => s.doQStop part
  | 0x13 => s.doQReset part
  | 0x14 => s.doQDestroy part
  | 0x20 => s.doMemCreate part
  | 0x21 => s.doMemFree part
  | 0x30 => s.doFenceCreate part
  | 0x31 => s.doEventCreate part
  | 0x32 => s.doSyncFree part
  | 0x33 => s.doFenceSignal part
  | 0x34 => s.doEventSignal part
  | 0x35 => s.doFenceExport part
  | 0x36 => s.doFenceImport part (s.privileged p)
  | 0x37 => s.doFenceImportRemote part
  | 0x40 => s.doRefAdd part
  | _ => hqNo s stBadDesc

/-- A write of HQ_CMD as a register. -/
def State.hqWrite (s : State) (p : Path) (part code : Nat) : State := s.hqRun p part (decide (code = 1)) (fun t => t.hqAct p part code)

/-! ### Reclaim epochs -/

/-- RECLAIM_EPOCH_END (R455, R456): an epoch of at least 0x4270:02 ends, objects whose count reached zero before it began
are FREE, and HQ_EPOCH rises. -/
def execReclaimEpochEnd (s : State) : Host.Outcome State Fault Refusal :=
  if s.obj.tEpoch + s.obj.epochUs * 100 ≤ s.now then
    let s := s.reclaim
    .next ({ s with obj := { s.obj with epoch := s.obj.epoch + 1, tEpoch := s.now, epochUs := s.odGet 0x4270 2 } }.bump (hqR 0x18) 1)
  else .next s

end Sys2Proof.Machine
end

