-- ==== Sys2Proof/Machine/Submit.lean ====
section
/-! DEFINITION. Doorbells, acceptance, waits, completion and timeouts of queue entries (12_objects_and_submission.md R467 to
R478, R484, R485; 17_observation.md R662 to R664). -/

namespace Sys2Proof.Machine

/-! ### Doorbells (R467 to R469) -/

/-- A doorbell at a queue's doorbell logic (R468). One for a killed context's queue is discarded and counted (R485). -/
def State.ringDoorbell (s : State) (q t : Nat) : State :=
  let x := s.queue q
  if x.st = .none then s
  else if (s.ctx x.ctx).killed.isSome then s.odBump 0x61C0 4 1
  else if 2 ^ x.sizeLog < x.ahead t then (s.modQueue q (fun y => { y with badTail := true })).odBump 0x61C0 4 1
  else
    let g := (s.ctx x.ctx).gen + 1
    let s := s.modCtx x.ctx (fun k => { k with gen := g % 2 ^ 64 })
    let old := x.gens.filter (fun m => x.ahead m.1 ≤ x.ahead t)
    let gens := if old.any (fun m => m.1 = t) || t = x.head then old else old ++ [(t, g)]
    s.modQueue q (fun y => { y with tail := t, pending := true, gens := gens, st := if y.st = .idle then .active else y.st })

/-- Whether a queue belongs to a partition. -/
def State.queueIn (s : State) (p q : Nat) : Bool := (s.queue q).st ≠ .none && s.ctxPart (s.queue q).ctx = p

/-- A host write of a doorbell page (R428, R469). -/
def State.hostDoorbell (s : State) (q t : Nat) : State :=
  if (s.queue q).device then s.odBump 0x61C0 4 1 else s.ringDoorbell q t

/-- DOORBELL: a write of HQ_DBTAIL by a path (R428, R468, R469). -/
def execDoorbell (p : Path) (queue : Nat) (tail : W32) (s : State) : Host.Outcome State Fault Refusal :=
  match p with
  | .vf k => .next (s.hostGate k (dbell queue 0) (fun t => if t.queueIn (k - 1) queue then t.hostDoorbell queue tail.toNat else t.odBump 0x61B0 4 1))
  | _ => .next (s.regGate p (dbell queue 0) none (fun t => t.hostDoorbell queue tail.toNat))

/-! ### Reading an entry (R464 to R466, R471) -/

/-- An entry as read: its fields, and whether its own fields are refused apart from its handles. -/
structure ReadEntry where
  e : Entry
  bad : Bool

/-- A v2 entry (R464). -/
def entryV2 (b : List Byte) : ReadEntry :=
  let w := sliceNat b 0 4
  let obj := sliceNat b 8 8
  let sv := sliceNat b 0x10 8
  let kind := bits w 7 0
  let waits := (bitList 4 (bits w 31 28)).map (fun i => (sliceNat b (0x18 + 2 * i) 2, sliceNat b (0x20 + 8 * i) 8))
  let sigs := (bitList 2 (bits w 27 26)).map (fun j => (sliceNat b (0x40 + 2 * j) 2, sliceNat b (0x48 + 8 * j) 8))
  let mem (i : Nat) : Nat := sliceNat b (0x60 + 4 * i) 4
  let mems := ((List.range 8).filter (fun i => bit (mem i) 31)).map (fun i => bits (mem i) 19 0)
  let al := if kind = 2 || kind = 1 then 64 else 1
  { e := { kind := kind, fmt := 2, irq := bit w 16, obj := obj, statusVa := if sv % 8 = 0 then sv % 2 ^ 57 else 0, waits := waits, sigs := sigs, mems := mems },
    bad := bits w 25 17 ≠ 0 || sliceNat b 4 4 ≠ 0 || sliceNat b 0x44 4 ≠ 0 || sliceNat b 0x58 8 ≠ 0 || 2 ^ 57 ≤ obj || 2 ^ 57 ≤ sv || sv % 8 ≠ 0
      || (List.range 8).any (fun i => bits (mem i) 30 20 ≠ 0) || (if kind = 3 then obj ≠ 0 else obj = 0) || obj % al ≠ 0 }

/-- A v1 entry (R465). -/
def entryV1 (b : List Byte) : ReadEntry :=
  let w := sliceNat b 0 4
  let obj := sliceNat b 8 8
  let mem (i : Nat) : Nat := sliceNat b (0x20 + 4 * i) 4
  let mems := ((List.range 2).filter (fun i => bit (mem i) 31)).map (fun i => bits (mem i) 19 0)
  { e := { kind := 1, fmt := 1, obj := obj, waits := if bit w 16 then [(sliceNat b 4 2, sliceNat b 0x10 8)] else [], sigs := if bit w 17 then [(sliceNat b 6 2, sliceNat b 0x18 8)] else [], mems := mems },
    bad := bits w 31 18 ≠ 0 || 2 ^ 57 ≤ obj || obj = 0 || obj % 64 ≠ 0 || (List.range 2).any (fun i => bits (mem i) 30 20 ≠ 0)
      || !((slice b 0x28 24).all (· = 0)) }

/-- Whether KIND and FORMAT are known and suit the queue (R471). -/
def entryKnown (fmt : Nat) (b : List Byte) : Bool :=
  let k := sliceNat b 0 1
  decide (sliceNat b 1 1 = fmt) && (if fmt = 1 then k = 1 else k = 1 || k = 2 || k = 3)

/-- Whether a signal of an entry passes the checks of R471. -/
def State.sigOk (s : State) (q c g h : Nat) : Bool :=
  s.fenceOk c h g false && !((s.sync h).alias_ && (s.sync h).remote) && (match s.ownerQ h with | some o => o = q | none => true)

/-- Whether a step object fails R466. Bits [7:5] of offset 0x18, which R466 does not name, must be zero (log 29). -/
def stepObjBad (b : List Byte) : Bool :=
  let st := sliceNat b 0 8
  let w := sliceNat b 0x18 4
  2 ^ 57 ≤ st || st % 8 ≠ 0 || 2 ^ 57 ≤ sliceNat b 8 8 || bits w 31 9 ≠ 0 || bits w 7 5 ≠ 0 || 16 < bits w 4 0 || !((slice b 0x20 32).all (· = 0))

/-- A step's record from its object (R466, R504). -/
def stepOfObj (c p va now : Nat) (rt : Bool) (b : List Byte) : StepRec :=
  let w := sliceNat b 0x18 4
  { ctx := c, part := p, va := va, stream := sliceNat b 0 8, arg := sliceNat b 8 8, deadlineUs := sliceNat b 0x10 4, energyUJ := sliceNat b 0x14 4, clusters := bits w 4 0, sclass := sliceNat b 0x1C 4, yieldOk := bit w 8, tAccept := now, rt := rt, obj := b }

/-! ### Wait cycles (R473) -/

/-- Waits of an entry that are unmet. -/
def State.unmet (s : State) (e : Entry) : List Nat :=
  (e.waits.filter (fun w => let o := s.sync (s.original w.1); !o.error && decide (o.value < w.2))).map (·.1)

/-- Owner queues of an entry's unmet waits. -/
def State.owners (s : State) (e : Entry) : List Nat := (s.unmet e).filterMap (fun h => s.ownerQ h)

/-- The search of R473: whether it reaches q. Every step looks at a queue not seen before. -/
def State.cycleFrom : Nat → State → Nat → List Nat → List Nat → Bool
  | 0, _, _, _, _ => false
  | _ + 1, _, _, [], _ => false
  | n + 1, s, q, r :: todo, seen =>
    if r = q then true
    else if seen.contains r then State.cycleFrom n s q todo seen
    else
      let more := match (s.queue r).held with
        | some h => if h.phase = .waiting then s.owners h.entry else []
        | none => []
      State.cycleFrom n s q (todo ++ more) (r :: seen)

/-- Whether an entry at the head of queue q closes a cycle. -/
def State.waitCycle (s : State) (q : Nat) (e : Entry) : Bool := State.cycleFrom 20481 s q (s.owners e) []

/-! ### Acceptance (R470 to R474) -/

/-- HEAD passes an entry that is refused or unreadable: it is held until its completion (R474). -/
def State.refuse (s : State) (q : Nat) (e : Entry) (st : Nat) (stop : Bool) : State :=
  let s := s.modQueue q (fun x => { x with held := some { entry := e, phase := .done st, tAccept := s.now, refused := true, stopAfter := stop } })
  (if st = stWaitCycle then s.odBump 0x61C0 2 1 else s).setHead q ((s.queue q).head + 1)

/-- An entry is accepted: references, HEAD and the hold on its waits (R470 steps 5 and 6). -/
def State.accept (s : State) (q : Nat) (e : Entry) : State :=
  let s := s.each (entryRefs e) (fun t r => t.addRef r.1 r.2)
  let s := s.modQueue q (fun x => { x with held := some { entry := e, phase := .waiting, tAccept := s.now } })
  s.setHead q ((s.queue q).head + 1)

/-- What reading a named structure gave the front end: bytes, or the status that refuses the entry; neither where it waits. -/
def State.frontRead (s : State) (c va n : Nat) : VaRes :=
  let r := s.hubRead c va n accRead
  match r.fault with
  | some f => { r with st := r.st.quietRecord 2 (s.ctxPart c) c f [] [] 1 }
  | none => if r.status.isSome then r
            else { r with st := r.st.each r.vas (fun t l => t.poisonRecord (s.ctxPart c) c l accRead 0 [] [] 1) }

/-- Acceptance of a STEP whose own fields and handles pass (R470, R472, R473). -/
def State.acceptStep (s : State) (q c : Nat) (e : Entry) : State :=
  let p := s.ctxPart c
  let r := s.frontRead c e.obj 64
  if r.wait then s
  else if r.stat ≠ stOk then r.st.refuse q e r.stat false
  else if stepObjBad r.data then r.st.refuse q e stBadDesc false
  else
    let s := r.st
    let k := stepOfObj c p e.obj s.now (s.queue q).rt r.data
    if (s.partCls p).length < k.clusters then s.refuse q e stQuota false
    else if s.waitCycle q e then s.refuse q e stWaitCycle false
    else (s.accept q e).setStep q k

/-- Acceptance of an UPDATE (R470, 10 R395, R398). It waits while a write of a rule that it names waits. -/
def State.acceptUpdate (s : State) (q c : Nat) (e : Entry) : State :=
  let p := s.ctxPart c
  let r := s.frontRead c e.obj 64
  if r.wait then s
  else if r.stat ≠ stOk then r.st.refuse q e r.stat false
  else if updHeadBad r.data then r.st.refuse q e stBadDesc false
  else
    let n := updShards r.data
    let l := r.st.frontRead c (e.obj + 64) (128 * n)
    if l.wait then s
    else if l.stat ≠ stOk then l.st.refuse q e l.stat false
    else
      let shs := (List.range n).map (fun i => slice l.data (128 * i) 128)
      if shs.any (fun b => l.st.upd.ruleWait.any (fun w => w.part = p && w.rule = shRule b)) then s
      else if shs.any (fun b => l.st.shardBad p r.data b) then l.st.refuse q e stBadDesc false
      else if l.st.waitCycle q e then l.st.refuse q e stWaitCycle false
      else
        let t := l.st.accept q e
        { t with upd := { t.upd with reqs := t.upd.reqs.put q { ctx := c, part := p, header := wordsOf r.data, shards := shs.map (fun b => { words := wordsOf b, unit := shUnit b }), parts := partsOf shs } } }

/-- The entry at HEAD as bytes: refused on its own fields and handles, or taken further by its kind (R471). -/
def State.acceptBytes (s : State) (q c : Nat) (b : List Byte) : State :=
  let x := s.queue q
  if !entryKnown x.fmt b then s.refuse q { fmt := x.fmt } stBadDesc false
  else
    let r := if x.fmt = 1 then entryV1 b else entryV2 b
    let g := x.headGen
    let bad := r.bad || r.e.waits.any (fun w => !s.fenceOk c w.1 g false) || r.e.sigs.any (fun w => !s.sigOk q c g w.1)
      || r.e.mems.any (fun m => !s.memOk c m g)
    if bad then s.refuse q { r.e with sigs := r.e.sigs.filter (fun w => s.sigOk q c g w.1) } stBadDesc false
    else
      let t := if r.e.kind = 1 then s.acceptStep q c r.e
        else if r.e.kind = 2 then s.acceptUpdate q c r.e
        else if s.waitCycle q r.e then s.refuse q r.e stWaitCycle false
        else s.accept q r.e
      t.modQueue q (fun x => { x with held := x.held.map (fun h => { h with raw := b }) })

/-- ENTRY_ACCEPT: the fetcher reads and checks the entry at HEAD, and accepts or refuses it (R470 to R474). -/
def execEntryAccept (queue : Nat) (s : State) : Host.Outcome State Fault Refusal :=
  let x := s.queue queue
  if x.st = .active && x.held = none && x.head ≠ x.tail && s.mg.stage = .ready && !s.mg.down then
    let sz := if x.fmt = 1 then 64 else 128
    let r := s.frontRead x.ctx (x.ring + x.head % 2 ^ x.sizeLog * sz) sz
    if r.wait then .next s
    else if r.stat ≠ stOk then .next (r.st.refuse queue { fmt := x.fmt } r.stat true)
    else .next (r.st.acceptBytes queue x.ctx r.data)
  else .next s

/-! ### Waits and completion (R475, R476) -/

/-- The outcome of an entry's waits: a status when the entry can go on or fails, none while one is unmet (R475, 00 R17). -/
def State.waitsNow (s : State) (e : Entry) : Option Nat :=
  let l := e.waits.map (fun w => s.waitStatus w.1 w.2)
  if l.contains (some stDeviceLost) then some stDeviceLost
  else if l.contains (some stFenceError) then some stFenceError
  else if l.contains none then none
  else some stOk

/-- Least virtual time of a partition's other best-effort queues that are ready or running (13 R508). -/
def State.leastV (s : State) (p q : Nat) : Option Rat :=
  (s.pt.steps.filter (fun e => e.1 ≠ q && e.2.part = p && !e.2.rt && (e.2.st = .ready || e.2.st = .running || e.2.st = .yielding))).foldl
    (fun (a : Option Rat) e => let v := (s.queue e.1).vtime; match a with | none => some v | some x => some (if v < x then v else x)) none

/-- A step becomes READY (13 R504, R508). -/
def State.stepReady (s : State) (q : Nat) : State :=
  match s.stepOf q with
  | none => s
  | some r =>
    let s := s.setStep q { r with st := .ready }
    if r.rt then s
    else match s.leastV r.part q with
      | some v => s.modQueue q (fun x => { x with vtime := if x.vtime < v then v else x.vtime })
      | none => s

/-- WAITS_MET: the waits of an accepted entry are met, and it is handed on, or a waited fence fails it (R475). -/
def execWaitsMet (queue : Nat) (s : State) : Host.Outcome State Fault Refusal :=
  match (s.queue queue).held with
  | none => .next s
  | some h =>
    if h.phase ≠ .waiting then .next s
    else match s.waitsNow h.entry with
      | none => .next s
      | some st =>
        if st ≠ stOk then .next (s.endHeld queue st false)
        else if h.entry.kind = 3 then .next (s.endHeld queue stOk false)
        else
          let s := s.modQueue queue (fun x => { x with held := some { h with phase := .handed } })
          .next (if h.entry.kind = 1 then s.stepReady queue else s)

/-- ENTRY_COMPLETE: an entry that is over completes in the order of R476; a killed context may then be finished (R485). -/
def execEntryComplete (queue : Nat) (s : State) : Host.Outcome State Fault Refusal :=
  match (s.queue queue).held with
  | none => .next s
  | some h => match h.phase with
    | .done st => .next ((s.completeEntry queue st).killFinish (s.queue queue).ctx)
    | _ => .next s

/-! ### Timeouts (R484, R485; 17 R662 to R664) -/

/-- A hung step: its context freezes for the contact sheet, or, where a sheet is held or being written, it is torn down without
one (17 R663, R664). -/
def State.hang (s : State) (q cause : Nat) : State :=
  match s.stepOf q with
  | none => s
  | some r =>
    let s := s.modStep q (fun x => { x with lastProgress := s.now })
    if s.obs.sheet.isSome || bit (s.reg (dbR 0 0x10)) 31 then
      ((s.bumpSat (dbR 0 0x10) 32 32 1).odBump 0x6210 2 1).teardown r.ctx (some (q, stTimeout)) false false
    else
      let sb := (s.cores.filter (fun e => e.2.ctx = some r.ctx)).map (fun e => (e.1, e.2.sb))
      { s with obs := { s.obs with sheet := some { queue := q, ctx := r.ctx, part := r.part, cause := cause, tFreeze := s.now, sb := sb } } }

/-- QUEUE_TIMEOUT: an accepted entry has not completed TIMEOUT_MS after acceptance (R484). -/
def execQueueTimeout (queue : Nat) (s : State) : Host.Outcome State Fault Refusal :=
  let x := s.queue queue
  match x.held with
  | none => .next s
  | some h =>
    if h.tAccept + x.timeoutMs * 100000 ≤ s.now && (s.ctx x.ctx).killed = none && !s.frozen x.ctx
        && (match h.phase with | .done _ => false | _ => true) && (match s.req queue with | some r => r.stop = none | none => true) then
      let s := s.odBump 0x61C0 3 1
      match s.stepOf queue with
      | some r =>
        if r.st = .waiting || r.st = .ready then .next (s.endIdle queue stTimeout) else .next (s.hang queue 1)
      | none =>
        if h.phase = .handed then .next (s.modReq queue (fun r => { r with stop := some stTimeout }))
        else .next (s.endHeld queue stTimeout false)
    else .next s

/-- KILL_TIMEOUT: a running entry of a killed context has not completed TIMEOUT_MS after the kill; it is torn down and
completes with ABORTED (R485 step 2). -/
def execKillTimeout (queue : Nat) (s : State) : Host.Outcome State Fault Refusal :=
  let x := s.queue queue
  match (s.ctx x.ctx).killed with
  | none => .next s
  | some t =>
    if t + x.timeoutMs * 100000 ≤ s.now && s.entryRuns queue then
      match s.stepOf queue with
      | some _ => .next (s.teardown x.ctx none false false)
      | none => .next ((s.endUpdate queue stAborted).modQueue queue (fun y => { y with held := y.held.map (fun h => { h with phase := .done stAborted }) }))
    else .next s

end Sys2Proof.Machine
end

