-- ==== Sys2Proof/Machine/Budget.lean ====
section
/-! DEFINITION. The Meter's limits, budgets, projections and admission (13_partitions_and_meter.md R520, R524 to R528;
15_negatives_and_repair.md R604). -/

namespace Sys2Proof.Machine

/-- Bricks that deliver power (R604, R605): released and failed ones do not, nor one that a release is about to stop. -/
def State.bricksOn (s : State) : Nat :=
  (s.pw.bricks.filter (fun e => e.2.present && e.2.delivering && !s.ng.svc.any (fun w => match w with | .brick _ n => n = e.1 | _ => false))).length

/-- Fan modules that run (18 R685); none on the FV-80-LC. -/
def State.fansOn (s : State) : Nat :=
  if s.ac then (s.pw.fans.filter (fun e => e.2.fitted && e.2.running)).length else 0

/-- The limit that the bricks set (R604). With two or fewer the module powers down (18 R678). -/
def brickLimit (n : Nat) : Nat := if 5 ≤ n then 2600 else if n = 4 then 2080 else 1560

/-- The limit that the fans set on the FV-80-AC (R604). -/
def fanLimit (n : Nat) : Nat := if 5 ≤ n then 1600 else if n = 4 then 1200 else 800

/-- The module limit L (R524, R604). -/
def State.moduleLimit (s : State) : Nat :=
  let l := Nat.min (s.odGet 0x2000 1) (brickLimit s.bricksOn)
  if s.ac then Nat.min l (fanLimit s.fansOn) else l

/-- Enabled partitions. -/
def State.enabledParts (s : State) : List Nat := (List.range 8).filter (fun p => (s.part p).lay.enabled)

/-- The thermal factor at a hottest temperature (R524). -/
def thetaOf (t : Int) (ts : Nat) : Rat :=
  if t ≤ (ts : Int) then 1 else if 105 ≤ t then 0 else ((105 - t : Int) : Rat) / ((105 - (ts : Int) : Int) : Rat)

/-- A partition takes its budget entries: at each window, and when it becomes ACTIVE (R502, R545). -/
def State.latchPart (s : State) (p : Nat) : State :=
  s.modPart p (fun x => { x with budget := s.odGet (0x2100 + p) 1, rtReserve := s.odGet (0x2100 + p) 2, derate := s.odGet (0x2100 + p) 3 })

/-- budget(p), with the equal share of a zero entry (R525). -/
def State.budgetOf (s : State) (p : Nat) : Rat :=
  if (s.part p).budget = 0 then (s.pt.meter.limit : Rat) / ((Nat.max 1 s.enabledParts.length : Nat) : Rat) else ((s.part p).budget : Rat)

/-- What the budgets have above zero. -/
def ratPos (r : Rat) : Rat := if r < 0 then 0 else r

/-- The lesser of two rationals. -/
def ratMin (a b : Rat) : Rat := if b < a then b else a

/-- budgets() of R525, from the window's θ, base, limit and entries. -/
def State.budgets (s : State) : State :=
  let m := s.pt.meter
  let room := ratPos (m.theta * (m.limit : Rat) - m.base)
  let held := if s.pt.maint.any (fun x => x.part = none) then ratMin (m.reserve : Rat) room else 0
  let avail := ratPos (room - held)
  let total := s.enabledParts.foldl (fun (a : Rat) p => a + s.budgetOf p) 0
  let f := if total = 0 then 0 else ratMin 1 (avail / total)
  let s := { s with pt := { s.pt with meter := { m with avail := avail } } }
  s.each s.enabledParts (fun t p =>
    let x := t.part p
    let share := t.budgetOf p * f * (if x.compat then (x.derate : Rat) / 100 else 1)
    let rt := ratMin (x.rtReserve : Rat) share
    t.setPart p { x with share := share, rtBudget := rt, beBudget := share - rt })

/-- Clusters of a partition. -/
def State.partSize (s : State) (p : Nat) : Nat := (s.partCls p).length

/-- The clusters that a step is placed on: CLUSTERS, or all of the partition's (R505). -/
def State.stepSize (s : State) (r : StepRec) : Nat := if r.clusters = 0 then s.partSize r.part else r.clusters

/-- power(class(s), j) of a step: learned, or estimated from its step object (R520, R522). -/
def State.stepPower (s : State) (r : StepRec) (j : Nat) : Rat :=
  match s.learnedFind 0 r.part r.sclass with
  | some l => l.power j
  | none =>
    if r.energyUJ = 0 then (s.part r.part).share * (s.stepSize r : Rat) / ((Nat.max 1 (s.partSize r.part) : Nat) : Rat)
    else (r.energyUJ : Rat) / (((if r.deadlineUs = 0 then 1000 else r.deadlineUs) : Nat) : Rat) * piOf j

/-- The Meter's answer for a step (R525). -/
structure Admit where
  ok : Bool
  rtPool : Bool
  x : Rat

/-- the admission test of R525 to R527 and R531. -/
def State.admitStep (s : State) (r : StepRec) : Admit :=
  let p := s.part r.part
  let x := s.stepPower r s.point
  let rtPool := r.rt && decide (0 < p.rtReserve)
  let fits := if rtPool then decide (p.rtProj = 0) || decide (p.rtProj + x ≤ p.rtBudget)
    else decide (0 < p.beBudget) && (decide (p.beProj = 0) || decide (p.beProj + x ≤ p.beBudget))
  { ok := fits && !s.pt.meter.stopped, rtPool := rtPool, x := x }

end Sys2Proof.Machine
end

