-- ==== Sys2Proof/Machine/Dens.lean ====
section
/-! DEFINITION. The densitometer, the slot area and the steering of slot scales (04_number_formats.md R154 to R172), with
the commands of its family. -/

namespace Sys2Proof.Machine

/-! ### The slot table (R162, R166) -/

/-- Replace `n` bytes of a record by a number. -/
def putNat (l : List Byte) (off n v : Nat) : List Byte := l.take off ++ leBytes n v ++ l.drop (off + n)

/-- Device physical address of a slot entry. -/
def State.slotAddr (s : State) (p slot : Nat) : Nat := s.slotArea p + 16 * slot

/-- The bytes of a slot entry. -/
def State.slotEntry (s : State) (p slot : Nat) : List Byte × State :=
  let r := s.ownRead (s.slotAddr p slot) 16
  (r.1, r.2.2)

/-- SCALE of a slot entry. -/
def slotScale (e : List Byte) : Nat := sliceNat e 0 2
/-- BAD_RUN. -/
def slotBadRun (e : List Byte) : Nat := sliceNat e 2 1
/-- CENTRE_SET. -/
def slotCentreSet (e : List Byte) : Bool := bit (sliceNat e 0 4) 29
/-- TRIPPED. -/
def slotTripped (e : List Byte) : Bool := bit (sliceNat e 0 4) 30
/-- HOLD. -/
def slotHold (e : List Byte) : Bool := bit (sliceNat e 0 4) 31
/-- CENTRE, signed. -/
def slotCentre (e : List Byte) : Int := toSigned 8 (sliceNat e 4 1)
/-- Set a bit of the first word. -/
def slotBit (e : List Byte) (b v : Nat) : List Byte := putNat e 0 4 (setBits (sliceNat e 0 4) b b v)

/-- The scale and centre that a command reads when it starts (R128, R155). -/
def State.slotRead (s : State) (p slot outFmt : Nat) : Nat × Int × State :=
  let (e, t) := s.slotEntry p slot
  (slotScale e, if slotCentreSet e then slotCentre e else emaxOf outFmt - 16, t)

/-- R164: a partition's slot area cleared, every scale at 1.0. -/
def State.slotAreaClear (s : State) (p : Nat) : State :=
  let b := s.slotArea p
  let t := { s with mem := s.mem.filter (fun e => !(b ≤ e.1 && e.1 < b + 0x200000)),
                    ext := { s.ext with poison := s.ext.poison.filter (fun e => !(b / 32 ≤ e.1 && e.1 < (b + 0x200000) / 32)) },
                    pt := { s.pt with densSrc := s.pt.densSrc.filter (fun e => !(p * 1024 ≤ e.1 && e.1 < p * 1024 + 1024)) } }
  t.each (List.range 1024) (fun t i => t.wrBytes (b + 16 * i) (leBytes 2 0x3F80))

/-! ### Counting (R154 to R157) -/

/-- Add to a 32-bit count that stops at its top. -/
def satAdd (a n : Nat) : Nat := Nat.min (a + n) 0xFFFFFFFF

/-- Count one value, with what its conversion gave. -/
def DensSet.count (d : DensSet) (v : XVal) (c : Conv) : DensSet :=
  let d := { d with sats := satAdd d.sats (b2n c.sat), flushes := satAdd d.flushes (b2n c.flushed) }
  match v with
  | .nan => { d with nans := satAdd d.nans 1 }
  | .inf _ => { d with overs := satAdd d.overs 1 }
  | .fin _ m e =>
    if m = 0 then { d with zeros := satAdd d.zeros 1 }
    else
      let x := expOf m e
      if x < d.centre - 32 then { d with under := satAdd d.under 1 }
      else if d.centre + 31 < x then { d with overs := satAdd d.overs 1 }
      else { d with bins := d.bins.upd (x - d.centre + 32).toNat 0 (fun n => satAdd n 1) }

/-- Partition of the cluster that a core belongs to. -/
def State.corePart (s : State) (slot : Nat) : Nat := (s.clPart (slotCl slot)).getD 0

/-- Address of a partial record (R162). -/
def State.partialAddr (s : State) (p slot : Nat) : Nat := s.slotArea p + 0x150000 + 320 * slot

/-- Whether a record holds no counts. -/
def recEmpty (r : List Byte) : Bool := (slice r 0x18 24).all (· = 0) && (slice r 0x40 256).all (· = 0)

/-- Add one count of a set to a count of a record. -/
def recAdd (r : List Byte) (off n : Nat) : List Byte := putNat r off 4 (satAdd (sliceNat r off 4) n)

/-- Write a set out into its slot's partial record (R156, R157, R172): counts add and saturate; a set with another
centre is placed by exponents. -/
def State.densWriteOut (s : State) (core : Nat) (d : DensSet) : State :=
  let p := s.corePart core
  let (r, _, s) := s.ownRead (s.partialAddr p d.slot) 320
  let empty := recEmpty r
  let key := p * 1024 + d.slot
  let srcs := (s.pt.densSrc.getD key []) ++ d.srcs.filter (fun x => !(s.pt.densSrc.getD key []).contains x)
  let old := sliceNat r 4 4
  let flags := s.reg (mxR core 0x70)
  let scaleB := if empty then d.scale else sliceNat r 0x38 2
  let fmt := if empty then d.fmt else bits (sliceNat r 0 4) 21 18
  let centre : Int := if empty then d.centre else toSigned 8 (sliceNat r 1 1)
  let w1 := (if empty then 0 else old) ||| (if bit flags 3 then 2 ^ 31 else 0) ||| (if bit flags 0 then 2 ^ 30 else 0)
    ||| (if d.noScale then 2 ^ 29 else 0) ||| (if d.mixedFmt || fmt != d.fmt then 2 ^ 28 else 0)
    ||| (if d.mixedScale || scaleB != d.scale then 2 ^ 27 else 0) ||| (if 2 ≤ srcs.length then 2 ^ 26 else 0)
  let r := if empty then List.replicate 320 0 else r
  let r := putNat (putNat r 0 4 (d.slot * 2 ^ 22 + fmt * 2 ^ 18 + ofSigned 8 centre * 256)) 4 4 w1
  let r := putNat r 0x38 2 scaleB
  let r := recAdd (recAdd (recAdd (recAdd (recAdd (recAdd r 0x18 d.zeros) 0x1C d.nans) 0x20 d.sats) 0x24 d.flushes) 0x28 d.under) 0x2C d.overs
  let r := d.bins.foldl (fun r b =>
    let i : Int := d.centre - 32 + (b.1 : Int) - centre + 32
    if i < 0 then recAdd r 0x28 b.2 else if 63 < i then recAdd r 0x2C b.2 else recAdd r (0x40 + 4 * i.toNat) b.2) r
  let t := s.ownWrite (s.partialAddr p d.slot) r
  let t := { t with pt := { t.pt with densSrc := t.pt.densSrc.set key [] srcs } }
  t.each d.srcs (fun t x =>
    if x % 2 = 0 then
      match t.kernel (x / 2) with
      | some k => t.setKernel (x / 2) { k with slots := if k.slots.contains d.slot then k.slots else k.slots ++ [d.slot] }
      | none => t
    else t.modSeq (x / 2) (fun q => { q with densSlots := if q.densSlots.contains d.slot then q.densSlots else q.densSlots ++ [d.slot] }))

/-- A core writes out all of its sets (R158). -/
def State.densFlush (s : State) (core : Nat) : State :=
  let sets := (s.mx core).sets
  (s.each sets (fun t d => t.densWriteOut core d)).modMx core (fun m => { m with sets := [] })

/-- The set of a slot at the front of a core's sets: found, taken free, or by writing the least recently used out (R156).
`src` counts into it; `centre`, `fmt` and `scale` are what a new set keeps, and what later commands are compared with. -/
def State.densTake (s : State) (core slot fmt scale : Nat) (centre : Int) (scaled : Bool) (src : Nat) : State :=
  let m := s.mx core
  match m.sets.find? (fun d => d.slot = slot) with
  | some d =>
    let d' := { d with mixedFmt := d.mixedFmt || d.fmt != fmt, mixedScale := d.mixedScale || d.scale != scale, noScale := d.noScale || !scaled, srcs := if d.srcs.contains src then d.srcs else d.srcs ++ [src] }
    s.modMx core (fun m => { m with sets := d' :: m.sets.filter (fun x => x.slot ≠ slot) })
  | none =>
    let s := if m.sets.length < 8 then s
      else match m.sets.getLast? with
        | some v => (((s.densWriteOut core v).modMx core (fun m => { m with sets := m.sets.dropLast })).bumpSat (mxR core 0x78) 16 8 1).odBump 0x6140 5 1
        | none => s
    let used := (s.mx core).sets.map (·.idx)
    let idx := ((List.range 8).find? (fun i => !used.contains i)).getD 0
    s.modMx core (fun m => { m with sets := { idx := idx, slot := slot, fmt := fmt, scale := scale, centre := centre, noScale := !scaled, srcs := [src] } :: m.sets })

/-- Count a list of values, with their conversions, into the front set of a core. -/
def State.densCount (s : State) (core : Nat) (vals : List (XVal × Conv)) : State :=
  s.modMx core (fun m => match m.sets with
    | [] => m
    | d :: rest => { m with sets := vals.foldl (fun d v => d.count v.1 v.2) d :: rest })

/-! ### Closing and steering (R158, R161, R163, R168) -/

/-- Whether steering applies to an output format (R167). -/
def steerable (fmt : Nat) : Bool := fmt = 0 || fmt = 1 || fmt = 2 || fmt = 3 || fmt = 4 || fmt = 5 || fmt = 7

/-- R168's walk down the bins: the exponent that at most `tail` values lie above. `i` counts the bins left. -/
def steerP (r : List Byte) (tail : Nat) : Nat → Nat → Int → Int
  | 0, _, p => p
  | i + 1, above, p =>
    let n := sliceNat r (0x40 + 4 * i) 4
    if above + n ≤ tail then steerP r tail i (above + n) (p - 1) else p

/-- Set a bit of a record's second word. -/
def recFlag (r : List Byte) (b : Nat) : List Byte := putNat r 4 4 (sliceNat r 4 4 ||| 2 ^ b)

/-- Steer a slot from a record that is being closed (R168 to R170): the record and the state after. -/
def State.steer (s : State) (p slot : Nat) (r : List Byte) : List Byte × State :=
  let (e, s) := s.slotEntry p slot
  let idx := 0x4240 + p
  let fmt := bits (sliceNat r 0 4) 21 18
  let w1 := sliceNat r 4 4
  let before := sliceNat r 0x38 2
  let r0 := putNat r 0x3A 2 (slotScale e)
  if s.odGet idx 2 = 0 || slotHold e || slotTripped e then (recFlag r0 22, s)
  else if !steerable fmt then (r0, s)
  else if bit w1 28 || bit w1 27 || bit w1 29 then (r0, s)
  else if slotScale e ≠ before then (recFlag r0 25, s.odBump 0x6140 4 1)
  else
    let e := putNat e 12 4 (sliceNat r 0x30 4)
    let bad := sliceNat r 0x1C 4 ≠ 0 || sliceNat r 0x20 4 ≠ 0
    let run := if bad then slotBadRun e + 1 else 0
    let e := putNat e 2 1 run
    let put (s : State) (e : List Byte) : State := s.ownWrite (s.slotAddr p slot) e
    if run = 8 then (recFlag r0 23, ((put s (slotBit e 30 1)).errVec p 1).odBump 0x6140 3 1)
    else
      let n := sliceNat r 0x28 4 + sliceNat r 0x2C 4 + sumNat ((List.range 64).map (fun i => sliceNat r (0x40 + 4 * i) 4))
      if n < s.odGet idx 5 then (r0, put s e)
      else
        let tail := n * (1000000 - s.odGet idx 3) / 1000000
        let c := toSigned 8 (sliceNat r 1 1)
        let overs := sliceNat r 0x2C 4
        let q := if tail < overs then c + 32 else steerP r tail 64 overs (c + 31)
        let r1 := putNat r0 0x34 2 (ofSigned 16 q)
        let delta0 := emaxOf fmt - (s.odGet idx 4 : Int) - q
        let delta := if 1 < delta0 then 1 else if delta0 < -1 then -1 else delta0
        match (if delta = 0 then none else scaleBf16 (slotScale e) delta) with
        | none => (r1, put s e)
        | some v =>
          let e := putNat (putNat e 0 2 v) 8 4 (satAdd (sliceNat e 8 4) 1)
          (putNat (putNat (recFlag r1 24) 0x36 1 (ofSigned 8 delta)) 0x3A 2 v, (put s e).odBump 0x6140 2 1)

/-- Close the partial record of a slot (R158, R163): stamp, steer, write into the ring, raise WRITES, clear. A partial
record with no counts gives no record (DEDUCED, log 18). -/
def State.closeRecord (s : State) (p slot ctx kdesc flags : Nat) : State :=
  let (r, _, s) := s.ownRead (s.partialAddr p slot) 320
  if recEmpty r then s
  else
    let base := s.slotArea p
    let (wb, _, s) := s.ownRead (base + 0x4000) 8
    let n := leNat wb
    let w1 := (sliceNat r 4 4 ||| (if bit flags 3 then 2 ^ 31 else 0) ||| (if bit flags 0 then 2 ^ 30 else 0)) / 2 ^ 16 * 2 ^ 16 + p * 2 ^ 13 + ctx
    let r := putNat (putNat (putNat (putNat r 4 4 w1) 8 8 s.now) 0x10 8 kdesc) 0x30 4 (n % 2 ^ 32)
    let (r, s) := s.steer p slot r
    let s := s.ownWrite (base + 0x4040 + 320 * (n % 4096)) r
    let s := s.ownWrite (base + 0x4000) (leBytes 8 (n + 1))
    let s := s.ownWrite (s.partialAddr p slot) (List.replicate 320 0)
    let s := { s with pt := { s.pt with densSrc := s.pt.densSrc.set (p * 1024 + slot) [] [] } }
    s.odBump 0x6140 1 1

/-! ### Counters of a sequencer that the closing of records raises (05 R190) -/

/-- A counter. -/
def Seq.ctr (q : Seq) (n : Nat) : Nat := (q.c.getD n 0).toNat
/-- Write a counter. -/
def Seq.setC (q : Seq) (n v : Nat) : Seq := { q with c := q.c.set n 0 (BitVec.ofNat 64 v) }

/-- `n` events of a source: every counter of that source rises (R190). -/
def Seq.event (q : Seq) (src n : Nat) : Seq :=
  (List.range 8).foldl (fun q i => if q.csrc.getD i 0 = src ∧ src ≠ 0 then q.setC i (q.ctr i + n) else q) q

/-- Whether a sequencer's records are closed (04 R160). -/
def Seq.densDone (q : Seq) : Bool := q.densCores = [] && q.densSlots = []

/-- Close records for a sequencer: each that is closed is an event of source 5. -/
def State.closeFor (s : State) (cl : Nat) (f : State → State) : State :=
  let t := f s
  t.modSeq cl (fun q => q.event 5 (t.odGet 0x6140 1 - s.odGet 0x6140 1))

/-- DENS_RECORD_CLOSE: once every core of a kernel has written out its sets, its records are closed (R158). -/
def execDensRecordClose (kernel : Nat) (s : State) : Host.Outcome State Fault Refusal :=
  match s.kernel kernel with
  | none => .next s
  | some k =>
    if k.started && k.next = k.desc.gx * k.desc.gy * k.desc.gz && k.cores.all (fun c => (s.core c).kernel ≠ some kernel) then
      let t := s.closeFor k.cl (fun s => s.each k.slots (fun t x => t.closeRecord k.part x k.ctx k.descVa k.status))
      .next (t.setKernel kernel { k with slots := [] })
    else .next s

/-- The cores that a sequencer has targeted since its last close write out their sets, and the records of its own
matrix commands are closed with KDESC zero (R160). -/
def State.seqClose (s : State) (cl : Nat) : State :=
  let q := s.seq cl
  let s := s.each q.densCores (fun t c => t.densFlush c)
  let s := s.closeFor cl (fun s => s.each (s.seq cl).densSlots (fun t x => t.closeRecord q.part x q.ctx 0 0))
  s.modSeq cl (fun q => { q with densCores := [], densSlots := [] })

/-- SEQ_RECORD_CLOSE: at an MWAIT 0 that may return, and at END (R160). -/
def execSeqRecordClose (cl : Nat) (s : State) : Host.Outcome State Fault Refusal :=
  let q := s.seq cl
  let due := (decide (q.wait = .mwait 0) && q.mxOut.isEmpty) || (q.ended && q.mxOut.isEmpty)
  .next (if due then s.seqClose cl else s)

/-! ### Slot commands (R171, R172) -/

/-- Perform a slot command of a given action: the dictionary entry 0x4248:01. -/
def State.slotCommand (s : State) (action v : Nat) : State × Option Nat :=
  let p := bits v 50 48
  let slot := bits v 41 32
  let centre := toSigned 8 (bits v 23 16)
  if bits v 55 51 ≠ 0 || bits v 47 42 ≠ 0 || bits v 31 24 ≠ 0 || (s.part p).st = .absent
      || (action = 4 && (centre < -120 || 120 < centre)) || action = 0 || 6 < action then (s, some stBadDesc)
  else
    let (e, s) := s.slotEntry p slot
    let e := if action = 1 then putNat (putNat e 0 2 (bits v 15 0)) 2 1 0
      else if action = 2 then slotBit e 31 1
      else if action = 3 then putNat (slotBit (slotBit e 31 0) 30 0) 2 1 0
      else if action = 4 then slotBit (putNat e 4 1 (bits v 23 16)) 29 1
      else if action = 5 then slotBit e 29 0
      else leBytes 2 0x3F80 ++ List.replicate 14 0
    (s.ownWrite (s.slotAddr p slot) e, some stOk)

/-- SET_SCALE (R171). -/
def execSetScale (p : Path) (v : W64) (s : State) : Host.Outcome State Fault Refusal :=
  .next (s.odCmd p 0x4248 1 (fun t => t.slotCommand 1 v.toNat))

/-- HOLD (R171). -/
def execHold (p : Path) (v : W64) (s : State) : Host.Outcome State Fault Refusal :=
  .next (s.odCmd p 0x4248 1 (fun t => t.slotCommand 2 v.toNat))

/-- RELEASE of a slot (R171). -/
def execSlotRelease (p : Path) (v : W64) (s : State) : Host.Outcome State Fault Refusal :=
  .next (s.odCmd p 0x4248 1 (fun t => t.slotCommand 3 v.toNat))

/-- SET_CENTRE (R171). -/
def execSetCentre (p : Path) (v : W64) (s : State) : Host.Outcome State Fault Refusal :=
  .next (s.odCmd p 0x4248 1 (fun t => t.slotCommand 4 v.toNat))

/-- CLEAR_CENTRE (R171). -/
def execClearCentre (p : Path) (v : W64) (s : State) : Host.Outcome State Fault Refusal :=
  .next (s.odCmd p 0x4248 1 (fun t => t.slotCommand 5 v.toNat))

/-- RESET of a slot (R171). -/
def execSlotReset (p : Path) (v : W64) (s : State) : Host.Outcome State Fault Refusal :=
  .next (s.odCmd p 0x4248 1 (fun t => t.slotCommand 6 v.toNat))

end Sys2Proof.Machine
end

