-- ==== Sys2Proof/Machine/Operands.lean ====
section
/-! DEFINITION. The operand words of matrix commands: the command word (03_matrix_engine.md R97, R98), the stream control
word (R99), the load control word (R100), the tile descriptor (R113), and the geometry by operand class (R90 to R92). -/

namespace Sys2Proof.Machine

/-! ### The command word (R97) -/

/-- OPCODE. -/
def mwOp (w : Nat) : Nat := bits w 63 56
/-- RA. -/
def mwA (w : Nat) : Nat := bits w 55 48
/-- RB. -/
def mwB (w : Nat) : Nat := bits w 47 40
/-- RC. -/
def mwC (w : Nat) : Nat := bits w 39 32
/-- RD. -/
def mwD (w : Nat) : Nat := bits w 31 24
/-- IMM. -/
def mwImm (w : Nat) : Nat := bits w 3 0

/-! ### The stream control word (R99) -/

/-- SRC_STRIDE. -/
def scSrcStride (c : Nat) : Nat := bits c 63 52
/-- DST_STRIDE. -/
def scDstStride (c : Nat) : Nat := bits c 51 40
/-- SLOT. -/
def scSlot (c : Nat) : Nat := bits c 39 30
/-- SLOT_EN. -/
def scSlotEn (c : Nat) : Bool := bit c 29
/-- RSCALE. -/
def scRscale (c : Nat) : Bool := bit c 28
/-- DEST. -/
def scDest (c : Nat) : Nat := bits c 27 26
/-- OUT_FMT. -/
def scOut (c : Nat) : Nat := bits c 25 22
/-- A_FMT. -/
def scA (c : Nat) : Nat := bits c 21 18
/-- PASSES. -/
def scPasses (c : Nat) : Nat := bits c 17 16
/-- ROUND. -/
def scRound (c : Nat) : Nat := bits c 15 14
/-- SAT. -/
def scSat (c : Nat) : Nat := bits c 13 12
/-- SRC_TILE. -/
def scSrcTile (c : Nat) : Bool := bit c 11
/-- SRC_T. -/
def scSrcT (c : Nat) : Nat := bits c 10 8
/-- DST_T. -/
def scDstT (c : Nat) : Nat := bits c 7 5

/-! ### Geometry (R90 to R92) -/

/-- The operand class of a format; 0 for a code that is not an operand format (R91). -/
def fmtClass (f : Nat) : Nat :=
  match f with
  | 0 => 8 | 1 => 4 | 2 => 8 | 3 => 8 | 4 => 8 | 5 => 4 | 6 => 16 | 7 => 16 | 8 => 32 | _ => 0

/-- K of a class's logical array (R90). -/
def clsK (c : Nat) : Nat := if c = 4 then 256 else if c = 16 ∨ c = 32 then 64 else 128

/-- N of a class's logical array (R90). -/
def clsN (c : Nat) : Nat := if c = 16 ∨ c = 32 then 64 else 128

/-- Accumulator rows of a class in the drain buffer (R90). -/
def clsM (c : Nat) : Nat := if c = 16 ∨ c = 32 then 256 else 128

/-- Whether two formats form a pair (R92). -/
def fmtPair (a b : Nat) : Bool := if 2 ≤ a ∧ a ≤ 4 then 2 ≤ b && b ≤ 4 else a = b && a ≤ 8

/-- Whether a pair accumulates in INT32 (R92). -/
def fmtInt (a : Nat) : Bool := a = 0 || a = 1

/-- The class of the moving format. -/
def scClass (c : Nat) : Nat := fmtClass (scA c)

/-- Bytes of `n` packed elements of a format (R140). -/
def rowBytes (fmt n : Nat) : Nat := fmtBits fmt * n / 8

/-- Bytes of a moving row (R90). -/
def movBytes (c : Nat) : Nat := rowBytes (scA c) (clsK (scClass c))

/-- Bytes of an output row of a class. -/
def outBytes (cls c : Nat) : Nat := rowBytes (scOut c) (clsN cls)

/-- A stride field in bytes: 0 means rows are packed (R99). -/
def strideOf (field packed : Nat) : Nat := if field = 0 then packed else field * 32

/-- Tile registers that `rows` rows of `b` bytes take, in groups of a width (R116, R117). -/
def tileSpan (width rows b : Nat) : Nat := cdiv (rows * cdiv b 128) width

/-- Split a packed number into `n` elements of `w` bits, lowest first (R140). -/
def unpack (w : Nat) : Nat → Nat → List Nat
  | 0, _ => []
  | n + 1, x => x % 2 ^ w :: unpack w n (x / 2 ^ w)

/-- Pack elements of `w` bits, the first lowest (R140). -/
def pack (w : Nat) : List Nat → Nat
  | [] => 0
  | x :: t => x % 2 ^ w + 2 ^ w * pack w t

/-! ### The tile descriptor (R113) -/

/-- The fields of a tile descriptor. -/
structure TileDesc where
  a : Nat
  b : Nat
  c : Nat
  m : Nat
  k : Nat
  n : Nat
  lda : Nat
  ldb : Nat
  ldc : Nat
  cscale : Bool
  control : Nat
  rs : Nat
  reserved : Bool
  deriving DecidableEq, Repr

/-- Read a tile descriptor. -/
def tileDescOf (b : List Byte) : TileDesc :=
  let d (o : Nat) : Nat := sliceNat b o 8
  let w (o : Nat) : Nat := sliceNat b o 4
  { a := bits (d 0) 56 0, b := bits (d 8) 56 0, c := bits (d 0x10) 56 0, m := bits (w 0x18) 20 0, k := bits (w 0x1C) 20 0,
    n := bits (w 0x20) 15 0, ldb := bits (w 0x24) 31 16, lda := bits (w 0x24) 15 0, ldc := bits (w 0x28) 15 0,
    cscale := bit (w 0x2C) 0, control := d 0x30, rs := bits (d 0x38) 56 0,
    reserved := bits (d 0) 63 57 ≠ 0 || bits (d 8) 63 57 ≠ 0 || bits (d 0x10) 63 57 ≠ 0 || bits (w 0x18) 31 21 ≠ 0
      || bits (w 0x1C) 31 21 ≠ 0 || bits (w 0x20) 31 16 ≠ 0 || bits (w 0x28) 31 16 ≠ 0 || bits (w 0x2C) 31 1 ≠ 0
      || bits (d 0x38) 63 57 ≠ 0 }

/-- Whether the fields that every stream control word shares break R91, R92 or R99. -/
def scBad (c : Nat) : Bool :=
  bits c 4 0 ≠ 0 || 9 < scOut c || fmtClass (scA c) = 0 || scSat c = 3
    || (if scClass c = 32 then scPasses c = 0 else scPasses c ≠ 1)

/-- Whether a tile descriptor breaks R113. -/
def tileBad (t : TileDesc) : Bool :=
  let c := t.control
  t.reserved || t.m = 0 || 2 ^ 20 < t.m || t.k = 0 || 2 ^ 20 < t.k || t.n = 0 || scBad c || scDest c ≠ 0 || scSrcTile c
    || scSrcStride c ≠ 0 || scDstStride c ≠ 0
    || (fmtBits (scA c) = 4 && t.k % 2 ≠ 0) || (scA c = 4 && t.k % 4 ≠ 0)
    || (fmtBits (scOut c) = 4 && t.n % 2 ≠ 0) || (scOut c = 4 && t.n % 4 ≠ 0)

end Sys2Proof.Machine
end

