-- ==== Sys2Proof/Machine/ThreadOps.lean ====
section
/-! DEFINITION. Shared operations of the thread engine (02_thread_groups.md): the kernel descriptor and occupancy, groups,
their paths and reconvergence, exceptions, and the issue of an instruction. -/

namespace Sys2Proof.Machine

/-! ### Descriptors and occupancy (R57, R58, R60, R62) -/

/-- The fields of a kernel descriptor. -/
def kdescOf (b : List Byte) : KDesc :=
  let w (o : Nat) : Nat := sliceNat b o 4
  let d (o : Nat) : Nat := sliceNat b o 8
  { regs := bits (w 0) 23 16, width := bits (w 0) 9 8, lmemCore := bits (w 4) 31 28, lmemBlock := bits (w 4) 11 0,
    bx := bits (w 8) 15 0, by_ := bits (w 8) 31 16, bz := bits (w 12) 15 0, gx := w 16, gy := bits (w 20) 15 0,
    gz := bits (w 20) 31 16, code := bits (d 0x18) 56 0, arg := bits (d 0x20) 56 0, argSize := bits (w 0x28) 12 0,
    kclass := w 0x2C, priv := bits (d 0x30) 56 0, privSize := bits (w 0x38) 15 0, devEnq := bit (w 0x3C) 8,
    mxUse := bit (w 0x3C) 7, intSat := bit (w 0x3C) 6, round := bits (w 0x3C) 5 4, subn := bits (w 0x3C) 3 2,
    fv40 := bit (w 0x3C) 0, seed := bits (w 0x40) 15 0, maxBlocks := bits (w 0x44) 7 0 }

/-- The group width of a WIDTH code (R52). -/
def widthOf (code : Nat) : Nat := if code = 1 then 16 else if code = 2 then 64 else 32

/-- Threads of a block. -/
def KDesc.threads (k : KDesc) : Nat := k.bx * k.by_ * k.bz

/-- Blocks of the grid. -/
def KDesc.blocks (k : KDesc) : Nat := k.gx * k.gy * k.gz

/-- Groups of a block. -/
def KDesc.groups (k : KDesc) : Nat := cdiv k.threads (widthOf k.width)

/-- Registers allocated to a thread (R60: 8 at a time). -/
def KDesc.alloc (k : KDesc) : Nat := cdiv k.regs 8 * 8

/-- Group slots that a group takes (R52). -/
def slotsPer (code : Nat) : Nat := if code = 2 then 2 else 1

/-- The five limits of R60, in the order of R62. -/
def KDesc.limits (k : KDesc) : List Nat :=
  let lmem := (256 + 64 * k.lmemCore) * 1024
  [65536 / (k.groups * widthOf k.width * k.alloc), if k.lmemBlock = 0 then 32 else lmem / (k.lmemBlock * 256),
   64 / (k.groups * slotsPer k.width), 32, if k.maxBlocks = 0 then 32 else k.maxBlocks]

/-- Resident blocks on a core (R60). -/
def KDesc.occ (k : KDesc) : Nat := k.limits.foldl Nat.min 32

/-- The limiting resource (R62): the first of the least. -/
def KDesc.limiter (k : KDesc) : Nat := k.limits.findIdx (· = k.occ)

/-- TE_OCC of a kernel. -/
def KDesc.teOcc (k : KDesc) : Nat :=
  k.limiter * 2 ^ 20 + k.width * 2 ^ 16 + (k.occ * k.groups * slotsPer k.width) * 2 ^ 8 + k.occ

/-- Reserved fields of a descriptor that are not zero (R57). -/
def kdescReserved (b : List Byte) : Bool :=
  let w (o : Nat) : Nat := sliceNat b o 4
  let d (o : Nat) : Nat := sliceNat b o 8
  bits (w 0) 31 24 ≠ 0 || bits (w 0) 15 10 ≠ 0 || bits (w 4) 27 12 ≠ 0 || bits (w 12) 31 16 ≠ 0 || bits (d 0x18) 63 57 ≠ 0
    || bits (d 0x20) 63 57 ≠ 0 || bits (w 0x28) 31 13 ≠ 0 || bits (d 0x30) 63 57 ≠ 0 || bits (w 0x38) 31 16 ≠ 0
    || bits (w 0x3C) 31 9 ≠ 0 || bit (w 0x3C) 1 || bits (w 0x40) 31 16 ≠ 0 || bits (w 0x44) 31 8 ≠ 0
    || !((slice b 0x48 56).all (· = 0))

/-- Whether a descriptor at an address fails R58's checks. -/
def kdescBad (va : Nat) (b : List Byte) : Bool :=
  let k := kdescOf b
  va % 128 ≠ 0 || sliceNat b 0 1 ≠ 1 || k.width = 3 || k.round = 3 || k.subn = 3 || k.regs = 0 || 8 < k.lmemCore
    || (256 + 64 * k.lmemCore) * 1024 < k.lmemBlock * 256 || k.threads = 0 || k.blocks = 0 || 1024 < k.threads
    || k.code % 256 ≠ 0 || k.arg % 64 ≠ 0 || 4096 < k.argSize || k.argSize % 8 ≠ 0 || (k.round = 2 && k.seed = 0)
    || kdescReserved b || k.occ = 0

/-- The settings that a kernel gives a core (R96, R197). `flush` is the partition's subnormal default. -/
def KDesc.settings (k : KDesc) (flush : Bool) : Settings :=
  { round := k.round, intSat := k.intSat, subn := if k.subn = 0 then (if flush then 2 else 1) else k.subn, seed := k.seed,
    fv40 := k.fv40, lmem := k.lmemCore, mxUse := k.mxUse, devEnq := k.devEnq }

/-! ### Groups -/

/-- The group in a slot of a core. -/
def State.group (s : State) (core slot : Nat) : Option Group := (s.core core).groups.find slot

/-- Change a group. -/
def State.modGroup (s : State) (core slot : Nat) (f : Group → Group) : State :=
  s.modCore core (fun c => match c.groups.find slot with
    | some g => { c with groups := c.groups.put slot (f g) }
    | none => c)

/-- A register of a lane. -/
def Group.reg (g : Group) (lane r : Nat) : Nat := (g.regs.getD (lane * 256 + r) 0).toNat

/-- A register pair v(r + 1):v(r) of a lane. -/
def Group.reg64 (g : Group) (lane r : Nat) : Nat := g.reg lane r + 2 ^ 32 * g.reg lane (r + 1)

/-- Write a register of a lane. -/
def Group.setReg (g : Group) (lane r v : Nat) : Group := { g with regs := g.regs.set (lane * 256 + r) 0 (BitVec.ofNat 32 v) }

/-- Write a register pair of a lane. -/
def Group.setReg64 (g : Group) (lane r v : Nat) : Group := (g.setReg lane r v).setReg lane (r + 1) (v / 2 ^ 32)

/-- The lanes of a mask below 64. -/
def lanesOf (mask : Nat) : List Nat := bitList 64 mask

/-- The lowest lane of a mask; 64 for none. -/
def lowLane (mask : Nat) : Nat := (lanesOf mask).headD 64

/-- Whether a path waits at a reconvergence point or a barrier. -/
def PathSt.waits (p : PathSt) : Bool := p.atRecon || p.atBarrier

/-- R74: the next path after the current one, among those that do not wait. -/
def nextPath (cur : PathSt) (others : List PathSt) : Option PathSt :=
  let ready := others.filter (fun p => !p.waits)
  let above := ready.filter (fun p => lowLane cur.mask < lowLane p.mask)
  let least (l : List PathSt) : Option PathSt := l.foldl (fun a p => match a with
    | none => some p
    | some q => if lowLane p.mask < lowLane q.mask then some p else some q) none
  match least above with
  | some p => some p
  | none => least ready

/-- Switch to the next path where one does not wait; its count starts at zero (R73, R74). Says whether it switched. -/
def Group.switch (g : Group) : Group × Bool :=
  match g.paths with
  | [] => (g, false)
  | cur :: rest =>
    match nextPath cur rest with
    | some p => ({ g with paths := p :: (rest.filter (fun q => q ≠ p) ++ [cur]), count := 0 }, true)
    | none => (g, false)

/-- The places of the reconvergence stack in use (R68, R72). -/
def Group.places (g : Group) : Nat := sumNat (g.entries.map (·.places))

/-- Mark the paths that stand at their entry's reconvergence point (R70). -/
def Group.markRecon (g : Group) : Group :=
  { g with paths := g.paths.map (fun p => match p.entry with
      | none => p
      | some e => match g.entries.find? (fun x => x.id = e) with
        | some x => if p.pc = x.recon && !p.atBarrier then { p with atRecon := true } else p
        | none => p) }

/-- An entry every path of which has arrived, with no entry still open inside it (R70). -/
def Group.ripe (g : Group) : Option ReconEntry :=
  g.entries.find? (fun e => g.paths.all (fun p => p.entry ≠ some e.id || p.atRecon) && g.entries.all (fun x => x.parent ≠ some e.id))

/-- Free an entry: its lanes run on from the reconvergence point with the joined mask. -/
def Group.join (g : Group) (e : ReconEntry) : Group :=
  let mine := g.paths.filter (fun p => p.entry = some e.id)
  let rest := g.paths.filter (fun p => p.entry ≠ some e.id)
  let mask : Nat := mine.foldl (fun (m : Nat) p => m ||| p.mask) 0
  let g := { g with entries := g.entries.filter (fun x => x.id ≠ e.id) }
  if mask = 0 then { g with paths := rest, count := 0 }
  else { g with paths := { pc := e.recon, mask := mask, entry := e.parent } :: rest, count := 0 }

/-- Let paths that arrived wait, free ripe entries and, when the current path waits, go to another (R70). -/
def Group.settle : Nat → Group → Group
  | 0, g => g
  | n + 1, g =>
    let g := g.markRecon
    match g.ripe with
    | some e => Group.settle n (g.join e)
    | none => match g.paths with
      | p :: _ => if p.waits then g.switch.1 else g
      | [] => g

/-- Remove lanes from every path and entry (R71): a path with no lanes left ends, and the group goes to the next path. -/
def Group.drop (g : Group) (lanes : Nat) : Group :=
  let keep := 2 ^ 64 - 1 - lanes
  let cut (l : List PathSt) : List PathSt := (l.map (fun p => { p with mask := p.mask &&& keep })).filter (fun p => p.mask ≠ 0)
  let g1 := { g with exited := g.exited ||| lanes, entries := g.entries.map (fun e => { e with mask := e.mask &&& keep }) }
  match g.paths with
  | [] => g1
  | cur :: rest =>
    if cur.mask &&& keep ≠ 0 then Group.settle 34 { g1 with paths := cut g.paths }
    else
      let left := cut rest
      match nextPath cur left with
      | some p => Group.settle 34 { g1 with paths := p :: left.filter (fun q => q ≠ p), count := 0 }
      | none => Group.settle 34 { g1 with paths := left, count := 0 }

/-! ### Barriers (R66, R75) -/

/-- The groups of a block on a core, with their slots. -/
def State.blockGroups (s : State) (core linear : Nat) : List (Nat × Group) :=
  (s.core core).groups.filter (fun e => e.2.block = linear)

/-- A barrier completes when every thread of the block that has not exited has arrived. -/
def State.barrierCheck (s : State) (core linear : Nat) : State :=
  let gs := s.blockGroups core linear
  if gs.all (fun e => e.2.paths.all (fun p => p.atBarrier)) then
    s.each gs (fun t e => t.modGroup core e.1 (fun g => Group.settle 34 { g with paths := g.paths.map (fun p => { p with atBarrier := false }) }))
  else s

/-! ### Issue -/

/-- The group of an issue with its current path, where the group can issue: the core runs, the group does not wait and
its path has lanes. -/
def State.issuing (s : State) (i : Issue) : Option (Group × PathSt) :=
  let c := s.core i.core
  if (c.te = .running || c.te = .draining) && !c.tearing && !s.frozen (c.ctx.getD 1024) then
    match c.groups.find i.slot with
    | some g => match g.paths with
      | p :: _ => if p.waits || (g.stall ≠ .none && g.stall ≠ .mxFull && g.stall ≠ .sbFull) then none else some (g, p)
      | [] => none
    | none => none
  else none

/-- The kernel of a core. -/
def State.coreKernel (s : State) (core : Nat) : Option Kernel :=
  match (s.core core).kernel with
  | some k => s.kernel k
  | none => none

/-- Count an issued instruction (17 R651 code 0x02). -/
def State.countIssue (s : State) (i : Issue) (g : Group) : State := s.coreEvent i.core 2 (if g.width = 64 then 2 else 1)

/-- An instruction that falls through has issued: the path goes to the next instruction (R70, R73). -/
def State.retire (s : State) (i : Issue) : State :=
  match s.group i.core i.slot with
  | none => s
  | some g =>
    (s.countIssue i g).modGroup i.core i.slot (fun g => match g.paths with
      | p :: rest => Group.settle 34 { g with paths := { p with pc := i.next } :: rest, count := g.count + 1, stall := .none }
      | [] => g)

/-- Set why a group issues nothing. -/
def State.stallGroup (s : State) (i : Issue) (st : Stall) : State := s.modGroup i.core i.slot (fun g => { g with stall := st })

/-- The step of the kernel that runs on a core. -/
def State.coreStep (s : State) (core : Nat) : Option Nat := (s.coreKernel core).map (·.queue)

/-- An exception of R82: the core stops, its buffer drains, the record is filled and the context is torn down; the step
completes with ABORTED (R83, R84). -/
def State.exception (s : State) (i : Issue) (cause : Nat) : State :=
  match s.group i.core i.slot with
  | none => s
  | some g =>
    let p := g.paths.headD { pc := 0, mask := 0 }
    let s := s.modCore i.core (fun c => { c with te := .exception })
    let s := s.drainCore i.core
    let s := (s.errRecord (teR i.core 0x30) (cause * 2 ^ 16 + i.slot) (fun t => (t.setReg (teR i.core 0x38) p.pc).setReg (teR i.core 0x40) p.mask)).odBump 0x6120 1 1
    let s := if cause = 3 then s.odBumpSat 0x6120 2 32 1 else s
    match s.coreKernel i.core with
    | some k => s.teardown k.ctx (some (k.queue, stAborted)) false false
    | none => s

/-- Whether register `r` and the `n - 1` after it lie below the kernel's allocation (R82 REG_RANGE). -/
def State.regsOk (s : State) (core : Nat) (rs : List (Nat × Nat)) : Bool :=
  match s.coreKernel core with
  | some k => rs.all (fun x => x.1 + x.2 ≤ k.desc.alloc)
  | none => false

/-- Tile registers that a matrix command in the queue reads and writes (03 R116 to R118): first tile and tiles. -/
def MxCmd.tiles (m : MxCmd) (width : Nat) : List (Nat × Nat) × List (Nat × Nat) :=
  let op := bits m.word 63 56
  let c := m.rd
  let rows := if op = 0xE3 then m.rb else m.rc
  let cls := if op = 0xE3 then scClass c else 8
  let wr := if scDest c = 3 then [(scDstT c, tileSpan width rows (outBytes cls c))] else []
  if m.fromSeq then ([], [])
  else if op = 0xE3 then (if scSrcTile c then [(scSrcT c, tileSpan width rows (movBytes c))] else [], wr)
  else if op = 0xE5 then ([], wr)
  else ([], [])

/-- Whether registers overlap a span of tile registers. -/
def regsHit (rs : List (Nat × Nat)) (ts : List (Nat × Nat)) : Bool :=
  rs.any (fun r => ts.any (fun t => r.1 < (t.1 + t.2) * 32 && t.1 * 32 < r.1 + r.2))

/-- Whether the tile scoreboard makes an instruction wait (03 R118): it writes a register of a tile that a command reads or
writes, or reads one of a tile that a command writes. -/
def State.scoreboard (s : State) (i : Issue) (wr rd : List (Nat × Nat)) (g : Group) : Bool :=
  ((s.mx i.core).queue.filter (fun m => !m.fromSeq && m.slot = i.slot)).any (fun m =>
    let (r, w) := m.tiles g.width
    regsHit wr r || regsHit (wr ++ rd) w)

/-- Issue an instruction that writes registers `wr` and reads `rd` (first register and count): REG_RANGE, a wait on the
tile scoreboard, or what the instruction does. -/
def State.issue (s : State) (i : Issue) (wr rd : List (Nat × Nat)) (f : State → Group → PathSt → State) : State :=
  match s.issuing i with
  | none => s
  | some (g, p) =>
    if !s.regsOk i.core (wr ++ rd) then s.exception i 4
    else if s.scoreboard i wr rd g then s
    else f s g p

/-- The rounding of a conversion field under a kernel's ROUND (04 R148, R151): 0 nearest, 1 toward zero, 2 stochastic. -/
def roundField (field kernel : Nat) : Nat := if field = 0 then kernel else field - 1

/-- Apply a lane function to the active lanes of a path in ascending order. -/
def Group.eachLane (g : Group) (mask : Nat) (f : Group → Nat → Group) : Group := (lanesOf mask).foldl f g

end Sys2Proof.Machine
end

