-- ==== Sys2Proof/Machine/Thread.lean ====
section
/-! DEFINITION. Blocks, kernels and the instructions of the thread engine that do not reach memory
(02_thread_groups.md), and the enabling, draining and clearing of cores. -/

namespace Sys2Proof.Machine

/-! ### Blocks (R49, R50, R61, R63, R64) -/

/-- Group slots in use on a core: a width-64 group takes two (R52). -/
def Core.usedSlots (c : Core) : List Nat := c.groups.flatMap (fun e => if e.2.width = 64 then [e.1, e.1 + 1] else [e.1])

/-- `n` free group slots for groups of a WIDTH code, lowest first. -/
def Core.freeSlots (c : Core) (code n : Nat) : List Nat :=
  let used := c.usedSlots
  let cand := if code = 2 then (List.range 32).map (fun i => 2 * i) else List.range 64
  (cand.filter (fun g => !used.contains g && (code ≠ 2 || !used.contains (g + 1)))).take n

/-- The lanes of group j that hold threads (R48). -/
def KDesc.laneMask (k : KDesc) (j : Nat) : Nat :=
  let w := widthOf k.width
  2 ^ (Nat.min w (k.threads - j * w)) - 1

/-- A kernel's first block on a core: the clear of R64 where it is due, the settings, and the registers that each
kernel start clears (03 R134, 04 R175, 06 R260, 17 R650). -/
def State.kernelOnCore (s : State) (core kid : Nat) (k : Kernel) : State :=
  let c := s.core core
  let clear := c.lastCtx ≠ some k.ctx || decide (s.odGet 0x4220 1 = 1)
  let s := if clear then s.clearCore core else s
  let set := k.desc.settings (s.part k.part).subnFlush
  let s := s.modCore core (fun x => { x with l1 := if x.cur.lmem = set.lmem then x.l1 else [], kernel := some kid, ctx := some k.ctx, lastCtx := some k.ctx, cur := set, last := set, mx := { x.mx with colLfsr := [], sets := [] } })
  let s := ((s.setReg (mxR core 0x68) 0).setReg (mxR core 0x70) 0).setReg (mxR core 0x78) 0
  let s := ((s.setReg (teR core 0x20) k.desc.teOcc).setReg (teR core 0x50) (k.descVa / 128 * 128)).setRf (teR core 0x60) 21 16 0
  let plan := s.obs.plans.getD k.ctx []
  let on := bit (sliceNat plan 0 4) 31
  let s := s.each (List.range 4) (fun t i =>
    (t.setReg (dbCore core (0x10 + 4 * i)) (if on then sliceNat plan (4 + i) 1 else 0)).setReg (dbCore core (0x40 + 8 * i)) 0)
  s.modCore core (fun x => { x with cyc0 := s.reg (dbCore core 0x80), iss0 := s.reg (dbCore core 0x88) })

/-- BLOCK_START: the next block of a grid starts on a core of the mask that has room (R49, R50, R60, R63, R87). -/
def execBlockStart (kernel core : Nat) (s : State) : Host.Outcome State Fault Refusal :=
  match s.kernel kernel with
  | none => .next s
  | some k =>
    let c := s.core core
    let d := k.desc
    let slots := c.freeSlots d.width d.groups
    if k.cores.contains core && decide (k.next < d.blocks) && (c.te = .idle || c.te = .running) && !c.tearing
        && !bit (s.reg (teR core 0x10)) 1 && !s.frozen k.ctx && (c.kernel = none || c.kernel = some kernel) && decide (c.blocks.length < d.occ)
        && decide (slots.length = d.groups) then
      let s := if c.kernel = none then s.kernelOnCore core kernel k else s
      let gs := slots.zip (List.range d.groups)
      let s := s.modCore core (fun c =>
        { c with te := .running, blocks := c.blocks ++ [{ linear := k.next, slots := slots }], groups := gs.foldl (fun m e => m.put e.1 { block := k.next, index := e.2, width := widthOf d.width, lanes := d.laneMask e.2, paths := [{ pc := d.code, mask := d.laneMask e.2 }] }) c.groups })
      .next (s.setKernel kernel { k with next := k.next + 1, started := true, tFirst := if k.started then k.tFirst else s.now })
    else .next s

/-- A core with no resident block is IDLE, or OFF when ENABLE was cleared meanwhile (R86, R88). -/
def State.coreIdle (s : State) (core : Nat) : State :=
  s.modCore core (fun c => { c with te := if bit (s.reg (teR core 0x10)) 0 then .idle else .off })

/-- The step of a kernel made progress (17 R662). -/
def State.progress (s : State) (q : Nat) : State := s.modStep q (fun r => { r with lastProgress := s.now })

/-- BLOCK_EXIT: the last thread of a block has exited and its resources are freed (R61, R86). -/
def execBlockExit (core linear : Nat) (s : State) : Host.Outcome State Fault Refusal :=
  let c := s.core core
  match c.blocks.find? (fun b => b.linear = linear) with
  | none => .next s
  | some b =>
    if b.slots.all (fun g => match c.groups.find g with | some x => x.paths = [] | none => true) then
      let s := s.modCore core (fun c => { c with blocks := c.blocks.filter (fun x => x.linear ≠ linear), groups := c.groups.filter (fun e => !b.slots.contains e.1) })
      let s := match s.coreStep core with | some q => s.progress q | none => s
      .next (if (s.core core).blocks = [] then s.coreIdle core else s)
    else .next s

/-- The state of a matrix engine whose queue is empty: IDLE, or OFF when ENABLE was cleared (03 R130). -/
def State.mxIdle (s : State) (core : Nat) : State :=
  let on := bit (s.reg (mxR core 0x10)) 0
  s.modMx core (fun m => if m.queue = [] && m.state = .busy then { m with state := if on then .idle else .off } else m)

/-- Whether a kernel has done everything on a core: its blocks have exited, its stores are performed and the matrix
engine is idle (R67, 03 R132, 06 R240). -/
def State.coreQuiet (s : State) (core : Nat) : Bool :=
  let c := s.core core
  c.blocks = [] && c.sb = [] && c.mx.queue = [] && !(s.cores.any (fun e => e.2.winQ.any (fun a => a.src = core && a.slot < 64)))

/-- A kernel's end on a core: the sets are written out, the flags and counts are gathered, the core is free (R67, 03 R132,
04 R158, 17 R653). -/
def State.kernelOffCore (s : State) (core kid : Nat) (k : Kernel) : State :=
  let s := s.densFlush core
  let c := s.core core
  let k := (s.kernel kid).getD k
  let sums := [s.reg (dbCore core 0x80) - c.cyc0, s.reg (dbCore core 0x88) - c.iss0]
    ++ (List.range 4).map (fun i => s.reg (dbCore core (0x40 + 8 * i)))
  let prof := (List.range 6).map (fun i => k.prof.getD i 0 + sums.getD i 0)
  let s := s.setKernel kid { k with coresDone := k.coresDone ++ [core], status := k.status ||| s.reg (mxR core 0x70), prof := prof }
  s.modCore core (fun c => { c with kernel := none, ctx := none })

/-- KERNEL_COMPLETE_CORE: a kernel completes on a core (R67, 03 R132). -/
def execKernelCompleteCore (core : Nat) (s : State) : Host.Outcome State Fault Refusal :=
  match (s.core core).kernel with
  | none => .next s
  | some kid =>
    match s.kernel kid with
    | none => .next s
    | some k => .next (if k.next = k.desc.blocks ∧ s.coreQuiet core then s.kernelOffCore core kid k else s)

/-! ### Arithmetic (R56; the spec gives no encodings, log 19) -/

/-- A NaN result of thread arithmetic in binary32: some NaN; the spec states no payload (log 13). -/
def freeNan32 (w : W64) : Nat := 0x7FC00000 ||| (w.toNat % 2 ^ 22)

/-- A NaN result in binary64 (log 13). -/
def freeNan64 (w : W64) : Nat := 0x7FF8000000000000 ||| (w.toNat % 2 ^ 51)

/-- Round a binary32 result; a NaN takes the free payload. -/
def res32 (w : W64) (v : XVal) : Nat := if v.isNan then freeNan32 w else toB32 v

/-- Round a binary64 result; a NaN takes the free payload. -/
def res64 (w : W64) (v : XVal) : Nat := if v.isNan then freeNan64 w else toB64 v

/-- Whether a comparison holds. -/
def cmpHolds (c : Cmp) (w a b : Nat) : Bool :=
  match c with
  | .eq => a = b
  | .ne => a ≠ b
  | .lt => toSigned w a < toSigned w b
  | .ge => toSigned w b ≤ toSigned w a
  | .ltu => a < b
  | .geu => b ≤ a

/-- Code of a transcendental operation for `Config.transcend`. -/
def aluTr : AluOp → Nat
  | .rcp => 0 | .sqrt => 1 | .rsqrt => 2 | .exp2 => 3 | .log2 => 4 | .sin => 5 | _ => 6

/-- Whether an operation works on register pairs. -/
def aluWide : AluOp → Bool
  | .dadd => true | .dmul => true | .dfma => true | _ => false

/-- The result of an operation on one lane. `w` is a free value for what the spec leaves unstated: a shift by 32 or more,
and a NaN's payload (log 13). -/
def aluResult (op : AluOp) (w : W64) (a b c : Nat) : Nat :=
  match op with
  | .add => (a + b) % 2 ^ 32
  | .sub => (a + 2 ^ 32 - b) % 2 ^ 32
  | .and => a &&& b
  | .or => a ||| b
  | .xor => a ^^^ b
  | .shl => if b < 32 then (a * 2 ^ b) % 2 ^ 32 else w.toNat % 2 ^ 32
  | .shr => if b < 32 then a / 2 ^ b else w.toNat % 2 ^ 32
  | .sar => if b < 32 then ofSigned 32 (toSigned 32 a / ((2 ^ b : Nat) : Int)) else w.toNat % 2 ^ 32
  | .cmp k => b2n (cmpHolds k 32 a b)
  | .select => if c ≠ 0 then a else b
  | .mul => (a * b) % 2 ^ 32
  | .fadd => res32 w ((b32 a).add (b32 b))
  | .fmul => res32 w ((b32 a).mul (b32 b))
  | .ffma => res32 w (((b32 a).mul (b32 b)).add (b32 c))
  | .dadd => res64 w ((b64 a).add (b64 b))
  | .dmul => res64 w ((b64 a).mul (b64 b))
  | .dfma => res64 w (((b64 a).mul (b64 b)).add (b64 c))
  | op => (Config.transcend (aluTr op) (BitVec.ofNat 32 a)).toNat

/-- The registers that an operand names. -/
def srcRegs (x : Src) (n : Nat) : List (Nat × Nat) :=
  match x with
  | .reg r => [(r, n)]
  | .imm _ => []

/-- An operand's value on a lane. -/
def srcValue (x : Src) (g : Group) (lane : Nat) (wide : Bool) : Nat :=
  match x with
  | .reg r => if wide then g.reg64 lane r else g.reg lane r
  | .imm v => v.toNat

/-- THREAD_ALU_INSTRUCTION (R56): one operation on every active lane. -/
def execThreadAluInstruction (i : Issue) (op : AluOp) (rd : Nat) (a b c : Src) (s : State) :
    Host.Outcome State Fault Refusal :=
  let n := if aluWide op then 2 else 1
  .next (s.issue i [(rd, n)] (srcRegs a n ++ srcRegs b n ++ srcRegs c n) (fun s _ p =>
    let f := s.free
    let s := s.modGroup i.core i.slot (fun g => g.eachLane p.mask (fun h l =>
      let v := aluResult op (Config.freeWord (f + l)) (srcValue a g l (aluWide op)) (srcValue b g l (aluWide op)) (srcValue c g l (aluWide op))
      if aluWide op then h.setReg64 l rd v else h.setReg l rd v))
    ({ s with free := f + 64 }).retire i))

/-! ### Special registers (R65) -/

/-- Whether a special register is 64 bits wide. -/
def spWide : SpecialReg → Bool
  | .tstamp => true | .args => true | .priv => true | _ => false

/-- A special register's value for a lane. -/
def State.special (s : State) (core : Nat) (k : Kernel) (g : Group) (lane : Nat) (r : SpecialReg) : Nat :=
  let d := k.desc
  let t := g.index * g.width + lane
  match r with
  | .tidX => t % d.bx
  | .tidY => t / d.bx % d.by_
  | .tidZ => t / (d.bx * d.by_)
  | .bidX => g.block % d.gx
  | .bidY => g.block / d.gx % d.gy
  | .bidZ => g.block / (d.gx * d.gy)
  | .lane => lane
  | .group => g.index
  | .width => g.width
  | .core => (s.logicalOf core).getD 0
  | .tstamp => s.now
  | .args => d.arg
  | .priv => d.priv + (g.block * d.threads + t) * d.privSize * 16

/-- SPECIAL_REG_READ (R65). -/
def execSpecialRegRead (i : Issue) (rd : Nat) (r : SpecialReg) (s : State) : Host.Outcome State Fault Refusal :=
  .next (s.issue i [(rd, if spWide r then 2 else 1)] [] (fun s _ p =>
    match s.coreKernel i.core with
    | none => s
    | some k =>
      (s.modGroup i.core i.slot (fun g => g.eachLane p.mask (fun h l =>
        let v := s.special i.core k g l r
        if spWide r then h.setReg64 l rd v else h.setReg l rd v))).retire i))

/-! ### Branches, barriers, exits -/

/-- A uniform branch to an address; a backward one may switch paths (R68, R73). -/
def State.jump (s : State) (i : Issue) (target : Nat) : State :=
  match s.group i.core i.slot with
  | none => s
  | some g =>
    match g.paths with
    | [] => s
    | p :: rest =>
      let n := g.count + 1
      let g1 := { g with paths := { p with pc := target } :: rest, count := n, stall := .none }
      let s := s.countIssue i g
      if target ≤ p.pc && decide (64 ≤ n) then
        let (g2, sw) := g1.switch
        let s := s.modGroup i.core i.slot (fun _ => Group.settle 34 g2)
        if sw then s.coreEvent i.core 0x0E 1 else s
      else s.modGroup i.core i.slot (fun _ => Group.settle 34 g1)

/-- Split the current path into paths, the first of which runs (R68, R69, R72). -/
def State.split (s : State) (i : Issue) (recon : Nat) (parts : List (Nat × Nat)) : State :=
  match s.group i.core i.slot with
  | none => s
  | some g =>
    match g.paths with
    | [] => s
    | p :: rest =>
      let need := parts.length - 1
      if 32 < g.places + need then s.exception i 3
      else
        let e : ReconEntry := { id := g.nextEntry, recon := recon, mask := p.mask, parent := p.entry, places := need }
        let ps := parts.map (fun x => ({ pc := x.1, mask := x.2, entry := some e.id } : PathSt))
        let s := (s.countIssue i g).coreEvent i.core 0x0D 1
        s.modGroup i.core i.slot (fun _ => Group.settle 34 { g with paths := ps ++ rest, entries := g.entries ++ [e], nextEntry := g.nextEntry + 1, count := 0, stall := .none })

/-- Insert a lane under its target in a list of targets by ascending address. -/
def addTarget (l : List (Nat × Nat)) (t lane : Nat) : List (Nat × Nat) :=
  match l with
  | [] => [(t, 2 ^ lane)]
  | (u, m) :: r => if t < u then (t, 2 ^ lane) :: (u, m) :: r else if t = u then (u, m ||| 2 ^ lane) :: r else (u, m) :: addTarget r t lane

/-- BRANCH (R68, R69). -/
def execBranch (i : Issue) (recon : Nat) (k : BranchKind) (s : State) : Host.Outcome State Fault Refusal :=
  match k with
  | .always target => .next (s.issue i [] [] (fun s _ _ => s.jump i target))
  | .cond taken target =>
    .next (s.issue i [] [] (fun s _ p =>
      let t := taken.toNat &&& p.mask
      if t = 0 then s.retire i
      else if t = p.mask then s.jump i target
      else s.split i recon [(i.next, p.mask ^^^ t), (target, t)]))
  | .indirect ra =>
    .next (s.issue i [] [(ra, 2)] (fun s g p =>
      let ts := (lanesOf p.mask).foldl (fun l x => addTarget l (g.reg64 x ra % 2 ^ 57) x) []
      match ts with
      | [(t, _)] => s.jump i t
      | _ => s.split i recon ts))

/-- BARRIER (R66, R75). -/
def execBarrier (i : Issue) (s : State) : Host.Outcome State Fault Refusal :=
  .next (s.issue i [] [] (fun s g _ =>
    let s := (s.countIssue i g).modGroup i.core i.slot (fun g => match g.paths with
      | p :: rest => Group.settle 34 { g with paths := { p with pc := i.next, atBarrier := true } :: rest, count := g.count + 1, stall := .none }
      | [] => g)
    s.barrierCheck i.core g.block))

/-- THREAD_EXIT (R71): the named active lanes exit; the others go on. -/
def execThreadExit (i : Issue) (lanes : W64) (s : State) : Host.Outcome State Fault Refusal :=
  .next (s.issue i [] [] (fun s g p =>
    let out := lanes.toNat &&& p.mask
    let s := (s.retire i).modGroup i.core i.slot (fun g => g.drop out)
    s.barrierCheck i.core g.block))

/-- TRAP (R82). -/
def execTrap (i : Issue) (s : State) : Host.Outcome State Fault Refusal :=
  .next (s.issue i [] [] (fun s _ _ => s.exception i 7))

/-! ### Fences (06 R226, R227) -/

/-- Whether a group has writes that a DEVICE release still waits for: entries that hold its stores, and stores to other
cores' windows (06 R227, R249). -/
def State.groupPending (s : State) (core slot : Nat) : Bool :=
  (s.core core).sb.any (fun e => e.groups.contains slot) || s.cores.any (fun e => e.2.winQ.any (fun a => a.src = core && a.slot = slot && a.write))

/-- CXL ports with writes that no expander has acknowledged (06 R238). -/
def State.cxlPending (s : State) : List Nat := (s.ext.cxl.filter (fun e => e.2.unacked ≠ 0)).map (·.1)

/-- Close every open entry that holds a store of a group (06 R227). -/
def State.closeGroup (s : State) (core slot : Nat) : State :=
  s.modCore core (fun c => { c with sb := listMod c.sb (fun e => e.groups.contains slot) (fun e => { e with closed := true }) })

/-- Whether a release has nothing to wait for. -/
def State.releaseFree (s : State) (core slot : Nat) (system : Bool) : Bool :=
  !s.groupPending core slot && (!system || s.cxlPending = [])

/-- A release or full fence of a group at a scope: nothing to wait for, or the group waits (06 R225 to R227). -/
def State.release (s : State) (i : Issue) (full : Bool) (sc : Scope) : State × Bool :=
  if sc = .core then (s, true)
  else
    let s := s.closeGroup i.core i.slot
    if s.releaseFree i.core i.slot (sc = .system) then (s, true)
    else (s.stallGroup i (.fence full (sc = .system)), false)

/-- FENCE (06 R226, R227). An acquire waits for nothing that this model leaves outstanding: loads return before the next
instruction of their group. -/
def execFence (i : Issue) (k : FenceKind) (sc : Scope) (s : State) : Host.Outcome State Fault Refusal :=
  .next (s.issue i [] [] (fun s _ _ =>
    match k with
    | .acquire => s.retire i
    | .release => (let t := s.retire i; (t.release i false sc).1)
    | .full => (let t := s.retire i; (t.release i true sc).1)))

/-- RELEASE_COMPLETE (06 R227, R238): the closed entries have drained. A SYSTEM release that waits for a CXL port which
lost its link completes with DEVICE_LOST. The cycles it waited are timing: a free value (log 8). -/
def execReleaseComplete (core slot : Nat) (s : State) : Host.Outcome State Fault Refusal :=
  match s.group core slot with
  | none => .next s
  | some g =>
    match g.stall with
    | .fence _ system =>
      if s.groupPending core slot then .next s
      else
        let pend := if system then s.cxlPending else []
        if pend.any (fun p => (s.unit ⟨2, p⟩).linkUp) then .next s
        else
          let lost := sumNat (pend.map (fun p => (s.unit ⟨2, p⟩).unacked))
          let (w, s) := s.draw
          let s := (s.bump (teR core 0x78) w.toNat).coreEvent core 7 w.toNat
          let s := s.modGroup core slot (fun g => { g with stall := .none })
          if pend = [] then .next s
          else
            let s := s.odBump 0x6160 3 lost
            .next (match s.coreStep core with | some q => s.stepStatus q stDeviceLost | none => s)
    | _ => .next s

/-! ### Conversions (04 R146, R149, R151) -/

/-- One lane's conversion: the code, the lane's LFSR after it, and the flags. -/
def convLane (dst src md : Nat) (flush : Bool) (lfsr x : Nat) : Conv × Nat :=
  let v0 := decodeVal src x
  let sub : Bool := match fmtOf src, v0 with
    | some f, .fin _ m e => flush && f.isSub m e
    | _, _ => false
  let v := match v0 with
    | .fin n m e => if sub then XVal.fin n 0 0 else .fin n m e
    | v => v
  let l := if md = 2 then lfsrStep lfsr else lfsr
  let r := if md = 0 then Round.nearest else if md = 1 then .toZero else .stochastic l
  let c := convTo dst r flush v
  ({ c with flushed := c.flushed || sub }, l)

/-- CONVERT (04 R151). Codes 0xA to 0xF are reserved: ILLEGAL. -/
def execConvert (i : Issue) (dst src : Nat) (round : Nat) (rd ra : Nat) (s : State) : Host.Outcome State Fault Refusal :=
  .next (s.issue i [(rd, 1)] [(ra, 1)] (fun s _ p =>
    if 9 < dst || 9 < src || 3 < round then s.exception i 1
    else
      let set := (s.core i.core).cur
      let md := roundField round set.round
      let flush := decide (set.subn = 2)
      let step (acc : Group × Bool × Bool) (l : Nat) : Group × Bool × Bool :=
        let (g, sat, fl) := acc
        let (c, r) := convLane dst src md flush ((g.lfsr.find l).getD (lfsrSeed set.seed l)) (g.reg l ra)
        ({ (g.setReg l rd c.code) with lfsr := g.lfsr.put l r }, sat || c.sat, fl || c.flushed)
      match s.group i.core i.slot with
      | none => s
      | some g =>
        let (g, sat, fl) := (lanesOf p.mask).foldl step (g, false, false)
        let s := s.modGroup i.core i.slot (fun _ => g)
        (s.setReg (mxR i.core 0x70) (s.reg (mxR i.core 0x70) ||| (b2n fl + 2 * b2n sat))).retire i))

/-! ### Control of cores (R86 to R88) -/

/-- Write DRAIN of a core and follow the states of R86. -/
def State.setDrain (s : State) (core : Nat) (on : Bool) : State :=
  let s := s.setRf (teR core 0x10) 1 1 (b2n on)
  s.modCore core (fun c =>
    if on && c.te = .running then { c with te := .draining } else if !on && c.te = .draining then { c with te := .running } else c)

/-- TE_DRAIN_WRITE (R87): RWP. -/
def execTeDrainWrite (p : Path) (core : Nat) (on : Bool) (s : State) : Host.Outcome State Fault Refusal :=
  .next (s.regGateP p (teR core 0x10) (fun t => t.setDrain core on))

/-- Write ENABLE of a core: OFF to CLEARING, IDLE to OFF, else at the next IDLE (R86, R88). A retired core stays OFF. -/
def State.setTeEnable (s : State) (core : Nat) (on : Bool) : State :=
  let s := s.setRf (teR core 0x10) 0 0 (b2n on)
  let te := (s.core core).te
  if on && te = .off && !s.ng.retired.getD core false then s.enterClearing core
  else if !on && te = .idle then s.modCore core (fun c => { c with te := .off })
  else s

/-- TE_ENABLE_WRITE (R86, R88): RWP. -/
def execTeEnableWrite (p : Path) (core : Nat) (on : Bool) (s : State) : Host.Outcome State Fault Refusal :=
  .next (s.regGateP p (teR core 0x10) (fun t => t.setTeEnable core on))

/-- CORE_CLEAR_DONE (R86, 03 R130): the clear ends; the core and its matrix engine go to IDLE. -/
def execCoreClearDone (core : Nat) (s : State) : Host.Outcome State Fault Refusal :=
  let s1 := if (s.core core).te = .clearing then s.coreIdle core else s
  let on := bit (s1.reg (mxR core 0x10)) 0
  .next (s1.modMx core (fun m => if m.state = .clearing then { m with state := if m.queue ≠ [] then .busy else if on then .idle else .off } else m))

end Sys2Proof.Machine
end

