-- ==== Sys2Proof/Machine/SeqOps.lean ====
section
/-! DEFINITION. Shared operations of the sequencers (05_sequencers_streams.md): fetch, the fields and checks of a stream
word, the program counter and loops, faults, and the end of a step. -/

namespace Sys2Proof.Machine

/-! ### Fields of a stream word (R182) -/

/-- OPCODE. -/
def swOp (w : Nat) : Nat := bits w 63 56
/-- D. -/
def swD (w : Nat) : Nat := bits w 55 51
/-- A. -/
def swA (w : Nat) : Nat := bits w 50 46
/-- B. -/
def swB (w : Nat) : Nat := bits w 45 41
/-- X. -/
def swX (w : Nat) : Nat := bits w 40 32
/-- IMM. -/
def swImm (w : Nat) : Nat := bits w 31 0
/-- IMM as a signed number. -/
def swImmS (w : Nat) : Int := toSigned 32 (swImm w)

/-- Whether a word's used fields are these: D, A, B used, X below `x`, IMM used. -/
def swUses (w : Nat) (d a b : Bool) (x : Nat) (imm : Bool) : Bool :=
  (d || swD w = 0) && (a || swA w = 0) && (b || swB w = 0) && decide (swX w < x) && (imm || swImm w = 0)

/-- Whether a stream word is valid under R184, R186 and R200. Bits of IMM beyond a range that R183 names are ignored, and a
LOOP outside R186's range is illegal (DEDUCED, log 20). -/
def streamOk (w : Nat) : Bool :=
  match swOp w with
  | 0x00 => swUses w false false false 1 false
  | 0x01 => swUses w false false false 1 false
  | 0x10 => swUses w true false false 1 true
  | 0x11 => swUses w true false false 1 true
  | 0x12 => swUses w true true true 1 false
  | 0x13 => swUses w true true true 1 false
  | 0x14 => swUses w true true true 1 false
  | 0x15 => swUses w true true true 1 false
  | 0x16 => swUses w true true true 1 false
  | 0x17 => swUses w true true true 1 false
  | 0x18 => swUses w true true false 1 true
  | 0x19 => swUses w true true false 1 true
  | 0x1A => swUses w true true false 1 true
  | 0x20 => swUses w true true false 1 true
  | 0x21 => swUses w false true true 1 true
  | 0x22 => swUses w true false false 1 false
  | 0x30 => swUses w false true true 7 true
  | 0x31 => swUses w false true false 1 true && decide (1 ≤ swImm w) && decide (swImm w ≤ 65535)
  | 0x32 => swUses w true false false 4 false
  | 0x38 => swUses w false true false 0x80 false && decide (bits (swX w) 6 3 ≤ 6)
  | 0x39 => swUses w false false false 8 true
  | 0x3A => swUses w true false false 8 false
  | 0x3B => swUses w false true false 0x80 false && decide (bits (swX w) 6 5 ≠ 3)
  | 0x3C => swUses w false false false 4 false
  | 0x3D => swUses w false false false 4 true
  | 0x40 => swUses w true true false 1 true
  | 0x41 => swUses w false false false 1 true
  | 0x42 => swUses w true false false 1 false
  | 0x48 => swUses w false true false 1 true
  | 0x50 => swUses w false true true 1 false
  | 0x51 => swUses w false true true 16 false && (bits (swX w) 1 0 = 1 || bits (swX w) 1 0 = 2)
  | 0x52 => swUses w false true false 1 false
  | 0x53 => swUses w false true false 1 false
  | 0x58 => swUses w false false false 1 false
  | 0x60 => swUses w true true true 1 false
  | op => decide (0xE1 ≤ op ∧ op ≤ 0xE6) && decide (bits w 55 48 < 32 ∧ bits w 47 40 < 32 ∧ bits w 39 32 < 32 ∧ bits w 31 24 < 32)

/-! ### Registers and counters -/

/-- An s-register. -/
def Seq.sreg (q : Seq) (n : Nat) : Nat := (q.s.getD n 0).toNat
/-- Write an s-register. -/
def Seq.setS (q : Seq) (n v : Nat) : Seq := { q with s := q.s.set n 0 (BitVec.ofNat 64 v) }
/-- Whether a comparator reads true (R191). A disarmed one never does (R178). -/
def Seq.cmpTrue (q : Seq) (k : Nat) : Bool :=
  let c := q.k.getD k {}
  let v := q.ctr c.ctr
  c.armed && (if c.rel = 0 then decide (v = c.val) else if c.rel = 1 then decide (c.val ≤ v) else decide (v < c.val))

/-! ### Program counter and loops (R186 to R188) -/

/-- Fall through past the instruction at the PC: an innermost body that ends there goes round again or is closed. -/
def Seq.fall (q : Seq) : Seq :=
  let next := (q.pc + 8) % 2 ^ 57
  let rec go : List LoopLevel → List LoopLevel × Nat
    | [] => ([], next)
    | l :: rest =>
      if l.stop = next then
        if 1 < l.remaining then ({ l with remaining := l.remaining - 1, index := l.index + 1 } :: rest, l.start)
        else go rest
      else (l :: rest, next)
  let r := go q.loops
  { q with loops := r.1, pc := r.2 }

/-- Go to a branch target: levels whose body does not hold it are popped (R188). Levels stand innermost first. -/
def Seq.jump (q : Seq) (t : Nat) : Seq :=
  let t := t % 2 ^ 57
  let rec pop : List LoopLevel → List LoopLevel
    | [] => []
    | l :: rest => if (l :: rest).all (fun x => x.start ≤ t && t < x.stop) then l :: rest else pop rest
  { q with loops := pop q.loops, pc := t }

/-- The target of a relative branch: PC + 8 × IMM (R183). -/
def Seq.rel (q : Seq) (w : Nat) : Nat := ofSigned 57 ((q.pc : Int) + 8 * swImmS w)

/-! ### Step and faults -/

/-- The step of a cluster's sequencer. -/
def State.seqStep (s : State) (cl : Nat) : Option StepRec :=
  match (s.seq cl).queue with
  | some q => s.stepOf q
  | none => none

/-- The clusters of a step that have not parked or gone. -/
def State.placement (s : State) (q : Nat) : List Nat := (s.seqs.filter (fun e => e.2.queue = some q)).map (·.1)

/-- A stream fault (R208, R209): the record, and the teardown of the context; the step completes with a status. -/
def State.seqFault (s : State) (cl cause word status : Nat) : State :=
  let q := s.seq cl
  let s := s.modSeq cl (fun q => { q with state := .error })
  let s := if cause = 0 then s else
    (s.errRecord (sqR cl 0x30) (cause * 2 ^ 16) (fun t => (t.setReg (sqR cl 0x38) word).setReg (sqR cl 0x40) q.pc)).odBump 0x6150 1 1
  match q.queue with
  | some k => s.teardown q.ctx (some (k, status)) false false
  | none => s

/-- A failed launch, or an error of a fence, ends the step (R194, R201): the failure is recorded, every sequencer of the
placement stops before its next instruction, and work already launched or issued runs to completion. -/
def State.seqFail (s : State) (cl word status : Nat) (launch : Bool) : State :=
  let q := s.seq cl
  let s := s.errRecord (sqR cl 0x30) (status * 2 ^ 16 + b2n launch * 2 ^ 7) (fun t => (t.setReg (sqR cl 0x38) word).setReg (sqR cl 0x40) q.pc)
  let s := if launch then s.odBump 0x6150 2 1 else s
  match q.queue with
  | none => s
  | some k =>
    let s := s.modStep k (fun r => { r with status := r.endStatus status, stopping := true, awake := r.cls })
    s.each (s.placement k) (fun t c => t.modSeq c (fun x => { x with ended := true, wait := .none, state := .running }))

/-! ### Poison met by an engine (08 R337, R338) -/

/-- Count what an access of a step met: the unit's status, or poison with a record for each line (R338). The access at `va` had its bytes
at `pa` on. -/
def State.metPoison (s : State) (a : Agent) (part ctx acc pc : Nat) (q : Option Nat) (va pa : Nat) (r : MemRes) : State :=
  match r.status with
  | some c => (match q with | some k => s.stepStatus k c | none => s)
  | none =>
    if r.poison = [] then s
    else
      let b := s.agentBits a
      let s := s.each (lineVas va pa r.poison) (fun t l => t.poisonRecord part ctx l acc pc b.1 b.2 0)
      match q with | some k => s.stepStatus k stPoison | none => s

/-! ### Fetch (R179, R180) -/

/-- Put a line into the stream cache: 64 lines, one place for each line number modulo 64 (log 21). -/
def Seq.cacheLine (q : Seq) (line : Nat) (bs : List Byte) : Seq :=
  { q with cache := SMap.put (q.cache.filter (fun e => e.1 % 64 ≠ line % 64)) line bs }

/-- Translate an address for an engine: a hit, or a walk is registered (09 R367). `desc` marks a descriptor read. -/
def State.xlateD (s : State) (a : Agent) (c va acc pc : Nat) (desc : Bool) : Option Xent × State :=
  match s.xlLookup a c va acc with
  | (some e, t) => (some e, t)
  | (none, t) => (none, t.startWalk a c va acc pc desc)

/-- As `xlateD`, for an access that is not a descriptor read. -/
def State.xlateOr (s : State) (a : Agent) (c va acc pc : Nat) : Option Xent × State := s.xlateD a c va acc pc false

/-- The word at the sequencer's PC, fetched through the stream cache and the cluster cache. -/
def State.fetchWord (s : State) (cl : Nat) : Option Nat × State :=
  let q := s.seq cl
  let line := q.pc / 128
  match q.cache.find line with
  | some bs => (some (sliceNat bs (q.pc % 128) 8), s)
  | none =>
    let a : Agent := .seq cl
    match s.xlateOr a q.ctx (line * 128) accFetch q.pc with
    | (none, s) => (none, s)
    | (some e, s) =>
      let pa := e.out + (line * 128 % 2 ^ 57 - e.va)
      if e.host then
        match s.hostRead pa 128 with
        | some bs => (some (sliceNat bs (q.pc % 128) 8), s.modSeq cl (fun q => q.cacheLine line bs))
        | none => (none, s.hostReadFailed.seqFault cl 0 0 stPoison)
      else
        let r := s.readMem { part := some q.part, ctx := some q.ctx, cl := some cl, strict := e.strict } e.hint pa 128
        if r.wait then (none, s)
        else if r.undec.isSome then (none, r.st.raiseFault a q.ctx q.part { cause := 0x75, acc := accFetch, va := line * 128, ipa := e.ipa, pc := q.pc } false)
        else if r.poison ≠ [] then
          let t := r.st.metPoison a q.part q.ctx accFetch q.pc none (line * 128) pa r
          (none, t.seqFault cl 0 0 (r.status.getD stPoison))
        else (some (sliceNat r.data (q.pc % 128) 8), r.st.modSeq cl (fun q => q.cacheLine line r.data))

/-- Whether a sequencer can issue: it runs a step, has not ended its part, and waits for nothing but what its next command
tries again. -/
def State.seqCan (s : State) (cl : Nat) : Bool :=
  let q := s.seq cl
  (q.state = .running || q.state = .waiting) && !q.ended && !s.frozen q.ctx && q.queue.isSome && !s.agentBusy (.seq cl)
    && (q.wait = .none || q.wait = .mxFull || q.wait = .launch8 || q.wait = .launchMode)
    && (match s.seqStep cl with | some r => r.st = .running || r.st = .yielding | none => false)

/-- Whether a sequencer's wait may end now: its step goes on. -/
def State.seqLive (s : State) (cl : Nat) : Bool :=
  let q := s.seq cl
  q.state = .waiting && !q.ended && !s.frozen q.ctx && (match s.seqStep cl with | some r => r.st = .running || r.st = .yielding | none => false)

/-- Run the instruction of a row at the sequencer's PC: a word that breaks R184 faults, a word of another opcode leaves it
to that row. -/
def State.stream (s : State) (cl op : Nat) (f : State → Nat → State) : State :=
  if !s.seqCan cl then s
  else match s.fetchWord cl with
    | (none, s) => s
    | (some w, s) =>
      if !streamOk w then s.seqFault cl 0x41 w stAborted
      else if swOp w ≠ op then s
      else f s w

/-- An instruction has issued: the count and the step's progress (R212, 17 R662). -/
def State.seqIssued (s : State) (cl : Nat) : State :=
  let s := s.bump (sqR cl 0x50) 1
  match (s.seq cl).queue with
  | some k => s.progress k
  | none => s

/-- The instruction is done: change the sequencer and fall through. -/
def State.seqDone (s : State) (cl : Nat) (f : Seq → Seq) : State :=
  (s.seqIssued cl).modSeq cl (fun q => Seq.fall { f q with wait := .none, state := .running })

/-- The instruction waits: the sequencer stays at it. -/
def State.seqWaitAt (s : State) (cl : Nat) (w : SqWait) : State := s.modSeq cl (fun q => { q with wait := w, state := .waiting })

end Sys2Proof.Machine
end

