-- ==== Sys2Proof/Machine/MatrixOps.lean ====
section
/-! DEFINITION. Shared operations of the matrix engine (03_matrix_engine.md) and its drain unit (04_number_formats.md):
entering commands, the checks of R108, translation of sources and destinations, cells, conversion and completion. -/

namespace Sys2Proof.Machine

/-! ### Entering commands (R93, R95, R97, R98) -/

/-- Whether the register fields and the immediate that an opcode does not use are zero (R97, R98). The fields that
MSTREAM and MDRAIN use depend on their control word and are checked with it. -/
def mwUnused (w : Nat) : Bool :=
  match mwOp w with
  | 0xE1 => mwC w = 0 && mwD w = 0 && mwImm w = 0
  | 0xE2 => mwA w = 0 && mwB w = 0 && mwC w = 0 && mwD w = 0 && mwImm w = 0
  | 0xE3 => mwImm w = 0
  | 0xE4 => mwB w = 0 && mwC w = 0 && mwD w = 0 && mwImm w = 0
  | 0xE5 => mwImm w = 0
  | _ => mwA w = 0 && mwB w = 0 && mwC w = 0 && mwD w = 0

/-- Commands of a queue that have not started: they hold its entries (R93; an entry frees at the start, DEDUCED log 23). -/
def Mx.waiting (m : Mx) : Nat := (m.queue.filter (fun c => !c.started)).length

/-- Commands of a group that are not complete (R105). -/
def Mx.outstanding (m : Mx) (slot : Nat) : Nat := (m.queue.filter (fun c => !c.fromSeq && c.slot = slot)).length

/-- Whether MX_CTRL.ENABLE is set. -/
def State.mxOn (s : State) (core : Nat) : Bool := bit (s.reg (mxR core 0x10)) 0

/-- A core whose first use by a context is a matrix command passes to that context, and is cleared as before a first block (02 R64,
R130; DEDUCED, log 23). -/
def State.mxPass (s : State) (core ctx : Nat) : State :=
  if (s.core core).lastCtx = some ctx ∨ (s.core core).kernel.isSome then s
  else (s.clearCore core).modCore core (fun c => { c with lastCtx := some ctx })

/-- A command enters a core's queue (R130: IDLE to BUSY). -/
def State.mxEnter (s : State) (core : Nat) (c : MxCmd) : State :=
  (s.mxPass core c.ctx).modMx core (fun m => { m with queue := m.queue ++ [{ c with id := m.nextId }], nextId := m.nextId + 1, state := if m.state = .idle then .busy else m.state })

/-- The registers that a group's command word reads, with the control word `ctl` of its RD. -/
def mxRegs (w ctl : Nat) : List (Nat × Nat) :=
  match mwOp w with
  | 0xE1 => [(mwA w, 2), (mwB w, 1)]
  | 0xE3 => [(mwD w, 2), (mwB w, 1)] ++ (if scSrcTile ctl then [] else [(mwA w, 2)])
      ++ (if scDest ctl = 0 then [(mwC w, 2)] else if scDest ctl = 3 then [] else [(mwC w, 1)])
  | 0xE4 => [(mwA w, 2)]
  | 0xE5 => [(mwD w, 2), (mwB w, 1), (mwC w, 1)] ++ (if scDest ctl = 0 then [(mwA w, 2)] else [])
  | _ => []

/-- The command that a group's word makes, its operands read in the lowest active lane (R95). -/
def mxOfGroup (k : Kernel) (i : Issue) (g : Group) (p : PathSt) (w : Nat) : MxCmd :=
  let l := lowLane p.mask
  { id := 0, fromSeq := false, slot := i.slot, ctx := k.ctx, part := k.part, word := w, pc := p.pc, ra := g.reg64 l (mwA w), rb := g.reg l (mwB w), rc := g.reg64 l (mwC w), rd := g.reg64 l (mwD w), lane := l }

/-- A command of a group enters the queue (R93, R95, R96): an engine that is off discards it, a full queue stalls its
issuer. -/
def State.mxGroup (s : State) (i : Issue) (op : Nat) (word : W64) : State :=
  let w := word.toNat
  if mwOp w ≠ op then s
  else match s.issuing i, s.coreKernel i.core with
    | some (g, p), some k =>
      if !k.desc.mxUse then s.exception i 5
      else
        let l := lowLane p.mask
        s.issue i [] (mxRegs w (g.reg64 l (mwD w))) (fun s g p =>
          let c := mxOfGroup k i g p w
          let t := c.tiles g.width
          let spread (x : List (Nat × Nat)) : List (Nat × Nat) := x.map (fun y => (y.1 * 32, y.2 * 32))
          if s.scoreboard i (spread t.2) (spread t.1) g then s
          else if !s.mxOn i.core then (s.stepStatus k.queue stUnitOffline).retire i
          else if 16 ≤ (s.mx i.core).waiting then s.stallGroup i .mxFull
          else (s.mxEnter i.core c).retire i)
    | _, _ => s

/-- The cores that a sequencer's mask names, each with its logical index (05 R192, R198). -/
def State.mxTargets (s : State) (cl mask : Nat) : List (Nat × Nat) :=
  (bitList 8 mask).filterMap (fun n => (s.slotOf cl n).map (fun x => (n, x)))

/-- The command that a sequencer's word makes for the core of logical index n: 64-bit address operands rise by n times
the address step (05 R199). -/
def mxOfSeq (q : Seq) (n w : Nat) : MxCmd :=
  let a (x : Nat) : Nat := (q.sreg (x % 32) + n * q.mxStep) % 2 ^ 64
  let ctl := q.sreg (mwD w % 32)
  let mem := mwOp w = 0xE3 && scDest ctl = 0
  { id := 0, fromSeq := true, ctx := q.ctx, part := q.part, word := w, pc := q.pc, ra := a (mwA w),
    rb := q.sreg (mwB w % 32) % 2 ^ 32, rc := if mem then a (mwC w) else q.sreg (mwC w % 32), rd := ctl }

/-- A command issued by a sequencer is complete on a core: when it is complete on all, the counters of source 2 rise
(05 R190, R199). -/
def Seq.mxDone (q : Seq) (core id : Nat) : Seq :=
  let out := q.mxOut.map (fun x => { x with left := x.left.filter (fun y => y ≠ (core, id)) })
  let n := (out.filter (fun x => x.left = [])).length
  Seq.event { q with mxOut := out.filter (fun x => x.left ≠ []) } 2 n

/-- A command of a stream enters every engine of the mask at once, or the sequencer waits (05 R198); the cycles it waited are timing, a free
value (log 8). -/
def State.mxStream (s : State) (cl op : Nat) : State :=
  s.stream cl op (fun s w =>
    if !mwUnused w then s.seqFault cl 0x41 w stAborted
    else
      let q := s.seq cl
      let on := (s.mxTargets cl q.mxMask).filter (fun x => s.mxOn x.2)
      let off := (s.mxTargets cl q.mxMask).filter (fun x => !s.mxOn x.2)
      if on.any (fun x => 16 ≤ (s.mx x.2).waiting) then s.seqWaitAt cl .mxFull
      else
        let left := on.map (fun x => (x.2, (s.mx x.2).nextId))
        let s := if q.wait = .mxFull then (let (w, t) := s.draw; t.bump (sqR cl 0x58) w.toNat) else s
        let s := match q.queue with
          | some k => if off = [] then s else s.stepStatus k stUnitOffline
          | none => s
        let s := s.each on (fun t x => t.mxEnter x.2 (mxOfSeq q x.1 w))
        let cores := on.map (·.2)
        s.seqDone cl (fun q =>
          let q := { q with nextMx := q.nextMx + 1, densCores := q.densCores ++ cores.filter (fun c => !q.densCores.contains c) }
          if left = [] then q.event 2 1 else { q with mxOut := q.mxOut ++ [{ id := q.nextMx, left := left }] }))

/-! ### Settings -/

/-- The settings that a command takes (R96, 05 R196, R197). -/
def State.mxSettings (s : State) (core : Nat) (m : MxCmd) : Settings :=
  let c := s.core core
  let t := if m.fromSeq then c.last else c.cur
  { t with subn := if t.subn = 0 then (if (s.part m.part).subnFlush then 2 else 1) else t.subn }

/-- Whether the command accumulates INT32 with saturation (R99, R141). -/
def mxSat (t : Settings) (ctl : Nat) : Bool := if scSat ctl = 0 then t.intSat else decide (scSat ctl = 2)

/-- The rounding of a command (04 R148): 0 to nearest, 1 toward zero, 2 stochastic. -/
def mxRound (t : Settings) (ctl : Nat) : Nat := roundField (scRound ctl) t.round

/-- The step that a command belongs to. -/
def State.mxQueue (s : State) (core : Nat) (m : MxCmd) : Option Nat :=
  if m.fromSeq then s.clQueue (slotCl core) else s.coreStep core

/-! ### Checks (R108) -/

/-- The registers a group's thread may use. -/
def State.mxAlloc (s : State) (core : Nat) : Nat := ((s.coreKernel core).map (fun k => k.desc.alloc)).getD 256

/-- Width of the group that issued a command. -/
def State.mxWidth (s : State) (core : Nat) (m : MxCmd) : Nat := ((s.group core m.slot).map (·.width)).getD 32

/-- Whether tile rows from a tile register leave R117's bounds. -/
def State.tileOut (s : State) (core : Nat) (m : MxCmd) (t rows b : Nat) : Bool :=
  let n := tileSpan (s.mxWidth core m) rows b
  8 < t + n || s.mxAlloc core < (t + n) * 32

/-- The type tag of a drain row (R104, R115): none where no overwrite has set it since a clear. -/
def Mx.drainTag (m : Mx) (r : Nat) : Option Bool :=
  match m.drain.getD r none with
  | some d => some d.int
  | none => m.drainFree.map (fun f => (Config.freeWord (f + r * 256 + 255)).getLsbD 0)

/-- A drain row's contents: zeros where nothing has been written since a clear, free values after MTILE (R115, R131). -/
def Mx.drainRow (m : Mx) (r n : Nat) : DrainRow :=
  match m.drain.getD r none with
  | some d => d
  | none => match m.drainFree with
    | some f => { int := (Config.freeWord (f + r * 256 + 255)).getLsbD 0, vals := (List.range n).map (fun c => (Config.freeWord (f + r * 256 + c)).toNat % 2 ^ 32) }
    | none => { int := true, vals := List.replicate n 0 }

/-- The class that MDRAIN converts: the active tile's, class 8 when there is none (DEDUCED, log 23). -/
def Mx.drainClass (m : Mx) : Nat := if m.activeValid then fmtClass m.active.fmt else 8

/-- The first cause of R108 that an MLOAD meets. -/
def mloadBad (m : MxCmd) : Option Nat :=
  let c := m.rb
  if bits c 31 28 ≠ 0 || bits c 15 6 ≠ 0 || bit c 4 || fmtClass (bits c 3 0) = 0 then some 0x21
  else if m.ra % 32 ≠ 0 then some 0x22
  else none

/-- The first cause of R108 that an MSTREAM meets. -/
def State.mstreamBad (s : State) (core : Nat) (m : MxCmd) : Option Nat :=
  let c := m.rd
  let e := s.mx core
  let cls := scClass c
  let d := scDest c
  let odd (x : Nat) : Bool := !m.fromSeq && x % 2 = 1
  let tile := scSrcTile c
  if scBad c || m.rb = 0 || 2 ^ 20 < m.rb || odd (mwD m.word) || (!tile && odd (mwA m.word)) || (d = 0 && odd (mwC m.word))
      || (tile && mwA m.word ≠ 0) || (d = 3 && mwC m.word ≠ 0) || (m.fromSeq && (tile || d = 3))
      || (scRscale c && (d = 1 || d = 2 || tile)) then some 0x21
  else if (!tile && m.ra % 32 ≠ 0) || (d = 0 && m.rc % 32 ≠ 0) then some 0x22
  else if !e.activeValid then some 0x23
  else if !fmtPair (scA c) e.active.fmt then some 0x24
  else if (d = 1 || d = 2) && clsM cls < m.rc % 2 ^ 32 + m.rb then some 0x25
  else if d = 1 && (List.range m.rb).any (fun r => e.drainTag (m.rc % 2 ^ 32 + r) ≠ some (fmtInt (scA c))) then some 0x21
  else if (tile && s.tileOut core m (scSrcT c) m.rb (movBytes c)) || (d = 3 && s.tileOut core m (scDstT c) m.rb (outBytes cls c)) then some 0x26
  else none

/-- The first cause of R108 that an MDRAIN meets. -/
def State.mdrainBad (s : State) (core : Nat) (m : MxCmd) : Option Nat :=
  let c := m.rd
  let d := scDest c
  let count := m.rc % 2 ^ 32
  let cls := (s.mx core).drainClass
  let odd (x : Nat) : Bool := !m.fromSeq && x % 2 = 1
  if bits c 4 0 ≠ 0 || 9 < scOut c || scSat c = 3 || scSrcStride c ≠ 0 || scRscale c || scA c ≠ 0 || scPasses c ≠ 0 || scSrcTile c
      || scSrcT c ≠ 0 || d = 1 || d = 2 || count = 0 || 2 ^ 20 < count || odd (mwD m.word) || (d = 0 && odd (mwA m.word))
      || (d = 3 && mwA m.word ≠ 0) || (m.fromSeq && d = 3) then some 0x21
  else if d = 0 && m.ra % 32 ≠ 0 then some 0x22
  else if clsM cls < m.rb + count then some 0x25
  else if d = 3 && s.tileOut core m (scDstT c) count (outBytes cls c) then some 0x26
  else none

/-- The first cause of R108 that a command meets before its addresses are translated. -/
def State.mxBad (s : State) (core : Nat) (m : MxCmd) : Option Nat :=
  let op := mwOp m.word
  if bits m.word 23 4 ≠ 0 || !mwUnused m.word || (!m.fromSeq && (op = 0xE1 || op = 0xE4) && mwA m.word % 2 = 1) then some 0x21
  else if op = 0xE1 then mloadBad m
  else if op = 0xE2 then (if (s.mx core).shadowValid then none else some 0x23)
  else if op = 0xE3 then s.mstreamBad core m
  else if op = 0xE4 then (if m.ra % 64 ≠ 0 then some 0x22 else none)
  else s.mdrainBad core m

/-- A matrix fault (R108, R109, 06 R256): the engine stops, the core's buffer drains, the record is filled and the
context is torn down; the step completes with ABORTED (02 R83). -/
def State.mxFault (s : State) (core : Nat) (m : MxCmd) (cause : Nat) : State :=
  let q := s.mxQueue core m
  let s := (s.modMx core (fun x => { x with state := .error })).drainCore core
  let s := s.errRecord (mxR core 0x30) (cause * 2 ^ 16 + b2n m.fromSeq * 2 ^ 7 + (if m.fromSeq then 0 else m.slot)) (fun t => (t.setReg (mxR core 0x38) m.word).setReg (mxR core 0x40) m.pc)
  (s.odBump 0x6130 1 1).teardown m.ctx (q.map (fun k => (k, stAborted))) false false

/-! ### Sources and destinations (R107) -/

/-- `count` rows of `b` bytes from an address, with a stride. -/
def rowRanges (base stride count b : Nat) : List (Nat × Nat) := (List.range count).map (fun i => (base + i * stride, b))

/-- The ranges that a command reads and writes. The tile descriptor is that of an MTILE. -/
def State.mxRanges (s : State) (core : Nat) (m : MxCmd) (t : TileDesc) : List (Nat × Nat) × List (Nat × Nat) :=
  let op := mwOp m.word
  if op = 0xE1 then
    let f := bits m.rb 3 0
    let k := clsK (fmtClass f)
    let n := clsN (fmtClass f)
    let st := strideOf (bits m.rb 27 16) (rowBytes f n)
    (rowRanges m.ra st k (rowBytes f n) ++ (if bit m.rb 5 then [(m.ra + k * st, 2 * n)] else []), [])
  else if op = 0xE3 then
    let c := m.rd
    let st := strideOf (scSrcStride c) (movBytes c)
    let ob := outBytes (scClass c) c
    (if scSrcTile c then [] else rowRanges m.ra st m.rb (movBytes c) ++ (if scRscale c then [(m.ra + m.rb * st, 2 * m.rb)] else []),
     if scDest c = 0 then rowRanges m.rc (strideOf (scDstStride c) ob) m.rb ob else [])
  else if op = 0xE4 then
    let c := t.control
    let ab := rowBytes (scA c) t.k
    let bb := rowBytes (scA c) t.n
    let cb := rowBytes (scOut c) t.n
    (rowRanges t.a (strideOf t.lda ab) t.m ab ++ rowRanges t.b (strideOf t.ldb bb) t.k bb
      ++ (if t.cscale then [(t.b + t.k * strideOf t.ldb bb, 2 * t.n)] else []) ++ (if scRscale c then [(t.rs, 2 * t.m)] else []),
     rowRanges t.c (strideOf t.ldc cb) t.m cb)
  else if op = 0xE5 then
    let c := m.rd
    let ob := outBytes (s.mx core).drainClass c
    ([], if scDest c = 0 then rowRanges m.ra (strideOf (scDstStride c) ob) (m.rc % 2 ^ 32) ob else [])
  else ([], [])

/-- Translate the pages of ranges for an engine; none when a walk was registered. -/
def State.mxPages (s : State) (core : Nat) (m : MxCmd) (acc : Nat) (rs : List (Nat × Nat)) (have_ : List Xent) : Option (List Xent) × State :=
  let gs := ((rs.flatMap (fun r => (pages r.1 r.2).map (fun p => p.1 / 65536 * 65536 % 2 ^ 57)))).eraseDups
  gs.foldl (fun (r : Option (List Xent) × State) g =>
    match r.1 with
    | none => r
    | some l =>
      if l.any (fun e => e.covers m.ctx g) then r
      else match r.2.xlateOr (.mx core) m.ctx g acc m.pc with
        | (some e, t) => (some (l ++ [e]), t)
        | (none, t) => (none, t)) (some have_, s)

/-- The physical address of a virtual one under translations held. -/
def xentPhys (l : List Xent) (c va : Nat) : Option (Nat × Xent) :=
  (l.find? (fun e => e.covers c (va % 2 ^ 57))).map (fun e => (e.out + (va % 2 ^ 57 - e.va), e))

/-- Whether a source piece lies outside the core's own local memory and the Tank window (R107). -/
def State.mxSrcBad (s : State) (core : Nat) (m : MxCmd) (l : List Xent) (p : Nat × Nat) : Bool :=
  match xentPhys l m.ctx p.1 with
  | none => true
  | some (pa, e) =>
    e.host || (match s.decode pa, s.decode (pa + p.2 - 1) with
      | .window a _, .window _ _ => a ≠ core
      | .tank _ way, .tank _ _ => !s.storeWayOk (coreWho core m.part m.ctx false) way
      | _, _ => true)

/-- The translation fault that a destination piece meets: host memory, or an address that nothing decodes (R107, 09 R370). -/
def State.mxDstFault (s : State) (m : MxCmd) (l : List Xent) (p : Nat × Nat) : Option XFault :=
  match xentPhys l m.ctx p.1 with
  | none => none
  | some (pa, e) =>
    if e.host then some { cause := 0x72, stage := 1, acc := accWrite, va := p.1 % 2 ^ 57, pc := m.pc }
    else match s.decode pa, s.decode (pa + p.2 - 1) with
      | .none, _ => some { cause := 0x75, acc := accWrite, va := p.1 % 2 ^ 57, ipa := e.ipa + (pa - e.out), pc := m.pc }
      | _, .none => some { cause := 0x75, acc := accWrite, va := p.1 % 2 ^ 57, ipa := e.ipa + (pa - e.out), pc := m.pc }
      | .reg _, _ => some { cause := 0x75, acc := accWrite, va := p.1 % 2 ^ 57, ipa := e.ipa + (pa - e.out), pc := m.pc }
      | _, _ => none

/-- Read bytes under a command's translations. -/
def State.mxRead (s : State) (core : Nat) (m : MxCmd) (va n : Nat) : MemRes :=
  (pages va n).foldl (fun (r : MemRes) pc =>
    if r.wait then r
    else match xentPhys m.pages m.ctx pc.1 with
      | none => r
      | some (pa, e) =>
        if e.host then
          match r.st.hostRead pa pc.2 with
          | some bs => { r with data := r.data ++ bs }
          | none => { r with st := r.st.hostReadFailed, data := r.data ++ List.replicate pc.2 0, poison := r.poison ++ [pa / 32], vas := r.vas ++ lineVas pc.1 pa [pa / 32] }
        else
          let x := r.st.readMem (coreWho core m.part m.ctx e.strict) e.hint pa pc.2
          { st := x.st, data := r.data ++ x.data, poison := r.poison ++ x.poison, vas := r.vas ++ lineVas pc.1 pa x.poison, wait := x.wait, status := r.status.orElse (fun _ => x.status) }) { st := s }

/-- Write bytes under a command's translations: performed at the home bank (06 R224). -/
def State.mxWrite (s : State) (core : Nat) (m : MxCmd) (va : Nat) (bs : List Byte) (p : Bool) : MemRes :=
  (pages va bs.length).foldl (fun (r : MemRes) pc =>
    if r.wait then r
    else match xentPhys m.pages m.ctx pc.1 with
      | none => { r with data := r.data.drop pc.2 }
      | some (pa, e) =>
        let x := r.st.writeMem (coreWho core m.part m.ctx e.strict) e.hint .bank pa (r.data.take pc.2) p
        { st := x.st, data := r.data.drop pc.2, wait := x.wait, status := r.status.orElse (fun _ => x.status) }) { st := s, data := bs }

/-! ### Cells (04 R141 to R147) -/

/-- A partial sum, with the sticky events that made it: a saturation and a flush. -/
structure Psum where
  v : Nat := 0
  sat : Bool := false
  fl : Bool := false
  deriving DecidableEq, Repr

/-- Add to an INT32 sum: it wraps or is clamped (R141). -/
def intAdd (sat : Bool) (acc : Psum) (x : Int) : Psum :=
  let e := toSigned 32 acc.v + x
  if !sat then { acc with v := ofSigned 32 e }
  else if 2147483647 < e then { acc with v := 0x7FFFFFFF, sat := true }
  else if e < -2147483648 then { acc with v := 0x80000000, sat := true }
  else { acc with v := ofSigned 32 e }

/-- Add exact terms to a binary32 sum and round once (R141, R143, R145). -/
def fltAdd (flush : Bool) (acc : Psum) (terms : List XVal) : Psum :=
  let r := toB32f flush (terms.foldl XVal.add (b32 acc.v))
  { acc with v := r.1, fl := acc.fl || r.2 }

/-- An element read under the subnormal mode; says whether it was flushed (R145). -/
def elemVal (flush : Bool) (fmt x : Nat) : XVal × Bool :=
  match fmtOf fmt, decodeVal fmt x with
  | some f, .fin n m e => if flush && f.isSub m e then (.fin n 0 0, true) else (.fin n m e, false)
  | _, v => (v, false)

/-- One cell: the product of a moving element and a weight added to the sum from above (R141, R147). -/
def cell (flush sat : Bool) (fa fb passes : Nat) (x : Nat) (acc : Psum) (w : Nat) : Psum :=
  if fmtInt fa then intAdd sat acc (toSigned (fmtBits fa) x * toSigned (fmtBits fb) w)
  else
    let (xv, f1) := elemVal flush fa x
    let (wv, f2) := elemVal flush fb w
    let acc := { acc with fl := acc.fl || f1 || f2 }
    if fmtClass fa = 32 then
      let (ha, la) := splitB32 flush (toB32 xv)
      let (hb, lb) := splitB32 flush (toB32 wv)
      fltAdd flush acc ([ha.mul hb] ++ (if 2 ≤ passes then [ha.mul lb] else []) ++ (if 3 ≤ passes then [la.mul hb] else []))
    else fltAdd flush acc [xv.mul wv]

/-- One moving row through the array: the sums at the foot of the columns. -/
def arrayRow (flush sat : Bool) (fa fb passes n : Nat) (xs : List Nat) (rows : List (List Nat)) : List Psum :=
  (xs.zip rows).foldl (fun (acc : List Psum) e => (acc.zip e.2).map (fun y => cell flush sat fa fb passes e.1 y.1 y.2)) (List.replicate n {})

/-- Add two sums as the drain buffer does (R142). -/
def psumAdd (flush sat int : Bool) (a b : Psum) : Psum :=
  let r := if int then intAdd sat a (toSigned 32 b.v) else fltAdd flush a [b32 b.v]
  { r with sat := r.sat || b.sat, fl := r.fl || b.fl }

/-! ### The drain unit (R127, 04 R148 to R153) -/

/-- What a value became: its value at stage 5, its conversion, the column's LFSR after it, and a flush by a scale. -/
structure DrainOut where
  seen : XVal
  conv : Conv
  lfsr : Nat
  fl : Bool
  deriving DecidableEq, Repr

/-- Apply a bfloat16 scale to a binary32 value (R152). -/
def scaleMul (flush : Bool) (v : Nat × Bool) (sc : Nat) : Nat × Bool :=
  let r := toB32f flush ((b32 v.1).mul (b32 (widenBf16 sc)))
  (r.1, v.2 || r.2)

/-- The stages of R127 on one accumulator value. -/
def drainVal (flush int : Bool) (out md lfsr : Nat) (scales : List Nat) (v : Nat) : DrainOut :=
  let l := if md = 2 then lfsrStep lfsr else lfsr
  let r := if md = 0 then Round.nearest else if md = 1 then .toZero else .stochastic l
  if int && scales.isEmpty && (intWidth out).isSome then
    let x := XVal.ofInt (toSigned 32 v)
    { seen := x, conv := convTo out r flush x, lfsr := l, fl := false }
  else
    let b := if int then toB32 (XVal.ofInt (toSigned 32 v)) else v
    let (b, fl) := scales.foldl (scaleMul flush) (b, false)
    { seen := b32 b, conv := convTo out r flush (b32 b), lfsr := l, fl := fl }

/-- Or bits into a core's MX_NUMFLAGS. -/
def State.numFlags (s : State) (core f : Nat) : State :=
  if f = 0 then s else s.setReg (mxR core 0x70) (s.reg (mxR core 0x70) ||| f)

/-- Flags of sums. -/
def psumFlags (l : List Psum) : Nat := b2n (l.any (·.fl)) + 8 * b2n (l.any (·.sat))

/-- What drains a row: formats, rounding, the scales that apply to all of it, and the column scales. -/
structure DrainSet where
  int : Bool
  out : Nat
  md : Nat
  flush : Bool
  seed : Nat
  row : Option Nat := none
  cols : Option (List Nat) := none
  slot : Option Nat := none
  deriving DecidableEq, Repr

/-- Drain a row of values: codes, with the LFSRs, the flags and the counts that they give. A poisoned row is neither
counted nor converted further (R129). -/
def State.drainRowVals (s : State) (core : Nat) (d : DrainSet) (vals : List Nat) (poison : Bool) : List Nat × State :=
  let mx := s.mx core
  let outs := (vals.zip (List.range vals.length)).map (fun e =>
    let sc := d.row.toList ++ (match d.cols with | some l => [l.getD e.2 0] | none => []) ++ d.slot.toList
    drainVal d.flush d.int d.out d.md ((mx.colLfsr.find e.2).getD (lfsrSeed d.seed e.2)) sc e.1)
  let lf := if d.md = 2 then (outs.zip (List.range outs.length)).foldl (fun (m : SMap Nat) e => m.put e.2 e.1.lfsr) mx.colLfsr else mx.colLfsr
  let s := s.modMx core (fun m => { m with colLfsr := lf })
  let codes := outs.map (fun o => o.conv.code)
  if poison then (codes, s)
  else
    let fl := outs.any (fun o => o.fl || o.conv.flushed)
    let f := b2n fl + 2 * b2n (outs.any (fun o => o.conv.sat)) + 4 * b2n (outs.any (fun o => o.seen.isNan))
    (codes, (s.numFlags core f).densCount core (outs.map (fun o => (o.seen, o.conv))))

/-! ### Tile registers (R116, R117) -/

/-- Bytes of `rows` fragment rows from fragment row `r` of a group's tile registers on. -/
def Group.tileBytes (g : Group) (t r rows : Nat) : List Byte :=
  (List.range rows).flatMap (fun i =>
    let x := r + i
    let v := (t + x / g.width) * 32
    (List.range 32).flatMap (fun j => leBytes 4 (g.reg (x % g.width) (v + j))))

/-- Write bytes into fragment rows from fragment row `r` on: 32-bit registers that the bytes reach in whole or part. -/
def Group.setTile (g : Group) (t r : Nat) (bs : List Byte) : Group :=
  (List.range (cdiv bs.length 4)).foldl (fun (g : Group) j =>
    let x := r + j / 32
    let reg := (t + x / g.width) * 32 + j % 32
    let old := leBytes 4 (g.reg (x % g.width) reg)
    let new := (bs.drop (4 * j)).take 4
    g.setReg (x % g.width) reg (leNat (new ++ old.drop new.length))) g

/-! ### Running a command -/

/-- A command's progress through its rows: `wait` where a unit makes an access wait. -/
structure MxRun where
  st : State
  wait : Bool := false

/-- Note what reads met: a record for each poisoned line (08 R338) and a unit's status for the step. -/
def MxRun.noteRead (r : MemRes) (core : Nat) (m : MxCmd) : State :=
  let b := r.st.agentBits (.mx core)
  let s := r.st.each r.vas (fun t l => t.poisonRecord m.part m.ctx l accRead m.pc b.1 b.2 0)
  match r.status, s.mxQueue core m with
  | some c, some k => s.stepStatus k c
  | _, _ => s

/-- Write an output row at its destination (R103, R129). -/
def MxRun.put (r : MxRun) (core : Nat) (m : MxCmd) (ctl base stride b : Nat) (i : Nat) (codes : List Nat) (poison : Bool) : MxRun :=
  if r.wait then r
  else
    let bs := leBytes b (pack (fmtBits (scOut ctl)) codes)
    if scDest ctl = 3 then
      let s := r.st.modGroup core m.slot (fun g => g.setTile (scDstT ctl) (i * cdiv b 128) (if poison then List.replicate b 0 else bs))
      { st := if poison then (match s.mxQueue core m with | some k => s.stepStatus k stPoison | none => s) else s }
    else
      let x := r.st.mxWrite core m (base + i * stride) bs poison
      if x.wait then { r with wait := true }
      else { st := match x.status, x.st.mxQueue core m with | some c, some k => x.st.stepStatus k c | _, _ => x.st }

/-- The set of a command's slot is at the front before it counts (04 R156). -/
def State.mxDens (s : State) (core : Nat) (m : MxCmd) (ctl : Nat) : State :=
  let src := if m.fromSeq then 2 * slotCl core + 1 else 2 * ((s.core core).kernel.getD 0)
  s.densTake core (scSlot ctl) (scOut ctl) m.scale m.centre (scSlotEn ctl) src

/-- What drains a command's rows. -/
def State.mxDrainSet (s : State) (core : Nat) (m : MxCmd) (ctl : Nat) (int : Bool) : DrainSet :=
  let t := s.mxSettings core m
  { int := int, out := scOut ctl, md := mxRound t ctl, flush := decide (t.subn = 2), seed := t.seed, slot := if scSlotEn ctl then some m.scale else none }

/-- MLOAD: the tile into the shadow buffer (R101). -/
def State.runMload (s : State) (core : Nat) (m : MxCmd) : MxRun :=
  let f := bits m.rb 3 0
  let k := clsK (fmtClass f)
  let n := clsN (fmtClass f)
  let b := rowBytes f n
  let st := strideOf (bits m.rb 27 16) b
  let r := (List.range k).foldl (fun (r : List (List Nat) × MemRes) i =>
    if r.2.wait then r
    else
      let x := r.2.st.mxRead core m (m.ra + i * st) b
      (r.1 ++ [unpack (fmtBits f) n (leNat x.data)], { x with data := [], poison := r.2.poison ++ x.poison, vas := r.2.vas ++ x.vas, status := r.2.status.orElse (fun _ => x.status) })) ([], { st := s })
  let cs := if bit m.rb 5 then r.2.st.mxRead core m (m.ra + k * st) (2 * n) else { st := r.2.st }
  if r.2.wait || cs.wait then { st := s, wait := true }
  else
    let bad := r.2.poison ++ cs.poison
    let s := MxRun.noteRead { st := cs.st, poison := bad, vas := r.2.vas ++ cs.vas, status := r.2.status.orElse (fun _ => cs.status) } core m
    { st := s.modMx core (fun x => { x with shadow := { fmt := f, rows := r.1, cscale := if bit m.rb 5 then some (unpack 16 n (leNat cs.data)) else none, poison := bad ≠ [] }, shadowValid := true }) }

/-- MSWAP (R102). -/
def Mx.swap (m : Mx) : Mx :=
  { m with active := m.shadow, shadow := m.active, activeValid := m.shadowValid, shadowValid := false, activeBuf := !m.activeBuf }

/-- The moving row `i` of an MSTREAM: its bytes, from memory or from tile registers. -/
def State.movingRow (s : State) (core : Nat) (m : MxCmd) (i : Nat) : MemRes :=
  let c := m.rd
  let b := movBytes c
  if scSrcTile c then
    { st := s, data := ((s.group core m.slot).map (fun g => (g.tileBytes (scSrcT c) (i * cdiv b 128) (cdiv b 128)).take b)).getD [] }
  else s.mxRead core m (m.ra + i * strideOf (scSrcStride c) b) b

/-- MSTREAM: the moving rows through the active buffer (R103). -/
def State.runMstream (s : State) (core : Nat) (m : MxCmd) : MxRun :=
  let c := m.rd
  let cls := scClass c
  let n := clsN cls
  let d := scDest c
  let t := s.mxSettings core m
  let flush := decide (t.subn = 2)
  let sat := mxSat t c
  let int := fmtInt (scA c)
  let buf := (s.mx core).active
  let ob := outBytes cls c
  let ds := { s.mxDrainSet core m c int with cols := buf.cscale }
  let rs := if scRscale c then s.mxRead core m (m.ra + m.rb * strideOf (scSrcStride c) (movBytes c)) (2 * m.rb) else { st := s }
  let s0 := if d = 0 || d = 3 then rs.st.mxDens core m c else rs.st
  let r := (List.range m.rb).foldl (fun (r : MxRun) i =>
    if r.wait then r
    else
      let x := r.st.movingRow core m i
      if x.wait then { r with wait := true }
      else
        let s := MxRun.noteRead x core m
        let sc := if scRscale c then some (sliceNat rs.data (2 * i) 2) else none
        let bad := decide (x.poison ≠ []) || buf.poison || (scRscale c && rs.poison ≠ [])
        let sums := arrayRow flush sat (scA c) buf.fmt (scPasses c) n (unpack (fmtBits (scA c)) (clsK cls) (leNat x.data)) buf.rows
        let s := if bad then s else s.numFlags core (psumFlags sums)
        if d = 0 || d = 3 then
          let (codes, s) := s.drainRowVals core { ds with row := sc } (sums.map (·.v)) bad
          ({ st := s } : MxRun).put core m c m.rc (strideOf (scDstStride c) ob) ob i codes bad
        else
          let at_ := m.rc % 2 ^ 32 + i
          let old := (s.mx core).drainRow at_ n
          let new := if d = 2 then sums else (old.vals.zip sums).map (fun e => psumAdd flush sat int { v := e.1 } e.2)
          let s := if d = 2 || bad || old.poison then s else s.numFlags core (psumFlags new)
          { st := s.modMx core (fun x => { x with drain := x.drain.put at_ (some { int := int, vals := new.map (·.v), poison := bad || (d = 1 && old.poison) }) }) })
    { st := s0, wait := rs.wait }
  if r.wait then { st := s, wait := true } else { st := if scRscale c then MxRun.noteRead { rs with st := r.st } core m else r.st }

/-- MDRAIN: drain rows converted to their destination (R104). -/
def State.runMdrain (s : State) (core : Nat) (m : MxCmd) : MxRun :=
  let c := m.rd
  let cls := (s.mx core).drainClass
  let ob := outBytes cls c
  let r := (List.range (m.rc % 2 ^ 32)).foldl (fun (r : MxRun) i =>
    if r.wait then r
    else
      let row := (r.st.mx core).drainRow (m.rb + i) (clsN cls)
      let vals := (row.vals ++ List.replicate (clsN cls) 0).take (clsN cls)
      let (codes, s) := r.st.drainRowVals core (r.st.mxDrainSet core m c row.int) vals row.poison
      ({ st := s } : MxRun).put core m c m.ra (strideOf (scDstStride c) ob) ob i codes row.poison) { st := s.mxDens core m c }
  if r.wait then { st := s, wait := true } else r

/-- One output row of one column block of an MTILE: the chunks' passes accumulated (R114 steps 2 and 4). `w` gives the
weights of each chunk's rows. -/
def tileRow (flush sat : Bool) (fa passes np kp : Nat) (xs : List Nat) (w : List (List Nat)) : List Psum :=
  let chunks := cdiv xs.length kp
  (List.range chunks).foldl (fun (acc : List Psum) j =>
    let sums := arrayRow flush sat fa fa passes np ((xs.drop (j * kp)).take kp) ((w.drop (j * kp)).take kp)
    if j = 0 then sums else (acc.zip sums).map (fun e => psumAdd flush sat (fmtInt fa) e.1 e.2)) []

/-- The stationary rows of one column block: the codes of K rows, and whether each chunk of them is poisoned. -/
def State.tileWeights (s : State) (core : Nat) (m : MxCmd) (t : TileDesc) (nb : Nat) : List (List Nat) × MemRes :=
  let f := scA t.control
  let np := clsN (fmtClass f)
  let used := Nat.min np (t.n - nb * np)
  let st := strideOf t.ldb (rowBytes f t.n)
  (List.range t.k).foldl (fun (r : List (List Nat) × MemRes) j =>
    if r.2.wait then r
    else
      let x := r.2.st.mxRead core m (t.b + j * st + rowBytes f (nb * np)) (cdiv (fmtBits f * used) 8)
      (r.1 ++ [unpack (fmtBits f) np (leNat x.data)], { x with data := [], poison := r.2.poison ++ x.poison, vas := r.2.vas ++ x.vas, status := r.2.status.orElse (fun _ => x.status) })) ([], { st := s })

/-- MTILE (R113 to R115): column blocks outermost, then rows. A poisoned part of the stationary operand poisons every
output of its column block, since every row's passes use it. -/
def State.runMtile (s : State) (core : Nat) (m : MxCmd) (t : TileDesc) : MxRun :=
  let c := t.control
  let f := scA c
  let cls := fmtClass f
  let np := clsN cls
  let set := s.mxSettings core m
  let flush := decide (set.subn = 2)
  let sat := mxSat set c
  let ds := s.mxDrainSet core m c (fmtInt f)
  let ab := rowBytes f t.k
  let cb := rowBytes (scOut c) t.n
  let lda := strideOf t.lda ab
  let ldc := strideOf t.ldc cb
  let csr := if t.cscale then s.mxRead core m (t.b + t.k * strideOf t.ldb (rowBytes f t.n)) (2 * t.n) else { st := s }
  let rsr := if scRscale c then csr.st.mxRead core m t.rs (2 * t.m) else { st := csr.st }
  let s0 := MxRun.noteRead { st := rsr.st, poison := csr.poison ++ rsr.poison, vas := csr.vas ++ rsr.vas, status := csr.status.orElse (fun _ => rsr.status) } core m
  let r := (List.range (cdiv t.n np)).foldl (fun (r : MxRun) nb =>
    if r.wait then r
    else
      let used := Nat.min np (t.n - nb * np)
      let w := r.st.tileWeights core m t nb
      if w.2.wait then { r with wait := true }
      else
        let cols := if t.cscale then some ((List.range np).map (fun i => sliceNat csr.data (2 * (nb * np + i)) 2)) else none
        let badB := decide (w.2.poison ≠ []) || csr.poison ≠ []
        (List.range t.m).foldl (fun (r : MxRun) i =>
          if r.wait then r
          else
            let x := r.st.mxRead core m (t.a + i * lda) ab
            if x.wait then { r with wait := true }
            else
              let s := MxRun.noteRead x core m
              let bad := badB || x.poison ≠ [] || rsr.poison ≠ []
              let sums := (tileRow flush sat f (scPasses c) np (clsK cls) (unpack (fmtBits f) t.k (leNat x.data)) w.1).take used
              let s := if bad then s else s.numFlags core (psumFlags sums)
              let sc := if scRscale c then some (sliceNat rsr.data (2 * i) 2) else none
              let (codes, s) := s.drainRowVals core { ds with row := sc, cols := cols } (sums.map (·.v)) bad
              ({ st := s } : MxRun).put core m c (t.c + rowBytes (scOut c) (nb * np)) ldc (rowBytes (scOut c) used) i codes bad)
          { st := MxRun.noteRead w.2 core m })
    { st := s0.mxDens core m c, wait := csr.wait || rsr.wait }
  if r.wait then { st := s, wait := true }
  else
    let f := r.st.free
    { st := ({ r.st with free := f + 65536 }).modMx core (fun x => { x with activeValid := false, shadowValid := false, drain := [], drainFree := some f }) }

/-- Beats that a command enters (R90, R110). -/
def mxBeats (m : MxCmd) (t : TileDesc) : Nat :=
  let c := m.rd
  if mwOp m.word = 0xE3 then m.rb * scPasses c
  else if mwOp m.word = 0xE4 then
    let k := clsK (scClass t.control)
    cdiv t.n (clsN (scClass t.control)) * cdiv t.k k * t.m * scPasses t.control
  else 0

end Sys2Proof.Machine
end

