-- ==== Sys2Proof/Machine/Seq.lean ====
section
/-! DEFINITION. Stream instructions that reach no memory, kernel launches, and the start, parking, resumption and end of
steps on sequencers (05_sequencers_streams.md, 13_partitions_and_meter.md R512 to R514). -/

namespace Sys2Proof.Machine

/-! ### Arithmetic (R183) -/

/-- An instruction that writes sD with a value of the sequencer. -/
def State.streamSet (s : State) (cl op : Nat) (f : Seq → Nat → Nat) : State :=
  s.stream cl op (fun s w => s.seqDone cl (fun q => q.setS (swD w) (f q w)))

/-- NOP. -/
def execNop (cl : Nat) (s : State) : Host.Outcome State Fault Refusal := .next (s.stream cl 0x00 (fun s _ => s.seqDone cl id))

/-- END: this sequencer's part of the step ends (R181); it stays at END until the step is complete. -/
def execEndStream (cl : Nat) (s : State) : Host.Outcome State Fault Refusal :=
  .next (s.stream cl 0x01 (fun s _ => (s.seqIssued cl).modSeq cl (fun q => { q with ended := true, wait := .none, state := .running })))

/-- MOVI. -/
def execMovi (cl : Nat) (s : State) : Host.Outcome State Fault Refusal :=
  .next (s.streamSet cl 0x10 (fun _ w => ofSigned 64 (swImmS w)))

/-- MOVHI. -/
def execMovhi (cl : Nat) (s : State) : Host.Outcome State Fault Refusal :=
  .next (s.streamSet cl 0x11 (fun q w => swImm w * 2 ^ 32 + q.sreg (swD w) % 2 ^ 32))

/-- ADD. -/
def execAdd (cl : Nat) (s : State) : Host.Outcome State Fault Refusal :=
  .next (s.streamSet cl 0x12 (fun q w => q.sreg (swA w) + q.sreg (swB w)))

/-- SUB. -/
def execSub (cl : Nat) (s : State) : Host.Outcome State Fault Refusal :=
  .next (s.streamSet cl 0x13 (fun q w => q.sreg (swA w) + 2 ^ 64 - q.sreg (swB w)))

/-- MUL. -/
def execMul (cl : Nat) (s : State) : Host.Outcome State Fault Refusal :=
  .next (s.streamSet cl 0x14 (fun q w => q.sreg (swA w) * q.sreg (swB w)))

/-- AND. -/
def execAnd (cl : Nat) (s : State) : Host.Outcome State Fault Refusal :=
  .next (s.streamSet cl 0x15 (fun q w => q.sreg (swA w) &&& q.sreg (swB w)))

/-- OR. -/
def execOr (cl : Nat) (s : State) : Host.Outcome State Fault Refusal :=
  .next (s.streamSet cl 0x16 (fun q w => q.sreg (swA w) ||| q.sreg (swB w)))

/-- XOR. -/
def execXor (cl : Nat) (s : State) : Host.Outcome State Fault Refusal :=
  .next (s.streamSet cl 0x17 (fun q w => q.sreg (swA w) ^^^ q.sreg (swB w)))

/-- SHL by IMM[5:0]. -/
def execShl (cl : Nat) (s : State) : Host.Outcome State Fault Refusal :=
  .next (s.streamSet cl 0x18 (fun q w => q.sreg (swA w) * 2 ^ (swImm w % 64)))

/-- SHR by IMM[5:0]. -/
def execShr (cl : Nat) (s : State) : Host.Outcome State Fault Refusal :=
  .next (s.streamSet cl 0x19 (fun q w => q.sreg (swA w) / 2 ^ (swImm w % 64)))

/-- ADDI. -/
def execAddi (cl : Nat) (s : State) : Host.Outcome State Fault Refusal :=
  .next (s.streamSet cl 0x1A (fun q w => q.sreg (swA w) + ofSigned 64 (swImmS w)))

/-- RDTS. -/
def execRdts (cl : Nat) (s : State) : Host.Outcome State Fault Refusal := .next (s.streamSet cl 0x22 (fun _ _ => s.now))

/-! ### Branches and loops (R183, R186 to R189) -/

/-- Whether a BR condition holds. -/
def brHolds (x a b : Nat) : Bool :=
  match x with
  | 0 => true
  | 1 => a = b
  | 2 => a ≠ b
  | 3 => toSigned 64 a < toSigned 64 b
  | 4 => toSigned 64 b ≤ toSigned 64 a
  | 5 => a < b
  | _ => b ≤ a

/-- A taken branch, or the fall-through. -/
def State.seqBranch (s : State) (cl w : Nat) (taken : Bool) : State :=
  if taken then (s.seqIssued cl).modSeq cl (fun q => { q.jump (q.rel w) with wait := .none, state := .running })
  else s.seqDone cl id

/-- BR. -/
def execBr (cl : Nat) (s : State) : Host.Outcome State Fault Refusal :=
  .next (s.stream cl 0x30 (fun s w =>
    let q := s.seq cl
    s.seqBranch cl w (brHolds (swX w) (q.sreg (swA w)) (q.sreg (swB w)))))

/-- LOOP (R186, R189). A skipped body falls through to what follows it (DEDUCED, log 20). -/
def execLoop (cl : Nat) (s : State) : Host.Outcome State Fault Refusal :=
  .next (s.stream cl 0x31 (fun s w =>
    let q := s.seq cl
    let start := q.pc + 8
    let stop := start + 8 * swImm w
    let n := q.sreg (swA w) % 2 ^ 32
    if 4 ≤ q.loops.length then s.seqFault cl 0x42 w stAborted
    else if (match q.loops with | l :: _ => decide (l.stop < stop) | [] => false) then s.seqFault cl 0x43 w stAborted
    else if n = 0 then s.seqDone cl (fun q => { q with pc := stop - 8 })
    else s.seqDone cl (fun q => { q with loops := { start := start, stop := stop, remaining := n, index := 0 } :: q.loops })))

/-- LIDX: zero for a level that is not open (DEDUCED, log 20). -/
def execLidx (cl : Nat) (s : State) : Host.Outcome State Fault Refusal :=
  .next (s.streamSet cl 0x32 (fun q w => ((q.loops[swX w]?).map (·.index)).getD 0))

/-! ### Counters and comparators (R190, R191) -/

/-- CSET. -/
def execCset (cl : Nat) (s : State) : Host.Outcome State Fault Refusal :=
  .next (s.stream cl 0x38 (fun s w => s.seqDone cl (fun q =>
    let i := bits (swX w) 2 0
    { q.setC i (q.sreg (swA w)) with csrc := q.csrc.set i 0 (bits (swX w) 6 3) })))

/-- CINC. -/
def execCinc (cl : Nat) (s : State) : Host.Outcome State Fault Refusal :=
  .next (s.stream cl 0x39 (fun s w => s.seqDone cl (fun q =>
    q.setC (bits (swX w) 2 0) (q.ctr (bits (swX w) 2 0) + ofSigned 64 (swImmS w)))))

/-- CRD. -/
def execCrd (cl : Nat) (s : State) : Host.Outcome State Fault Refusal :=
  .next (s.streamSet cl 0x3A (fun q w => q.ctr (bits (swX w) 2 0)))

/-- KSET. -/
def execKset (cl : Nat) (s : State) : Host.Outcome State Fault Refusal :=
  .next (s.stream cl 0x3B (fun s w => s.seqDone cl (fun q =>
    { q with k := q.k.set (bits (swX w) 1 0) {} { armed := true, ctr := bits (swX w) 4 2, rel := bits (swX w) 6 5, val := q.sreg (swA w) } })))

/-- KWAIT. -/
def execKwait (cl : Nat) (s : State) : Host.Outcome State Fault Refusal :=
  .next (s.stream cl 0x3C (fun s w =>
    let k := bits (swX w) 1 0
    if (s.seq cl).cmpTrue k then s.seqDone cl id else s.seqWaitAt cl (.kwait k)))

/-- KWAIT_END: the comparator reads true. -/
def execKwaitEnd (cl : Nat) (s : State) : Host.Outcome State Fault Refusal :=
  match (s.seq cl).wait with
  | .kwait k => .next (if s.seqLive cl && (s.seq cl).cmpTrue k then s.seqDone cl id else s)
  | _ => .next s

/-- KBR. -/
def execKbr (cl : Nat) (s : State) : Host.Outcome State Fault Refusal :=
  .next (s.stream cl 0x3D (fun s w => s.seqBranch cl w ((s.seq cl).cmpTrue (bits (swX w) 1 0))))

/-! ### Kernel launch (R192 to R197) -/

/-- What reading a structure for a sequencer gave: bytes, a status that it fails with, or neither where it waits. -/
structure SeqGet where
  st : State
  data : Option (List Byte) := none
  fail : Option Nat := none

/-- Read a structure within one 64 KiB page for a sequencer (R179). -/
def State.seqGet (s : State) (cl va n : Nat) (desc : Bool) : SeqGet :=
  let q := s.seq cl
  match s.xlateD (.seq cl) q.ctx va accRead q.pc desc with
  | (none, s) => { st := s }
  | (some e, s) =>
    let pa := e.out + (va % 2 ^ 57 - e.va)
    if e.host then
      match s.hostRead pa n with
      | some bs => { st := s, data := some bs }
      | none => { st := s.hostReadFailed, fail := some stPoison }
    else
      let r := s.readMem { part := some q.part, ctx := some q.ctx, cl := some cl, strict := e.strict } e.hint pa n
      if r.wait then { st := s }
      else if r.undec.isSome then { st := r.st.raiseFault (.seq cl) q.ctx q.part { cause := 0x75, acc := accRead, va := va % 2 ^ 57, ipa := e.ipa + (pa - e.out), pc := q.pc } desc }
      else if r.status.isSome then { st := r.st, fail := r.status }
      else if r.poison ≠ [] then { st := r.st.metPoison (.seq cl) q.part q.ctx accRead q.pc none va pa r, fail := some stPoison }
      else { st := r.st, data := some r.data }

/-- Start a kernel's grid on cores of a cluster: the kernel is recorded, and the cluster's duty may fall (R521). -/
def State.startKernel (s : State) (cl : Nat) (k : Kernel) : State :=
  let id := s.pt.nextKernel
  let s := { s with pt := { s.pt with kernels := s.pt.kernels.put id k, nextKernel := id + 1 } }
  let s := s.modSeq cl (fun q => { q with inFlight := q.inFlight ++ [id] })
  match s.learnedFind 1 k.part k.desc.kclass with
  | none => s
  | some l =>
    let p := l.power s.point
    let share := (s.part k.part).share / ((Nat.max 1 (s.partCls k.part).length : Nat) : Rat)
    if s.pt.meter.stopped || p ≤ share then s else s.setDuty cl (Nat.max 1 (Nat.min 16 (16 * share / p).floor.toNat))

/-- The descriptor's fields with the subnormal mode resolved at launch (04 R144). -/
def State.resolveDesc (s : State) (p : Nat) (d : KDesc) : KDesc :=
  { d with subn := if d.subn = 0 then (if (s.part p).subnFlush then 2 else 1) else d.subn }

/-- LAUNCH (R192 to R194, 13 R536, R538). -/
def execLaunch (cl : Nat) (s : State) : Host.Outcome State Fault Refusal :=
  .next (s.stream cl 0x40 (fun s w =>
    let q := s.seq cl
    let va := q.sreg (swA w)
    if 8 ≤ q.inFlight.length then s.seqWaitAt cl .launch8
    else if q.yield || s.launchHeld q.part then s.seqWaitAt cl .launchMode
    else if va % 128 ≠ 0 then s.seqFail cl w stBadDesc true
    else
      let g := s.seqGet cl va 128 true
      match g.data, g.fail with
      | some b, _ =>
        let s := g.st
        let d := kdescOf b
        let cores := s.maskSlots cl (swImm w % 256)
        if kdescBad va b || cores = [] then s.seqFail cl w stBadDesc true
        else if d.fv40 && !(s.part q.part).compat then (s.askCompat q.part).seqWaitAt cl .launchMode
        else
          let n := q.launchNo + 1
          let k : Kernel := { desc := s.resolveDesc q.part d, descVa := va % 2 ^ 57, ctx := q.ctx, part := q.part, cl := cl, queue := q.queue.getD 0, num := n, mask := swImm w % 256, cores := cores, occ := d.occ, rank := q.rank, dutyLow := decide (s.duty cl < 16) }
          let s := (s.startKernel cl k).reelCl cl 1 0x03 q.ctx n (va % 2 ^ 57) (swImm w % 256)
          s.seqDone cl (fun q => { q.setS (swD w) n with launchNo := n })
      | none, some st => g.st.seqFail cl w st true
      | none, none => g.st))

/-- LWAIT. -/
def execLwait (cl : Nat) (s : State) : Host.Outcome State Fault Refusal :=
  .next (s.stream cl 0x41 (fun s w =>
    let n := bits (swImm w) 2 0
    if (s.seq cl).inFlight.length ≤ n then s.seqDone cl id else s.seqWaitAt cl (.lwait n)))

/-- LWAIT_END: few enough kernels are incomplete. -/
def execLwaitEnd (cl : Nat) (s : State) : Host.Outcome State Fault Refusal :=
  match (s.seq cl).wait with
  | .lwait n => .next (if s.seqLive cl && (s.seq cl).inFlight.length ≤ n then s.seqDone cl id else s)
  | _ => .next s

/-- KSTAT (R195). -/
def execKstat (cl : Nat) (s : State) : Host.Outcome State Fault Refusal :=
  .next (s.stream cl 0x42 (fun s w => s.seqDone cl (fun q =>
    { q.setS (swD w) (q.kcount * 16 + q.kflags) with kcount := 0, kflags := 0 })))

/-- MXSEL. -/
def execMxsel (cl : Nat) (s : State) : Host.Outcome State Fault Refusal :=
  .next (s.stream cl 0x48 (fun s w => s.seqDone cl (fun q => { q with mxMask := swImm w % 256, mxStep := q.sreg (swA w) })))

/-! ### Completion of kernels (R67, R181, 04 R158, 17 R653) -/

/-- The 128 bytes of a profile record (17 R653). -/
def State.profBytes (s : State) (k : Kernel) : List Byte :=
  leBytes 8 k.descVa ++ leBytes 8 k.tFirst ++ leBytes 8 s.now ++ leBytes 4 k.num ++ leBytes 4 (k.mask * 256 + k.cl)
    ++ leBytes 4 (Nat.min k.energy 0xFFFFFFFF) ++ leBytes 4 (b2n k.relaunched * 2 ^ 9 + b2n k.dutyLow * 2 ^ 8 + s.point)
    ++ (List.range 6).flatMap (fun i => leBytes 8 (k.prof.getD i 0)) ++ List.replicate 40 0

/-- The physical address of an IPA for a device write: stage 2 alone (09 R358). -/
def State.ipaWrite (s : State) (p ipa : Nat) : Except XFault (Nat × Xent) × State :=
  let r := s.s2Xlate p ipa
  match r.out with
  | .error f => (.error { f with acc := accWrite }, r.st)
  | .ok e =>
    if r.wait then (.error { cause := 0x74, stage := 2 }, s)
    else if !e.wr then (.error { cause := 0x72, stage := 2, acc := accWrite, ipa := ipa }, r.st)
    else (.ok (e.out + (ipa - e.va), e), r.st)

/-- A profile record that cannot be written: the plan is disabled and the event counted (17 R654). -/
def State.profDrop (s : State) (ctx : Nat) : State :=
  let plan := s.obs.plans.getD ctx []
  let off := leBytes 4 (sliceNat plan 0 4 % 2 ^ 31) ++ plan.drop 4
  ({ s with obs := { s.obs with plans := s.obs.plans.put ctx off } }).odBump 0x6210 5 1

/-- Write the profile record of a kernel whose context has an enabled plan (17 R653, R654). -/
def State.profileRecord (s : State) (k : Kernel) : State :=
  let plan := s.obs.plans.getD k.ctx []
  if !bit (sliceNat plan 0 4) 31 then s
  else
    let area := sliceNat plan 8 8 % 2 ^ 52
    let fault (s : State) (f : XFault) : State := (s.quietRecord 2 k.part k.ctx f [] [k.cl] 0).profDrop k.ctx
    match s.ipaWrite k.part area with
    | (.error f, s) => fault s f
    | (.ok (h, eh), s) =>
      let who : Who := { part := some k.part, ctx := some k.ctx, strict := eh.strict }
      let r := s.readMem who eh.hint h 8
      let n := leNat r.data
      let at_ := area + 64 + (n % 2 ^ bits (sliceNat plan 0 4) 4 0) * 128
      match r.st.ipaWrite k.part at_ with
      | (.error f, s) => fault s f
      | (.ok (a, ea), s) =>
        let w := s.writeMem { who with strict := ea.strict } ea.hint .bank a (s.profBytes k) false
        if r.status.isSome || w.status.isSome || r.undec.isSome || w.undec.isSome then (w.st.quietRecord 2 k.part k.ctx { cause := if r.undec.isSome || w.undec.isSome then 0x75 else 0x74, acc := accWrite, ipa := at_ } [] [k.cl] 0).profDrop k.ctx
        else ((w.st.writeMem who eh.hint .bank h (leBytes 8 (n + 1)) false).st).odBump 0x6210 1 1

/-- KERNEL_COMPLETE: every block of the grid has exited, every core is done with the kernel and its records are closed
(R67, R190, 04 R158). -/
def execKernelComplete (kernel : Nat) (s : State) : Host.Outcome State Fault Refusal :=
  match s.kernel kernel with
  | none => .next s
  | some k =>
    if k.next = k.desc.blocks && k.slots = [] && k.cores ≠ [] && !(s.cores.any (fun e => e.2.kernel = some kernel)) then
      let s := s.kernelTime kernel
      let k := (s.kernel kernel).getD k
      let s := s.observe 1 k.part k.desc.kclass k.obsE k.obsD
      let s := (s.profileRecord k).reelCl k.cl 1 0x04 k.ctx k.num k.descVa k.status
      let s := s.modSeq k.cl (fun q => Seq.event { q with inFlight := q.inFlight.filter (· ≠ kernel), kflags := q.kflags ||| (k.status % 16), kcount := Nat.min 15 (q.kcount + 1) } 1 1)
      let s := if k.desc.fv40 then s.modPart k.part (fun p => { p with lastFv40 := s.now }) else s
      .next (s.delKernel kernel)
    else .next s

/-! ### Fences, events and the barrier (R200 to R203) -/

/-- Whether everything that a sequencer launched and issued is complete. -/
def Seq.drained (q : Seq) : Bool := q.inFlight = [] && q.mxOut = []

/-- What a SYSTEM release of a sequencer still waits for: CXL ports whose link is up with writes that are not
acknowledged (06 R238). -/
def State.cxlHeld (s : State) : Bool := s.cxlPending.any (fun p => (s.unit ⟨2, p⟩).linkUp)

/-- Whether FSIG may go on: drained, unless NODRAIN, and acknowledged at SYSTEM scope. -/
def State.fsigReady (s : State) (cl w : Nat) : Bool :=
  (bit (swX w) 2 || (s.seq cl).drained) && (bits (swX w) 1 0 ≠ 2 || !s.cxlHeld)

/-- FSIG writes the fence (R200). A SYSTEM release that waited for a port whose link is lost gives DEVICE_LOST (06 R238). -/
def State.fsigDo (s : State) (cl w : Nat) : State :=
  let q := s.seq cl
  let h := q.sreg (swA w) % 2 ^ 16
  let v := q.sreg (swB w)
  let lost := if bits (swX w) 1 0 = 2 then sumNat (s.cxlPending.map (fun p => (s.unit ⟨2, p⟩).unacked)) else 0
  let s := if lost = 0 then s else
    let t := s.odBump 0x6160 3 lost
    match q.queue with | some k => t.stepStatus k stDeviceLost | none => t
  let s := (s.signal h v (bit (swX w) 3)).reelCl cl 2 0x07 q.ctx h v (swX w)
  s.seqDone cl id

/-- FSIG (R200). A handle that R449 does not allow ends the step. -/
def execFsig (cl : Nat) (s : State) : Host.Outcome State Fault Refusal :=
  .next (s.stream cl 0x51 (fun s w =>
    let q := s.seq cl
    if !s.streamHandle q.ctx (q.sreg (swA w) % 2 ^ 16) false then s.seqFail cl w stBadDesc false
    else if s.fsigReady cl w then s.fsigDo cl w
    else s.seqWaitAt cl .fsig))

/-- FSIG_RELEASE: the waits of an FSIG are over (R200). -/
def execFsigRelease (cl : Nat) (s : State) : Host.Outcome State Fault Refusal :=
  if (s.seq cl).wait ≠ .fsig || !s.seqLive cl then .next s
  else match s.fetchWord cl with
    | (some w, t) => .next (if t.fsigReady cl w then t.fsigDo cl w else s)
    | (none, t) => .next t

/-- The outcome of an FWAIT now: met, or a status that ends the step (R201). A remote alias whose owner is lost and whose
value is too low ends it with DEVICE_LOST (DEDUCED, log 26). -/
def State.fwaitNow (s : State) (h v : Nat) : Option Nat :=
  let o := s.sync (s.original h)
  if o.error then some stFenceError
  else if v ≤ o.value then some stOk
  else if (s.sync h).remote && (s.sync h).lost then some stDeviceLost
  else none

/-- End an FWAIT with its outcome. -/
def State.fwaitEnd (s : State) (cl w h st : Nat) : State :=
  let o := s.sync (s.original h)
  let s := s.reelCl cl 2 0x06 (s.seq cl).ctx h o.value (b2n o.error)
  if st = stOk then s.seqDone cl id else s.seqFail cl w st false

/-- FWAIT (R201). -/
def execFwait (cl : Nat) (s : State) : Host.Outcome State Fault Refusal :=
  .next (s.stream cl 0x50 (fun s w =>
    let q := s.seq cl
    let h := q.sreg (swA w) % 2 ^ 16
    let v := q.sreg (swB w)
    if !s.streamHandle q.ctx h false then s.seqFail cl w stBadDesc false
    else
      let s := s.reelCl cl 2 0x05 q.ctx h v 0
      match s.fwaitNow h v with
      | some st => s.fwaitEnd cl w h st
      | none => s.seqWaitAt cl (.fwait h v)))

/-- FWAIT_END (R201). -/
def execFwaitEnd (cl : Nat) (s : State) : Host.Outcome State Fault Refusal :=
  match (s.seq cl).wait with
  | .fwait h v =>
    if !s.seqLive cl then .next s
    else match s.fwaitNow h v with
      | some st => match s.fetchWord cl with
        | (some w, t) => .next (t.fwaitEnd cl w h st)
        | (none, t) => .next t
      | none => .next s
  | _ => .next s

/-- ESIG (R202). -/
def execEsig (cl : Nat) (s : State) : Host.Outcome State Fault Refusal :=
  .next (s.stream cl 0x52 (fun s w =>
    let q := s.seq cl
    let h := q.sreg (swA w) % 2 ^ 16
    if !s.streamHandle q.ctx h true then s.seqFail cl w stBadDesc false
    else (s.signalEvent h).seqDone cl id))

/-- Take one count of an event. -/
def State.takeEvent (s : State) (h : Nat) : State := s.modSync h (fun e => { e with value := e.value - 1 })

/-- EWAIT (R202). -/
def execEwait (cl : Nat) (s : State) : Host.Outcome State Fault Refusal :=
  .next (s.stream cl 0x53 (fun s w =>
    let q := s.seq cl
    let h := q.sreg (swA w) % 2 ^ 16
    if !s.streamHandle q.ctx h true then s.seqFail cl w stBadDesc false
    else if 0 < (s.sync h).value then (s.takeEvent h).seqDone cl id
    else s.seqWaitAt cl (.ewait h)))

/-- EWAIT_END: a count is there for this sequencer and for every waiting one of a lower cluster (R202). -/
def execEwaitEnd (cl : Nat) (s : State) : Host.Outcome State Fault Refusal :=
  match (s.seq cl).wait with
  | .ewait h =>
    let lower := ((List.range cl).filter (fun c => (s.seq c).wait = .ewait h && s.seqLive c)).length
    .next (if s.seqLive cl && lower < (s.sync h).value then (s.takeEvent h).seqDone cl id else s)
  | _ => .next s

/-- SBAR: the sequencer arrives once its own work is complete, and waits (R203). -/
def execSbar (cl : Nat) (s : State) : Host.Outcome State Fault Refusal :=
  .next (s.stream cl 0x58 (fun s _ => s.seqWaitAt cl .sbar))

/-- SBAR_LEAVE: every sequencer of the placement has arrived or has ended (R203). -/
def execSbarLeave (queue : Nat) (s : State) : Host.Outcome State Fault Refusal :=
  let cls := s.placement queue
  let here := cls.filter (fun c => (s.seq c).wait = .sbar)
  if here ≠ [] && cls.all (fun c => (s.seq c).ended || (s.seqLive c && (s.seq c).wait = .sbar && (s.seq c).drained)) then
    .next (s.each here (fun t c => (t.reelCl c 2 0x08 (t.seq c).ctx 0 0 0).seqDone c (fun q => q.event 6 1)))
  else .next s

/-! ### The start of a step (R178) -/

/-- STEP_START: a sequencer on which a step was placed begins its stream. -/
def execStepStart (cl : Nat) (s : State) : Host.Outcome State Fault Refusal :=
  let q := s.seq cl
  match q.queue, s.seqStep cl with
  | some k, some r =>
    if (r.st = .running || r.st = .yielding) && !s.frozen r.ctx && r.slot = none && (q.state = .idle || q.state = .parked) && !r.awake.contains cl then
      let sr : SMap W64 := SMap.set (SMap.set (SMap.set (SMap.set [] 0 0 (BitVec.ofNat 64 q.rank)) 1 0 (BitVec.ofNat 64 (q.placed + 1))) 2 0 (BitVec.ofNat 64 q.stepVa)) 3 0 (BitVec.ofNat 64 r.arg)
      let s := s.setSeq cl { state := .running, s := sr, pc := r.stream, queue := q.queue, ctx := q.ctx, part := q.part, stepVa := q.stepVa, rank := q.rank, placed := q.placed, yield := q.yield, nextMx := q.nextMx }
      let s := s.modStep k (fun r => { r with awake := r.awake ++ [cl], lastProgress := s.now })
      .next (s.reelCl cl 0 0x01 q.ctx k q.stepVa (q.placed * 16 + q.rank))
    else .next s
  | _, _ => .next s

/-! ### Parking and resuming (R207, 13 R512 to R514) -/

/-- A comparator in the park image: counter [2:0], relation [4:3], armed [7], value above (DEDUCED, log 27). -/
def Cmpr.pack (c : Cmpr) : Nat := (c.val % 2 ^ 56) * 256 + b2n c.armed * 128 + c.rel * 8 + c.ctr

/-- The comparator that an image word holds. -/
def cmprOf (x : Nat) : Cmpr := { armed := bit x 7, ctr := bits x 2 0, rel := bits x 4 3, val := x / 256 }

/-- A loop level in the image: four 32-bit words (DEDUCED, log 27). -/
def loopBytes (l : LoopLevel) : List Byte := leBytes 4 l.start ++ leBytes 4 l.stop ++ leBytes 4 l.remaining ++ leBytes 4 l.index

/-- The 512 bytes of a park image (R207). -/
def Seq.image (q : Seq) : List Byte :=
  (List.range 32).flatMap (fun i => leBytes 8 (q.sreg i)) ++ (List.range 8).flatMap (fun i => leBytes 8 (q.ctr i))
    ++ (List.range 4).flatMap (fun i => leBytes 8 (q.k.getD i {}).pack)
    ++ (q.loops.flatMap loopBytes ++ List.replicate ((4 - q.loops.length) * 16) 0)
    ++ leBytes 8 q.pc ++ leBytes 8 (q.loops.length * 256 + q.mxMask) ++ leBytes 8 q.mxStep ++ leBytes 8 q.launchNo
    ++ leBytes 8 (q.kcount * 16 + q.kflags) ++ List.replicate 56 0

/-- A drain record (13 R513). -/
def drainRecord (k : Kernel) : List Byte :=
  leBytes 8 (2 ^ 63 + k.descVa) ++ leBytes 8 k.next ++ leBytes 4 k.num ++ leBytes 4 k.mask ++ List.replicate 8 0

/-- Address of a rank's part of a park slot (13 R513). -/
def State.parkAddr (s : State) (p slot rank : Nat) : Nat := s.saveArea p + slot * 0x4000 + rank * 0x400

/-- Cores that hold kernels of a list. -/
def State.coresOf (s : State) (ks : List Nat) : List Nat := s.coresRunning (fun k => ks.contains k)

/-- Take a drained kernel off its cores: sets are written out, the kernel waits to be relaunched (13 R512). -/
def State.liftKernel (s : State) (kid : Nat) : State :=
  let s := s.each (s.coresOf [kid]) (fun t c => ((t.densFlush c).modCore c (fun x => { x with kernel := none, ctx := none })))
  match s.kernelTime kid |>.kernel kid with
  | some k => s.setKernel kid { k with cores := [], relaunched := true }
  | none => s

/-- Whether a sequencer may park now (R207, 13 R512): at a LAUNCH or at its END with nothing left, or drained. -/
def State.mayPark (s : State) (cl : Nat) (r : StepRec) : Bool :=
  let q := s.seq cl
  let at_ : Bool := q.ended || q.wait = .launch8 || q.wait = .launchMode
  let quiet := (s.coresOf q.inFlight).all (fun c => s.coreQuiet c)
  q.yield && q.mxOut = [] && r.awake.contains cl && (q.state = .running || q.state = .waiting) && ((at_ && q.inFlight = []) || (r.drained && quiet))

/-- The whole placement is parked: the step leaves its clusters and DRAIN is cleared (13 R504, R508, R512). A step whose
context was killed completes with ABORTED, one that a layout change ends with PREEMPTED (12 R485, R498). -/
def State.stepParked (s : State) (k : Nat) (r : StepRec) : State :=
  let cores := r.cls.flatMap clSlots
  let s := if r.drained then s.each cores (fun t c => if bit (t.reg (teR c 0x10)) 1 then t.setDrain c false else t) else s
  let s := (s.stepLeave k).modStep k (fun x => { x with st := .parked, drained := false, forRt := false, awake := [] })
  let s := if r.drained then (s.setRf (ptP r.part 0x38) 63 32 (s.rf (ptP r.part 0x38) 63 32 + 1)).odBump 0x61D0 4 1
    else (s.setRf (ptP r.part 0x38) 31 0 (s.rf (ptP r.part 0x38) 31 0 + 1)).odBump 0x61D0 3 1
  if (s.ctx r.ctx).killed.isSome then (s.stopStep k false).endHeld k stAborted false
  else match s.pt.layout with
    | some l => if l.parts.contains r.part && l.phase = .preparation then (s.stopStep k false).endHeld k (r.endStatus stPreempted) false else s
    | none => s

/-- SEQ_PARK: a sequencer asked to yield writes its park image, and its drain records, and is PARKED (R207, 13 R512). -/
def execSeqPark (cl : Nat) (s : State) : Host.Outcome State Fault Refusal :=
  let q := s.seq cl
  match q.queue, s.seqStep cl with
  | some k, some r =>
    match r.slot with
    | none => .next s
    | some sl =>
      if r.st = .yielding && !s.frozen r.ctx && s.mayPark cl r then
        let a := s.parkAddr r.part sl q.rank
        let recs := (q.inFlight.filterMap (fun x => s.kernel x)).flatMap drainRecord
        let s := s.ownWrite a (q.image ++ recs ++ List.replicate (256 - recs.length) 0)
        let s := s.each q.inFlight (fun t x => t.liftKernel x)
        let s := s.each q.densCores (fun t c => t.densFlush c)
        let slots := (s.seq cl).densSlots
        let s := s.modSeq cl (fun q => { q with state := .parked, wait := .none, yield := false, inFlight := [], densCores := [], densSlots := [] })
        let s := s.modStep k (fun r => { r with parkSrc := r.parkSrc.put q.rank q.csrc, parkDens := r.parkDens.put q.rank slots })
        match s.stepOf k with
        | some r => .next (if r.cls.all (fun c => (s.seq c).state = .parked) then s.stepParked k r else s)
        | none => .next s
      else .next s
  | _, _ => .next s

/-- The sequencer that an image describes. -/
def seqOfImage (q : Seq) (b : List Byte) (src : SMap Nat) (dens : List Nat) : Seq :=
  let pc := sliceNat b 0x1A0 8
  let depth := bits (sliceNat b 0x1A8 8) 10 8
  let full (x : Nat) : Nat := pc / 2 ^ 32 * 2 ^ 32 + x
  let level (i : Nat) : LoopLevel :=
    { start := full (sliceNat b (0x160 + 16 * i) 4), stop := full (sliceNat b (0x164 + 16 * i) 4), remaining := sliceNat b (0x168 + 16 * i) 4, index := sliceNat b (0x16C + 16 * i) 4 }
  let q0 : Seq := { state := .running, pc := pc, queue := q.queue, ctx := q.ctx, part := q.part, stepVa := q.stepVa, rank := q.rank, placed := q.placed, nextMx := q.nextMx, csrc := src, loops := (List.range depth).map level, mxMask := sliceNat b 0x1A8 1, mxStep := sliceNat b 0x1B0 8, launchNo := sliceNat b 0x1B8 8, kflags := bits (sliceNat b 0x1C0 8) 3 0, kcount := bits (sliceNat b 0x1C0 8) 7 4, densSlots := dens, yield := q.yield }
  let q1 := (List.range 32).foldl (fun (q : Seq) i => q.setS i (sliceNat b (8 * i) 8)) q0
  let q2 := (List.range 8).foldl (fun (q : Seq) i => q.setC i (sliceNat b (0x100 + 8 * i) 8)) q1
  { q2 with k := (List.range 4).foldl (fun (m : SMap Cmpr) i => m.set i {} (cmprOf (sliceNat b (0x140 + 8 * i) 8))) [] }

/-- Relaunch a drained kernel from its record (13 R514): its descriptor is read again. -/
def State.relaunch (s : State) (cl : Nat) (b : List Byte) : State :=
  if !bit (sliceNat b 0 8) 63 then s
  else
    let q := s.seq cl
    let va := sliceNat b 0 8 % 2 ^ 57
    let num := sliceNat b 0x10 4
    let r := s.hubRead q.ctx va 128 accRead
    match r.stat with
    | 0 =>
      let d := kdescOf r.data
      let s := r.st
      let cores := s.maskSlots cl (sliceNat b 0x14 1)
      if kdescBad va r.data || cores = [] then s.seqFail cl 0 stBadDesc true
      else
        let mine := s.kernelsOf (fun k => some k.queue = q.queue && k.rank = q.rank && k.num = num && k.cores = [])
        match mine with
        | id :: _ =>
          let k := (s.kernel id).getD {}
          let s := s.setKernel id { k with desc := s.resolveDesc q.part d, cl := cl, cores := cores, coresDone := [], next := sliceNat b 8 8, occ := d.occ, mask := sliceNat b 0x14 1 }
          s.modSeq cl (fun q => { q with inFlight := q.inFlight ++ [id] })
        | [] =>
          s.startKernel cl { desc := s.resolveDesc q.part d, descVa := va, ctx := q.ctx, part := q.part, cl := cl, queue := q.queue.getD 0, num := num, mask := sliceNat b 0x14 1, cores := cores, next := sliceNat b 8 8, occ := d.occ, rank := q.rank, relaunched := true }
    | st => r.st.seqFail cl 0 st true

/-- SEQ_RESUME: a sequencer on which a parked step was placed again reloads its image and relaunches drained kernels
(R207, 13 R514). It waits as a LAUNCH does (R536). -/
def execSeqResume (cl : Nat) (s : State) : Host.Outcome State Fault Refusal :=
  let q := s.seq cl
  match q.queue, s.seqStep cl with
  | some k, some r =>
    match r.slot with
    | none => .next s
    | some sl =>
      if (r.st = .running || r.st = .yielding) && !s.frozen r.ctx && (q.state = .idle || q.state = .parked) && !r.awake.contains cl && !s.launchHeld q.part then
        let (b, st, s) := s.ownRead (s.parkAddr r.part sl q.rank) 0x300
        let s := s.setSeq cl (seqOfImage q b (r.parkSrc.getD q.rank []) (r.parkDens.getD q.rank []))
        let s := s.modStep k (fun r => { r with awake := r.awake ++ [cl], lastProgress := s.now, slot := if r.awake.length + 1 = r.cls.length then none else r.slot })
        match st with
        | some c => .next (s.seqFail cl 0 c false)
        | none => .next (s.each (List.range 8) (fun t i => t.relaunch cl (slice b (0x200 + 32 * i) 32)))
      else .next s
  | _, _ => .next s

/-! ### The end of a step (R181) -/

/-- Whether a sequencer's part of its step is over. -/
def State.partOver (s : State) (r : StepRec) (cl : Nat) : Bool :=
  let q := s.seq cl
  r.awake.contains cl && q.ended && q.drained && q.densDone

/-- STEP_END: every sequencer has ended and everything that they started is complete (R181): the clusters are free, the
step is observed, and its entry waits for completion. -/
def execStepEnd (queue : Nat) (s : State) : Host.Outcome State Fault Refusal :=
  match s.stepOf queue with
  | none => .next s
  | some r =>
    if (r.st = .running || r.st = .yielding) && r.cls ≠ [] && r.cls.all (fun c => s.partOver r c) then
      let s := s.each r.cls (fun t c => t.reelCl c 0 0x02 r.ctx queue r.va r.status)
      let s := s.each r.cls (fun t c => t.seqIdle c)
      let s := s.stepLeave queue
      let o := (s.stepOf queue).getD r
      let s := if r.status = stOk then s.observe 0 r.part r.sclass o.e0 o.d0 else s
      let s := if r.rt && decide (r.deadlineUs ≠ 0) && decide (r.tAccept + r.deadlineUs * 100 < s.now) then (s.bump (ptP r.part 0x30) 1).odBump 0x61D0 5 1 else s
      .next ((s.modStep queue (fun x => { x with slot := none, awake := [] })).endHeld queue r.status false)
    else .next s

/-! ### ENABLE (R210, R211) -/

/-- Write ENABLE of a sequencer: OFF to IDLE; cleared, OFF at once where no step is placed, else when it next reaches IDLE. -/
def State.setSqEnable (s : State) (cl : Nat) (on : Bool) : State :=
  let s := s.setRf (sqR cl 0x10) 0 0 (b2n on)
  s.modSeq cl (fun q =>
    if on ∧ q.state = .off then { q with state := .idle }
    else if !on ∧ q.state = .idle ∧ q.queue = none then { q with state := .off }
    else q)

/-- SQ_ENABLE_WRITE: RWP. -/
def execSqEnableWrite (p : Path) (cl : Nat) (on : Bool) (s : State) : Host.Outcome State Fault Refusal :=
  .next (s.regGateP p (sqR cl 0x10) (fun t => t.setSqEnable cl on))

end Sys2Proof.Machine
end

