-- ==== Sys2Proof/Machine/LayoutOps.lean ====
section
/-! DEFINITION. Shared operations of layout changes and shared modes (13_partitions_and_meter.md R491 to R503, R533 to R538):
the staged layout and its checks, preparation, the work that units do before they commit, and the end of a change. -/

namespace Sys2Proof.Machine

/-! ### The staged layout (R495, R496, R544) -/

/-- The eight raw ranges of a carve-out entry: base word and size word. -/
def rawRanges (b : List Byte) : List (Nat × Nat) := (List.range 8).map (fun i => (sliceNat b (16 * i) 8, sliceNat b (16 * i + 8) 8))

/-- The staged layout of a partition. One that is not enabled holds nothing (log 25). -/
def State.staged (s : State) (p : Nat) : Layout :=
  let g (n : Nat) : Nat := s.odGet (0x4100 + p) n
  let rs (n : Nat) : List (Nat × Nat) := (rawRanges (s.blob (0x4100 + p) n)).filter (fun r => r.2 ≠ 0)
  if g 7 = 0 then {} else { clusters := g 1, sets := g 2, ways := g 3, store := g 4, ddr := rs 5, cxl := rs 6, enabled := true }

/-- Whether a range lies inside one populated unit of a kind (R491, R496). -/
def State.rangeInUnit (s : State) (kind : Nat) (r : Nat × Nat) : Bool :=
  let base (i : Nat) : Nat := if kind = 1 then ddrBase i else cxlBase i
  (List.range (if kind = 1 then 16 else 4)).any (fun i =>
    (s.unit ⟨kind, i⟩).st ≠ .absent && decide (base i ≤ r.1) && decide (r.1 + r.2 * 2 ^ 30 ≤ base i + (s.unit ⟨kind, i⟩).bytes))

/-- Whether a raw range fails R496: a reserved bit, misaligned, zero-sized with a base, or not inside one unit. -/
def State.rangeBad (s : State) (kind : Nat) (r : Nat × Nat) : Bool :=
  decide (2 ^ 52 ≤ r.1) || decide (r.1 % 2 ^ 30 ≠ 0) || (if r.2 = 0 then decide (r.1 ≠ 0) else !s.rangeInUnit kind r)

/-- Whether two lists of ranges overlap. -/
def rangesMeet (a b : List (Nat × Nat)) : Bool :=
  a.any (fun x => b.any (fun y => x.1 < y.1 + y.2 * 2 ^ 30 && y.1 < x.1 + x.2 * 2 ^ 30))

/-- Whether a layout that would be enabled fails on its own (R496). -/
def State.stagedBad (s : State) (p : Nat) : Bool :=
  let l := s.staged p
  l.clusters = 0 || l.sets = 0 || l.store &&& l.ways ≠ l.store
    || (rawRanges (s.blob (0x4100 + p) 5)).any (fun r => s.rangeBad 1 r) || (rawRanges (s.blob (0x4100 + p) 6)).any (fun r => s.rangeBad 2 r)

/-- Whether two layouts share a resource (R491, R496). -/
def layoutsMeet (a b : Layout) : Bool :=
  a.clusters &&& b.clusters ≠ 0 || a.sets &&& b.sets ≠ 0 || a.ways &&& b.ways ≠ 0 || rangesMeet a.ddr b.ddr || rangesMeet a.cxl b.cxl

/-- Whether APPLY is refused (R496, R498). -/
def State.layoutBad (s : State) : Bool :=
  let on := (List.range 8).filter (fun p => (s.staged p).enabled)
  on.any (fun p => s.stagedBad p) || on.any (fun p => on.any (fun q => decide (p < q) && layoutsMeet (s.staged p) (s.staged q)))
    || (List.range 8).any (fun p => (s.part p).lay.enabled && !(s.staged p).enabled
          && s.obj.ctxs.any (fun e => e.2.part = p && e.2.st = .live))

/-- The partitions that APPLY would change (R496). -/
def State.affected (s : State) : List Nat := (List.range 8).filter (fun p => s.staged p ≠ (s.part p).lay)

/-! ### Preparation (R498, R503) -/

/-- Steps of partitions. -/
def State.stepsIn (s : State) (ps : List Nat) (f : StepRec → Bool) : List Nat :=
  (s.pt.steps.filter (fun e => ps.contains e.2.part && f e.2)).map (·.1)

/-- A layout change begins its preparation. -/
def State.layoutPrepare (s : State) (c : LayChange) : State :=
  let s := { s with pt := { s.pt with layout := some { c with phase := .preparation, tPrep := s.now } } }
  let s := s.each c.parts (fun t p => t.modPart p (fun x => { x with st := .changing }))
  let s := s.each (s.stepsIn c.parts (fun r => r.st = .parked)) (fun t q =>
    let e := ((t.stepOf q).map (fun r => r.endStatus stPreempted)).getD stPreempted
    (t.stopStep q false).endHeld q e false)
  { s with upd := { s.upd with reqs := s.upd.reqs.map (fun e =>
      (e.1, if c.parts.contains e.2.part && (s.handedReq e.1).isSome && e.2.stop = none then { e.2 with stop := some stAborted } else e.2)) } }

/-- APPLY of the staged layout: its status at once, or none while the change runs (R495 to R497, R501). -/
def State.startApply (s : State) (p : Path) : State × Option Nat :=
  if s.pt.layout.isSome || s.layoutBad then (s.odSet 0x4000 2 stBadDesc, some stBadDesc)
  else if s.affected = [] then (s.odSet 0x4000 2 stOk, some stOk)
  else (s.layoutPrepare { parts := s.affected, target := s.affected.map (fun p => s.staged p), path := p }, none)

/-- RESET of a partition: its contexts are killed at once, its update rules, groups and plan are gone, then its current layout is
applied again (R503; 10 R415; 14 R585; 15 R611). -/
def State.startReset (s : State) (path : Path) (p : Nat) (byRegister : Bool) : State × Option Nat :=
  if s.pt.layout.isSome || !(s.part p).lay.enabled then (s.odSet 0x4000 2 stBadDesc, some stBadDesc)
  else
    let s := s.each (s.partCtxs p) (fun t c => t.killNow c false false true)
    let s := s.each (List.range 16) (fun t i => t.setBlob (0x3820 + p) (1 + i) [])
    let s := s.each ((s.lk.groups.filter (fun e => grpPart e.2 = p)).map (·.1)) (fun t g => t.groupClear g)
    let s := ((s.planOff p).each [2, 3, 4, 6, 7, 8] (fun t k => t.odSet (0x6030 + p) k 0)).setBlob (0x6030 + p) 5 []
    (s.layoutPrepare { reset := true, parts := [p], target := [(s.part p).lay], byRegister := byRegister, path := path }, none)

/-- Whether the preparation of a change is done: no step of its partitions runs, and no update request of theirs is in
hand (R498). -/
def State.layoutDrained (s : State) (c : LayChange) : Bool :=
  s.stepsIn c.parts (fun r => r.st = .running || r.st = .yielding || r.st = .parked) = []
    && !s.upd.reqs.any (fun e => c.parts.contains e.2.part && (s.handedReq e.1).isSome)

/-- The end of a layout change with a status: the partitions go to ACTIVE or ABSENT under their applied layout, and the
command is answered (R495, R498 to R500). -/
def State.layoutEnd (s : State) (c : LayChange) (st : Nat) : State :=
  let s := s.each c.parts (fun t p => t.modPart p (fun x => { x with st := if x.lay.enabled then .active else .absent, rtUse := [], rtCur := 0, below := 0 }))
  let s := ({ s with pt := { s.pt with layout := none } }).odSet 0x4000 2 st
  if c.byRegister then s
  else if c.path = .firmware && s.mg.stage = .start then s.fwReady
  else s.odAnswer c.path st

/-- The end of START: when training and restore have both ended, the firmware applies the staged layout and the module is READY
once that has ended; a refused layout is logged (16 R637). After a hub warm reset the layout stays as applied (16 R639). -/
def State.bootGo (s : State) : State :=
  if s.mg.stage ≠ .start || !s.mg.trainDone || !s.mg.restoreDone || s.pt.layout.isSome then s
  else if s.mg.warming || !(List.range 8).any (fun p => (s.staged p).enabled) then s.fwReady
  else match s.startApply .firmware with
    | (t, none) => t
    | (t, some st) => (if st = stOk then t else t.logEvent 0x0006 1 0 st).fwReady

/-! ### Units and errors (R533 to R535) -/

/-- Clusters in the scope of a mode change: all for kind 1; for kind 4 those of the old and of the new layout (log 25). -/
def State.scopeCls (s : State) (r : ModeReq) : List Nat :=
  if r.kind = 1 then List.range 16
  else
    let new : List Layout := match s.pt.layout with | some c => if r.kind = 4 then c.target else [] | none => []
    (List.range 16).filter (fun cl => (bitList 8 r.scope).any (fun p => bit (s.part p).lay.clusters cl) || new.any (fun l => bit l.clusters cl))

/-- Cores of clusters that are not OFF. -/
def State.coresOn (s : State) (cls : List Nat) : List Nat := (cls.flatMap clSlots).filter (fun c => (s.core c).te ≠ .off)

/-- The units that take part in a change (R533). -/
def State.scopeUnits (s : State) (r : ModeReq) : List ModeUnit :=
  let cls := s.scopeCls r
  (s.coresOn cls).map ModeUnit.core ++ (cls.filter (fun c => (s.seq c).state ≠ .off)).map ModeUnit.seq
    ++ (List.range 48).map ModeUnit.update ++ [.tank 0, .tank 1, .walker, .frontEnd, .collective]

/-- Whether a unit in scope is in an error state (R534). -/
def State.scopeError (s : State) (r : ModeReq) : Bool :=
  let cls := s.scopeCls r
  (s.coresOn cls).any (fun c => (s.core c).te = .exception || (s.mx c).state = .error) || cls.any (fun c => (s.seq c).state = .error)

/-- Replace the mode controller's state. -/
def State.setModes (s : State) (m : ModeCtl) : State := { s with pt := { s.pt with modes := m } }

/-- The change in the stage phase aborts: UNIT_OFFLINE, the epoch stays, and each partition in scope reports it (R534, R540).
A layout change ends with it, answered with `st` (R499, R500). -/
def State.modeAbort (s : State) (st : Nat) : State :=
  let m := s.pt.modes
  let s := (((s.setModes { m with phase := .idle, left := [] }).setRf (ptR 0x18) 31 24 stUnitOffline)).odBump 0x61D0 7 1
  let s := s.each ((bitList 8 m.cur.scope).filter (fun p => (s.part p).st ≠ .absent)) (fun t p => t.errVec p 8)
  match s.pt.layout with
  | some c => if m.cur.kind = 4 then s.layoutEnd c st else s
  | none => s

/-- A prepared layout change asks for its mode change (R498, R501). -/
def State.layoutRequest (s : State) : State :=
  match s.pt.layout with
  | some c =>
    if c.phase = .preparation && s.layoutDrained c then
      let s := { s with pt := { s.pt with layout := some { c with phase := .modeWait } } }
      s.modeRequest { kind := 4, scope := ofBitList c.parts }
    else s
  | none => s

/-! ### What units do before they commit a layout (R498) -/

/-- A cluster cache writes a line back where it is dirty, and drops it. -/
def State.ccFlushLine (s : State) (cl : Nat) (l : CcLine) : State :=
  let t := if l.dirty ≠ 0 then (s.tkTakeDirty { part := l.part } (l.line * 128) l.dirty l.noalloc).bump (ccR cl 0x60) 1 else s
  t.ccForget cl (l.line * 128)

/-- A cluster cache writes back its dirty lines and drops every line (07 R275). -/
def State.ccEmpty (s : State) (cl : Nat) : State := s.each (s.ccLines cl) (fun t l => t.ccFlushLine cl l)

/-- The owner and kind of a way under the layout that a change will apply. -/
def State.newWay (s : State) (c : LayChange) (w : Nat) : Option (Nat × Bool) :=
  let lay (p : Nat) : Layout := match (c.parts.zip c.target).find? (fun x => x.1 = p) with | some x => x.2 | none => (s.part p).lay
  ((List.range 8).find? (fun p => (lay p).enabled && bit (lay p).ways w)).map (fun p => (p, bit (lay p).store w))

/-- Zero a store way on a die (07 R282, R297). -/
def State.zeroWay (s : State) (die w : Nat) : State :=
  let b := 0x008000000000 + die * 0x200000000 + w * 0x20000000
  { s with mem := s.mem.filter (fun e => !(b ≤ e.1 && e.1 < b + 0xF000000)),
           ext := { s.ext with poison := s.ext.poison.filter (fun e => !(b / 32 ≤ e.1 && e.1 < (b + 0xF000000) / 32)) } }

/-- The Tank's way work on a die: a way that changes hands is written back and emptied, or discarded; one given as a store way
is zero (07 R297). -/
def State.tankWayWork (s : State) (c : LayChange) (die : Nat) : State :=
  let moved := (List.range 16).filter (fun w => s.wayOwner w ≠ s.newWay c w)
  let s := s.each ((s.die die).tank.flatMap (fun e => e.2.filter (fun l => moved.contains l.way))) (fun t l => t.tkEvict l)
  s.each (moved.filter (fun w => (s.wayOwner w).map (·.2) = some true || (s.newWay c w).map (·.2) = some true)) (fun t w => t.zeroWay die w)

/-- The walker's work: the partitions' translations leave every level, and their open faults are aborted (09 R375). -/
def State.walkerWork (s : State) (c : LayChange) : State :=
  s.each c.parts (fun t p => (t.each (t.partCtxs p) (fun t x => t.abortFaults x)).xlEmptyPart p)

/-- Clusters that pass to another partition. -/
def State.movedCls (s : State) (c : LayChange) : List Nat :=
  (List.range 16).filter (fun cl =>
    let new := ((c.parts.zip c.target).find? (fun x => bit x.2.clusters cl)).map (·.1)
    match s.clPart cl with
    | some p => if c.parts.contains p then new ≠ some p else false
    | none => new.isSome)

/-- Apply the layouts of a change (R498 step 3, R502): slot areas are cleared (04 R164), and a new partition takes its entries. -/
def State.layoutApply (s : State) (c : LayChange) : State :=
  s.each (c.parts.zip c.target) (fun t x =>
    let fresh := !(t.part x.1).lay.enabled
    let t := t.modPart x.1 (fun y => { y with lay := x.2 })
    let t := if fresh then (t.latchPart x.1).modPart x.1 (fun y => { y with compat := false, subnFlush := decide (s.odGet (0x4240 + x.1) 1 = 1), rtProj := 0, beProj := 0 }) else t
    if x.2.enabled then t.slotAreaClear x.1 else t)

/-! ### Applying a mode (R533, R535) -/

/-- A partition's mode of kind 2 or 3 stands once its last unit has reported (R536; log 25). -/
def State.modeFlip (s : State) : State :=
  let m := s.pt.modes
  let r := m.cur
  if m.phase ≠ .commit || m.left.any (fun u => s.unitOfPart r.part u) then s
  else if r.kind = 2 then
    let was := (s.part r.part).compat
    let s := s.modPart r.part (fun x => { x with compat := decide (r.value = 1), lastFv40 := s.now })
    if !was && r.value = 1 then s.errVec r.part 7 else s
  else if r.kind = 3 then s.modPart r.part (fun x => { x with subnFlush := decide (r.value = 1) })
  else s

/-- Whether a unit stands at its epoch boundary for a change (R535). -/
def State.atBoundary (s : State) (kind : Nat) (u : ModeUnit) : Bool :=
  kind = 1 || (match u with
    | .core c => (s.core c).blocks = []
    | .seq cl =>
      let q := s.seq cl
      q.state = .off || q.state = .idle || q.state = .parked || q.state = .error || q.wait = .launchMode || q.wait = .launch8
    | _ => true)

/-- What a unit does when it commits a layout change. -/
def State.commitWork (s : State) (u : ModeUnit) : State :=
  match s.pt.layout with
  | some c =>
    if s.pt.modes.cur.kind ≠ 4 then s
    else match u with
      | .tank d =>
        let other := ModeUnit.tank (1 - d)
        let s := s.tankWayWork c d
        if s.pt.modes.left.contains other then s
        else
          let s := s.tankWayWork c (1 - d)
          s.each (c.parts.zip c.target) (fun t x => t.modPart x.1 (fun y => { y with lay := { y.lay with ways := x.2.ways, store := x.2.store } }))
      | .walker => s.walkerWork c
      | _ => s
  | none => s

end Sys2Proof.Machine
end

