-- ==== Sys2Proof/Machine/Cache.lean ====
section
/-! DEFINITION. Commands of the store buffers, the cluster caches and the Tank (06_memory_ordering.md R219 to R221, R258;
07_caches_and_tank.md R265, R274, R276, R277, R285, R292 to R296; 15_negatives_and_repair.md R599). -/

namespace Sys2Proof.Machine

/-! ### Store buffers (06 R220, R221, R258) -/

/-- A core that is torn down goes to CLEARING once its buffer is empty (13 R515). -/
def State.tearDone (s : State) (core : Nat) : State :=
  if (s.core core).tearing && (s.core core).sb = [] then s.enterClearing core else s

/-- STORE_BUFFER_DRAIN: an entry drains in one operation; one whose home path is blocked stays. -/
def execStoreBufferDrain (core idx : Nat) (s : State) : Host.Outcome State Fault Refusal :=
  match s.drainSb core idx with
  | some t => .next (t.tearDone core)
  | none => .next s

/-- TEARDOWN_DRAIN_LIMIT: entries of a torn core that have not drained are discarded and counted (06 R258). -/
def execTeardownDrainLimit (core : Nat) (s : State) : Host.Outcome State Fault Refusal :=
  .next (if (s.core core).tearing then (s.discardSb core).enterClearing core else s)

/-! ### Errors (07 R292, R293) -/

/-- Ask the firmware for a maintenance step (13 R539, 15 R599). -/
def State.askMaint (s : State) (w : MaintWork) (part : Option Nat) : State :=
  if s.pt.maint.any (fun m => m.work = w) then s
  else { s with pt := { s.pt with maint := s.pt.maint ++ [{ work := w, part := part }] } }

/-- Fill CC_ERR_INFO of a cluster. -/
def State.ccRecord (s : State) (cl cause way sectors line : Nat) : State :=
  s.errRecord (ccR cl 0x30) (cause * 2 ^ 16 + way * 16 + sectors) (fun t => t.setReg (ccR cl 0x38) (line * 128))

/-- A corrected error of a cluster cache. -/
def State.ccCorrected (s : State) (cl : Nat) : State := (s.bumpSat (ccR cl 0x40) 0 32 1).odBump 0x6170 5 1

/-- An error in a cluster cache (R292, R293): a clean sector's line is dropped, a dirty sector becomes poison. -/
def State.ccError (s : State) (cl : Nat) (e : SectorError) : State :=
  match e with
  | .corrected _ => s.ccCorrected cl
  | .data sec =>
    let line := sec / 4
    match s.ccFind cl (line * 128) with
    | none => s
    | some l =>
      let s := s.ccRecord cl 0x51 l.way (2 ^ (sec % 4)) line
      if bit l.dirty (sec % 4) then (s.setPoison sec true).odBump 0x6170 6 1
      else if l.dirty = 0 then (s.ccForget cl (line * 128)).ccCorrected cl
      else (s.setCc cl (listMod (s.ccLines cl) (fun x => x.line = line) (fun x => { x with valid := x.valid &&& (15 - 2 ^ (sec % 4)) }))).ccCorrected cl
  | .tagOne line =>
    match s.ccFind cl (line * 128) with
    | none => s
    | some l => (s.ccRecord cl 0x52 l.way 0 line).ccCorrected cl
  | .tagBoth line =>
    match s.ccFind cl (line * 128) with
    | none => s
    | some l =>
      let s := (s.ccRecord cl 0x52 l.way 15 line).odBump 0x6170 6 1
      (s.each (lineSecs (line * 128) 15) (fun t x => t.setPoison x true)).ccForget cl (line * 128)

/-- Fill TK_ERR_INFO of a die. -/
def State.tkRecord (s : State) (die cause way sectors line : Nat) : State :=
  s.errRecord (tkR die 0x40) (cause * 2 ^ 16 + way * 16 + sectors) (fun t => t.setReg (tkR die 0x48) (bankOf (line * 128) * 2 ^ 52 + line * 128))

/-- A corrected error of the Tank. -/
def State.tkCorrected (s : State) (die : Nat) : State := (s.bump (tkR die 0x50) 1).odBump 0x6170 3 1

/-- An uncorrectable error of the Tank. -/
def State.tkLost (s : State) (die : Nat) : State := (s.bump (tkR die 0x58) 1).odBump 0x6170 4 1

/-- The lowest spare bank of a die that carries none (R295). -/
def State.freeSpare (s : State) (die : Nat) : Option Nat :=
  (List.range 16).find? (fun n => (s.die die).spares.getD n 0 = 0)

/-- Show a retire's outcome and the banks in use (R299). -/
def State.tkShow (s : State) (die result : Nat) : State :=
  let d := s.die die
  let used := ((List.range 16).filter (fun n => d.spares.getD n 0 ≠ 0)).length
  let s := (((s.setRf (tkR die 0x20) 31 24 result).setRf (tkR die 0x20) 15 11 used).setRf (tkR die 0x20) 10 6 (Nat.min d.degraded.length 31)).setRf (tkR die 0x20) 0 0 (b2n d.move.isSome)
  let n (f : Die → Nat) : Nat := f s.ext.die0 + f s.ext.die1
  (s.odSet 0x6170 1 (n (fun d => ((List.range 16).filter (fun i => d.spares.getD i 0 ≠ 0)).length))).odSet 0x6170 2 (n (fun d => d.degraded.length))

/-- A bank without a spare is degraded: its cache-way lines are written back and dropped (R296). -/
def State.bankDegrade (s : State) (die bank : Nat) : State :=
  let ls := (s.die die).tank.flatMap (fun e => if e.1 / 3840 = bank then e.2 else [])
  let s := s.each ls (fun t l => t.tkEvict l)
  let s := (s.modDie die (fun d => { d with degraded := if d.degraded.contains bank then d.degraded else d.degraded ++ [bank] })).tkShow die stUnitOffline
  (s.each ((List.range 8).filter (fun p => (s.part p).lay.enabled && (s.part p).lay.store ≠ 0)) (fun t p => t.errVec p 2)).ngEvent 2

/-- Retire a bank: it moves to a spare, or is degraded where none is free (R295, R296). A move in progress discards the request. -/
def State.bankRetire (s : State) (die bank : Nat) : State :=
  if (s.die die).move.isSome then s
  else match s.freeSpare die with
    | none => s.bankDegrade die bank
    | some n => (s.modDie die (fun d => { d with move := some { bank := bank, spare := n } })).setRf (tkR die 0x20) 0 0 1

/-- An error in a Tank bank (R292, R293; R599 asks for the sparing of a bank that lost store-way data). -/
def State.tkError (s : State) (die : Nat) (e : SectorError) : State :=
  match e with
  | .corrected _ => s.tkCorrected die
  | .data sec =>
    let line := sec / 4
    let store := decide (0x008000000000 ≤ line * 128 ∧ line * 128 < 0x008400000000)
    if store then
      let way := (line * 128 - 0x008000000000) % 0x200000000 / 0x20000000
      let s := ((s.tkRecord die 0x51 way (2 ^ (sec % 4)) line).setPoison sec true).tkLost die
      if s.odGet 0x6020 1 = 1 then s.askMaint (.testBank die (bankOf (line * 128)) false) none else s
    else match s.tkFind (line * 128) with
      | none => s
      | some l =>
        let s := s.tkRecord die 0x51 l.way (2 ^ (sec % 4)) line
        if bit l.dirty (sec % 4) then (s.setPoison sec true).tkLost die
        else if l.dirty = 0 then (s.tkDrop (line * 128)).tkCorrected die
        else (s.tkMod (line * 128) (fun x => { x with valid := x.valid &&& (15 - 2 ^ (sec % 4)) })).tkCorrected die
  | .tagOne line => (s.tkRecord die 0x52 (((s.tkFind (line * 128)).map (·.way)).getD 0) 0 line).tkCorrected die
  | .tagBoth line =>
    let way := ((s.tkFind (line * 128)).map (·.way)).getD 0
    let s := (s.tkRecord die 0x52 way 15 line).tkLost die
    let s := (s.each (lineSecs (line * 128) 15) (fun t x => t.setPoison x true)).tkDrop (line * 128)
    s.bankRetire die (bankOf (line * 128))

/-! ### Cluster caches (07 R265, R274, R276, R277) -/

/-- CACHE_FILL: a line that a cluster cache misses is fetched and placed under its hint; an error may be met. -/
def execCacheFill (cl line : Nat) (h : Hint) (e : Option SectorError) (s : State) : Host.Outcome State Fault Refusal :=
  let pa := line * 128
  let w : Who := { part := s.clPart cl, cl := some cl }
  let s : State := match s.ccFind cl pa with
    | some l => if l.valid = 15 then s else s.lineRead w (Hint.code h) pa
    | none => if s.lineServe w false pa = .ok && h ≠ .last && (match s.decode pa with | .window _ _ => false | _ => true) then s.lineRead w (Hint.code h) pa else s
  .next (match e with | some x => s.ccError cl x | none => s)

/-- CC_EVICTION: a cluster cache offers a line to its home bank (R274, R286). -/
def execCcEviction (cl line : Nat) (s : State) : Host.Outcome State Fault Refusal := .next (s.ccEvict cl (line * 128))

/-- Write the ON bit of a way (R276, R277): 2 to 15 only. -/
def State.ccWaySet (s : State) (cl way : Nat) (on : Bool) : State :=
  let was := bit (s.reg (ccR cl 0x10)) way
  if way < 2 ∨ 15 < way ∨ was = on then s
  else
    let s := s.setRf (ccR cl 0x10) way way (b2n on)
    if on then (s.setRf (ccR cl 0x14) (16 + way) (16 + way) 0).setRf (ccR cl 0x14) way way 1
    else if bit (s.reg (ccR cl 0x14)) way then s.setRf (ccR cl 0x14) (16 + way) (16 + way) 1
    else s

/-- CC_WAY_POWER_DOWN: clearing a bit of CC_WAYPWR starts a clean of the way. -/
def execCcWayPowerDown (p : Path) (cl way : Nat) (s : State) : Host.Outcome State Fault Refusal :=
  .next (s.regGateP p (ccR cl 0x10) (fun t => t.ccWaySet cl way false))

/-- CC_WAY_POWER_UP: setting a bit powers the way on, or stops a clean. -/
def execCcWayPowerUp (p : Path) (cl way : Nat) (s : State) : Host.Outcome State Fault Refusal :=
  .next (s.regGateP p (ccR cl 0x10) (fun t => t.ccWaySet cl way true))

/-- CC_WAY_CLEAN_DONE: the way's dirty lines are written back, its lines are gone, and it is off. -/
def execCcWayCleanDone (cl way : Nat) (s : State) : Host.Outcome State Fault Refusal :=
  if bit (s.reg (ccR cl 0x14)) (16 + way) && decide (2 ≤ way) && decide (way ≤ 15) then
    let s := s.each ((s.ccLines cl).filter (fun l => l.way = way)) (fun t l => t.ccFlushLine cl l)
    .next ((s.setRf (ccR cl 0x14) (16 + way) (16 + way) 0).setRf (ccR cl 0x14) way way 0)
  else .next s

/-! ### The Tank (07 R285, R294 to R296) -/

/-- TK_KEEPCLR: a sweep of the KEEP marks of the named partitions begins. The register belongs to the PF and privileged firmware
paths; a second write while a sweep runs adds its partitions. -/
def State.keepClr (s : State) (die v : Nat) : State :=
  if v % 256 = 0 then s
  else (s.modDie die (fun d => { d with keepParts := d.keepParts ||| v % 256 })).setRf (tkR die 0x20) 1 1 1

/-- TK_KEEPCLR (R285): the sweep acts on both dies. -/
def execTkKeepclr (p : Path) (die : Nat) (v : W32) (s : State) : Host.Outcome State Fault Refusal :=
  .next (s.regGate p (tkR die 0x2C) none (fun t => (t.keepClr 0 v.toNat).keepClr 1 v.toNat))

/-- KEEP_SWEEP_DONE: the marks of the named partitions' ways on a die are clear. -/
def execKeepSweepDone (die : Nat) (s : State) : Host.Outcome State Fault Refusal :=
  let ps := bitList 8 (s.die die).keepParts
  let mine (w : Nat) : Bool := match s.wayOwner w with | some (p, _) => ps.contains p | none => false
  let s := s.modDie die (fun d => { d with keepParts := 0, tank := d.tank.map (fun e => (e.1, e.2.map (fun l => if mine l.way then { l with keep := false } else l))) })
  .next (s.setRf (tkR die 0x20) 1 1 0)

/-- TK_RETIRE (R295): a write with GO from a privileged path; discarded while a move is in progress. -/
def execTkRetire (p : Path) (die : Nat) (v : W32) (s : State) : Host.Outcome State Fault Refusal :=
  .next (s.regGateP p (tkR die 0x30) (fun t => if bit v.toNat 31 then t.bankRetire die (bits v.toNat 8 0) else t))

/-- BANK_MOVE_DONE (R295): the spare carries the bank. -/
def execBankMoveDone (die : Nat) (s : State) : Host.Outcome State Fault Refusal :=
  match (s.die die).move with
  | none => .next s
  | some m =>
    let s := s.modDie die (fun d => { d with move := none, degraded := d.degraded.filter (· ≠ m.bank), spares := d.spares.set m.spare 0 (m.bank + 1) })
    .next (((s.setReg (tkR die (0x100 + 4 * m.spare)) (2 ^ 31 + m.bank)).tkShow die stOk).ngEvent 2)

/-- TANK_SCRUB_PASS: a bank reads and corrects its lines, and meets these errors (R294). -/
def execTankScrubPass (die _bank : Nat) (errs : List SectorError) (s : State) : Host.Outcome State Fault Refusal :=
  .next (s.each errs (fun t e => t.tkError die e))

end Sys2Proof.Machine
end

