-- ==== Sys2Proof/Machine/ExtOps.lean ====
section
/-! DEFINITION. Shared operations of the external memory tiers (08_external_memory.md R302 to R351, R700): unit commands, leaving
service, training, ranges and the traffic generator. -/

namespace Sys2Proof.Machine

/-! ### Units (R303, R318, R319) -/

/-- Whether a unit of service exists. -/
def unitExists (u : UnitId) : Bool := decide (u.num < (if u.kind = 0 then 32 else if u.kind = 1 then 16 else if u.kind = 2 then 4 else 0))

/-- The unit that a unit command names. -/
def cmdUnit (v : Nat) : UnitId := ⟨bits v 23 20, bits v 7 0⟩

/-- Whether a unit command is well formed: bits [19:16] zero and a unit that exists (R318, R319). -/
def unitCmdOk (v : Nat) : Bool := bits v 19 16 = 0 && unitExists (cmdUnit v)

/-- The answer of a unit command, kept in 0x3400:02 (R318). -/
def State.unitAnswer (s : State) (st : Nat) : State × Option Nat := (s.odSet 0x3400 2 st, some st)

/-- Answer the command that a unit held up. -/
def State.unitReply (s : State) (u : UnitId) (st : Nat) : State :=
  match (s.unit u).asked with
  | none => s
  | some p => ((s.modUnit u (fun m => { m with asked := none })).odSet 0x3400 2 st).odAnswer p st

/-- A unit command by the dictionary: what it does to a unit that it may name. -/
def State.unitCmd (s : State) (p : Path) (v : Nat) (act : State → UnitId → State × Option Nat) : State :=
  s.odCmd p 0x3400 1 (fun t => if unitCmdOk v then act t (cmdUnit v) else t.unitAnswer stBadDesc)

/-- The base of a unit's range. -/
def unitBase (u : UnitId) : Nat := if u.kind = 0 then hbmBase u.num else if u.kind = 1 then ddrBase u.num else cxlBase u.num

/-- The bytes of a unit. -/
def State.unitBytes (s : State) (u : UnitId) : Nat := if u.kind = 0 then hbmSetBytes else (s.unit u).bytes

/-- Whether an address lies in a unit's range. -/
def State.inUnit (s : State) (u : UnitId) (pa : Nat) : Bool := decide (unitBase u ≤ pa) && decide (pa < unitBase u + s.unitBytes u)

/-- The unit that a range lies in wholly, if one does and it is populated (R327, R342). -/
def State.rangeUnit (s : State) (pa len : Nat) : Option UnitId :=
  match (s.decode pa).unit with
  | some u => if s.inUnit u (pa + len - 1) then some u else none
  | none => none

/-- Whether a partition holds memory in a unit in the applied layout (R324). -/
def State.partInUnit (s : State) (p : Nat) (u : UnitId) : Bool :=
  let l := (s.part p).lay
  l.enabled && (if u.kind = 0 then bit l.sets u.num else (if u.kind = 1 then l.ddr else l.cxl).any (fun r => s.inUnit u r.1))

/-- Whether a channel set holds the firmware area or the system area of an enabled partition (R700). -/
def State.keepsStructures (s : State) (u : UnitId) : Bool :=
  u.kind = 0 && (u.num = 0 || s.enabledParts.any (fun p => decide (s.sysArea p / 0x400000000 = u.num)))

/-- Every copy of a unit's lines leaves the caches: dirty sectors are written back, or discarded where `lost` (R320). -/
def State.unitFlush (s : State) (u : UnitId) : State :=
  let s := s.each (List.range 16) (fun t cl => t.each ((t.ccLines cl).filter (fun l => s.inUnit u (l.line * 128))) (fun t l => t.ccRecall cl (l.line * 128)))
  s.each [0, 1] (fun t d => t.each ((t.die d).tank.flatMap (fun e => e.2.filter (fun l => s.inUnit u (l.line * 128)))) (fun t l => t.tkEvict l))

/-- A unit leaves service: mirror entries with a range in it become SINGLE, moves fail, its quarantined lines leave the list
(R330, R339, R345). -/
def State.unitLeaves (s : State) (u : UnitId) : State :=
  let at_ (pa : Nat) : Bool := s.inUnit u pa
  let mir (m : Mirror) : Mirror := if m.st = 1 && at_ m.primary then { m with st := 3 } else if m.st = 1 && at_ m.mirror then { m with st := 2 } else m
  let mov (m : Move) : Move := if (m.st = 1 && at_ m.src) || ((m.st = 1 || m.st = 2) && at_ m.dst) then { m with st := 3, status := stUnitOffline } else m
  let q := s.ext.quarantine.filter (fun l => !at_ (l * 128))
  let s := { s with ext := { s.ext with mirrors := s.ext.mirrors.map (fun (e : Nat × Mirror) => (e.1, mir e.2)), moves := s.ext.moves.map (fun (e : Nat × Move) => (e.1, mov e.2)), quarantine := q } }
  s.odSet 0x3502 1 q.length

/-- Page of a unit's controller and its number there (R348, R349). -/
def mcPage (u : UnitId) : Nat := if u.kind = 0 then u.num / 4 else 8 + u.num / 2

/-- Unit number within its controller's page. -/
def mcUnit (u : UnitId) : Nat := if u.kind = 0 then u.num % 4 else u.num % 2

/-- A register of the page that holds a unit's errors, counters and generator. -/
def unitReg (u : UnitId) (o : Nat) : Nat := if u.kind = 2 then xlR u.num o else mcR (mcPage u) o

/-- Fill the error record of a unit's page (R348, R349). -/
def State.unitRecord (s : State) (u : UnitId) (cause part line : Nat) : State :=
  let v := if u.kind = 2 then cause * 2 ^ 16 else cause * 2 ^ 16 + mcUnit u * 64 + part % 32
  s.errRecord (unitReg u 0x40) v (fun t => t.setReg (unitReg u 0x48) (line * 128))

/-- A unit enters FAILED with a cause. From service, the loss is reported (R324, R700). A command that waited for it ends with
UNIT_OFFLINE. -/
def State.unitFail (s : State) (u : UnitId) (cause : Nat) : State :=
  let m := s.unit u
  let served := decide (m.st = .inService ∨ m.st = .draining)
  let s := s.setUnit u { m with st := .failed, cause := cause, quiescing := false, returning := false, power := false, toService := false, linkUp := false }
  let s := (s.logEvent 0x0011 2 (u.kind * 64 + u.num) 0).unitReply u stUnitOffline
  if served then
    let s := s.unitLeaves u
    let hit (p : Nat) : Bool := s.partInUnit p u || ((s.part p).lay.enabled && s.inUnit u (s.rf (ttP p 0x18) 51 18 * 0x40000))
    let s := s.each ((List.range 8).filter hit) (fun t p => t.errVec p 3)
    if u.kind = 0 && u.num = 0 then s.internalError else s
  else s

/-- Zero a unit with its check bits (R321, R325). -/
def State.unitZero (s : State) (u : UnitId) : State :=
  let keep (a : Nat) : Bool := !s.inUnit u a
  { s with mem := s.mem.filter (fun e => keep e.1),
           ext := { s.ext with poison := s.ext.poison.filter (fun e => keep (e.1 * 32)), stale := s.ext.stale.filter (fun e => keep (e.1 * 32)) } }

/-! ### Training (R309, R312 to R314, R322, R325) -/

/-- A unit's training ends in a failure. -/
def State.trainFail (s : State) (u : UnitId) (cause : Nat) : State := (s.unitFail u cause).unitRecord u 0x63 0 0

/-- Channel 1 of a buffer fails where the generations of its RDIMMs differ (R309). -/
def State.mixedCheck (s : State) (ch : Nat) : State :=
  let a := s.unit ⟨1, ch / 2 * 2⟩
  let b := s.unit ⟨1, ch / 2 * 2 + 1⟩
  let live (m : MemUnit) : Bool := m.st ≠ .absent && m.st ≠ .failed && m.st ≠ .training
  if live a && live b && a.gen ≠ b.gen then s.trainFail ⟨1, ch / 2 * 2 + 1⟩ 3 else s

/-- Training of a unit ends (R314, R317, R322, R325): in service where it leads there, else QUIESCED. -/
def State.trainEnd (s : State) (u : UnitId) (r : TrainResult) : State :=
  let m := s.unit u
  match r with
  | .ok bytes rate width gen version vendor device =>
    if u.kind = 1 && m.latchOpen then s.setUnit u { m with st := .absent, power := false, toService := false }
    else
      let t := s.setUnit u { m with st := if m.toService then .inService else .quiesced, cause := 0, bytes := if u.kind = 0 then hbmSetBytes else bytes, rate := if u.kind = 0 then 8000 else rate, width := width, gen := gen, version := version, devid := device * 65536 + vendor, linkUp := decide (u.kind = 2), power := true, toService := false, retrains := 0 }
      if u.kind = 1 then t.mixedCheck u.num else t
  | .failTraining => s.trainFail u 1
  | .failUnsupported => s.trainFail u 2
  | .failMixed => s.trainFail u 3
  | .failNotReady => s.trainFail u 7
  | .absent => s.setUnit u { m with st := .absent, power := false, toService := false }

/-- A unit starts training. -/
def State.trainStart (s : State) (u : UnitId) (toService : Bool) : State :=
  s.modUnit u (fun m => { m with st := .training, toService := toService, changed := true, power := true, tArm := none, linkUp := false })

/-! ### The traffic generator (R346 to R348) -/

/-- Start the generator on a unit. `passes` zero runs until STOP. -/
def State.tgStart (s : State) (u : UnitId) (passes : Nat) : State :=
  (s.modUnit u (fun m => { m with st := .testing, changed := true, power := true, passes := passes })).setReg (unitReg u 0x88) 1

/-- The unit that a generator page and its UNIT field name. -/
def tgUnit (cxl : Bool) (page n : Nat) : UnitId :=
  if cxl then ⟨2, page⟩ else if page < 8 then ⟨0, 4 * page + n⟩ else ⟨1, 2 * (page - 8) + n⟩

/-- Whether the UNIT field names a unit of the page. -/
def tgUnitOk (cxl : Bool) (page n : Nat) : Bool := if cxl then decide (page < 4) && n = 0 else if page < 8 then decide (n < 4) else decide (page < 16) && decide (n < 2)

/-- Stop the generator: the unit returns to QUIESCED. -/
def State.tgStopUnit (s : State) (u : UnitId) : State :=
  if (s.unit u).st = .testing then
    (s.modUnit u (fun m => { m with st := .quiesced, passes := 0 })).setRf (unitReg u 0x88) 0 0 0
  else s

/-- A write of MC_TGCTRL or XL_TGCTRL (R348): one with GO is refused, and changes nothing, unless the unit is QUIESCED and the
patterns are listed. -/
def State.tgWrite (s : State) (cxl : Bool) (page v : Nat) : State :=
  let n := bits v 1 0
  let off := if cxl then xlR page 0x80 else mcR page 0x80
  let keep := setBits (setBits (setBits (setBits 0 26 24 (bits v 26 24)) 23 20 (bits v 23 20)) 15 8 (bits v 15 8)) 1 0 n
  let u := tgUnit cxl page n
  if bit v 31 then
    if tgUnitOk cxl page n && (s.unit u).st = .quiesced && decide (bits v 26 24 ≤ 2) && decide (bits v 23 20 ≤ 4) then
      (s.setReg off keep).tgStart u (bits v 15 8)
    else s
  else
    let s := s.setReg off keep
    if bit v 30 && tgUnitOk cxl page n then s.tgStopUnit u else s

/-! ### Ranges of moves and mirrors (R327, R342) -/

/-- Whether two ranges of `n` and `m` bytes overlap. -/
def rangeMeets (a n b m : Nat) : Bool := decide (a < b + m) && decide (b < a + n)

/-- Whether a range meets a live move entry or a mirror entry. -/
def State.rangeTaken (s : State) (a n : Nat) : Bool :=
  s.ext.moves.any (fun e => e.2.st ≠ 0 && (rangeMeets a n e.2.src e.2.len || rangeMeets a n e.2.dst e.2.len))
    || s.ext.mirrors.any (fun e => e.2.st ≠ 0 && (rangeMeets a n e.2.primary e.2.len || rangeMeets a n e.2.mirror e.2.len))

/-- Copies of a range's lines leave every cache: memory keeps what was last written, and the tier follows (R328). -/
def State.rangeSync (s : State) (a n : Nat) : State :=
  let hit (l : Nat) : Bool := decide (a ≤ l * 128) && decide (l * 128 < a + n)
  let s := s.each (List.range 16) (fun t cl => t.each ((t.ccLines cl).filter (fun l => hit l.line)) (fun t l => t.ccForget cl (l.line * 128)))
  let sift (t : SMap (List TkLine)) : SMap (List TkLine) := (t.map (fun (e : Nat × List TkLine) => (e.1, e.2.filter (fun l => !hit l.line)))).filter (fun e => e.2 ≠ [])
  let drop (d : Die) : Die := { d with tank := sift d.tank }
  { s with ext := { s.ext with die0 := drop s.ext.die0, die1 := drop s.ext.die1, stale := s.ext.stale.filter (fun e => !hit (e.1 / 4)) } }

/-- Copy a range with its poison to another of the same length (R328). -/
def State.rangeCopy (s : State) (src dst n : Nat) : State :=
  let s := (s.rangeSync src n).rangeSync dst n
  let bs := s.mem.filter (fun e => decide (src ≤ e.1) && decide (e.1 < src + n))
  let ps := s.ext.poison.filter (fun e => decide (src ≤ e.1 * 32) && decide (e.1 * 32 < src + n))
  let s := { s with mem := s.mem.filter (fun e => !(decide (dst ≤ e.1) && decide (e.1 < dst + n))),
                    ext := { s.ext with poison := s.ext.poison.filter (fun e => !(decide (dst ≤ e.1 * 32) && decide (e.1 * 32 < dst + n))) } }
  let m : SMap Byte := bs.foldl (fun (m : SMap Byte) (e : Nat × Byte) => m.set (dst + (e.1 - src)) 0 e.2) s.mem
  let s := { s with mem := m }
  s.each ps (fun t e => t.setPoison (dst / 32 + (e.1 - src / 32)) e.2)

/-- Count lines read and written by the mover at the tiers. -/
def State.countLines (s : State) (u : UnitId) (write : Bool) (n : Nat) : State := s.bump (unitReg u (if write then 0x68 else 0x60)) n

end Sys2Proof.Machine
end

