-- ==== Sys2Proof/Machine/ExtMem.lean ====
section
/-! DEFINITION. Commands of the external memory tiers (08_external_memory.md R302 to R351, R700). -/

namespace Sys2Proof.Machine

/-! ### Unit commands (R318 to R321) -/

/-- What DRAIN does, and its answer. -/
def State.drainAct (t : State) (u : UnitId) : State × Option Nat :=
  if (t.unit u).st = .inService then (t.modUnit u (fun m => { m with st := .draining })).unitAnswer stOk else t.unitAnswer stBadDesc

/-- DRAIN (R319). -/
def execDrain (p : Path) (v : W32) (s : State) : Host.Outcome State Fault Refusal :=
  .next (s.unitCmd p v.toNat (fun t u => t.drainAct u))

/-- What UNDRAIN does, and its answer. -/
def State.undrainAct (t : State) (u : UnitId) : State × Option Nat :=
  if (t.unit u).st = .draining && !(t.unit u).quiescing then (t.modUnit u (fun m => { m with st := .inService })).unitAnswer stOk
    else t.unitAnswer stBadDesc

/-- UNDRAIN (R319). A unit whose QUIESCE is under way is not taken back (log 30). -/
def execUndrain (p : Path) (v : W32) (s : State) : Host.Outcome State Fault Refusal :=
  .next (s.unitCmd p v.toNat (fun t u => t.undrainAct u))

/-- What QUIESCE does, and its answer. -/
def State.quiesceAct (t : State) (p : Path) (u : UnitId) : State × Option Nat :=
  let moves := t.ext.moves.any (fun e => e.2.st ≠ 0 && (t.inUnit u e.2.src || t.inUnit u e.2.dst))
    if (t.unit u).st = .draining && !(t.unit u).quiescing && !moves && !t.keepsStructures u then
      (t.modUnit u (fun m => { m with quiescing := true, asked := some p }), none)
    else t.unitAnswer stBadDesc

/-- QUIESCE (R320): refused while a move names the unit or structures of the device's own stand in it. -/
def execQuiesce (p : Path) (v : W32) (s : State) : Host.Outcome State Fault Refusal :=
  .next (s.unitCmd p v.toNat (fun t u => t.quiesceAct p u))

/-- UNIT_QUIESCED: dirty lines are written back, every copy is gone, and the unit is QUIESCED (R320). -/
def execUnitQuiesced (u : UnitId) (s : State) : Host.Outcome State Fault Refusal :=
  if (s.unit u).quiescing then
    let s := (s.modUnit u (fun m => { m with quiescing := false })).unitFlush u
    let s := s.modUnit u (fun m => { m with st := .quiesced, changed := false, power := decide (u.kind ≠ 1) && m.power })
    .next ((s.unitLeaves u).unitReply u stOk)
  else .next s

/-- What TEST does, and its answer. -/
def State.testAct (t : State) (v : W32) (u : UnitId) : State × Option Nat :=
  if (t.unit u).st = .quiesced && !(t.unit u).returning && decide (bits v.toNat 15 12 ≤ 2) && decide (bits v.toNat 11 8 ≤ 4) then (t.tgStart u 1).unitAnswer stOk
    else t.unitAnswer stBadDesc

/-- TEST (R319, R346). -/
def execTest (p : Path) (v : W32) (s : State) : Host.Outcome State Fault Refusal :=
  .next (s.unitCmd p v.toNat (fun t u => t.testAct v u))

/-- TEST_PASS_END: a pass ends with a count of failing sectors and the first of them (R346, R347). -/
def execTestPassEnd (u : UnitId) (failing first : Nat) (s : State) : Host.Outcome State Fault Refusal :=
  let m := s.unit u
  if m.st = .testing then
    let off := unitReg u 0x88
    let done := s.rf off 31 16 + 1
    let s := (s.setRf off 31 16 (Nat.min done 0xFFFF)).bumpSat off 32 32 failing
    let s := if failing ≠ 0 && !bit (s.reg off) 1 then (s.setReg (unitReg u 0x90) (first / 32 * 32)).setRf off 1 1 1 else s
    let s := s.modUnit u (fun m => { m with cause := if failing ≠ 0 then 4 else if m.cause = 4 then 0 else m.cause })
    .next (if m.passes ≠ 0 && decide (m.passes ≤ done) then s.tgStopUnit u else s)
  else .next s

/-- What RETURN does, and its answer. -/
def State.returnAct (t : State) (p : Path) (u : UnitId) : State × Option Nat :=
  let m := t.unit u
    if m.st = .quiesced && m.cause ≠ 4 && !m.returning then (t.modUnit u (fun m => { m with returning := true, asked := some p, power := true }), none)
    else t.unitAnswer stBadDesc

/-- RETURN (R319, R321): refused while CAUSE is TEST (R347). -/
def execReturnUnit (p : Path) (v : W32) (s : State) : Host.Outcome State Fault Refusal :=
  .next (s.unitCmd p v.toNat (fun t u => t.returnAct p u))

/-- UNIT_RETURNED: the unit is in service, zeroed when it was tested or retrained (R321). -/
def execUnitReturned (u : UnitId) (s : State) : Host.Outcome State Fault Refusal :=
  let m := s.unit u
  if m.returning && m.st = .quiesced then
    let s := if m.changed then s.unitZero u else s
    .next ((s.modUnit u (fun m => { m with st := .inService, returning := false, changed := false })).unitReply u stOk)
  else .next s

/-- What RETRAIN does, and its answer. -/
def State.retrainAct (t : State) (u : UnitId) : State × Option Nat :=
  let m := t.unit u
    if (u.kind = 1 || u.kind = 2) && (m.st = .quiesced || m.st = .failed || m.st = .absent) && !m.returning then
      let t := t.trainStart u false
      (if u.kind = 2 then t.bump (xlR u.num 0x50) 1 else t).unitAnswer stOk
    else t.unitAnswer stBadDesc

/-- RETRAIN (R319): DDR channels and CXL ports. -/
def execRetrain (p : Path) (v : W32) (s : State) : Host.Outcome State Fault Refusal :=
  .next (s.unitCmd p v.toNat (fun t u => t.retrainAct u))

/-- UNIT_TRAINING_END (R314, R322). -/
def execUnitTrainingEnd (u : UnitId) (r : TrainResult) (s : State) : Host.Outcome State Fault Refusal :=
  .next (if unitExists u && (s.unit u).st = .training then s.trainEnd u r else s)

/-! ### Pseudo-channels (R307) -/

/-- Pseudo-channels of a stack that are spared or being spared. -/
def State.sparedIn (s : State) (stack : Nat) : Nat :=
  ((List.range 32).filter (fun i => s.ext.spared.getD (32 * stack + i) false || s.ext.sparing.any (fun e => e.1 = 32 * stack + i))).length

/-- Start sparing a pseudo-channel: OK at once where it is spared or being spared already (R307). -/
def State.spareStart (s : State) (p : Path) (pc : Nat) : State × Option Nat :=
  let st := (s.unit ⟨0, pc / 8⟩).st
  if s.ext.spared.getD pc false || s.ext.sparing.any (fun e => e.1 = pc) then s.unitAnswer stOk
  else if st ≠ .inService && st ≠ .draining then s.unitAnswer stBadDesc
  else if 2 ≤ s.sparedIn (pc / 32) then s.unitAnswer stBadDesc
  else ({ s with ext := { s.ext with sparing := s.ext.sparing ++ [(pc, p)] } }, none)

/-- What SPARE_PC does, and its answer. -/
def State.sparePcAct (t : State) (p : Path) (n : Nat) : State × Option Nat :=
  if bits n 23 20 = 3 && bits n 19 16 = 0 then t.spareStart p (bits n 7 0) else t.unitAnswer stBadDesc

/-- SPARE_PC (R307, R319): kind 3. -/
def execSparePc (p : Path) (v : W32) (s : State) : Host.Outcome State Fault Refusal :=
  let n := v.toNat
  .next (s.odCmd p 0x3400 1 (fun t => t.sparePcAct p n))

/-- SPARE_PC_DONE: the copy has ended and the reserves serve the pseudo-channel's lines (R307). -/
def execSparePcDone (pc : Nat) (s : State) : Host.Outcome State Fault Refusal :=
  match s.ext.sparing.find? (fun e => e.1 = pc) with
  | none => .next s
  | some e =>
    let s := { s with ext := { s.ext with sparing := s.ext.sparing.filter (fun x => x.1 ≠ pc), spared := s.ext.spared.set pc false true } }
    let s := (s.setRf (mcR (pc / 32) 0x30) (pc % 32) (pc % 32) 1).odBumpSat 0x6180 9 16 1
    .next ((s.odSet 0x3400 2 stOk).odAnswer e.2 stOk)

/-! ### DDR sockets (R309 to R311, R322, R323) -/

/-- DIMM_LATCH: a socket's latch opens (R322, R323). -/
def execDimmLatch (ch : Nat) (s : State) : Host.Outcome State Fault Refusal :=
  let u : UnitId := ⟨1, ch⟩
  let s := s.modUnit u (fun m => { m with latchOpen := true, tArm := none })
  match (s.unit u).st with
  | .inService | .draining | .testing => .next (((s.unitFail u 6).logEvent 0x0010 1 ch 0).alert 1)
  | .quiesced | .failed => .next ((s.modUnit u (fun m => { m with st := .absent, power := false, returning := false })).unitReply u stUnitOffline)
  | _ => .next s

/-- DIMM_LATCH_CLOSE: the latch closes over a socket with or without a DIMM, and the wait of 2 s starts (R322). -/
def execDimmLatchClose (ch : Nat) (fitted : Bool) (s : State) : Host.Outcome State Fault Refusal :=
  let u : UnitId := ⟨1, ch⟩
  .next (s.modUnit u (fun m =>
    let arm := (m.st = .absent && fitted) || (m.st = .failed && m.cause = 6)
    { m with latchOpen := false, fitted := fitted, tArm := if arm then some s.now else none }))

/-- DIMM_TRAINING_START: 2 s after its latch closed, a channel starts training by itself (R322). -/
def execDimmTrainingStart (ch : Nat) (s : State) : Host.Outcome State Fault Refusal :=
  let u : UnitId := ⟨1, ch⟩
  match (s.unit u).tArm with
  | none => .next s
  | some t => .next (if decide (t + 200000000 ≤ s.now) && !(s.unit u).latchOpen then s.trainStart u false else s)

/-- DIMM_THERMAL_READ: the MB-2 reads a sensor and sets refresh and bandwidth limits (R311). -/
def execDimmThermalRead (ch : Nat) (temp : Int) (s : State) : Host.Outcome State Fault Refusal :=
  .next (s.modUnit ⟨1, ch⟩ (fun m =>
    if m.power then { m with refresh2 := decide (85 < temp), halfBw := if 95 < temp then true else if temp ≤ 90 then false else m.halfBw } else m))

/-! ### CXL ports (R314 to R316) -/

/-- The link of a port in service is lost: accesses wait while it retrains (R315). -/
def State.cxlDown (s : State) (port cause : Nat) : State :=
  let u : UnitId := ⟨2, port⟩
  let m := s.unit u
  if (m.st = .inService || m.st = .draining) && m.linkUp then
    (s.setUnit u { m with linkUp := false, retrains := 0 }).unitRecord u cause 0 0
  else s

/-- CXL_LINK_DOWN (R315). -/
def execCxlLinkDown (port : Nat) (s : State) : Host.Outcome State Fault Refusal := .next (s.cxlDown port 0x65)

/-- CXL_REQUEST_TIMEOUT: counts as a link failure (R316). -/
def execCxlRequestTimeout (port : Nat) (s : State) : Host.Outcome State Fault Refusal := .next (s.cxlDown port 0x66)

/-- CXL_RETRAIN_END: the link is up again, or the third failure makes the port FAILED (R315). -/
def execCxlRetrainEnd (port : Nat) (ok : Bool) (s : State) : Host.Outcome State Fault Refusal :=
  let u : UnitId := ⟨2, port⟩
  let m := s.unit u
  if (m.st = .inService || m.st = .draining) && !m.linkUp then
    let s := s.bump (xlR port 0x50) 1
    if ok then .next (s.setUnit u { m with linkUp := true, retrains := 0 })
    else if m.retrains + 1 < 3 then .next (s.setUnit u { m with retrains := m.retrains + 1 })
    else .next (s.unitFail u 5)
  else .next s

/-- CXL_READY_TIMEOUT: the link is not up within 1 s, or the media is not ready within 60 s (R314). -/
def execCxlReadyTimeout (port : Nat) (linkUp bound : Bool) (s : State) : Host.Outcome State Fault Refusal :=
  let u : UnitId := ⟨2, port⟩
  if (s.unit u).st = .training then
    .next (if linkUp then s.trainEnd u .failNotReady else if bound then s.trainEnd u .failTraining else s.trainEnd u .absent)
  else .next s

/-! ### Loss and start-up (R324, R325) -/

/-- UNIT_FAILED: a unit enters FAILED from service: its link's retries failed (R324, R334). -/
def execUnitFailed (u : UnitId) (part : Nat) (s : State) : Host.Outcome State Fault Refusal :=
  .next (if unitExists u && ((s.unit u).st = .inService || (s.unit u).st = .draining) then (s.unitRecord u 0x62 part 0).unitFail u 5 else s)

/-- One unit's start-up training: zeroed and in service, or FAILED, or ABSENT (R325). -/
def State.bootTrain (s : State) (u : UnitId) (r : TrainResult) : State :=
  let s := s.modUnit u (fun m => { m with st := .training, toService := true, fitted := r ≠ .absent, power := true })
  (s.unitZero u).trainEnd u r

/-- Whether the firmware has started memory training and it has not ended. -/
def State.mayTrain (s : State) : Bool := s.mg.stage = .start && !s.mg.trainDone

/-- MEMORY_TRAINING_END: HBM and DDR training and zeroing end (R325), and the firmware enables the update units (10 R413). -/
def execMemoryTrainingEnd (hbm ddr : List TrainResult) (ms : Nat) (s : State) : Host.Outcome State Fault Refusal :=
  if s.mayTrain then
    let s := s.each ((List.range 32).zip hbm) (fun t x => t.bootTrain ⟨0, x.1⟩ x.2)
    let s := s.each ((List.range 16).zip ddr) (fun t x => t.bootTrain ⟨1, x.1⟩ x.2)
    let s := s.each (List.range 48) (fun t u => t.uuEnable u true)
    .next (({ s with mg := { s.mg with trainDone := true } }.odSet 0x9000 6 ms).bootGo)
  else .next s

/-! ### The page mover (R326 to R331) -/

/-- The reply of a move command, kept in 0x3600:02 (R326). -/
def State.moveAnswer (s : State) (st entry : Nat) : State × Option Nat := (s.odSet 0x3600 2 (st * 256 + entry), some st)

/-- What MOVE_START does, and its answer. -/
def State.moveStartAct (t : State) (w : Words4) : State × Option Nat :=
  let src := bits w.w0.toNat 51 0
  let dst := w.w1.toNat
  let n := w.w2.toNat
  let len := n * 65536
  if bits w.w0.toNat 55 52 ≠ 0 || 2 ^ 52 ≤ dst || src % 65536 ≠ 0 || dst % 65536 ≠ 0 || n = 0 || 16384 < n || w.w3.toNat ≠ 0 then t.moveAnswer stBadDesc 0
    else match t.rangeUnit src len, t.rangeUnit dst len with
      | some a, some b =>
        if ((t.unit a).st ≠ .inService && (t.unit a).st ≠ .draining) || (t.unit a).quiescing || (t.unit b).st ≠ .inService || rangeMeets src len dst len || t.rangeTaken src len || t.rangeTaken dst len then t.moveAnswer stBadDesc 0
        else match (List.range 64).find? (fun i => (t.ext.moves.getD i {}).st = 0) with
          | none => t.moveAnswer stQuota 0
          | some i => ({ t with ext := { t.ext with moves := t.ext.moves.set i {} { st := 1, src := src, dst := dst, len := len } } }).moveAnswer stOk i
      | _, _ => t.moveAnswer stBadDesc 0

/-- MOVE_START (R327). -/
def execMoveStart (p : Path) (w : Words4) (s : State) : Host.Outcome State Fault Refusal :=
  .next (s.odCmd p 0x3600 1 (fun t => t.moveStartAct w))

/-- MOVE_COPIED: every line of a move is copied, and the entry is COPIED (R328). -/
def execMoveCopied (entry : Nat) (s : State) : Host.Outcome State Fault Refusal :=
  let m := s.ext.moves.getD entry {}
  match s.rangeUnit m.src m.len, s.rangeUnit m.dst m.len with
  | some a, some b =>
    if m.st = 1 && s.serves a = .ok && s.serves b = .ok then
      let n := m.len / 128
      let s := ((s.rangeCopy m.src m.dst m.len).countLines a false n).countLines b true n
      .next { s with ext := { s.ext with moves := s.ext.moves.set entry {} { m with st := 2, lines := n } } }
    else .next s
  | _, _ => .next s

/-- What MOVE_RELEASE does, and its answer. -/
def State.moveReleaseAct (t : State) (w : Words4) : State × Option Nat :=
  let e := w.w3.toNat
  let m := t.ext.moves.getD e {}
    if bits w.w0.toNat 55 52 ≠ 0 || 2 ^ 52 ≤ w.w1.toNat || 2 ^ 32 ≤ w.w2.toNat || 63 < e || (m.st ≠ 2 && m.st ≠ 3) then t.moveAnswer stBadDesc 0
    else ({ t with ext := { t.ext with moves := t.ext.moves.set e {} {} } }).moveAnswer stOk e

/-- MOVE_RELEASE (R329, R330): a COPIED or FAILED entry becomes FREE. -/
def execMoveRelease (p : Path) (w : Words4) (s : State) : Host.Outcome State Fault Refusal :=
  .next (s.odCmd p 0x3600 1 (fun t => t.moveReleaseAct w))

/-- BUCKET_REFILL: every bucket gains a microsecond of its rate (R332). -/
def execBucketRefill (s : State) : Host.Outcome State Fault Refusal :=
  .next (s.each ((List.range 8).flatMap (fun p => [(p, 0), (p, 1), (p, 2)])) (fun t x =>
    { t with ext := { t.ext with used := t.ext.used.upd (x.1 * 4 + x.2) 0 (fun v => Nat.min (v - t.odGet (0x3200 + x.1) (2 * x.2 + 1)) (t.bucketDepth x.1 x.2)) } }))

/-! ### Errors and repair (R334, R335, R339 to R341) -/

/-- An error that a patrol meets: corrected and counted, or marked as poison in the tier and listed (R335). -/
def State.patrolError (s : State) (u : UnitId) (e : SectorError) : State :=
  let sub := if u.kind = 0 then 1 else 3
  match e with
  | .corrected _ => (s.bump (unitReg u 0x50) 1).odBump 0x6180 sub 1
  | .data sec =>
    if !s.inUnit u (sec * 32) then s
    else
      let s := ((s.unitRecord u 0x61 0 (sec / 4)).bump (unitReg u 0x58) 1).odBump 0x6180 (sub + 1) 1
      let s := match s.ext.stale.getD sec none with
        | some t => { s with ext := { s.ext with stale := s.ext.stale.set sec none (some { t with poison := true }) } }
        | none => s.setPoison sec true
      s.quarantineAdd (sec / 4)
  | _ => s

/-- PATROL_PASS: a channel set or channel in service reads every line (R335). -/
def execPatrolPass (u : UnitId) (errs : List SectorError) (s : State) : Host.Outcome State Fault Refusal :=
  .next (if decide (u.kind < 2) && ((s.unit u).st = .inService || (s.unit u).st = .draining) then s.each errs (fun t e => t.patrolError u e) else s)

/-- Report a row that is not repaired to the partitions that hold its lines (R340, R341). -/
def State.rowReport (s : State) (first lines : Nat) : State :=
  s.each ((List.range 8).filter (fun p => s.partOwns p (first * 128) || s.partOwns p ((first + lines - 1) * 128))) (fun t p => t.errVec p 4)

/-- ROW_REPAIR: a row's lines are copied out, the row is repaired, and they are copied back (R340, R341). DDR4 rows, and rows
where no spare is left, are reported instead. -/
def execRowRepair (u : UnitId) (firstLine lines : Nat) (spareRow : Bool) (s : State) : Host.Outcome State Fault Refusal :=
  if s.odGet 0x3300 5 = 1 && decide (u.kind < 2) && ((s.unit u).st = .inService || (s.unit u).st = .draining) then
    if !spareRow || (u.kind = 1 && (s.unit u).gen = 4) then .next (s.rowReport firstLine lines)
    else .next (s.odBumpSat 0x6180 (if u.kind = 0 then 7 else 8) 32 1)
  else .next s

/-! ### Mirrored objects (R342) -/

/-- What MIRROR_ADD does, and its answer. -/
def State.mirrorAddAct (t : State) (w : Words4) : State × Option Nat :=
  let a := bits w.w0.toNat 51 0
  let b := w.w1.toNat
  let len := w.w2.toNat
  if bits w.w0.toNat 55 52 ≠ 0 || 2 ^ 52 ≤ b || a % 65536 ≠ 0 || b % 65536 ≠ 0 || len = 0 || len % 65536 ≠ 0 || w.w3.toNat ≠ 0 then (t, some stBadDesc)
    else match t.rangeUnit a len, t.rangeUnit b len with
      | some x, some y =>
        if x = y || (t.unit x).st ≠ .inService || (t.unit y).st ≠ .inService || t.rangeTaken a len || t.rangeTaken b len then (t, some stBadDesc)
        else match (List.range 128).find? (fun i => (t.ext.mirrors.getD i {}).st = 0) with
          | none => (t, some stQuota)
          | some i => ({ t with ext := { t.ext with mirrors := t.ext.mirrors.set i {} { st := 1, primary := a, mirror := b, len := len } } }, some stOk)
      | _, _ => (t, some stBadDesc)

/-- MIRROR_ADD (R342). -/
def execMirrorAdd (p : Path) (w : Words4) (s : State) : Host.Outcome State Fault Refusal :=
  .next (s.odCmd p 0x3500 1 (fun t => t.mirrorAddAct w))

/-- What MIRROR_REMOVE does, and its answer. -/
def State.mirrorRemoveAct (t : State) (w : Words4) : State × Option Nat :=
  let e := w.w3.toNat
  if bits w.w0.toNat 55 52 ≠ 0 || 2 ^ 52 ≤ w.w1.toNat || 127 < e || (t.ext.mirrors.getD e {}).st = 0 then (t, some stBadDesc)
    else ({ t with ext := { t.ext with mirrors := t.ext.mirrors.set e {} {} } }, some stOk)

/-- MIRROR_REMOVE (R342). -/
def execMirrorRemove (p : Path) (w : Words4) (s : State) : Host.Outcome State Fault Refusal :=
  .next (s.odCmd p 0x3500 1 (fun t => t.mirrorRemoveAct w))

/-! ### The generator's registers (R348) -/

/-- Offset of a generator's control register. -/
def tgOff (cxl : Bool) (page : Nat) : Nat := if cxl then xlR page 0x80 else mcR page 0x80

/-- TG_GO: a write of MC_TGCTRL or XL_TGCTRL with GO. -/
def execTgGo (p : Path) (cxl : Bool) (page : Nat) (v : W32) (s : State) : Host.Outcome State Fault Refusal :=
  .next (s.regGateP p (tgOff cxl page) (fun t => t.tgWrite cxl page (setBits v.toNat 31 31 1)))

/-- TG_STOP: a write with STOP. -/
def execTgStop (p : Path) (cxl : Bool) (page : Nat) (v : W32) (s : State) : Host.Outcome State Fault Refusal :=
  .next (s.regGateP p (tgOff cxl page) (fun t => t.tgWrite cxl page (setBits v.toNat 31 30 1)))

end Sys2Proof.Machine
end

