-- ==== Sys2Proof/Machine/Resets.lean ====
section
/-! DEFINITION. What each reset leaves behind (16_management_and_startup.md R639, R642; 06 R257; 12 R486; 17 R649; 18 R681). -/

namespace Sys2Proof.Machine

/-! ### What a reset keeps (17 R649) -/

/-- Registers that count since power-on, which only a power-on reset clears. -/
def sinceOnRegs : List String :=
  ["SQ_INSTRS", "SQ_MXSTALL", "TE_SBSTALL", "TE_SBMERGE", "TE_FENCEWAIT", "CC_HITS", "CC_MISSES", "CC_WBACK", "TK_CECOUNT", "TK_UECOUNT",
   "TK_HITS", "TK_MISSES", "TK_DECLINED", "TK_LASTDROP", "TK_DIRRECALL", "MC_CECOUNT", "MC_UECOUNT", "MC_RDLINES", "MC_WRLINES",
   "XL_RETRAINS", "XL_RDLINES", "XL_WRLINES", "TT_WALKS", "TT_WALKREADS", "TT_MIRRORREADS", "TT_DCHITS", "TT_DCMISSES", "TT_UCMISSES",
   "TT_DCPARITY", "UU_ELEMS", "UU_SKIPS", "UU_SUMELEMS", "UU_TORN", "HQ_EPOCH", "PT_MISSES", "PT_PREEMPTS", "MT_ENERGY", "MT_PADMIT",
   "LK_TXPKTS", "LK_RXPKTS", "LK_RETX", "LK_DUPS", "LK_NAKS", "LK_DROPS", "LK_LOST", "LK_FECCOR", "LK_FECUNC", "MG_WDOG", "MG_EVTHEAD",
   "DB_RHEAD", "DB_RLOST", "DB_CYCLES", "DB_ISSUED"]

/-- Whether the register at an offset counts since power-on. -/
def sinceOnReg (off : Nat) : Bool :=
  match findReg off with
  | some (r, _, _) => sinceOnRegs.contains r.name
  | none => false

/-- Dictionary entries that count since power-on or since manufacture: index, first and last subindex. -/
def sinceOnOd : List (Nat × Nat × Nat) :=
  [(0x6120, 1, 2), (0x6130, 1, 2), (0x6140, 1, 5), (0x6150, 1, 3), (0x6160, 1, 2), (0x6170, 3, 6), (0x6180, 1, 5), (0x6180, 7, 9), (0x6180, 11, 11),
   (0x6190, 1, 1), (0x6190, 3, 3), (0x61A0, 1, 5), (0x61B0, 1, 2), (0x61C0, 1, 2), (0x61C0, 6, 6), (0x61D0, 1, 9), (0x61E0, 1, 4), (0x61F0, 1, 1),
   (0x61F0, 5, 7), (0x6200, 1, 1), (0x6200, 3, 4), (0x6210, 1, 1), (0x6210, 3, 4), (0x6220, 1, 4), (0x1020, 1, 1)]

/-- Whether a dictionary key counts since power-on. -/
def sinceOnKey (k : Nat) : Bool := sinceOnOd.any (fun r => r.1 = k / 256 && r.2.1 ≤ k % 256 && k % 256 ≤ r.2.2)

/-- Whether an entry is of class S. -/
def keptKey (k : Nat) : Bool := match odRow (k / 256) (k % 256) with | some r => r.keep | none => false

/-- V entries take their defaults (R617, R642); counters since power-on and S entries stay. With `rules`, the update rules stay. -/
def State.odReset (s : State) (rules : Bool) : State :=
  { s with od := s.od.filter (fun (e : Nat × W64) => keptKey e.1 || sinceOnKey e.1),
           odBlob := s.odBlob.filter (fun (e : Nat × List Byte) => keptKey e.1 || (rules && decide (0x3820 ≤ e.1 / 256) && decide (e.1 / 256 < 0x3828))) }

/-- Fuses and repairs that no loss of power undoes (R633, R634; 01 R23; "since manufacture"). -/
def State.fused (s : State) : State :=
  let keep (k : Nat) : Bool := k = odKey 0x6180 7 || k = odKey 0x6180 9 || k = odKey 0x61F0 6
  { od := s.od.filter (fun (e : Nat × W64) => keep e.1), ac := s.ac, free := s.free, hostMem := s.hostMem, hostFail := s.hostFail,
    ext := { ddr := s.ext.ddr.mapAll {} (fun _ u => { latchOpen := u.latchOpen, fitted := u.fitted }) },
    lk := { ports := s.lk.ports.mapAll {} (fun _ p => { module := p.module, refused := p.refused }) },
    ng := { coreMap := s.ng.coreMap, absent := s.ng.absent, retired := s.ng.retired },
    mg := { keyRevoked := s.mg.keyRevoked, owners := s.mg.owners, ownerRevoked := s.mg.ownerRevoked, floor := s.mg.floor, raisesLeft := s.mg.raisesLeft } }

/-- Keep the commands that wait: they are outside the module. -/
def State.keepQueue (s t : State) : State := { t with pending := s.pending }

/-! ### PERST#, link down and hot reset (R422, R642) -/

/-- Every core's buffered stores are discarded and counted (06 R257). -/
def State.discardAll (s : State) : State := s.each (s.cores.map (·.1)) (fun t c => t.discardSb c)

/-- MG_STATUS keeps what J3 gave (R645). -/
def State.slotStatus (s : State) : State := (s.setRf (mgR 0x10) 18 16 s.mg.slotId).setRf (mgR 0x10) 29 29 (b2n (decide (s.mg.slotId = 7)))

/-- The module after PERST#, link down or a hot reset: stage ROM, memory to be retrained and zeroed, every object lost, V
entries at default, sessions closed; the held image, the event log, the time stamp, fuses and repairs stay (R642). -/
def State.hardReset (s : State) : State :=
  let s := s.discardAll
  let lost := s.regs.filter (fun (e : Nat × W64) => sinceOnReg e.1 || (decide (e.1 < 0x2000000) && decide (e.1 % 0x20000 = 0x48)))
  let total := s.reg (mgR 0x28)
  let t : State :=
    { s.odReset false with
        regs := lost, actLow := [], buf4 := [], mem := [], cores := [], seqs := [],
        ext := { ddr := s.ext.ddr.mapAll {} (fun _ u => { latchOpen := u.latchOpen, fitted := u.fitted }), spared := s.ext.spared },
        clk := { s.clk with rootMHz := 2400, target := 5 },
        xl := {}, upd := {}, obj := {}, pt := {}, obs := {},
        host := { sent := s.host.sent, aer := s.host.aer, perst := s.host.perst, policy := s.odGet 0x1200 3 },
        lk := { ports := s.lk.ports, tx := s.lk.tx },
        ng := { coreMap := s.ng.coreMap, absent := s.ng.absent, retired := s.ng.retired, leds := s.ng.leds },
        mg := { s.mg with stage := .rom, loader := {}, runArb := 0, runSlot := 0, sessions := [], reqs := [], changes := [], trainDone := false, restoreDone := false, wdTimes := [], down := false, warming := false } }
  let t := (t.setReg (mgR 0x28) total).slotStatus
  let t := t.each (bitList 256 (ofBitList (t.ext.spared.map (·.1)))) (fun t pc => t.setRf (mcR (pc / 32) 0x30) (pc % 32) (pc % 32) 1)
  t.setStage .rom

/-! ### Hub warm reset (R639) -/

/-- Step 1: every accepted entry completes with ABORTED, running steps are torn down without a contact sheet, and fences that
others see take the error bit. -/
def State.warmEnd (s : State) : State :=
  let cs := (s.obj.ctxs.filter (fun e => e.2.st ≠ .free)).map (·.1)
  let s := s.each cs (fun t c => t.teardown c none false false)
  let s := s.each (s.obj.queues.map (·.1)) (fun t q => (t.endHeld q stAborted false).completeEntry q stAborted)
  s.each cs (fun t c => t.errorFences c false false)

/-- Whether an offset lies in a page of the hub that a warm reset resets: the walker's, the front end's, the Link's, PT_, MT_,
NG_, the hub's DB_ page and the doorbells. -/
def hubPage (off : Nat) : Bool :=
  (decide (0x2500000 ≤ off) && decide (off < 0x2510000)) || (decide (0x2900000 ≤ off) && decide (off < 0x2B30000))
    || (decide (0x2C00000 ≤ off) && decide (off < 0x2C10000)) || (decide (0x3000000 ≤ off) && decide (off < 0x4000000))

/-- Step 2: the hub logic resets. The host link, the MG_ page and the BAR4 window, the image, the event log, the time stamp, the
fuses, memory and the applied layout stay; objects, groups, operations, plans and sessions are gone. -/
def State.hubReset (s : State) : State :=
  let unacked := sumNat (s.ext.cxl.map (fun e => e.2.unacked)) + sumNat (s.lk.peers.map (fun e => e.2.unacked.length))
  let s := s.odBump 0x6160 2 unacked
  let t : State :=
    { s.odReset true with
        regs := s.regs.filter (fun (e : Nat × W64) => !hubPage e.1 || sinceOnReg e.1), actLow := [],
        ext := { s.ext with cxl := s.ext.cxl.mapAll {} (fun _ u => { u with unacked := 0 }), moves := [], mirrors := [], sparing := [], used := [], quarantine := [], qwritten := [] },
        xl := { die0 := s.xl.die0, die1 := s.xl.die1 }, obj := {}, upd := { units := s.upd.units.mapAll {} (fun _ u => { u with jobs := [] }) },
        pt := { parts := s.pt.parts.mapAll {} (fun _ p => { st := if p.lay.enabled then .active else .absent, lay := p.lay, compat := p.compat, subnFlush := p.subnFlush }) },
        obs := {},
        lk := { ports := s.lk.ports, tx := s.lk.tx },
        ng := { coreMap := s.ng.coreMap, absent := s.ng.absent, retired := s.ng.retired, leds := s.ng.leds },
        mg := { s.mg with loader := {}, sessions := [], reqs := [], changes := [], runArb := 0, runSlot := 0, down := false, warming := true, restoreDone := true } }
  t.each (List.range 8) (fun t p => if (t.part p).lay.enabled then t.latchPart p else t)

/-- A hub warm reset: steps 1 and 2, in stage WARM. -/
def State.warmReset (s : State) : State :=
  ((((s.setStage .warm).warmEnd).hubReset.odBump 0x6200 4 1).logEvent 0x0004 0 0 0)

/-! ### Function-level resets (11 R444, 12 R486) -/

/-- Every context of a partition is killed with no grace time. -/
def State.flrPart (s : State) (p : Nat) (remoteOnly : Bool) : State :=
  s.each (s.partCtxs p) (fun t c => t.killNow c (!remoteOnly) remoteOnly true)

/-! ### Loss of power (18 R674, R681, R686) -/

/-- The module unpowered: fuses survive, what lies outside the module, and the frames and messages that have left it. -/
def State.powerLost (s : State) (phase : PwrPhase) (hold : Bool) : State :=
  let f := s.fused
  s.keepQueue { f with
    now := s.now,
    host := { sent := s.host.sent },
    lk := { f.lk with tx := s.lk.tx },
    mg := { f.mg with tx := s.mg.tx },
    pw := { s.pw with phase := phase, holdoff := hold, bricks := s.pw.bricks.mapAll {} (fun _ b => { b with delivering := false, released := false }),
                      fans := s.pw.fans.mapAll {} (fun _ f => { f with running := false, released := false }) } }

/-- A thermal shutdown: logged, and the module ends in the held state (R686). -/
def State.thermalStop (s : State) : State := ((s.logEvent 0x0030 2 0 0).alert 3).powerLost (.held false) true

/-- With two or fewer fan modules running, the FV-80-AC starts a thermal shutdown (R685). -/
def State.fanCheck (s : State) : State := if s.pw.phase = .on && s.ac && decide (s.fansOn ≤ 2) then s.thermalStop else s

end Sys2Proof.Machine
end

