-- ==== Sys2Proof/Machine/HostLink.lean ====
section
/-! DEFINITION. Commands of the host link (11_host_link.md R416 to R447). -/

namespace Sys2Proof.Machine

/-! ### Training and loss of the link (R417 to R422) -/

/-- Whole GT/s of a generation (R417; 2.5 shows as 2, log 32). -/
def genRate (g : Nat) : Nat := if g = 6 then 64 else if g = 5 then 32 else if g = 4 then 16 else if g = 3 then 8 else if g = 2 then 5 else 2

/-- The widest link width up to a bound. -/
def linkWidth (n : Nat) : Nat := if 16 ≤ n then 16 else if 8 ≤ n then 8 else if 4 ≤ n then 4 else if 2 ≤ n then 2 else 1

/-- The link-state entry 0x1200:10. -/
def State.linkEntry (s : State) : State :=
  let h := s.host
  s.odSet 0x1200 16 (if h.up then genRate h.rate * 2 ^ 24 + h.width * 2 ^ 16 + b2n (decide (h.ide = 2)) * 2 ^ 9 + b2n h.flit * 2 ^ 8 else 0)

/-- LINK_TRAINING: `rate` (1 to 6), `width` and `flit` are what the host's end supports. The caps bound the result, and a port
without FLIT mode holds it to 32 GT/s (R417, R418, R420). -/
def execLinkTraining (rate width : Nat) (flit : Bool) (s : State) : Host.Outcome State Fault Refusal :=
  if s.pw.phase ≠ .on || s.host.perst then .next s
  else
    let r := Nat.max 1 (Nat.min rate (Nat.min (if flit then 6 else 5) (s.odGet 0x1200 1 + 1)))
    let w := linkWidth (Nat.min width (s.odGet 0x1200 2))
    let t := if s.host.up then s.odBump 0x61B0 1 1 else s
    .next ({ t with host := { t.host with up := true, rate := r, width := w, flit := flit, ide := if flit then t.host.ide else 0, cfgReady := true } }.linkEntry)

/-- LANE_LOSS_RETRAIN: the link stays up, narrower (R419). -/
def execLaneLossRetrain (width : Nat) (s : State) : Host.Outcome State Fault Refusal :=
  if s.host.up then
    .next (({ s with host := { s.host with width := linkWidth (Nat.min width s.host.width) } }.odBump 0x61B0 1 1).linkEntry)
  else .next s

/-- DL_DOWN (R422). -/
def execDlDown (s : State) : Host.Outcome State Fault Refusal :=
  if s.host.up then .next { s.hardReset with host := { s.hardReset.host with cfgReady := true } } else .next s

/-- HOT_RESET: the link trains again by itself (R422). -/
def execHotReset (s : State) : Host.Outcome State Fault Refusal :=
  if s.host.up then .next { s.hardReset with host := { s.hardReset.host with cfgReady := true } } else .next s

/-- PERST: the hub is held in reset until PERST_RELEASE (R422, 16 R642). -/
def execPerst (s : State) : Host.Outcome State Fault Refusal :=
  if s.pw.phase = .on then
    let t := s.hardReset
    .next { t with host := { t.host with perst := true }, mg := { t.mg with inReset := true } }
  else .next s

/-- PERST_RELEASE: the hub comes out of reset, and the PF answers configuration requests (16 R635, R636). -/
def execPerstRelease (s : State) : Host.Outcome State Fault Refusal :=
  if s.pw.phase = .on then .next { s with host := { s.host with perst := false, cfgReady := true }, mg := { s.mg with inReset := false } }
  else .next s

/-! ### BAR2 (R427 to R430, R436, R438) -/

/-- Bytes of a function's BAR2 (R427). -/
def State.bar2Size (s : State) (f : Nat) : Nat := (if f = 0 then 0x40000000 else 0x8000000) * 2 ^ (s.fn f).barLog

/-- The base of a function's window; bits below the BAR2 size are zero (R429). -/
def State.bar2Base (s : State) (f : Nat) : Nat := (s.fn f).aperture / s.bar2Size f * s.bar2Size f

/-- A BAR2 request that reached no memory (R430, R436). -/
def State.bar2Miss (s : State) (f : Nat) : State := s.modFn f (fun x => { x with misses := Nat.min (x.misses + 1) 0xFFFFFFFF })

/-- A stage-2 fault of a virtual function's request: a miss and a non-stalling record with OTHER bit 3 (R436, 09 R371). -/
def State.bar2Fault (s : State) (f acc : Nat) (x : XFault) : State :=
  (s.bar2Miss f).quietRecord 2 (f - 1) 0 { x with acc := acc, va := 0 } [] [] 8

/-- Bytes of the object table's entry of a fence, event or memory object, or its header alone (12 R451, R452). Queues and contexts
show their header: the spec gives the rest of their entries to the firmware. -/
def State.objEntry (s : State) (kind h : Nat) : List Byte :=
  let st := s.objSt kind h
  let head := if st = .free then 0 else s.objHeader kind h
  let y := s.sync h
  let m := s.memObj h
  let flags := b2n y.error * 2 ^ 31 + b2n y.alias_ * 2 ^ 30 + b2n y.remote * 2 ^ 29 + b2n y.lost * 2 ^ 28 + b2n y.exported * 2 ^ 27
    + y.subs.length * 2 ^ 24 + (match y.owner with | some q => 2 ^ 12 + q | none => 0)
  let rest : List Byte :=
    if st = .free then []
    else if kind = 3 then leBytes 8 m.base ++ leBytes 8 m.size ++ leBytes 8 (m.freeGen.getD 0)
    else if kind = 5 then leBytes 8 y.value
    else if kind = 4 then leBytes 8 y.value ++ leBytes 8 flags ++ leBytes 8 (if y.alias_ then (if y.remote then y.node * 65536 else 0) + y.target else y.shadow)
    else []
  slice (leBytes 8 head ++ rest) 0 (if kind = 1 then 64 else if kind = 2 then 128 else 32)

/-- The base of the object table (12 R450; log 15). -/
def objBase : Nat := Config.objBaseUnit % 2 ^ 31 * 0x200000

/-- The byte of the object table at an offset in it, where an entry stands. -/
def State.objByte (s : State) (o : Nat) : Option Byte :=
  if o < 0x10000 then (s.objEntry 1 (o / 64))[o % 64]?
  else if o < 0x90000 then (s.objEntry 2 ((o - 0x10000) / 128))[o % 128]?
  else if 0x100000 ≤ o ∧ o < 0x300000 then
    let h := (o - 0x100000) / 32
    (s.objEntry (if (s.sync h).event then 5 else 4) h)[o % 32]?
  else if 0x400000 ≤ o ∧ o < 0x2400000 then (s.objEntry 3 ((o - 0x400000) / 32))[o % 32]?
  else none

/-- Lay the object table over bytes read at a physical address. -/
def State.objOverlay (s : State) (pa : Nat) (bs : List Byte) : List Byte :=
  (bs.zip (List.range bs.length)).map (fun x =>
    let a := pa + x.2
    if objBase ≤ a ∧ a < objBase + 0x2400000 then (s.objByte (a - objBase)).getD x.1 else x.1)

/-- Whether a BAR2 request reaches memory now: none when it is answered, else the address of its first byte. -/
def State.bar2Open (s : State) (f off len : Nat) : Bool := decide (off + len ≤ s.bar2Size f)

/-- HOST_BAR2_WRITE (R429, R436, R438). During a hub warm reset the write is discarded and counted (16 R639); before READY it
misses (16 R638). -/
def execHostBar2Write (fn off : Nat) (data : List Byte) (poisoned : Bool) (s : State) : Host.Outcome State Fault Refusal :=
  if !s.fnServes fn then .next (s.urAnswer fn)
  else if !s.bar2Open fn off data.length then .next s
  else if s.mg.warming then .next s.discardRo
  else if s.mg.stage ≠ .ready then .next (s.bar2Miss fn)
  else
    let s := if poisoned then s.aer (.poisonedReceived fn) else s
    let a := s.bar2Base fn + off
    if fn = 0 then
      let r := s.writeMem ownAccess 0 .bank a data poisoned
      .next (if r.wait then s else if r.undec.isSome then r.st.bar2Miss 0 else r.st)
    else
      let bad := if poisoned then List.range (data.length / 32 + 2) else []
      let r := s.ipaWriteMem (fn - 1) a data bad
      .next (if r.wait then s else match r.fault with | some x => r.st.bar2Fault fn 1 x | none => r.st)

/-- Answer a read. -/
def State.hostAnswer (s : State) (r : HostReply) : State := { s with host := { s.host with reply := [r] } }

/-- HOST_BAR2_READ (R429, R436, R438): a read that reaches no memory answers all ones. -/
def execHostBar2Read (fn off len : Nat) (s : State) : Host.Outcome State Fault Refusal :=
  let ones : HostReply := .data (List.replicate len 0xFF) false
  if !s.fnServes fn then .next ((s.urAnswer fn).hostAnswer .unsupported)
  else if !s.bar2Open fn off len then .next s
  else if s.mg.warming then .next (s.hostAnswer ones)
  else if s.mg.stage ≠ .ready then .next ((s.bar2Miss fn).hostAnswer ones)
  else
    let a := s.bar2Base fn + off
    if fn = 0 then
      let r := s.readMem ownAccess 0 a len
      .next (if r.wait then s else if r.undec.isSome then (r.st.bar2Miss 0).hostAnswer ones
        else r.st.hostAnswer (.data (r.st.objOverlay a r.data) (decide (r.poison ≠ []))))
    else
      let r := s.ipaRead (fn - 1) a len
      .next (if r.wait then s else match r.fault with
        | some x => (r.st.bar2Fault fn 0 x).hostAnswer ones
        | none => r.st.hostAnswer (.data r.data (decide (r.poison ≠ []))))

/-! ### Refused requests and failed reads (R435, R437) -/

/-- UNSUPPORTED_REQUEST (R435). -/
def execUnsupportedRequest (fn : Nat) (k : UrKind) (s : State) : Host.Outcome State Fault Refusal :=
  match k with
  | .io => .next ((s.urAnswer fn).hostAnswer .unsupported)
  | .atomicOp => .next ((s.urAnswer fn).hostAnswer .unsupported)
  | .disabledFunction => .next (if s.fnServes fn then s else (s.urAnswer fn).hostAnswer .unsupported)

/-- HOST_READ_FAIL: device reads of a page of host memory fail from now on, or succeed again (R437; log 5). -/
def execHostReadFail (addr : Nat) (s : State) : Host.Outcome State Fault Refusal :=
  let pg := addr / 4096 * 4096
  .next { s with hostFail := if s.hostFail.contains pg then s.hostFail.filter (· ≠ pg) else pg :: s.hostFail }

/-! ### MSI-X (R439, R440) -/

/-- Send what is pending and no longer masked. -/
def State.msixKick (s : State) (f : Nat) : State :=
  let x := s.fn f
  if !x.msixEn || x.fnMask || s.mg.stage = .warm || s.mg.down || s.mg.warming then s
  else
    let go := (x.msixPend.filter (fun e => x.unmasked.getD e.1 false)).map (·.1)
    let t := s.modFn f (fun y => { y with msixPend := y.msixPend.filter (fun (e : Nat × Bool) => !go.contains e.1) })
    { t with host := { t.host with sent := (go.map (fun v => { fn := f, vector := v })).reverse ++ t.host.sent } }

/-- Vectors of a function (R431). -/
def vectorsOf (f : Nat) : Nat := if f = 0 then 2048 else 256

/-- MSIX_UNMASK: a write of a vector's mask, of Function Mask or of MSI-X Enable. -/
def execMsixUnmask (fn : Nat) (w : MsixWrite) (s : State) : Host.Outcome State Fault Refusal :=
  match w with
  | .vector v masked =>
    if !s.fnServes fn then .next (s.urAnswer fn)
    else if vectorsOf fn ≤ v then .next s
    else .next ((s.modFn fn (fun x => { x with unmasked := x.unmasked.set v false (!masked) })).msixKick fn)
  | .functionMask masked => .next (if s.host.cfgReady && (fn = 0 || s.vfOn fn) then (s.modFn fn (fun x => { x with fnMask := masked })).msixKick fn else s)
  | .enable on => .next (if s.host.cfgReady && (fn = 0 || s.vfOn fn) then (s.modFn fn (fun x => { x with msixEn := on })).msixKick fn else s)

/-! ### Functions (R423, R444, R445) -/

/-- Forget a function's own settings. -/
def State.fnReset (s : State) (f : Nat) : State := s.modFn f (fun _ => {})

/-- FLR_VF: the contexts of the VF's partition are killed (R444). -/
def execFlrVf (k : Nat) (s : State) : Host.Outcome State Fault Refusal :=
  if s.host.cfgReady && s.vfOn k then .next ((s.fnReset k).flrPart (k - 1) false) else .next s

/-- FLR_PF: every context is killed, and VF Enable is cleared (R444). -/
def execFlrPf (s : State) : Host.Outcome State Fault Refusal :=
  if s.host.cfgReady then
    let s := { s with host := { s.host with fns := [], vfEnable := false, numVfs := 0, ari := false, pasid := false } }
    .next ((s.each (List.range 8) (fun t p => t.flrPart p true)).discardAll)
  else .next s

/-- VF_ENABLE: VF Enable, NumVFs and ARI Capable Hierarchy of the SR-IOV capability (R423, R424). -/
def execVfEnable (on : Bool) (numVfs : Nat) (ari : Bool) (s : State) : Host.Outcome State Fault Refusal :=
  if s.host.cfgReady then
    .next { s with host := { s.host with vfEnable := on, numVfs := Nat.min numVfs 8, ari := ari, fns := s.host.fns.filter (fun (e : Nat × Fn) => e.1 = 0 || (on && s.host.vfEnable)) } }
  else .next s

/-- D3HOT_ENTRY (R445). -/
def execD3hotEntry (fn : Nat) (s : State) : Host.Outcome State Fault Refusal :=
  .next (if s.host.cfgReady && (fn = 0 || s.vfOn fn) then s.modFn fn (fun x => { x with d3 := true }) else s)

/-- D0_ENTRY (R445). -/
def execD0Entry (fn : Nat) (s : State) : Host.Outcome State Fault Refusal :=
  .next (if s.host.cfgReady && (fn = 0 || s.vfOn fn) then s.modFn fn (fun x => { x with d3 := false }) else s)

/-! ### Security (R442, R443) -/

/-- DOE_REQUEST: the mailbox answers (log 14). -/
def execDoeRequest (k : DoeKind) (msg : List Byte) (s : State) : Host.Outcome State Fault Refusal :=
  if !s.host.cfgReady then .next s
  else match k with
    | .discovery => .next (s.draw.2.hostAnswer (.doe (Config.doeAnswer s.free 0 msg)))
    | .spdm => .next (s.draw.2.hostAnswer (.spdm (Config.spdmAnswer s.free s.measurements msg)))
    | .ideKm => .next (s.draw.2.hostAnswer (.doe (Config.doeAnswer s.free 2 msg)))

/-- IDE_ESTABLISH: the policy written last comes into force; unless it is OFF or the link is not in FLIT mode, keys are programmed
and the Link IDE stream is active (R418, R443, R447). -/
def execIdeEstablish (s : State) : Host.Outcome State Fault Refusal :=
  if s.host.up && s.host.flit then
    let v := s.odGet 0x1200 3
    .next ({ s with host := { s.host with policy := v, ide := if v = 0 then s.host.ide else 2 } }.linkEntry)
  else .next s

/-- IDE_CHECK_FAIL: the TLP is discarded and logged, and the stream goes to insecure (R443). -/
def execIdeCheckFail (s : State) : Host.Outcome State Fault Refusal :=
  if s.host.ide = 2 then .next (({ s with host := { s.host with ide := 1 } }.aer .ideCheck).linkEntry) else .next s

end Sys2Proof.Machine
end

