-- ==== Sys2Proof/Machine/Layout.lean ====
section
/-! DEFINITION. Layout commands, partition reset, shared modes and root clock moves (13_partitions_and_meter.md R495 to R503,
R533 to R538; 04_number_formats.md R144; 01_module_hierarchy.md R33, R36 to R38). -/

namespace Sys2Proof.Machine

/-! ### Layout commands (R495 to R503) -/

/-- Bits [23:3] of the layout command, which are zero (R495). -/
def layoutReserved (v : W32) : Bool := bits v.toNat 23 3 ≠ 0

/-- A layout command that its reserved bits refuse. -/
def State.layoutRefuse (s : State) : State × Option Nat := (s.odSet 0x4000 2 stBadDesc, some stBadDesc)

/-- What APPLY does, and its answer. -/
def State.applyAct (t : State) (p : Path) (v : W32) : State × Option Nat :=
  if layoutReserved v then t.layoutRefuse else t.startApply p

/-- APPLY (R496). -/
def execApply (p : Path) (v : W32) (s : State) : Host.Outcome State Fault Refusal :=
  .next (s.odCmd p 0x4000 1 (fun t => t.applyAct p v))

/-- Whether ABORT is accepted: in preparation, while it waits, or in the stage phase (R499). -/
def State.mayAbort (s : State) (c : LayChange) : Bool :=
  c.phase ≠ .mode || s.pt.modes.phase = .stage

/-- ABORT (R499): everything staged is rolled back, and the change is answered with ABORTED. -/
def State.layoutAbort (s : State) : State × Option Nat :=
  match s.pt.layout with
  | none => (s, some stBadDesc)
  | some c =>
    if !s.mayAbort c then (s, some stBadDesc)
    else if c.phase = .mode then (s.modeAbort stAborted, some stOk)
    else
      let m := s.pt.modes
      ((s.setModes { m with waiting := m.waiting.filter (fun r => r.kind ≠ 4) }).layoutEnd c stAborted, some stOk)

/-- What LAYOUT_ABORT does, and its answer. -/
def State.abortAct (t : State) (v : W32) : State × Option Nat :=
  if layoutReserved v then (t, some stBadDesc) else t.layoutAbort

/-- LAYOUT_ABORT (R499). -/
def execLayoutAbort (p : Path) (v : W32) (s : State) : Host.Outcome State Fault Refusal :=
  .next (s.odCmd p 0x4000 1 (fun t => t.abortAct v))

/-- What PARTITION_RESET does, and its answer. -/
def State.resetAct (t : State) (p : Path) (v : W32) : State × Option Nat :=
  if layoutReserved v then t.layoutRefuse else t.startReset p (bits v.toNat 2 0) false

/-- PARTITION_RESET: the layout command RESET (R503). -/
def execPartitionReset (p : Path) (v : W32) (s : State) : Host.Outcome State Fault Refusal :=
  .next (s.odCmd p 0x4000 1 (fun t => t.resetAct p v))

/-- PT_RESET_GO: a write of PT_RESET (R503, R542). -/
def execPtResetGo (p : Path) (part : Nat) (v : W32) (s : State) : Host.Outcome State Fault Refusal :=
  .next (s.regGate p (ptP part 0x20) none (fun t => if bit v.toNat 31 then (t.startReset p part true).1 else t))

/-- LAYOUT_DRAIN_LIMIT: steps still running at the limit are torn down with ABORTED (R498). -/
def execLayoutDrainLimit (s : State) : Host.Outcome State Fault Refusal :=
  match s.pt.layout with
  | some c =>
    if c.phase = .preparation && decide (c.tPrep + s.odGet 0x4010 2 * 100000 ≤ s.now) then
      let qs := s.stepsIn c.parts (fun r => r.st = .running || r.st = .yielding)
      .next (s.each ((qs.filterMap (fun q => (s.stepOf q).map (·.ctx))).eraseDups) (fun t x => t.teardown x none false false))
    else .next s
  | none => .next s

/-! ### The mode controller (R534 to R537) -/

/-- The layout change's own mode change begins. -/
def State.layoutInMode (s : State) : State :=
  let l := s.pt.layout.map (fun (c : LayChange) => { c with phase := LayPhase.mode })
  { s with pt := { s.pt with layout := l } }

/-- MODE_STAGE: the next change begins its stage phase; a unit in an error state aborts it at once. -/
def execModeStage (s : State) : Host.Outcome State Fault Refusal :=
  let s := s.layoutRequest
  let m := s.pt.modes
  if m.phase ≠ .idle then .next s
  else match m.waiting with
    | [] => .next s
    | r :: rest =>
      let s := s.setModes { m with phase := .stage, cur := r, waiting := rest, left := [], tStage := s.now }
      let s := if r.kind = 4 then s.layoutInMode else s
      .next (if s.scopeError r then s.modeAbort stUnitOffline else s)

/-- MODE_STAGE_LIMIT: a unit has not acknowledged within 0x4010:01 (R534). -/
def execModeStageLimit (s : State) : Host.Outcome State Fault Refusal :=
  let m := s.pt.modes
  .next (if m.phase = .stage && decide (m.tStage + s.odGet 0x4010 1 * 100 ≤ s.now) then s.modeAbort stUnitOffline else s)

/-- MODE_COMMIT: every unit has acknowledged (R534). A unit that entered an error state before aborts the change. Cluster
caches that pass to another partition are written back and emptied (07 R275). -/
def execModeCommit (s : State) : Host.Outcome State Fault Refusal :=
  let m := s.pt.modes
  if m.phase ≠ .stage then .next s
  else if s.scopeError m.cur then .next (s.modeAbort stUnitOffline)
  else
    let s := s.setModes { m with phase := .commit, left := s.scopeUnits m.cur }
    let s : State := match s.pt.layout with
      | some c => if m.cur.kind = 4 then s.each (s.movedCls c) (fun t cl => t.ccEmpty cl) else s
      | none => s
    .next s.modeFlip

/-- EPOCH_BOUNDARY: a unit at its boundary applies the mode and reports the epoch (R535). -/
def execEpochBoundary (u : ModeUnit) (s : State) : Host.Outcome State Fault Refusal :=
  let m := s.pt.modes
  if m.phase = .commit && m.left.contains u && s.atBoundary m.cur.kind u then
    let s := s.setModes { m with left := m.left.filter (fun x => x ≠ u) }
    .next (s.commitWork u).modeFlip
  else .next s

/-- ROOT begins to move toward a point (01 R37, R38). -/
def State.setPoint (s : State) (j : Nat) : State :=
  let s := (s.setRf (mtR 0x10) 11 8 j).setRf (mtR 0x10) 4 4 (b2n (decide (j ≠ s.point)))
  { s with clk := { s.clk with target := j } }

/-- MODE_CHANGE_COMPLETE: every unit in scope has reported: COMMITTED rises, and the change takes its effect (R534). -/
def execModeChangeComplete (s : State) : Host.Outcome State Fault Refusal :=
  let m := s.pt.modes
  if m.phase = .commit && m.left = [] then
    let e := (m.epoch + 1) % 2 ^ 32
    let s := (((s.setModes { m with phase := .idle, epoch := e }).setRf (ptR 0x18) 31 24 stOk)).odBump 0x61D0 6 1
    if m.cur.kind = 1 then .next ((s.setPoint m.cur.value).reel 0 3 0x12 0x41 0 m.cur.value e 0)
    else match s.pt.layout with
      | some c => if m.cur.kind = 4 then .next ((s.layoutApply c).layoutEnd c stOk) else .next s
      | none => .next s
  else .next s

/-- COMPAT_HOLD_EXPIRY: no kernel with FV40_MX has run in the partition for the hold, and the mode goes OFF (R538). -/
def execCompatHoldExpiry (part : Nat) (s : State) : Host.Outcome State Fault Refusal :=
  let x := s.part part
  let m := s.pt.modes
  let asked (r : ModeReq) : Bool := r.kind = 2 && r.part = part && r.value = 0
  let runs := s.pt.kernels.any (fun e => e.2.part = part && e.2.desc.fv40)
  .next (if x.compat && !runs && decide (x.lastFv40 + s.odGet 0x4010 3 * 100000 ≤ s.now) && !((m.phase ≠ .idle && asked m.cur) || m.waiting.any asked)
    then s.modeRequest { kind := 2, part := part, scope := 2 ^ part, value := 0 } else s)

/-- What a write of the subnormal default does, and its answer. -/
def State.subnormalAct (t : State) (part v : Nat) : State × Option Nat :=
  if 2 ≤ v then (t, some stBadDesc)
    else
      let t := t.odSet (0x4240 + part) 1 v
      (if (t.part part).st = .absent then t else t.modeRequest { kind := 3, part := part, scope := 2 ^ part, value := v }, some stOk)

/-- A write of a partition's subnormal default: the change is a mode change of kind 3 (04 R144, R533). -/
def execSubnormalDefaultWrite (p : Path) (part : Nat) (v : Byte) (s : State) : Host.Outcome State Fault Refusal :=
  .next (s.odCmdS p (0x4240 + part) 1 (fun t => t.subnormalAct part v.toNat))

/-! ### Clocks (01 R33, R36 to R38) -/

/-- ROOT at an operating point, in MHz (01 R36). -/
def pointMHz (j : Nat) : Nat :=
  match j with | 0 => 6800 | 1 => 6000 | 2 => 5200 | 3 => 4400 | 4 => 3600 | _ => 2400

/-- ROOT_POINT_REACHED: ROOT reaches the next point on its way to the target (01 R38). -/
def execRootPointReached (s : State) : Host.Outcome State Fault Refusal :=
  let t := s.clk.target
  let f := s.clk.rootMHz
  if pointMHz t = f then .next s
  else
    let ahead := (List.range 6).filter (fun j => if pointMHz t < f then pointMHz t ≤ pointMHz j && pointMHz j < f else f < pointMHz j && pointMHz j ≤ pointMHz t)
    let j := if pointMHz t < f then ahead.foldl Nat.min 5 else ahead.foldl Nat.max 0
    let s := (s.setRf (mtR 0x10) 2 0 j).setRf (mtR 0x10) 4 4 (b2n (decide (j ≠ t)))
    .next { s with clk := { s.clk with rootMHz := pointMHz j } }

/-- REFCLK_SWITCH: the J2 reference is lost; ROOT goes on from the oscillator, with an event and the alert (01 R33). -/
def execRefclkSwitch (s : State) : Host.Outcome State Fault Refusal :=
  if s.clk.osc then .next s
  else .next ((({ s with clk := { s.clk with osc := true, refLost := true } }).logEvent 0x0001 1 0 0).alert 0)

end Sys2Proof.Machine
end

