-- ==== Sys2Proof/Machine/Link.lean ====
section
/-! DEFINITION. The commands of Niandop Link (14_niandop_link.md): frames that arrive, the transport's timers, quads and
cages, the fabric, groups and operations, runs, and lane tests. -/

namespace Sys2Proof.Machine

/-! ### Frames that arrive (R552, R555 to R558) -/

/-- Bytes of a type's payload, where the type fixes them (R556). -/
def payloadLen (type : Nat) : Option Nat :=
  if type = 0x01 then none
  else if type = 0x02 ∨ type = 0x04 ∨ type = 0x05 ∨ type = 0x12 then some 16
  else if type = 0x07 then some 0
  else some 8

/-- Whether a Link frame is discarded and counted (R557): its length is that of its type (log 32). -/
def State.badFrame (s : State) (type : Nat) (f : Frame) : Bool :=
  f.dst ≠ s.lkCfg 1 || f.version ≠ 1 || !f.reservedZero || f.payload.length ≠ f.length || decide (s.lkCfg 6 < f.length)
    || (!f.poison && f.mask ≠ 0) || (match payloadLen type with | some n => f.length ≠ n | none => false)

/-- The sender is heard. -/
def State.heard (s : State) (n : Nat) : State :=
  if (s.peer n).st = .closed then s else s.modPeer n (fun p => { p with lastHeard := s.now })

/-- A frame arrives: one that is not for the plane, or of another EtherType, is not seen; a bad one is counted. -/
def State.frameIn (s : State) (type : Nat) (f : Frame) (act : State → State) : State :=
  if !s.fabricOn || !bit s.planesUp f.plane || f.etherType ≠ s.lkCfg 3 then s
  else
    let s := s.lkTrace 0x21 f.src f.psn type f.plane f.timestamp
    if s.badFrame type f then s.bump (lkR 0 0x68) 1 else act ((s.bump (lkR 0 0x48) 1).heard f.src)

/-! ### Acknowledgement and retransmission (R561 to R563) -/

/-- Whether a PSN lies before another, modulo 2^32. -/
def psnBefore (a b : Nat) : Bool := let d := (b + 2 ^ 32 - a) % 2 ^ 32; decide (0 < d) && decide (d < 2 ^ 31)

/-- One packet is acknowledged: the round trip of its first acknowledgement, and the window's growth (R562, R563). -/
def Peer.acked (cap now : Nat) (p : Peer) (x : TxPkt) : Peer :=
  let p := { p with unacked := p.unacked.filter (fun y => y.psn ≠ x.psn), srtt := (7 * p.srtt + (now - x.tSent)) / 8 }
  if x.resent then p
  else if p.window ≤ p.grow + 1 then { p with grow := 0, window := Nat.min cap (p.window + 1) }
  else { p with grow := p.grow + 1 }

/-- CUM of a packet from an OPEN peer frees what it covers. -/
def State.lkCum (s : State) (n cum : Nat) : State :=
  s.modPeer n (fun p => (p.unacked.filter (fun x => psnBefore x.psn cum)).foldl (Peer.acked (s.lkCfg 10) s.now) p)

/-- Read a DATA packet's source again (R562): the packet, or the status that ends its run. `none` waits. -/
def State.lkRefresh (s : State) (k : LkPkt) : State × Option (Except Nat LkPkt) :=
  if k.type ≠ 1 || k.srcKind = 0 || !(s.run k.op).running || (s.run k.op).name ≠ k.run then (s, some (.ok k))
  else
    let v := s.opView k.op
    let x := s.lkRead v k.srcKind k.src k.payload.length
    if x.wait then (s, none)
    else match x.fault with
      | some f => (x.st.lkFault v f, some (.error (causeStatus f.cause)))
      | none =>
        match x.status with
        | some c => if x.poison = [] then (x.st, some (.error c)) else (x.st, some (.ok { k with payload := x.data, mask := packetMask x k.payload.length, poison := true }))
        | none => (x.st, some (.ok { k with payload := x.data, mask := packetMask x k.payload.length, poison := decide (x.poison ≠ []) }))

/-- Send a packet again on the next usable plane after the one last used. -/
def State.lkRetx (s : State) (n psn : Nat) : State :=
  match (s.peer n).unacked.find? (fun x => x.psn = psn) with
  | none => s
  | some x =>
    match nextPlane (s.usable n) x.plane with
    | none => s
    | some pl =>
      let r := s.lkRefresh x.pkt
      match r.2 with
      | none => s
      | some (.error c) => r.1.runFail x.pkt.op c
      | some (.ok k) =>
        let t := r.1.modPeer n (fun p => { p with unacked := listMod p.unacked (fun y => y.psn = psn) (fun y => { y with pkt := k, plane := pl, tSent := s.now, tries := y.tries + 1, resent := true }) })
        (t.bump (lkR 0 0x50) 1).lkEmit n pl psn k

/-- The SACK of an acknowledgement: bit i when CUM + 1 + i has been performed. -/
def Peer.sack (p : Peer) : Nat := ofBitList ((List.range 64).filter (fun i => p.performed.contains ((p.cum + 1 + i) % 2 ^ 32)))

/-- Send an ACK. -/
def State.lkAck (s : State) (n : Nat) : State :=
  (s.lkPlain n { type := 0x10, payload := leBytes 8 (s.peer n).sack }).modPeer n (fun p => { p with sinceAck := 0 })

/-- Send a NAK of a PSN with a status; it counts (R565, R582). -/
def State.lkNak (s : State) (n psn st : Nat) : State :=
  (s.lkPlain n { type := 0x11, payload := leBytes 4 psn ++ leBytes 1 st ++ leBytes 3 0 }).bump (lkR 0 0x60) 1

/-! ### Sequenced packets (R560, R561) -/

/-- The window of PSNs that the receiver takes: the largest that 0x5000:0A gives a sender (log 32). -/
def rxWindow : Nat := 1024

/-- A received SIGNAL is applied: the handle names a LIVE exported fence, or a NAK answers it (R566). -/
def State.signalIn (s : State) (f : Frame) : State :=
  let h := sliceNat f.payload 0 2
  let x := s.sync h
  if x.st = .live && !x.event && x.exported && !x.alias_ then s.signalLocal h (sliceNat f.payload 8 8) (bit (sliceNat f.payload 2 2) 0)
  else s.lkNak f.src f.psn stBadDesc

/-- CUM passes what has been performed, and a held SIGNAL whose turn has come is applied (R561). -/
def State.lkAdvance : Nat → State → Nat → State
  | 0, s, _ => s
  | k + 1, s, n =>
    let p := s.peer n
    if p.performed.contains p.cum then
      State.lkAdvance k (s.modPeer n (fun p => { p with performed := p.performed.filter (· ≠ p.cum), cum := (p.cum + 1) % 2 ^ 32 })) n
    else match p.heldSig.find? (fun f => f.psn = p.cum) with
      | none => s
      | some f =>
        let t := (s.modPeer n (fun p => { p with heldSig := p.heldSig.filter (fun g => g.psn ≠ f.psn), cum := (p.cum + 1) % 2 ^ 32 })).signalIn f
        State.lkAdvance k t n

/-- A sequenced packet counts toward the next ACK, which goes out after eight. -/
def State.lkCounted (s : State) (n : Nat) : State :=
  let t := s.modPeer n (fun p => { p with sinceAck := p.sinceAck + 1 })
  if 8 ≤ (t.peer n).sinceAck then t.lkAck n else t

/-- A packet has been performed. -/
def State.lkPerformed (s : State) (n psn : Nat) : State :=
  let t := s.modPeer n (fun p => { p with performed := p.performed ++ [psn] })
  (t.lkAdvance ((t.peer n).performed.length + (t.peer n).heldSig.length + 1) n).lkCounted n

/-- A sequenced packet arrives (R560, R561): `act` performs it, or gives nothing where its memory makes it wait, and the
packet is then as one that has not arrived. -/
def State.lkSequenced (s : State) (f : Frame) (act : State → Option State) : State :=
  let n := f.src
  if (s.peer n).st ≠ .open_ then s.sendHello n
  else
    let s := s.lkCum n f.cum
    let p := s.peer n
    let d := (f.psn + 2 ^ 32 - p.cum) % 2 ^ 32
    if 2 ^ 31 ≤ d || p.performed.contains f.psn then ((s.bump (lkR 0 0x58) 1).lkAck n).lkFlush n
    else if rxWindow ≤ d then s.lkFlush n
    else match act s with
      | some t => (t.lkPerformed n f.psn).lkFlush n
      | none => s

/-! ### DATA (R565) -/

/-- The 32-byte sectors of a packet fall into a region each: a scratch slot, or 65,536 plus a destination chunk. -/
def OpView.region (v : OpView) (a : Nat) : Nat :=
  if opScr v.e ≤ a && decide (a < opScr v.e + v.scrBytes) then (a - opScr v.e) / Nat.max 1 v.chunk
  else if opKind v.e = 0 ∨ opKind v.e = 2 then 65536 + (a - opDst v.e) / Nat.max 1 v.chunk
  else 65536

/-- Count bytes that arrived for a run in a region. -/
def Run.arrive (r : Run) (run region n : Nat) : Run :=
  if r.got.any (fun g => g.run = run && g.region = region) then
    { r with got := listMod r.got (fun g => g.run = run && g.region = region) (fun g => { g with bytes := g.bytes + n }) }
  else { r with got := r.got ++ [{ run := run, region := region, bytes := n }] }

/-- Whether a range lies within the operation's DST or SCRATCH range at this module. -/
def OpView.inRanges (v : OpView) (a n : Nat) : Bool :=
  (decide (opDst v.e ≤ a) && decide (a + n ≤ opDst v.e + v.dstBytes)) || (decide (opScr v.e ≤ a) && decide (a + n ≤ opScr v.e + v.scrBytes))

/-- Whether RUN is above the operation's last completed run, and at most one other such run has arrived. -/
def Run.admits (r : Run) (run : Nat) : Bool :=
  let above (k : Nat) : Bool := match r.lastDone with | some l => decide (l < k) | none => true
  above run && decide ((((r.got.map (·.run)).eraseDups).filter (fun k => above k && k ≠ run)).length ≤ 1)

/-- Whether the units of a translated range all serve (R565, check 6): a status, or a wait. -/
def State.rangeServe (s : State) (w : Who) (pa n : Nat) : LineServe :=
  (pieces pa n).foldl (fun (a : LineServe) (x : Nat × Nat) => match a with
    | .ok => s.lineServe w true (s.route x.1)
    | .err c => (match s.lineServe w true (s.route x.1) with | .err d => .err (combineStatus c d) | _ => .err c)
    | y => y) .ok

/-- The status of R565's checks 1 to 4. -/
def State.dataStatus (s : State) (f : Frame) : Nat :=
  let g := s.lkGroup f.group
  let e := s.lkOp f.op
  let v := s.opView f.op
  if !entValid g || grpEpoch g ≠ f.epoch then stBadDesc
  else if !entValid e || opGroup e ≠ f.group || !v.inRanges f.addr f.length then stBadDesc
  else if !(s.run f.op).admits f.run then stBadDesc
  else if f.addr % 32 ≠ 0 || f.length % 32 ≠ 0 || (f.length ≠ 0 && f.addr / 65536 ≠ (f.addr + f.length - 1) / 65536) then stBadDesc
  else stOk

/-- A NAK for an arrival that stage 2 or its unit turned away, with the record of R371 where it has one. -/
def State.dataFault (s : State) (f : Frame) (p c : Nat) (x : XFault) : State :=
  (s.quietRecord 2 p c { x with acc := 1 } [] [] 16).lkNak f.src f.psn (causeStatus x.cause)

/-- A DATA packet that has passed checks 1 to 4 is translated, checked and written, and its run goes on. -/
def State.dataWrite (s : State) (f : Frame) : Option State :=
  let g := s.lkGroup f.group
  let p := grpPart g
  let w := s.s2Xlate p f.addr
  if w.wait then none
  else match w.out with
    | .error x => some (w.st.dataFault f p (grpCtx g) x)
    | .ok e =>
      if !e.wr then some (w.st.dataFault f p (grpCtx g) { cause := 0x72, stage := 2, ipa := f.addr })
      else match w.st.rangeServe (hubWho e) (e.out + (f.addr - e.va)) f.length with
        | .wait => none
        | .err c => some (w.st.lkNak f.src f.psn c)
        | .undec => some (w.st.dataFault f p (grpCtx g) { cause := 0x75, ipa := f.addr })
        | .ok =>
          let bad := if f.poison then bitList (f.length / 32) f.mask else []
          let r := w.st.ipaWriteMem p f.addr f.payload bad
          if r.wait then none
          else
            let v := s.opView f.op
            let t := r.st.modRun f.op (fun y => (List.range (f.length / 32)).foldl (fun y i => y.arrive f.run (v.region (f.addr + 32 * i)) 32) y)
            some (t.opAdvance f.op)

/-- A DATA packet is written, or answered with a NAK. -/
def State.dataIn (s : State) (f : Frame) : Option State :=
  let st := s.dataStatus f
  if st ≠ stOk then some (s.lkNak f.src f.psn st)
  else if f.length = 0 then some s
  else s.dataWrite f

/-- DATA. -/
def execData (f : Frame) (s : State) : Host.Outcome State Fault Refusal :=
  .next (s.frameIn 1 f (fun t => t.lkSequenced f (fun t => t.dataIn f)))

/-! ### SIGNAL, subscriptions and changes (R561, R566, R567) -/

/-- A SIGNAL waits until every lower PSN from its peer has been performed. -/
def State.signalHeld (s : State) (f : Frame) : State :=
  let n := f.src
  if (s.peer n).st ≠ .open_ then s.sendHello n
  else
    let s := s.lkCum n f.cum
    let p := s.peer n
    let d := (f.psn + 2 ^ 32 - p.cum) % 2 ^ 32
    if 2 ^ 31 ≤ d || p.performed.contains f.psn then ((s.bump (lkR 0 0x58) 1).lkAck n).lkFlush n
    else if rxWindow ≤ d || p.heldSig.any (fun g => g.psn = f.psn) then s.lkFlush n
    else
      let t := s.modPeer n (fun p => { p with heldSig := p.heldSig ++ [f] })
      ((t.lkAdvance ((t.peer n).performed.length + (t.peer n).heldSig.length + 1) n).lkCounted n).lkFlush n

/-- SIGNAL. -/
def execSignal (f : Frame) (s : State) : Host.Outcome State Fault Refusal := .next (s.frameIn 2 f (fun t => t.signalHeld f))

/-- A SUB_REPLY (R556). -/
def pktSubReply (alias_ st v : Nat) (err : Bool) : LkPkt :=
  { type := 0x04, payload := leBytes 2 alias_ ++ leBytes 1 st ++ leBytes 1 (b2n err) ++ leBytes 4 0 ++ leBytes 8 v }

/-- A SUBSCRIBE is checked: a bad token is refused, and a fence holds at most seven subscribers (12 R483). -/
def State.subscribeIn (s : State) (f : Frame) : State :=
  let tok := sliceNat f.payload 0 4
  let a := sliceNat f.payload 4 2
  let h := tok / 2 ^ 16
  let x := s.sync h
  if !s.tokenOk tok then s.lkSend f.src (pktSubReply a stBadDesc 0 false)
  else if 7 ≤ x.subs.length then s.lkSend f.src (pktSubReply a stQuota 0 false)
  else ((s.modSync h (fun y => { y with subs := y.subs ++ [(f.src, a)] })).addRef kFence h).lkSend f.src (pktSubReply a stOk x.value x.error)

/-- SUBSCRIBE. -/
def execSubscribe (f : Frame) (s : State) : Host.Outcome State Fault Refusal :=
  .next (s.frameIn 3 f (fun t => t.lkSequenced f (fun t => some (t.subscribeIn f))))

/-- A SUB_REPLY completes the import that waits for it (12 R483). -/
def State.subReplyIn (s : State) (f : Frame) : State :=
  let a := sliceNat f.payload 0 2
  let st := sliceNat f.payload 2 1
  match s.obj.imports.find? (fun x => x.node = f.src && x.handle = a) with
  | none => s
  | some x =>
    if st ≠ stOk then s.importFail x st
    else
      let t := { s with obj := { s.obj with imports := s.obj.imports.erase x } }
      (t.modSync a (fun y => { y with value := sliceNat f.payload 8 8, error := bit (sliceNat f.payload 3 1) 0 })).hqAnswer x.part stOk a

/-- SUB_REPLY. -/
def execSubReply (f : Frame) (s : State) : Host.Outcome State Fault Refusal :=
  .next (s.frameIn 4 f (fun t => t.lkSequenced f (fun t => some (t.subReplyIn f))))

/-- A FENCE_CHANGE acts on the alias that it names, if the sender owns its fence (R567). -/
def State.fenceChangeIn (s : State) (f : Frame) : State :=
  let a := sliceNat f.payload 0 2
  let x := s.sync a
  if x.st ≠ .free && x.alias_ && x.remote && x.node = f.src then s.signalLocal a (sliceNat f.payload 8 8) (bit (sliceNat f.payload 2 2) 0) else s

/-- FENCE_CHANGE. -/
def execFenceChange (f : Frame) (s : State) : Host.Outcome State Fault Refusal :=
  .next (s.frameIn 5 f (fun t => t.lkSequenced f (fun t => some (t.fenceChangeIn f))))

/-- An UNSUBSCRIBE drops the subscriber and its reference (R567). -/
def State.unsubscribeIn (s : State) (f : Frame) : State :=
  let h := sliceNat f.payload 0 2
  let a := sliceNat f.payload 2 2
  if (s.sync h).subs.contains (f.src, a) then (s.modSync h (fun y => { y with subs := y.subs.erase (f.src, a) })).dropRef kFence h else s

/-- UNSUBSCRIBE. -/
def execUnsubscribe (f : Frame) (s : State) : Host.Outcome State Fault Refusal :=
  .next (s.frameIn 6 f (fun t => t.lkSequenced f (fun t => some (t.unsubscribeIn f))))

/-! ### CREDIT and RUN_ABORT (R577, R579) -/

/-- Whether a packet's GROUP, EPOCH and OP name a group and an operation of this module. -/
def State.namesOp (s : State) (f : Frame) : Bool :=
  entValid (s.lkGroup f.group) && grpEpoch (s.lkGroup f.group) = f.epoch && entValid (s.lkOp f.op) && opGroup (s.lkOp f.op) = f.group

/-- A CREDIT notes what its sender has consumed. -/
def State.creditIn (s : State) (f : Frame) : State :=
  if !s.namesOp f then s
  else
    let v := s.opView f.op
    match (List.range v.n).find? (fun r => v.node r = f.src) with
    | none => s
    | some r => (s.modRun f.op (fun x => { x with credits := x.credits.set r 0 (f.run + 1) })).opAdvance f.op

/-- CREDIT. -/
def execCredit (f : Frame) (s : State) : Host.Outcome State Fault Refusal :=
  .next (s.frameIn 7 f (fun t => t.lkSequenced f (fun t => some (t.creditIn f))))

/-- A RUN_ABORT ends the run that it names with ABORTED. -/
def State.runAbortIn (s : State) (f : Frame) : State :=
  if s.namesOp f && (s.run f.op).name = f.run then s.runAbort f.op else s

/-- RUN_ABORT. -/
def execRunAbort (f : Frame) (s : State) : Host.Outcome State Fault Refusal :=
  .next (s.frameIn 8 f (fun t => t.lkSequenced f (fun t => some (t.runAbortIn f))))

/-! ### ACK, NAK and HELLO (R560 to R562, R565) -/

/-- Bits of a SACK that lie above a PSN. -/
def sackAbove (cum sack psn : Nat) : Nat :=
  ((List.range 64).filter (fun i => bit sack i && psnBefore psn ((cum + 1 + i) % 2 ^ 32))).length

/-- An ACK frees what it covers, and what three higher PSNs have overtaken is sent again. -/
def State.ackIn (s : State) (f : Frame) : State :=
  let n := f.src
  if (s.peer n).st ≠ .open_ then s
  else
    let sack := sliceNat f.payload 0 8
    let s := s.lkCum n f.cum
    let covered (x : TxPkt) : Bool := (List.range 64).any (fun i => bit sack i && x.psn = (f.cum + 1 + i) % 2 ^ 32)
    let s := s.modPeer n (fun p => (p.unacked.filter covered).foldl (Peer.acked (s.lkCfg 10) s.now) p)
    let late := (s.peer n).unacked.filter (fun x => decide (3 ≤ sackAbove f.cum sack x.psn))
    (s.each late (fun t x => t.lkRetx n x.psn)).lkFlush n

/-- ACK. -/
def execAck (f : Frame) (s : State) : Host.Outcome State Fault Refusal := .next (s.frameIn 16 f (fun t => t.ackIn f))

/-- A NAK fails the run of the packet that it names with its status; the NAK counts (R565, R566). -/
def State.nakIn (s : State) (f : Frame) : State :=
  let n := f.src
  if (s.peer n).st ≠ .open_ then s
  else
    let s := (s.bump (lkR 0 0x60) 1).lkCum n f.cum
    let s : State := match (s.peer n).unacked.find? (fun x => x.psn = sliceNat f.payload 0 4) with
      | some x => if x.pkt.type = 1 && (s.run x.pkt.op).name = x.pkt.run then s.runFail x.pkt.op (sliceNat f.payload 4 1) else s
      | none => s
    s.lkFlush n

/-- NAK. -/
def execNak (f : Frame) (s : State) : Host.Outcome State Fault Refusal := .next (s.frameIn 17 f (fun t => t.nakIn f))

/-- What a HELLO shows of its sender is noted on a connection that opens; one that answers ours opens it. -/
def State.helloSeen (s : State) (n inc seen planes : Nat) (answer : State → State) : State :=
  let t := s.modPeer n (fun p => { p with inc := inc, planes := planes, leaving := false, lastHeard := s.now })
  let t := answer t
  if seen = s.lk.inc then (t.peerUp n).lkFlush n else t

/-- A HELLO toward a peer that is CLOSED here opens the connection, unless 4,096 are held. -/
def State.helloOpens (s : State) (n inc seen planes : Nat) : State :=
  if s.heldPeers < 4096 then
    (s.modPeer n (fun p => { p with st := .opening, tOpen := s.now })).helloSeen n inc seen planes (fun t => t.helloAll n)
  else s

/-- A HELLO opens, answers or resets the connection; INC zero announces a peer that leaves (R560). -/
def State.helloIn (s : State) (f : Frame) : State :=
  let n := f.src
  let inc := sliceNat f.payload 0 4
  let seen := sliceNat f.payload 4 4
  let planes := sliceNat f.payload 8 4
  let p := s.peer n
  if inc = 0 then (s.peerLost n).modPeer n (fun p => { p with leaving := true })
  else match p.st with
    | .open_ =>
      if inc ≠ p.inc || seen ≠ s.lk.inc then ((s.peerLost n).modPeer n (fun p => { p with leaving := false })).helloOpens n inc seen planes
      else (s.modPeer n (fun p => { p with planes := planes })).lkFlush n
    | .opening => s.helloSeen n inc seen planes (fun t => t.sendHello n)
    | _ => s.helloOpens n inc seen planes

/-- HELLO. -/
def execHello (f : Frame) (s : State) : Host.Outcome State Fault Refusal := .next (s.frameIn 18 f (fun t => t.helloIn f))

/-! ### Timers (R559, R561 to R564) -/

/-- ACK_TIMER: packets not yet acknowledged are acknowledged (R561). -/
def execAckTimer (node : Nat) (s : State) : Host.Outcome State Fault Refusal :=
  .next (if (s.peer node).st = .open_ ∧ 0 < (s.peer node).sinceAck ∧ s.fabricOn then s.lkAck node else s)

/-- The retransmission timeout of a packet, in ticks (R562). -/
def Peer.rto (p : Peer) (x : TxPkt) : Nat := Nat.min 1000000 (Nat.max 1000 (2 * p.srtt) * 2 ^ x.tries)

/-- RETRANSMIT_TIMEOUT: the window halves and the packet is sent again (R562, R563). -/
def execRetransmitTimeout (node psn : Nat) (s : State) : Host.Outcome State Fault Refusal :=
  let p := s.peer node
  match p.unacked.find? (fun x => x.psn = psn) with
  | none => .next s
  | some x =>
    .next (if p.st = .open_ ∧ s.fabricOn ∧ x.tSent + p.rto x ≤ s.now then
      (s.modPeer node (fun p => { p with window := Nat.max 8 (p.window / 2), grow := 0 })).lkRetx node psn
    else s)

/-- HELLO_TIMER: an OPENING peer is sent a HELLO on each usable plane (R559). -/
def execHelloTimer (node : Nat) (s : State) : Host.Outcome State Fault Refusal :=
  .next (if (s.peer node).st = .opening ∧ s.fabricOn then s.helloAll node else s)

/-- KEEP_ALIVE: an OPEN peer with a group or a subscription in common is sent a HELLO (R564). -/
def execKeepAlive (node : Nat) (s : State) : Host.Outcome State Fault Refusal :=
  .next (if (s.peer node).st = .open_ ∧ s.fabricOn ∧ s.linked node then s.sendHello node else s)

/-- Whether the lost timeout of a peer has passed, or no plane leads to it (R554, R564). -/
def State.lostNow (s : State) (n : Nat) : Bool :=
  let p := s.peer n
  let past (t : Nat) : Bool := decide (t + s.lkCfg 8 * 100000 ≤ s.now)
  match p.st with
  | .open_ => p.unacked.any (fun x => past x.tFirst) || (s.linked n && past p.lastHeard) || (s.routed n = 0 && (p.unacked ≠ [] || p.waitTx ≠ []))
  | .opening => past p.tOpen || (s.routed n = 0 && p.waitTx ≠ [])
  | _ => false

/-- LOST_TIMEOUT (R564). -/
def execLostTimeout (node : Nat) (s : State) : Host.Outcome State Fault Refusal :=
  .next (if s.fabricOn && s.lostNow node then s.peerLost node else s)

/-- PEER_IDLE_CLOSE: a peer with nothing unacknowledged and nothing shared closes after 1 s, and a peer that waits for a place
opens (R563). -/
def execPeerIdleClose (node : Nat) (s : State) : Host.Outcome State Fault Refusal :=
  let p := s.peer node
  .next (if p.st = .open_ ∧ p.unacked = [] ∧ p.waitTx = [] ∧ !s.linked node ∧ p.lastHeard + 100000000 ≤ s.now then
    let t := s.modPeer node (fun p => { leaving := p.leaving })
    match t.lk.peers.find? (fun e => e.2.st = .closed && e.2.waitTx ≠ []) with
    | some e => t.peerOpen e.1
    | none => t
  else s)

/-! ### Quads (R549 to R551) -/

/-- OUT of a port (R583). -/
def State.quadOutMask (s : State) (port : Nat) : Nat := s.rf (lkR port 0x18) 7 4

/-- Quads leave service: what is unacknowledged on their planes is sent again on others, and a port that was UP reports its
fall (R550, R551). -/
def State.quadsLeave (s : State) (port mask : Nat) : State :=
  let old := (s.port port).inService
  let gone := old &&& mask
  let now' := old - gone
  let s := s.modPort port (fun p => { p with inService := now', training := p.training - (p.training &&& mask) })
  let s := if old = 0xF && now' ≠ 0xF then
      (s.odBump 0x61E0 4 1).each ((List.range 8).filter (fun p => (s.part p).lay.enabled)) (fun t p => t.errVec p 9)
    else s
  if gone = 0 then s
  else
    let on (x : TxPkt) : Bool := x.plane / 4 + 1 = port && bit gone (x.plane % 4)
    s.each (s.lk.peers.filter (fun e => e.2.st = .open_)) (fun t e => t.each (e.2.unacked.filter on) (fun t x => t.lkRetx e.1 x.psn))

/-- Whether a port can train: a cage module is fitted and was not refused (R548). -/
def State.portFitted (s : State) (port : Nat) : Bool := (s.port port).module.isSome && !(s.port port).refused

/-- Quads start to train: those of a fitted port that LK_QCTRL.OUT does not hold out. -/
def State.quadsTrain (s : State) (port mask : Nat) : State :=
  if s.portFitted port then
    let m := mask &&& (0xF - s.quadOutMask port)
    s.modPort port (fun p => { p with training := p.training ||| (m - (m &&& p.inService)) })
  else s

/-- QUAD_OUT: a quad loses its lock, or its FEC passes the limit (R550). The count by which it passes is free (log 32). -/
def execQuadOut (port quad : Nat) (why : QuadLoss) (s : State) : Host.Outcome State Fault Refusal :=
  if !(1 ≤ port ∧ port ≤ 8 ∧ quad < 4 ∧ bit (s.port port).inService quad) then .next s
  else
    let s : State := match why with
      | .lock => s
      | .fec => let (w, t) := s.draw; t.bump (lkR port (0x60 + 8 * quad)) (s.lkCfg 11 + 1 + w.toNat % 2 ^ 32)
    .next (s.quadsLeave port (2 ^ quad))

/-- QUAD_RETRAIN_TRY: the firmware trains a quad that left for a fault (R550). -/
def execQuadRetrainTry (port quad : Nat) (trained : Bool) (s : State) : Host.Outcome State Fault Refusal :=
  if !(1 ≤ port ∧ port ≤ 8 ∧ quad < 4) || bit (s.port port).inService quad then .next s
  else if trained then .next (s.quadsTrain port (2 ^ quad))
  else .next (s.modPort port (fun p => { p with training := p.training - (p.training &&& 2 ^ quad) }))

/-- QUAD_RETURN: a trained quad has stayed within its limit for 1 s (R550). -/
def execQuadReturn (port quad : Nat) (s : State) : Host.Outcome State Fault Refusal :=
  if 1 ≤ port ∧ port ≤ 8 ∧ quad < 4 ∧ bit (s.port port).training quad ∧ !bit (s.quadOutMask port) quad then
    let t := s.modPort port (fun p => { p with training := p.training - 2 ^ quad, inService := p.inService ||| 2 ^ quad })
    .next (t.each (t.lk.peers.filter (fun e => e.2.st = .open_)) (fun t e => t.lkFlush e.1))
  else .next s

/-- Lanes of a mask of quads. -/
def quadLanes (m : Nat) : Nat := (List.range 4).foldl (fun a q => if bit m q then a + 0xF * 2 ^ (4 * q) else a) 0

/-- Set OUT of a port: quads leave or train, and a lane test ends on lanes that go back into service (R550, R581). -/
def State.setQuadOut (s : State) (port out : Nat) : State :=
  let old := s.quadOutMask port
  let s := s.setRf (lkR port 0x18) 7 4 out
  let s := s.quadsLeave port out
  let back := old - (old &&& out)
  let s := s.setRf (lkR port 0x88) 15 0 (s.rf (lkR port 0x88) 15 0 - (s.rf (lkR port 0x88) 15 0 &&& quadLanes back))
  s.quadsTrain port back

/-- A write of LK_QCTRL: OUT, then RETRAIN (R550, R583). -/
def State.qctrlWrite (s : State) (p : Path) (port v : Nat) : State :=
  if !(1 ≤ port ∧ port ≤ 8) then s
  else s.regGateP p (lkR port 0x18) (fun t =>
    let t := t.setQuadOut port (bits v 7 4)
    (t.quadsLeave port (bits v 3 0)).quadsTrain port (bits v 3 0))

/-- QCTRL_OUT. -/
def execQctrlOut (p : Path) (port : Nat) (v : W32) (s : State) : Host.Outcome State Fault Refusal := .next (s.qctrlWrite p port v.toNat)

/-- QUAD_RETRAIN. -/
def execQuadRetrain (p : Path) (port : Nat) (v : W32) (s : State) : Host.Outcome State Fault Refusal := .next (s.qctrlWrite p port v.toNat)

/-! ### Cages (R547, R548) -/

/-- Whether a cage module is one that the FV-80 supports. -/
def cageOk (m : CageModule) : Bool := m.lanes16x100 && m.fourInterfaces && decide (m.watts ≤ 20)

/-- CAGE_INSERT: the module is read through CMIS; one that is not supported leaves its port ABSENT (R548). -/
def execCageInsert (port : Nat) (m : CageModule) (s : State) : Host.Outcome State Fault Refusal :=
  if !(1 ≤ port ∧ port ≤ 8) || (s.port port).module.isSome then .next s
  else
    let t := s.modPort port (fun _ => { module := some m, refused := !cageOk m })
    .next (if s.pw.phase = .on then ((t.quadsTrain port 0xF).odBumpSat 0x61F0 7 32 1).ngEvent 5 else t)

/-- CAGE_REMOVE: the port goes to ABSENT at once (R548). -/
def execCageRemove (port : Nat) (s : State) : Host.Outcome State Fault Refusal :=
  if !(1 ≤ port ∧ port ≤ 8) then .next s
  else
    let t := (s.quadsLeave port 0xF).modPort port (fun _ => {})
    .next (if s.pw.phase = .on && (s.port port).module.isSome then t.ngEvent 5 else t)

/-! ### The fabric (R560, R564, R584) -/

/-- Write 0x5000:02: before READY it is kept (16 R637); from then TRUE starts the fabric with a new incarnation, FALSE stops it and every peer is LOST. -/
def State.fabricSet (s : State) (on : Bool) : State :=
  let s := s.odSet 0x5000 2 (b2n on)
  if on = s.lk.on ∨ s.mg.stage ≠ .ready then s
  else if on then s.fabricStart
  else
    let s := { s with lk := { s.lk with on := false } }
    s.each ((s.lk.peers.filter (fun e => e.2.st ≠ .closed)).map (·.1)) (fun t n => t.peerLost n)

/-- FABRIC_ENABLE. -/
def execFabricEnable (p : Path) (s : State) : Host.Outcome State Fault Refusal :=
  .next (s.odCmdS p 0x5000 2 (fun t => (t.fabricSet true, some stOk)))

/-- FABRIC_DISABLE. -/
def execFabricDisable (p : Path) (s : State) : Host.Outcome State Fault Refusal :=
  .next (s.odCmdS p 0x5000 2 (fun t => (t.fabricSet false, some stOk)))

/-! ### Groups and operations (R568 to R572) -/

/-- Reserved bits of a group's entry are zero: those that R568's table does not name are reserved too. -/
def grpReservedZero (b : List Byte) : Bool :=
  bits (sliceNat b 0 4) 30 27 = 0 && bits (sliceNat b 0 4) 23 10 = 0 && sliceNat b 12 4 = 0 && grpMembers b < 2 ^ 52
    && (b.drop 24).all (· = 0)

/-- Whether a valid group's entry is refused, `self` being the node at rank SELF (R569). -/
def State.groupBadAs (s : State) (g : Nat) (b : List Byte) (self : Nat) : Bool :=
  let old := s.lkGroup g
  !(s.part (grpPart b)).lay.enabled || (s.ctx (grpCtx b)).st ≠ .live || (s.ctx (grpCtx b)).part ≠ grpPart b || decide (grpN b ≤ grpSelf b)
    || self ≠ s.lkCfg 1 || !grpReservedZero b
    || (entValid old && decide (grpEpoch b ≤ grpEpoch old))

/-- The same, with the node that memory holds at rank SELF. -/
def State.groupBad (s : State) (g : Nat) (b : List Byte) : Bool :=
  s.groupBadAs g b (leNat (s.ownRead (grpMembers b + 2 * grpSelf b) 2).1)

/-- A valid group's entry is stored: runs of a group that was valid end with ABORTED (R569). -/
def State.groupPut (s : State) (g : Nat) (b : List Byte) : State :=
  let t := if entValid (s.lkGroup g) then s.each (s.opsOf g) (fun t o => t.runAbort o) else s
  { t with lk := { t.lk with groups := t.lk.groups.set g [] b } }

/-- Write group `g` (R568, R569): the status of the write. -/
def State.groupStore (s : State) (g : Nat) (b : List Byte) : State × Nat :=
  if !entValid b then (s.groupClear g, stOk)
  else if s.groupBad g b then (s, stBadDesc)
  else (s.groupPut g b, stOk)

/-- A write of 0x5200:02. -/
def State.groupEntry (s : State) (data : List Byte) : State × Option Nat :=
  if data.length ≠ 64 then (s, some stBadDesc) else let r := s.groupStore (s.odGet 0x5200 1) data; (r.1, some r.2)

/-- GROUP_WRITE. -/
def execGroupWrite (p : Path) (data : List Byte) (s : State) : Host.Outcome State Fault Refusal :=
  .next (s.odCmd p 0x5200 2 (fun t => t.groupEntry data))

/-- Reserved bits of an operation's entry are zero. -/
def opReservedZero (b : List Byte) : Bool :=
  bits (sliceNat b 0 4) 19 12 = 0 && opSrc b < 2 ^ 57 && opDst b < 2 ^ 52 && opScr b < 2 ^ 52 && sliceNat b 42 2 = 0 && (b.drop 44).all (· = 0)

/-- Whether the codes of an operation are defined (R570). -/
def opCodesOk (b : List Byte) : Bool :=
  decide (opKind b ≤ 4) && decide (bits (sliceNat b 0 4) 27 26 ≤ 1) && decide (opRed b ≤ 2) && decide (6 ≤ opFmt b) && decide (opFmt b ≤ 9)

/-- Whether a handle is a fence of a context. -/
def State.fenceOf (s : State) (c h : Nat) : Bool := let f := s.sync h; f.st = .live && !f.event && f.ctx = c

/-- Whether a valid operation's entry is refused (R572). -/
def State.opBad (s : State) (o : Nat) (b : List Byte) : Bool :=
  let g := s.lkGroup (opGroup b)
  let n := grpN g
  (s.run o).running || !entValid g || !s.fenceOf (grpCtx g) (opTrigger b) || !s.fenceOf (grpCtx g) (opDone b) || opTrigger b = opDone b
    || !opCodesOk b || opCount b = 0 || opCount b % n ≠ 0 || opCount b / n * opElem b % 32 ≠ 0
    || opSrc b % 32 ≠ 0 || opDst b % 32 ≠ 0 || opScr b % 32 ≠ 0 || decide (n ≤ opRank b) || !opReservedZero b

/-- Write operation `o` (R570, R572): the status of the write. A new operation has had no run (log 32). -/
def State.opStore (s : State) (o : Nat) (b : List Byte) : State × Nat :=
  if !entValid b then (s.opClear o, stOk)
  else if s.opBad o b then (s, stBadDesc)
  else ({ s with lk := { s.lk with ops := s.lk.ops.set o [] b, runs := s.lk.runs.del o } }, stOk)

/-- A write of 0x5300:02. -/
def State.opEntry (s : State) (data : List Byte) : State × Option Nat :=
  if data.length ≠ 64 then (s, some stBadDesc) else let r := s.opStore (s.odGet 0x5300 1) data; (r.1, some r.2)

/-- OPERATION_WRITE. -/
def execOperationWrite (p : Path) (data : List Byte) (s : State) : Host.Outcome State Fault Refusal :=
  .next (s.odCmd p 0x5300 2 (fun t => t.opEntry data))

/-! ### Runs (R573, R574, R579) -/

/-- Runs of all operations that proceed. -/
def State.runsOn (s : State) : Nat := (s.lk.runs.filter (fun e => e.2.running)).length

/-- The course of a run begins: the engine takes every step that it can, and a run of several members fails at once while the
fabric does not run. -/
def State.runBegin (s : State) (o value : Nat) : State :=
  let name := value % 2 ^ 32
  let t := s.modRun o (fun r => { r with running := true, name := name, lastTrigger := value, tStart := s.now, sentTo := [], step := 0 })
  if !t.fabricOn && decide (1 < (t.opView o).n) then t.runFail o stDeviceLost else t.opAdvance o

/-- RUN_START: the trigger has risen (R573). -/
def execRunStart (op : Nat) (s : State) : Host.Outcome State Fault Refusal :=
  let e := s.lkOp op
  let f := s.sync (s.original (opTrigger e))
  if !entValid e || (s.run op).running then .next s
  else if f.error then .next (s.signal (opDone e) f.value true)
  else if f.value ≤ (s.run op).lastTrigger || 64 ≤ s.runsOn then .next s
  else .next (s.runBegin op f.value)

/-- RUN_COMPLETE: DATA is acknowledged, contributions have arrived and reductions are written (R574). -/
def execRunComplete (op : Nat) (s : State) : Host.Outcome State Fault Refusal :=
  let t := s.opAdvance op
  .next (if t.runDone op then t.runEnd op stOk else t)

/-- RUN_TIMEOUT (R579). -/
def execRunTimeout (op : Nat) (s : State) : Host.Outcome State Fault Refusal :=
  let r := s.run op
  .next (if r.running ∧ r.tStart + s.lkCfg 9 * 100000 ≤ s.now then s.runFail op stTimeout else s)

/-! ### Lane tests (R581) -/

/-- A write of LK_PRBSCTRL: GO on lanes whose quads are all held out, with a pattern that exists, starts a test; any other GO
changes nothing. STOP ends the test. Which checkers lock, and what they count, is free (log 32). -/
def State.prbsWrite (s : State) (p : Path) (port v : Nat) : State :=
  if !(1 ≤ port ∧ port ≤ 8) then s
  else s.regGateP p (lkR port 0x80) (fun t =>
    let lanes := bits v 15 0
    let run := t.rf (lkR port 0x88) 15 0
    if bit v 31 then
      if lanes &&& quadLanes (t.quadOutMask port) ≠ lanes || decide (5 < bits v 18 16) then t
      else
        let t := t.setReg (lkR port 0x80) (bits v 18 0)
        let (w, t) := t.draw
        let t := t.setReg (lkR port 0x88) ((w.toNat % 2 ^ 16 &&& (run ||| lanes)) * 2 ^ 16 + (run ||| lanes))
        t.each (bitList 16 lanes) (fun t n => t.setReg (lkR port (0x100 + 8 * n)) 0)
    else
      let t := t.setReg (lkR port 0x80) (bits v 18 0)
      if bit v 30 then
        let t := t.each (bitList 16 run) (fun t n => let (w, t) := t.draw; t.setReg (lkR port (0x100 + 8 * n)) w.toNat)
        t.setReg (lkR port 0x88) 0
      else t)

/-- PRBS_GO. -/
def execPrbsGo (p : Path) (port : Nat) (v : W32) (s : State) : Host.Outcome State Fault Refusal := .next (s.prbsWrite p port v.toNat)

/-- PRBS_STOP. -/
def execPrbsStop (p : Path) (port : Nat) (v : W32) (s : State) : Host.Outcome State Fault Refusal := .next (s.prbsWrite p port v.toNat)

end Sys2Proof.Machine
end

