-- ==== Sys2Proof/Machine/Matrix.lean ====
section
/-! DEFINITION. The commands of the matrix engine (03_matrix_engine.md). -/

namespace Sys2Proof.Machine

/-- A matrix command of an opcode from its issuer. -/
def State.mxIssue (s : State) (m : MxIssuer) (op : Nat) : State :=
  match m with
  | .group i word => s.mxGroup i op word
  | .seq cl => s.mxStream cl op

/-- MLOAD enters the queue (R101). -/
def execMload (m : MxIssuer) (s : State) : Host.Outcome State Fault Refusal := .next (s.mxIssue m 0xE1)

/-- MSWAP enters the queue (R102). -/
def execMswap (m : MxIssuer) (s : State) : Host.Outcome State Fault Refusal := .next (s.mxIssue m 0xE2)

/-- MSTREAM enters the queue (R103). -/
def execMstream (m : MxIssuer) (s : State) : Host.Outcome State Fault Refusal := .next (s.mxIssue m 0xE3)

/-- MTILE enters the queue (R113). -/
def execMtile (m : MxIssuer) (s : State) : Host.Outcome State Fault Refusal := .next (s.mxIssue m 0xE4)

/-- MDRAIN enters the queue (R104). -/
def execMdrain (m : MxIssuer) (s : State) : Host.Outcome State Fault Refusal := .next (s.mxIssue m 0xE5)

/-- A group's MWAIT (R105): it takes no entry. A word with a non-zero reserved or unused field is BAD_COMMAND. -/
def State.mwaitGroup (s : State) (i : Issue) (word : W64) : State :=
  let w := word.toNat
  if mwOp w ≠ 0xE6 then s
  else match s.issuing i, s.coreKernel i.core with
    | some (_, p), some k =>
      if !k.desc.mxUse then s.exception i 5
      else if !mwUnused w || bits w 23 4 ≠ 0 then s.mxFault i.core { id := 0, fromSeq := false, slot := i.slot, ctx := k.ctx, part := k.part, word := w, pc := p.pc } 0x21
      else
        let s := s.retire i
        if (s.mx i.core).outstanding i.slot ≤ mwImm w then s else s.stallGroup i (.mwait (mwImm w))
    | _, _ => s

/-- Whether a sequencer's MWAIT n may return (R105, 04 R160): with n = 0 its records must be closed. -/
def Seq.mwaitMet (q : Seq) (n : Nat) : Bool := decide (q.mxOut.length ≤ n) && (n ≠ 0 || q.densDone)

/-- A sequencer's MWAIT (R105, 05 R199). -/
def State.mwaitSeq (s : State) (cl : Nat) : State :=
  s.stream cl 0xE6 (fun s w =>
    if !mwUnused w || bits w 23 4 ≠ 0 then s.seqFault cl 0x41 w stAborted
    else if (s.seq cl).mwaitMet (mwImm w) then s.seqDone cl id
    else s.seqWaitAt cl (.mwait (mwImm w)))

/-- MWAIT (R105). -/
def execMwait (m : MxIssuer) (s : State) : Host.Outcome State Fault Refusal :=
  match m with
  | .group i word => .next (s.mwaitGroup i word)
  | .seq cl => .next (s.mwaitSeq cl)

/-- MWAIT_RETURN (R105): the issuer goes on once at most n of its earlier commands are incomplete. -/
def execMwaitReturn (w : MxWaiter) (s : State) : Host.Outcome State Fault Refusal :=
  match w with
  | .group core slot =>
    match s.group core slot with
    | some g =>
      match g.stall with
      | .mwait n => .next (if !s.frozen ((s.core core).ctx.getD 1024) ∧ (s.mx core).outstanding slot ≤ n then s.modGroup core slot (fun g => { g with stall := .none }) else s)
      | _ => .next s
    | none => .next s
  | .seq cl =>
    match (s.seq cl).wait with
    | .mwait n => .next (if s.seqLive cl && (s.seq cl).mwaitMet n then s.seqDone cl id else s)
    | _ => .next s

/-- Whether the commands before a queued one allow it to start (R94, R102, R106; DEDUCED, log 23). -/
def mxMayStart (before : List MxCmd) (m : MxCmd) : Bool :=
  let has (ops : List Nat) : Bool := before.any (fun c => ops.contains (mwOp c.word))
  let op := mwOp m.word
  if op = 0xE2 then !has [0xE1, 0xE2, 0xE4]
  else if op = 0xE1 then !has [0xE2, 0xE4]
  else if op = 0xE3 then (if scDest m.rd = 1 then before.isEmpty else !has [0xE2, 0xE4])
  else if op = 0xE5 then before.isEmpty
  else true

/-- The scale and centre that a command reads when it starts (R128): those of its control word's slot. -/
def State.mxSlot (s : State) (core : Nat) (m : MxCmd) (ctl : Nat) : MxCmd × State :=
  let (e, st, s) := s.ownRead (s.slotAddr m.part (scSlot ctl)) 16
  let c : Int := if slotCentreSet e then slotCentre e else emaxOf (scOut ctl) - 16
  let s := match st, s.mxQueue core m with
    | some x, some k => if x = stUnitOffline then s.stepStatus k x else s
    | _, _ => s
  ({ m with scale := slotScale e, centre := c }, s)

/-- A command whose checks have passed starts: its sources and destinations translate, it reads its slot, and the column
groups come on (R107, R124, R128). -/
def State.mxBegin (s : State) (core : Nat) (m : MxCmd) (t : TileDesc) (have_ : List Xent) : State :=
  let (src, dst) := s.mxRanges core m t
  match s.mxPages core m accRead src have_ with
  | (none, s) => s
  | (some l1, s) =>
    match s.mxPages core m accWrite dst have_ with
    | (none, s) => s
    | (some l2, s) =>
      if (src.flatMap (fun r => pages r.1 r.2)).any (fun p => s.mxSrcBad core m l1 p) then s.mxFault core m 0x22
      else match (dst.flatMap (fun r => pages r.1 r.2)).findSome? (fun p => s.mxDstFault m l2 p) with
        | some f => s.raiseFault (.mx core) m.ctx m.part f false
        | none =>
          let ctl := if mwOp m.word = 0xE4 then t.control else m.rd
          let op := mwOp m.word
          let (m', s) := if op = 0xE3 && (scDest ctl = 0 || scDest ctl = 3) || op = 0xE4 || op = 0xE5 then s.mxSlot core m ctl else (m, s)
          s.modMx core (fun x => { x with queue := listMod x.queue (fun c => c.id = m.id) (fun c => { c with started := true, scale := m'.scale, centre := m'.centre, pages := l1 ++ l2, desc := m.desc }), groupsOn := if op = 0xE3 || op = 0xE4 then 8 else x.groupsOn })

/-- An MTILE reads and checks its descriptor, then starts (R113). A poisoned descriptor is BAD_COMMAND (log 23). -/
def State.mtileBegin (s : State) (core : Nat) (m : MxCmd) : State :=
  match s.mxPages core m accRead [(m.ra, 64)] [] with
  | (none, s) => s
  | (some l, s) =>
    let x := s.mxRead core { m with pages := l } m.ra 64
    if x.wait then s
    else
      let t := tileDescOf x.data
      let un (a stride : Nat) : Bool := a % 32 ≠ 0 || stride % 32 ≠ 0
      let s := MxRun.noteRead x core m
      if x.poison ≠ [] || tileBad t then s.mxFault core m 0x21
      else if un t.a 0 || un t.b 0 || un t.c 0 || (scRscale t.control && t.rs % 32 ≠ 0) then s.mxFault core m 0x22
      else s.mxBegin core { m with desc := x.data } t []

/-- MX_COMMAND_START: the first command that has not started starts once those before it allow (R94, R106, R108). -/
def execMxCommandStart (core : Nat) (s : State) : Host.Outcome State Fault Refusal :=
  let mx := s.mx core
  let before := mx.queue.takeWhile (fun c => c.started)
  match mx.queue.find? (fun c => !c.started) with
  | none => .next s
  | some m =>
    if mx.state = .busy && !s.frozen m.ctx && !s.agentBusy (.mx core) && mxMayStart before m && (m.fromSeq || !s.groupPending core m.slot) then
      match s.mxBad core m with
      | some c => .next (s.mxFault core m c)
      | none => .next (if mwOp m.word = 0xE4 then s.mtileBegin core m else s.mxBegin core m (tileDescOf []) [])
    else .next s

/-- The effects of a command on data. -/
def State.mxRun (s : State) (core : Nat) (m : MxCmd) : MxRun :=
  let op := mwOp m.word
  if op = 0xE1 then s.runMload core m
  else if op = 0xE2 then { st := s.modMx core Mx.swap }
  else if op = 0xE3 then s.runMstream core m
  else if op = 0xE4 then s.runMtile core m (tileDescOf m.desc)
  else s.runMdrain core m

/-- What the array's timing left in the counters (R134, R175, 17 R651). -/
def State.mxTimes (s : State) (core : Nat) (m : MxCmd) (t : MxTiming) : State :=
  let beats := mxBeats m (tileDescOf m.desc)
  let s := ((s.bump (mxR core 0x50) beats).bump (mxR core 0x58) t.slip).bump (mxR core 0x60) t.freeze
  let s := s.odBump 0x6130 2 t.freeze
  let w := s.reg (mxR core 0x68)
  let row := if 4 ≤ t.rowMax then t.row % 256 else bits w 15 8
  let col := if 4 ≤ t.colMax then t.col % 256 else bits w 23 16
  let s := s.setReg (mxR core 0x68) (col * 2 ^ 16 + row * 2 ^ 8 + Nat.max (bits w 7 4) (Nat.min t.colMax 4) * 2 ^ 4 + Nat.max (bits w 3 0) (Nat.min t.rowMax 4))
  let s := s.bumpSat (mxR core 0x78) 8 8 t.densWaits
  ((s.coreEvent core 0x0A beats).coreEvent core 0x0B t.slip).coreEvent core 0x0C t.freeze

/-- MX_COMMAND_COMPLETE: the oldest command, once started, writes its last output and is complete (R94). -/
def execMxCommandComplete (core : Nat) (t : MxTiming) (s : State) : Host.Outcome State Fault Refusal :=
  match (s.mx core).queue with
  | [] => .next s
  | m :: _ =>
    if !(m.started && (s.mx core).state = .busy && !s.frozen m.ctx) then .next s
    else
      let r := s.mxRun core m
      if r.wait then .next s
      else
        let q := s.mxQueue core m
        let s := (r.st.mxTimes core m t).modMx core (fun x => { x with queue := x.queue.filter (fun c => c.id ≠ m.id) })
        let s := if m.fromSeq then s.modSeq (slotCl core) (fun x => x.mxDone core m.id) else s
        let s := match q with | some k => s.progress k | none => s
        .next (s.mxIdle core)

/-- ARRAY_RAMP_DOWN: one more column group turns off in an idle array (R124); none in FV-40 mode (R126). -/
def execArrayRampDown (core : Nat) (s : State) : Host.Outcome State Fault Refusal :=
  let m := s.mx core
  let c := s.core core
  if m.queue.any (fun x => x.started) || (c.kernel.isSome && c.cur.fv40) then .next s
  else .next (s.modMx core (fun m => { m with groupsOn := m.groupsOn - 1 }))

/-- Write ENABLE of a matrix engine: OFF to CLEARING, IDLE to OFF, else at the next IDLE (R130). -/
def State.setMxEnable (s : State) (core : Nat) (on : Bool) : State :=
  let s := s.setRf (mxR core 0x10) 0 0 (b2n on)
  let st := (s.mx core).state
  if on && st = .off then
    (((s.modMx core (fun m => { m.cleared with state := .clearing })).setReg (mxR core 0x50) 0).setReg (mxR core 0x58) 0).setReg (mxR core 0x60) 0
  else if !on && st = .idle then s.modMx core (fun m => { m with state := .off })
  else s

/-- MX_ENABLE_WRITE (R130, R134): RWP. -/
def execMxEnableWrite (p : Path) (core : Nat) (on : Bool) (s : State) : Host.Outcome State Fault Refusal :=
  .next (s.regGateP p (mxR core 0x10) (fun t => t.setMxEnable core on))

end Sys2Proof.Machine
end

