-- ==== Sys2Proof/Machine/Neg.lean ====
section
/-! DEFINITION. Negatives, replicas and repair in service (15_negatives_and_repair.md): plans, the fabric image and its
restore, digests, service commands and the sparing of a core. -/

namespace Sys2Proof.Machine

/-! ### Plans (R588, R591, R611) -/

/-- Whether an operation of a plan is a valid PUT of its group that its trigger fence starts. -/
def State.planOpOk (s : State) (p o : Nat) : Bool :=
  let e := s.lkOp o
  entValid e && opKind e = 4 && opGroup e = s.planOd p 6 && opTrigger e = s.planOd p 4

/-- Whether a plan passes the checks of R588 but for its image area. -/
def State.planFits (s : State) (p : Nat) : Bool :=
  let c := s.planOd p 2
  (s.ctx c).st = .live && (s.ctx c).part = p && s.fenceOf c (s.planOd p 3) && s.fenceOf c (s.planOd p 4) && s.planOd p 3 ≠ s.planOd p 4
    && (s.planOps p).all (fun o => s.planOpOk p o) && entValid (s.lkGroup (s.planOd p 6)) && grpPart (s.lkGroup (s.planOd p 6)) = p
    && s.planOd p 7 % 65536 = 0 && decide (128 ≤ s.planOd p 8)

/-- ENABLE is set: the plan is checked, and its first due time is τ after this (R588 to R591; log 33). -/
def State.planStart (s : State) (p : Nat) : State × Option Nat :=
  if !s.planFits p then (s, some stBadDesc)
  else
    let r := State.rangeOwned (cdiv (s.planOd p 8) 64) s p (s.planOd p 7)
    if r.1 ≠ some true then (s, some stBadDesc)
    else if s.planOn p then (r.2, some stOk)
    else
      let x : Plan := { state := 1, n := 1, c := s.planOd p 10 * 100000000, hist := [s.planOd p 9 * 100000000], tLast := s.now, tRise := s.now, done := (s.plan p).done }
      ((r.2.modPlan p (fun _ => { x with due := s.now + x.tau })).odSet (0x6030 + p) 1 1, some stOk)

/-- A write of 0x6030 + p:01. -/
def State.planSet (s : State) (p v : Nat) : State × Option Nat :=
  if 1 < v then (s, some stBadDesc) else if v = 0 then (s.planOff p, some stOk) else s.planStart p

/-- PLAN_ENABLE. -/
def execPlanEnable (p : Path) (part : Nat) (v : Byte) (s : State) : Host.Outcome State Fault Refusal :=
  .next (if part < 8 then s.odCmd p (0x6030 + part) 1 (fun t => t.planSet part v.toNat) else s)

/-- A failure report for a group (R591). -/
def State.failureReport (s : State) (g : Nat) : State × Option Nat :=
  if 4096 ≤ g then (s, some stBadDesc)
  else (s.each ((List.range 8).filter (fun p => s.planOn p && decide (s.planOd p 6 = g))) (fun t p => t.planFailure p none), some stOk)

/-- FAILURE_REPORT. -/
def execFailureReport (p : Path) (group : Nat) (s : State) : Host.Outcome State Fault Refusal :=
  .next (s.odCmd p 0x6043 1 (fun t => t.failureReport group))

/-! ### The fabric image (R594) -/

/-- Valid groups of a partition. -/
def State.partGroups (s : State) (p : Nat) : List Nat :=
  (s.lk.groups.filter (fun e => entValid e.2 && grpPart e.2 = p)).map (·.1)

/-- The valid operations of groups. -/
def State.groupsOps (s : State) (gs : List Nat) : List Nat :=
  (s.lk.ops.filter (fun e => entValid e.2 && gs.contains (opGroup e.2))).map (·.1)

/-- LK_ROUTE of a port as bytes. -/
def State.routeBytes (s : State) (port : Nat) : List Byte := (List.range 2048).flatMap (fun w => leBytes 4 (s.reg (lkR port (0x8000 + 4 * w))))

/-- A member list, padded to 64 bytes. -/
def listBytes (ms : List Nat) : List Byte :=
  let b := ms.flatMap (fun n => leBytes 2 n)
  b ++ List.replicate (cdiv b.length 64 * 64 - b.length) 0

/-- The entry of a group with another epoch and another MEMBERS. -/
def grpMoved (b : List Byte) (epoch members : Nat) : List Byte := b.take 4 ++ leBytes 4 epoch ++ slice b 8 8 ++ leBytes 8 members ++ b.drop 24

/-- Group records and member lists, the lists from an offset on. -/
def State.groupRecords (s : State) : List Nat → Nat → List Byte × List Byte
  | [], _ => ([], [])
  | g :: gs, off =>
    let ms := s.members g
    let l := listBytes ms
    let r := s.groupRecords gs (off + l.length)
    (leBytes 8 g ++ leBytes 8 off ++ leBytes 4 ms.length ++ List.replicate 44 0 ++ grpMoved (s.lkGroup g) (grpEpoch (s.lkGroup g)) 0 ++ r.1, l ++ r.2)

/-- The fabric image of negative N of a partition. -/
def State.fabricImage (s : State) (p n : Nat) : List Byte :=
  let gs := s.partGroups p
  let os := s.groupsOps gs
  let lists := 0x20000 + 128 * gs.length + 128 * os.length
  let r := s.groupRecords gs lists
  let size := lists + r.2.length
  leBytes 8 n ++ leBytes 8 s.now ++ leBytes 4 (s.lkCfg 1 + p * 65536) ++ leBytes 4 (gs.length + os.length * 65536) ++ leBytes 8 size
    ++ List.replicate (0x10000 - 32) 0 ++ (List.range 8).flatMap (fun k => s.routeBytes (k + 1))
    ++ r.1 ++ os.flatMap (fun o => leBytes 8 o ++ List.replicate 56 0 ++ s.lkOp o) ++ r.2

/-- NEGATIVE_DUE: the image of negative N is written and DUE is signalled; an image that does not fit fails the negative
(R592). An image that its memory does not take fails it too (log 33). -/
def execNegativeDue (part : Nat) (s : State) : Host.Outcome State Fault Refusal :=
  let x := s.plan part
  if x.state ≠ 1 || decide (s.now < x.due) then .next s
  else
    let img := s.fabricImage part x.n
    if s.planOd part 8 * 1024 < img.length then .next ((s.negFail part).signal (s.planOd part 3) x.n true)
    else
      let r := s.ipaWriteMem part (s.planOd part 7) img []
      if r.wait then .next s
      else if r.fault.isSome || r.status.isSome then .next ((r.st.negFail part).signal (s.planOd part 3) x.n true)
      else .next ((r.st.modPlan part (fun x => { x with state := 2, tDue := s.now, late := false })).signal (s.planOd part 3) x.n false)

/-- NEGATIVE_LATE: no TRIGGER within τ of DUE counts once (R593). -/
def execNegativeLate (part : Nat) (s : State) : Host.Outcome State Fault Refusal :=
  let x := s.plan part
  .next (if x.state = 2 ∧ !x.late ∧ x.tDue + x.tau ≤ s.now then (s.modPlan part (fun x => { x with late := true })).odBump 0x61F0 4 1 else s)

/-! ### Restoring the fabric (R595, R596) -/

/-- A group as an image or a table gives it: index, entry, and nodes. -/
structure GroupImg where
  idx : Nat
  entry : List Byte
  nodes : List Nat
  hit : Bool := false

/-- Nodes of a list of bytes. -/
def nodesOf (n : Nat) (bs : List Byte) : List Nat := (List.range n).map (fun i => sliceNat bs (2 * i) 2)

/-- Replace a node in a group. -/
def GroupImg.replace (fr dst : Nat) (g : GroupImg) : GroupImg :=
  { g with nodes := g.nodes.map (fun n => if n = fr then dst else n), hit := fr ≠ dst && g.nodes.contains fr }

/-- The epoch that a group is written with. -/
def GroupImg.epoch (g : GroupImg) : Nat := grpEpoch g.entry + b2n g.hit

/-- A group of an image. -/
def State.imgGroup (s : State) (image i : Nat) : GroupImg × Bool :=
  let b := (s.ownRead (image + 0x20000 + 128 * i) 128).1
  let n := sliceNat b 16 4
  let e := b.drop 64
  ({ idx := sliceNat b 0 2, entry := e, nodes := nodesOf (grpN e) (s.ownRead (image + sliceNat b 8 8) (2 * grpN e)).1 }, decide (n = grpN e))

/-- Groups with the addresses of their lists, from an address on. -/
def placeLists : List GroupImg → Nat → List (GroupImg × Nat)
  | [], _ => []
  | g :: gs, a => (g, a) :: placeLists gs (a + (listBytes g.nodes).length)

/-- Write restored groups and operations in order; none when one is refused. -/
def State.putGroups (s : State) : List (GroupImg × Nat) → Option State
  | [] => some s
  | (g, a) :: gs =>
    let b := grpMoved g.entry g.epoch a
    if 4096 ≤ g.idx || !entValid b || 2 ^ 32 ≤ g.epoch || s.groupBadAs g.idx b (g.nodes.getD (grpSelf b) 65536) then none
    else ((s.ownWrite a (listBytes g.nodes)).groupPut g.idx b).putGroups gs

/-- Write restored operations. -/
def State.putOps (s : State) : List (Nat × List Byte) → Option State
  | [] => some s
  | (o, b) :: os =>
    if 1024 ≤ o || !entValid b then none
    else
      let r := s.opStore o b
      if r.2 ≠ stOk then none else r.1.putOps os

/-- Write the route tables of an image. -/
def State.putRoutes (s : State) (image : Nat) : State :=
  s.each (List.range 8) (fun t k =>
    let b := (s.ownRead (image + 0x10000 + 0x2000 * k) 0x2000).1
    t.each (List.range 2048) (fun t w => t.setReg (lkR (k + 1) (0x8000 + 4 * w)) (sliceNat b (4 * w) 4)))

/-- RESTORE: the state, and its status. -/
def State.restoreFabric (s : State) (p image fr dst : Nat) (routes : Bool) : State × Nat :=
  let hd := (s.ownRead image 64).1
  let ng := sliceNat hd 0x14 2
  let no := sliceNat hd 0x16 2
  let gs := (List.range ng).map (fun i => s.imgGroup image i)
  let os := (List.range no).map (fun i => let b := (s.ownRead (image + 0x20000 + 128 * (ng + i)) 128).1; (sliceNat b 0 2, b.drop 64))
  let placed := placeLists (gs.map (fun g => g.1.replace fr dst)) (s.sysArea p + 0x220000)
  let size := sumNat (gs.map (fun g => (listBytes g.1.nodes).length))
  if bits (sliceNat hd 0x10 4) 18 16 ≠ p || !gs.all (·.2) || gs.any (fun g => entValid (s.lkGroup g.1.idx)) || os.any (fun o => entValid (s.lkOp o.1)) then (s, stBadDesc)
  else if 1966080 < size then (s, stQuota)
  else match (s.putGroups placed).bind (fun t => t.putOps os) with
    | none => (s, stBadDesc)
    | some t => (if routes then t.putRoutes image else t, stOk)

/-- REMAP: the lists of the partition's valid groups that hold the node are rewritten where they stand. -/
def State.remapFabric (s : State) (p fr dst : Nat) : State × Nat :=
  let gs := (s.partGroups p).map (fun g => ({ idx := g, entry := s.lkGroup g, nodes := s.members g } : GroupImg).replace fr dst)
  match s.putGroups ((gs.filter (·.hit)).map (fun g => (g, grpMembers g.entry))) with
  | none => (s, stBadDesc)
  | some t => (t, stOk)

/-- A write of 0x6042:01 (R595): the reply is kept in 0x6042:02. -/
def State.fabricCmd (s : State) (w : Words4) : State × Option Nat :=
  let a := w.w0.toNat
  let n := w.w2.toNat
  let bad : Bool := bits a 55 51 ≠ 0 || bits a 47 0 ≠ 0 || 2 ^ 52 ≤ w.w1.toNat || bits n 63 32 ≠ 0 || 2 ≤ w.w3.toNat
  let r := if bad then (s, stBadDesc)
    else if bits a 63 56 = 1 then s.restoreFabric (bits a 50 48) w.w1.toNat (bits n 31 16) (bits n 15 0) (bit w.w3.toNat 0)
    else if bits a 63 56 = 2 then s.remapFabric (bits a 50 48) (bits n 31 16) (bits n 15 0)
    else (s, stBadDesc)
  (r.1.odSet 0x6042 2 r.2, some r.2)

/-- RESTORE. -/
def execRestore (p : Path) (w : Words4) (s : State) : Host.Outcome State Fault Refusal := .next (s.odCmd p 0x6042 1 (fun t => t.fabricCmd w))

/-- REMAP. -/
def execRemap (p : Path) (w : Words4) (s : State) : Host.Outcome State Fault Refusal := .next (s.odCmd p 0x6042 1 (fun t => t.fabricCmd w))

/-! ### Digests (R597, R598) -/

/-- A write of 0x6041:01: a digest command starts. -/
def State.digestCmd (s : State) (w : Words4) : State × Option Nat :=
  let a := w.w0.toNat
  let act := bits a 63 56
  let bad : Bool := s.ng.digest.isSome || (act ≠ 1 && act ≠ 2) || bits a 55 51 ≠ 0 || bits a 47 0 % 32 ≠ 0 || 2 ^ 52 ≤ w.w1.toNat || w.w1.toNat % 32 ≠ 0
    || 2 ^ 52 ≤ w.w2.toNat || w.w2.toNat % 64 ≠ 0 || 2 ^ 52 ≤ w.w3.toNat || w.w3.toNat % 64 ≠ 0
  if bad then (s, some stBadDesc)
  else
    let j : DigestJob := { compare := decide (act = 2), part := bits a 50 48, len := bits a 47 0, addr := w.w1.toNat, out := w.w2.toNat, ref := w.w3.toNat }
    (({ s with ng := { s.ng with digest := some j } }).setReg (ngR 0x10) (s.rf (ngR 0x10) 7 0 + 2 ^ 8), some stOk)

/-- DIGEST. -/
def execDigest (p : Path) (w : Words4) (s : State) : Host.Outcome State Fault Refusal := .next (s.odCmd p 0x6041 1 (fun t => t.digestCmd w))

/-- COMPARE. -/
def execCompare (p : Path) (w : Words4) (s : State) : Host.Outcome State Fault Refusal := .next (s.odCmd p 0x6041 1 (fun t => t.digestCmd w))

/-- Read one page's piece for the digest engine: not charged (R597). -/
def State.digestPage (p : Nat) (r : VaRes) (pc : Nat × Nat) : VaRes :=
  if r.fault.isSome || r.wait then r
  else
    let w := r.st.s2Xlate p pc.1
    if w.wait then { r with wait := true }
    else match w.out with
      | .error f => { r with st := w.st, fault := some f }
      | .ok e =>
        if !e.rd then { r with st := w.st, fault := some { cause := 0x72, stage := 2, ipa := pc.1 } }
        else
          let m := w.st.readMem { hubWho e with free := true } e.hint (e.out + (pc.1 - e.va)) pc.2
          if m.wait then { r with wait := true }
          else { r with st := m.st, data := r.data ++ m.data, poison := r.poison ++ m.poison, status := r.status.orElse (fun _ => m.status),
                        fault := m.undec.map (fun _ => { cause := 0x75, ipa := pc.1 }) }

/-- Where a digest command stands: its digests, its status so far, and whether it stopped or waits. -/
structure DigRes where
  st : State
  out : List Byte := []
  done : Nat := 0
  status : Nat := 0
  stop : Bool := false
  wait : Bool := false

/-- A chunk that has been read is digested: a poisoned sector makes its digest all ones. -/
def DigRes.chunk (r : DigRes) (i : Nat) (v : VaRes) : DigRes :=
  if v.wait then { r with wait := true }
  else match v.fault with
    | some f => { r with st := v.st, status := combineStatus r.status (causeStatus f.cause), stop := true }
    | none =>
      let bad : Bool := v.poison ≠ []
      let st := match v.status with | some c => combineStatus r.status c | none => if bad then combineStatus r.status stPoison else r.status
      { r with st := v.st, out := r.out ++ (if bad then List.replicate 48 0xFF else Config.sha384 v.data), done := i + 1, status := st }

/-- Read and digest one chunk. -/
def State.digestChunk (j : DigestJob) (r : DigRes) (i : Nat) : DigRes :=
  if r.stop || r.wait then r
  else r.chunk i ((pages (j.addr + i * 67108864) (Nat.min 67108864 (j.len - i * 67108864))).foldl (State.digestPage j.part) { st := r.st })

/-- The mismatches of a COMPARE: their count and the first (R598). -/
def mismatches (n : Nat) (a b : List Byte) : Nat × Nat :=
  let l := (List.range n).filter (fun i => slice a (48 * i) 48 ≠ slice b (48 * i) 48)
  (l.length, l.headD 0)

/-- A digest command ends: its reply and NG_DIGSTAT. -/
def State.digestEnd (s : State) (done status count first : Nat) : State :=
  let s := { s with ng := { s.ng with digest := none } }
  (s.setReg (ngR 0x10) (done * 2 ^ 32 + status)).odSet 0x6041 2 (first * 2 ^ 40 + count * 2 ^ 8 + status)

/-- DIGEST_DONE: the chunks are read, digested and written, and compared with the reference array (R598). -/
def execDigestDone (s : State) : Host.Outcome State Fault Refusal :=
  match s.ng.digest with
  | none => .next s
  | some j =>
    let n := cdiv j.len 67108864
    let r := (List.range n).foldl (State.digestChunk j) { st := s }
    if r.wait then .next s
    else
      let w := r.st.ipaWriteMem j.part j.out r.out []
      if w.wait then .next s
      else
        let st := match w.fault, w.status with
          | some f, _ => combineStatus r.status (causeStatus f.cause)
          | none, some c => combineStatus r.status c
          | none, none => r.status
        if r.stop || w.fault.isSome || !j.compare then .next (w.st.digestEnd r.done st 0 0)
        else
          let v := (pages j.ref (48 * n)).foldl (State.digestPage j.part) { st := w.st }
          if v.wait then .next s
          else
            let st := match v.fault, v.status with
              | some f, _ => combineStatus st (causeStatus f.cause)
              | none, some c => combineStatus st c
              | none, none => if v.poison ≠ [] then combineStatus st stPoison else st
            let m := if v.fault.isSome then (0, 0) else mismatches n r.out v.data
            .next (v.st.digestEnd r.done st m.1 m.2)

/-! ### Sparing a core (R599 to R601, R608) -/

/-- A free position of a cluster: one that carries no logical core and was not retired (01 R23). -/
def State.freePos (s : State) (cl : Nat) : Option Nat :=
  (List.range 9).find? (fun p => !s.ng.retired.getD (cl * 16 + p) false && !(List.range 8).any (fun n => s.slotOf cl n = some (cl * 16 + p)))

/-- A core that has no block and no stores left leaves its kernel; the kernel's further blocks may start on its spare. -/
def State.leaveKernel (s : State) (slot : Nat) (spare : Option Nat) : State :=
  match (s.core slot).kernel with
  | none => s
  | some kid =>
    match s.kernel kid with
    | none => s
    | some k =>
      let t := s.kernelOffCore slot kid k
      match t.kernel kid with
      | none => t
      | some k => t.setKernel kid { k with cores := (k.cores.filter (· ≠ slot)) ++ (match spare with | some x => [x] | none => if k.cores = [slot] then [slot] else []) }

/-- Whether a core may be spared now: no block runs on it and its stores and matrix commands are done (R600 step 2). -/
def State.spareReady (s : State) (slot : Nat) : Bool :=
  let te := (s.core slot).te
  (te = .idle || te = .off) && s.coreQuiet slot

/-- Steps 2 to 5 of R600 on logical core `l`, or its retirement where the cluster has no spare (R23): the state, and the status. -/
def State.spareCore (s : State) (l : Nat) : State × Nat :=
  let cl := l / 8
  match s.slotOf cl (l % 8) with
  | none => (s, stUnitOffline)
  | some slot =>
    let spare := s.freePos cl
    let s := s.leaveKernel slot (spare.map (fun p => cl * 16 + p))
    let s := (s.setTeEnable slot false).setMxEnable slot false
    let s := { s with ng := { s.ng with retired := s.ng.retired.set slot false true } }
    match spare with
    | some p =>
      let s := { s with ng := { s.ng with coreMap := s.ng.coreMap.set l (l % 8) p } }
      let s := (s.setTeEnable (cl * 16 + p) true).setMxEnable (cl * 16 + p) true
      ((s.odBump 0x61F0 6 1).ngEvent 1, stOk)
    | none =>
      let s := { s with ng := { s.ng with absent := s.ng.absent.set l false true } }
      let s := match s.clPart cl with | some p => s.errVec p 0 | none => s
      (s.ngEvent 1, stUnitOffline)

/-- Service commands that wait are answered. -/
def State.svcAnswer (s : State) (pick : SvcWait → Bool) (st : Nat) : State :=
  let l := s.ng.svc.filter pick
  let s := { s with ng := { s.ng with svc := s.ng.svc.filter (fun w => !pick w) } }
  s.each l (fun t w => (t.odSet 0x6040 2 st).odAnswer (match w with | .brick p _ => p | .core p _ => p) st)

/-- Spare a core that is ready, and answer the service commands that asked for it (R600, R608). -/
def State.spareNow (s : State) (l : Nat) : State :=
  let r := s.spareCore l
  r.1.svcAnswer (fun w => match w with | .core _ x => x = l | _ => false) r.2

/-! ### Service commands (R603 to R608) -/

/-- Keys of the service LEDs: bricks from 0, fans from 16, cages from 32, the module 48. -/
def ledKey (kind n : Nat) : Nat := 16 * kind + n

/-- Set a service LED. -/
def State.led (s : State) (k : Nat) (on : Bool) : State := { s with ng := { s.ng with leds := s.ng.leds.set k false on } }

/-- A command that is done: its status is kept. -/
def State.svcDone (s : State) (st : Nat) : State × Option Nat := (s.odSet 0x6040 2 st, some st)

/-- PREPARE_MODULE: leaving is announced, the fabric stops and every peer is LOST (R607). -/
def State.prepareModule (s : State) : State :=
  let held := (s.lk.peers.filter (fun e => e.2.st ≠ .closed)).map (·.1)
  let s := s.led (ledKey 3 0) true
  let s := if s.fabricOn then s.each ((s.lk.peers.filter (fun e => e.2.st = .open_)).map (·.1)) (fun t n => t.lkPlain n (t.helloPkt n 0)) else s
  let s := { s with lk := { s.lk with stopped := true } }
  s.each held (fun t n => t.peerLost n)

/-- SPARE_CORE: DRAIN is set on the core and the maintenance step is asked for (R600 step 1, R608). -/
def State.spareAsk (s : State) (p : Path) (l : Nat) : State × Option Nat :=
  match s.slotOf (l / 8) (l % 8) with
  | none => s.svcDone stUnitOffline
  | some slot =>
    let s := s.setDrain slot true
    let m : Maint := { work := .testCore slot false, part := s.clPart (l / 8) }
    ({ s with ng := { s.ng with svc := s.ng.svc ++ [.core p l] }, pt := { s.pt with maint := if s.pt.maint.contains m then s.pt.maint else s.pt.maint ++ [m] } }, none)

/-- A write of 0x6040:01 by a path (R603). -/
def State.serviceCmd (s : State) (p : Path) (v : Nat) : State × Option Nat :=
  let act := bits v 31 24
  let u := bits v 7 0
  if bits v 23 8 ≠ 0 then s.svcDone stBadDesc
  else if act = 1 && decide (u < 6) then ({ s with ng := { s.ng with svc := s.ng.svc ++ [.brick p u] } }, none)
  else if act = 2 && decide (u < 6) && s.ac then
    ((({ s with pw := { s.pw with fans := s.pw.fans.upd u {} (fun f => { f with running := false, released := true }) } }).led (ledKey 1 u) true).svcDone stOk)
  else if act = 3 && decide (1 ≤ u) && decide (u ≤ 8) then ((s.setQuadOut u 0xF).led (ledKey 2 u) true).svcDone stOk
  else if act = 4 && decide (1 ≤ u) && decide (u ≤ 8) then
    ((s.setQuadOut u 0).led (ledKey 2 u) false).svcDone (if (s.port u).refused then stUnitOffline else stOk)
  else if act = 5 && u = 0 then s.prepareModule.svcDone stOk
  else if act = 6 && decide (u < 128) then s.spareAsk p u
  else s.svcDone stBadDesc

/-- The write of a service command. -/
def State.service (s : State) (p : Path) (v : W32) : State := s.odCmd p 0x6040 1 (fun t => t.serviceCmd p v.toNat)

/-- RELEASE_BRICK. -/
def execReleaseBrick (p : Path) (v : W32) (s : State) : Host.Outcome State Fault Refusal := .next (s.service p v)

/-- RELEASE_FAN. -/
def execReleaseFan (p : Path) (v : W32) (s : State) : Host.Outcome State Fault Refusal := .next (s.service p v).fanCheck

/-- RELEASE_CAGE. -/
def execReleaseCage (p : Path) (v : W32) (s : State) : Host.Outcome State Fault Refusal := .next (s.service p v)

/-- RETURN_CAGE. -/
def execReturnCage (p : Path) (v : W32) (s : State) : Host.Outcome State Fault Refusal := .next (s.service p v)

/-- PREPARE_MODULE. -/
def execPrepareModule (p : Path) (v : W32) (s : State) : Host.Outcome State Fault Refusal := .next (s.service p v)

/-- SPARE_CORE. -/
def execSpareCore (p : Path) (v : W32) (s : State) : Host.Outcome State Fault Refusal := .next (s.service p v)

/-- BRICK_RELEASE_END: within the limit of one brick fewer the brick ramps to zero, else it stays on (R605). Fewer than three
bricks have no limit, and no load fits (R604, 18 R678; log 33). -/
def execBrickReleaseEnd (inputW : Nat) (s : State) : Host.Outcome State Fault Refusal :=
  match s.ng.svc.findSome? (fun w => match w with | .brick _ n => some n | _ => none) with
  | none => .next s
  | some n =>
    let mine (w : SvcWait) : Bool := match w with | .brick _ m => m = n | _ => false
    if 3 ≤ s.bricksOn ∧ inputW ≤ s.moduleLimit then
      let t := ({ s with pw := { s.pw with bricks := s.pw.bricks.upd n {} (fun b => { b with delivering := false, released := true }) } }).led (ledKey 0 n) true
      .next (t.svcAnswer mine stOk)
    else .next (s.svcAnswer mine stTimeout)

end Sys2Proof.Machine
end

