-- ==== Sys2Proof/Machine/Maint.lean ====
section
/-! DEFINITION. Maintenance steps of the firmware (13_partitions_and_meter.md R510, R528, R539; 15_negatives_and_repair.md R599,
R600). -/

namespace Sys2Proof.Machine

/-- Whether two works concern the same unit: how a test ends does not tell them apart. -/
def sameWork (a b : MaintWork) : Bool :=
  match a, b with
  | .testCore x _, .testCore y _ => x = y
  | .testBank d x _, .testBank e y _ => d = e && x = y
  | _, _ => a = b

/-- The partition that owns the unit of a work, if one does (R510, R528): a core of its clusters or a channel set of its own. -/
def State.workPart (s : State) (w : MaintWork) : Option Nat :=
  let ofUnit (u : UnitId) : Option Nat := if u.kind = 0 then s.enabledParts.find? (fun p => s.partInUnit p u) else none
  match w with
  | .testCore slot _ => s.clPart (slotCl slot)
  | .testBank _ _ _ => none
  | .testUnit u => ofUnit u
  | .rowRepair u _ => ofUnit u
  | .sparePc pc => ofUnit ⟨0, pc / 8⟩
  | .quadRetrain _ _ => none

/-- Whether the Meter admits a maintenance step: a partition's where its best-effort budget is above zero and admission is not
stopped; the module's since none other runs (R525, R528, R531; log 25). -/
def State.maintAdmit (s : State) (w : MaintWork) : Bool :=
  match s.workPart w with
  | some p => decide (0 < (s.part p).beBudget) && !s.pt.meter.stopped
  | none => !s.pt.meter.stopped

/-- A trigger that the firmware only reports, automatic sparing being off (R599; log 33). -/
def State.sparingReport (s : State) (unit : Nat) : State := s.logEvent 0x0011 1 unit 0

/-- A core's self-test, once its blocks have run out: a core that failed, or that a service command names, is spared; another goes
back to work (R599, R600, R608). -/
def State.coreTest (s : State) (slot : Nat) (passed : Bool) : State × Bool :=
  if !s.spareReady slot then (s.setDrain slot true, false)
  else match s.logicalOf slot with
    | none => (if passed then s else { s with ng := { s.ng with retired := s.ng.retired.set slot false true } }, true)
    | some l =>
      if s.ng.svc.any (fun w => match w with | .core _ x => x = l | _ => false) || (!passed && s.odGet 0x6020 1 = 1) then (s.spareNow l, true)
      else ((if passed then s else s.sparingReport slot).setDrain slot false, true)

/-- What a maintenance step does to its unit, and whether it is over; one that must wait for its unit stays (R539). -/
def State.maintDo (s : State) (w : MaintWork) : State × Bool :=
  match w with
  | .testCore slot passed => s.coreTest slot passed
  | .testBank die bank passed =>
    if passed then (s, true)
    else if (s.die die).move.isSome then (s, false)
    else (if s.odGet 0x6020 1 = 1 then s.bankRetire die bank else s.sparingReport bank, true)
  | .testUnit u => if unitExists u && (s.unit u).st = .quiesced && !(s.unit u).returning then (s.tgStart u 1, true) else (s, false)
  | .rowRepair u _ =>
    (if s.odGet 0x3300 5 = 1 && decide (u.kind < 2) && ((s.unit u).st = .inService || (s.unit u).st = .draining) then s.odBumpSat 0x6180 (if u.kind = 0 then 7 else 8) 32 1 else s, true)
  | .sparePc pc => ((s.spareStart .firmware pc).1, true)
  | .quadRetrain port quad => (if 1 ≤ port ∧ port ≤ 8 ∧ quad < 4 then (s.quadsLeave port (2 ^ quad)).quadsTrain port (2 ^ quad) else s, true)

/-- MAINTENANCE_STEP: the work is asked for, waits until it is admitted and its unit can leave service, and then is done. -/
def execMaintenanceStep (w : MaintWork) (s : State) : Host.Outcome State Fault Refusal :=
  let s := if s.pt.maint.any (fun m => sameWork m.work w) then s else { s with pt := { s.pt with maint := s.pt.maint ++ [{ work := w, part := s.workPart w }] } }
  if !s.maintAdmit w then .next s
  else
    let r := s.maintDo w
    .next (if r.2 then { r.1 with pt := { r.1.pt with maint := r.1.pt.maint.filter (fun m => !sameWork m.work w) } } else r.1)

end Sys2Proof.Machine
end

