-- ==== Sys2Proof/Machine/Sched.lean ====
section
/-! DEFINITION. The scheduler: which step is placed next and where, slices and pre-emption (13_partitions_and_meter.md R504 to
R513, R525), and LEARN_FORGET (R544). -/

namespace Sys2Proof.Machine

/-! ### Order of steps (R506 to R508) -/

/-- Put a queue into a list sorted by a test: `lt a b` when a comes before b. -/
def insertBy (lt : Nat → Nat → Bool) (x : Nat) : List Nat → List Nat
  | [] => [x]
  | y :: t => if lt x y then x :: y :: t else y :: insertBy lt x t

/-- Sort queues by a test. -/
def sortBy (lt : Nat → Nat → Bool) (l : List Nat) : List Nat := l.foldr (insertBy lt) []

/-- The absolute deadline of a step in ticks, if it has one (R507). -/
def StepRec.deadline (r : StepRec) : Option Nat := if r.deadlineUs = 0 then none else some (r.tAccept + r.deadlineUs * 100)

/-- Whether a deadline is earlier than another; no deadline comes last. -/
def deadlineLt (a b : Option Nat) : Bool :=
  match a, b with
  | some x, some y => decide (x < y)
  | some _, none => true
  | none, _ => false

/-- Deadline of a queue's step. -/
def State.deadlineOf (s : State) (q : Nat) : Option Nat := (s.stepOf q).bind StepRec.deadline

/-- The order of real-time steps: deadline, then queue (R507). -/
def State.rtBefore (s : State) (a b : Nat) : Bool :=
  deadlineLt (s.deadlineOf a) (s.deadlineOf b) || (!deadlineLt (s.deadlineOf b) (s.deadlineOf a) && decide (a < b))

/-- The order of best-effort steps: virtual time, then queue (R508). -/
def State.beBefore (s : State) (a b : Nat) : Bool :=
  let x := (s.queue a).vtime
  let y := (s.queue b).vtime
  decide (x < y) || (decide (x = y) && decide (a < b))

/-- Whether a step can be chosen: it is READY, or PARKED, and its context is not frozen (R504). -/
def State.choosable (s : State) (r : StepRec) : Bool := (r.st = .ready || r.st = .parked) && !s.frozen r.ctx

/-- The steps that wait for clusters, in order: real-time ones first (R506 to R508). -/
def State.stepOrder (s : State) (p : Nat) : List Nat :=
  sortBy s.rtBefore (s.stepsIn [p] (fun r => r.rt && s.choosable r)) ++ sortBy s.beBefore (s.stepsIn [p] (fun r => !r.rt && s.choosable r))

/-! ### Clusters (R505) -/

/-- Free clusters of a partition: no step is placed there. -/
def State.freeCls (s : State) (p : Nat) : List Nat :=
  (s.partCls p).filter (fun c => let q := s.seq c; (q.state = .idle && q.queue = none) || q.state = .parked && !s.pt.steps.any (fun e => e.2.cls.contains c))

/-- Take n of a list of clusters: from one die where one holds enough, the preferred die first, else the lowest numbers. -/
def pickDie (l : List Nat) (n : Nat) (pref : Nat) : List Nat :=
  let on (d : Nat) : List Nat := l.filter (fun c => clDie c = d)
  if n ≤ (on pref).length then (on pref).take n else if n ≤ (on (1 - pref)).length then (on (1 - pref)).take n else l.take n

/-- The clusters that a step takes: free ones that last ran its context first, then on one die, then the lowest (R505). -/
def State.pickCls (s : State) (free : List Nat) (ctx n : Nat) : List Nat :=
  let mine := free.filter (fun c => s.pt.lastCtx.getD c 0 = ctx + 1)
  let rest := free.filter (fun c => s.pt.lastCtx.getD c 0 ≠ ctx + 1)
  let got := if n ≤ mine.length then pickDie mine n 0
    else mine ++ pickDie rest (n - mine.length) (match mine with | c :: _ => clDie c | [] => 0)
  (List.range 16).filter (fun c => got.contains c)

/-- Place a step on clusters: it is RUNNING, its sequencers hold it, duty returns to 16/16 (R504, R505, R530). -/
def State.place (s : State) (q : Nat) (r : StepRec) (a : Admit) (cls : List Nat) : State :=
  let s := s.modPart r.part (fun p => if a.rtPool then { p with rtProj := p.rtProj + a.x } else { p with beProj := p.beProj + a.x })
  let s := s.each (s.placement q) (fun t c => if (t.seq c).state = .parked then t.seqIdle c else t)
  let s := s.each (cls.zip (List.range 16)) (fun t x =>
    (t.setDuty x.1 16).modSeq x.1 (fun y => { state := .idle, pc := y.pc, queue := some q, ctx := r.ctx, part := r.part, stepVa := r.va, rank := x.2, placed := cls.length - 1, nextMx := y.nextMx }))
  let s := s.setStep q { r with st := .running, cls := cls, tPlaced := s.now, tMark := s.now, awake := [], admitted := true, rtPool := a.rtPool, proj := a.x, deferred := false, forRt := false, drained := false, lastProgress := s.now, watch := s.odGet 0x7200 1 }
  let s := (s.setRf (mtP r.part 0x10) 31 0 (s.rf (mtP r.part 0x10) 31 0 + 1)).odBump 0x61D0 1 1
  s.reel 0 3 0x10 0x40 r.ctx q (ratNat 64 a.x) r.part

/-- The Meter defers a step: it stays READY (R525). -/
def State.defer (s : State) (q : Nat) (r : StepRec) (a : Admit) : State :=
  let s := s.setStep q { r with deferred := true }
  let s := (s.setRf (mtP r.part 0x10) 63 32 (s.rf (mtP r.part 0x10) 63 32 + 1)).odBump 0x61D0 2 1
  s.reel 0 3 0x11 0x40 r.ctx q (ratNat 64 a.x) r.part

/-! ### Yielding (R509, R511, R513) -/

/-- The lowest park slot of a partition that no step holds (R513). -/
def State.parkSlot (s : State) (p : Nat) : Option Nat :=
  (List.range 8).find? (fun i => !s.pt.steps.any (fun e => e.2.part = p && e.2.slot = some i))

/-- How many park slots of a partition are left. -/
def State.parkRoom (s : State) (p : Nat) : Nat := 8 - (s.stepsIn [p] (fun r => r.slot.isSome)).length

/-- Ask a running step to yield: every sequencer of its placement parks, into a slot of the save area. -/
def State.askYield (s : State) (q : Nat) (forRt : Bool) : State :=
  match s.stepOf q with
  | none => s
  | some r =>
    match s.parkSlot r.part with
    | none => s
    | some i =>
      let s := s.setStep q { r with st := .yielding, slot := some i, forRt := forRt, tYield := s.now }
      s.each r.cls (fun t c => t.modSeq c (fun x => { x with yield := true }))

/-- Whether a step may be asked to yield: it runs with YIELD_OK, and every sequencer has started it. -/
def State.canYield (s : State) (r : StepRec) : Bool :=
  r.st = .running && r.yieldOk && !s.frozen r.ctx && r.slot = none && r.cls.all (fun c => r.awake.contains c)

/-- The shortest start of a list of steps whose clusters reach a need, if the whole list does. -/
def State.enough (s : State) : List Nat → Nat → Option (List Nat)
  | _, 0 => some []
  | [], _ + 1 => none
  | q :: t, n + 1 =>
    let k := ((s.stepOf q).map (fun r => r.cls.length)).getD 0
    (State.enough s t (n + 1 - k)).map (fun l => q :: l)

/-- Clusters that steps already yielding will free. -/
def State.coming (s : State) (p : Nat) : Nat :=
  sumNat ((s.stepsIn [p] (fun r => r.st = .yielding)).map (fun q => ((s.stepOf q).map (fun r => r.cls.length)).getD 0))

/-- Real-time use over the last 100 buckets, in cluster-ticks (R506). -/
def State.rtUsed (s : State) (p : Nat) : Nat := sumNat (s.part p).rtUse

/-- Whether real-time use is at or below the share (R506): a bucket is 1 ms, 100,000 ticks. -/
def State.rtEntitled (s : State) (p : Nat) : Bool :=
  decide (s.rtUsed p * 100 ≤ s.odGet (0x4300 + p) 1 * (s.partSize p * 100 * 100000))

/-- The victims of a real-time step, in the order of R511. -/
def State.victims (s : State) (p q : Nat) : List Nat :=
  let be := (sortBy s.beBefore (s.stepsIn [p] (fun r => !r.rt && s.canYield r))).reverse
  let rt := (sortBy s.rtBefore (s.stepsIn [p] (fun r => r.rt && s.canYield r && deadlineLt (s.deadlineOf q) r.deadline))).reverse
  be ++ rt

/-- A step that needs n more clusters than are free (R506, R511): a real-time step within its share takes victims, where they
suffice and the save area has room. -/
def State.preempt (s : State) (p q n : Nat) (rt : Bool) : State :=
  if !rt || !s.rtEntitled p then s
  else match s.enough (s.victims p q) (n - s.coming p) with
    | none => s
    | some l => if s.parkRoom p < l.length then s else s.each l (fun t v => t.askYield v true)

/-- The scheduler's next choice: the first step in order for which enough clusters are free and that the Meter admits is placed; a
step that the Meter defers is passed over; where clusters are lacking the step holds what is free (R504 to R508, R525; that the
Meter is asked at placement is DEDUCED, log 25). -/
def State.placeNext (s : State) (p : Nat) : List Nat → State
  | [] => s
  | q :: t =>
    match s.stepOf q with
    | none => State.placeNext s p t
    | some r =>
      let n := s.stepSize r
      let free := s.freeCls p
      if n ≤ free.length then
        let a := s.admitStep r
        if a.ok then s.place q r a (s.pickCls free r.ctx n) else State.placeNext (s.defer q r a) p t
      else s.preempt p q (n - free.length) r.rt

/-- STEP_PLACE (R505 to R508, R525). -/
def execStepPlace (part : Nat) (s : State) : Host.Outcome State Fault Refusal :=
  if (s.part part).st = .active then
    let s := s.budgets
    .next (s.placeNext part (s.stepOrder part))
  else .next s

/-- Whether a best-effort step may be asked to yield for a slice (R509). -/
def State.sliceOver (s : State) (r : StepRec) : Bool :=
  !r.rt && s.canYield r && decide (r.tPlaced + s.odGet (0x4300 + r.part) 2 * 100 ≤ s.now)

/-- SLICE_ELIGIBLE: a best-effort step has run for SLICE; slicing acts where a ready best-effort step lacks clusters (R509). -/
def execSliceEligible (queue : Nat) (s : State) : Host.Outcome State Fault Refusal :=
  match s.stepOf queue with
  | none => .next s
  | some r =>
    if !s.sliceOver r then .next s
    else match sortBy s.beBefore (s.stepsIn [r.part] (fun x => !x.rt && s.choosable x)) with
      | [] => .next s
      | w :: _ =>
        match s.stepOf w with
        | none => .next s
        | some x =>
          let have_ := (s.freeCls r.part).length + s.coming r.part
          let can := (sortBy s.beBefore (s.stepsIn [r.part] (fun y => s.sliceOver y && y.ctx ≠ x.ctx))).reverse
          match s.enough can (s.stepSize x - have_) with
          | none => .next s
          | some l => .next (if s.parkRoom r.part < l.length then s else s.each l (fun t v => t.askYield v false))

/-- PREEMPT_TIMEOUT: a yield for a real-time step is not done within PREEMPT_US: DRAIN is set on the cores that run the
victim's kernels (R511, R512). -/
def execPreemptTimeout (queue : Nat) (s : State) : Host.Outcome State Fault Refusal :=
  let us := (s.queue queue).preemptUs
  match s.stepOf queue with
  | none => .next s
  | some r =>
    if r.st = .yielding && r.forRt && !r.drained && decide (0 < us) && decide (r.tYield + us * 100 ≤ s.now) then
      let ks := s.kernelsOf (fun k => k.queue = queue)
      .next ((s.each (s.coresOf ks) (fun t c => t.setDrain c true)).modStep queue (fun x => { x with drained := true }))
    else .next s

/-- What LEARN_FORGET does, and its answer. -/
def State.forgetAct (t : State) (v : Nat) : State × Option Nat :=
  let m := t.pt.meter
  let l := m.learned.map (fun x => if bit v x.part then { x with valid := false } else x)
  ({ t with pt := { t.pt with meter := { m with learned := l } } }, some stOk)

/-- LEARN_FORGET: a write of 0x2020:03 invalidates the entries of the partitions in its mask (R544). -/
def execLearnForget (p : Path) (v : Byte) (s : State) : Host.Outcome State Fault Refusal :=
  .next (s.odCmd p 0x2020 3 (fun t => t.forgetAct v.toNat))

end Sys2Proof.Machine
end

