-- ==== Sys2Proof/Machine/Meter.lean ====
section
/-! DEFINITION. The Meter's window (13_partitions_and_meter.md R516 to R531; 16_management_and_startup.md R643, R645). -/

namespace Sys2Proof.Machine

/-- The hottest of a list of temperatures, from a floor below every reading. -/
def hottest (l : List Int) : Int := l.foldl max (-128)

/-- The first sensor that reads a temperature. -/
def sensorOf (l : List Int) (t : Int) : Nat := (l.findIdx? (fun x => x = t)).getD 0

/-- The energy of a cluster in the window goes to the step placed on it (R517), normalised by ε (R519). The second part is what
was charged, by partition. -/
def State.chargeCl (a : State × SMap Nat) (c : Nat × Nat) : State × SMap Nat :=
  let s := a.1
  let e : Rat := (c.2 : Rat) / epsOf s.point
  let n := Nat.max 1 ((List.range 8).filter (fun i => (s.slotOf c.1 i).isSome)).length
  let s := s.each (s.kernelsOf (fun k => k.cl = c.1)) (fun t k =>
    match t.kernel k with
    | none => t
    | some x =>
      let on := (x.cores.filter (fun core => (t.core core).kernel = some k)).length
      t.setKernel k { x with energy := x.energy + c.2 * on / n, obsE := x.obsE + e * (on : Rat) / (n : Rat) })
  match (s.pt.steps.filter (fun x => x.2.cls.contains c.1)) with
  | (q, r) :: _ => (s.modStep q (fun x => { x with e0 := x.e0 + e }), a.2.set r.part 0 (a.2.getD r.part 0 + c.2))
  | [] => (s, a.2)

/-- Lower or raise the duty of clusters by 1/16 within their bounds. -/
def State.dutyBy (s : State) (cls : List Nat) (up : Bool) : State :=
  s.each cls (fun t c => if up then t.setDuty c (Nat.min 16 (t.duty c + 1)) else t.setDuty c (t.duty c - 1))

/-- Clusters of a partition that run real-time, or best-effort, steps. -/
def State.clsRunning (s : State) (p : Nat) (rt : Bool) : List Nat :=
  (s.stepsIn [p] (fun r => r.rt = rt)).flatMap (fun q => ((s.stepOf q).map (·.cls)).getD [])

/-- R530 for one partition. -/
def State.dutyPart (s : State) (p : Nat) : State :=
  let x := s.part p
  let low (l : List Nat) : List Nat := l.filter (fun c => 1 < s.duty c)
  let high (l : List Nat) : List Nat := l.filter (fun c => s.duty c < 16)
  let be := s.clsRunning p false
  let rt := s.clsRunning p true
  if x.share * 102 / 100 < x.used then
    let l := if low be ≠ [] then low be else low rt
    let s := s.modPart p (fun y => { y with below := 0 })
    if l = [] then s else (s.dutyBy l false).errVec p 6
  else if x.used < x.share * 95 / 100 then
    if x.below + 1 < 4 then s.modPart p (fun y => { y with below := x.below + 1 })
    else (s.dutyBy (if high rt ≠ [] then high rt else high be) true).modPart p (fun y => { y with below := 0 })
  else s.modPart p (fun y => { y with below := 0 })

/-- Projected power of the module at a point: the base and the admitted steps (R523). -/
def State.projected (s : State) (j : Nat) : Rat :=
  (s.pt.steps.filter (fun e => e.2.admitted)).foldl (fun (a : Rat) e => a + s.stepPower e.2 j) s.pt.meter.base

/-- choose_point() of R523, and the floor point of R531. -/
def State.choosePoint (s : State) : State :=
  let ceil := s.odGet 0x2000 2
  let floor := s.odGet 0x2000 3
  let m := s.pt.meter
  let cand := ((List.range 6).find? (fun j => decide (ceil ≤ j) && decide (j ≤ floor) && decide (s.projected j ≤ m.theta * (m.limit : Rat)))).getD floor
  let stage (t : State) (j : Nat) : State := t.modeRequest { kind := 1, scope := 0xFF, value := j }
  let fits (t : State) (n : Nat) : State := { t with pt := { t.pt with meter := { t.pt.meter with fits := n } } }
  if m.stopped then stage s floor
  else if s.point < cand then stage s cand
  else if cand < s.point then
    if s.odGet 0x2000 4 ≤ m.fits + 1 then fits (stage s (s.point - 1)) 0 else fits s (m.fits + 1)
  else fits s 0

/-- A bucket of real-time use ends (R506). -/
def State.bucketEnd (s : State) (p : Nat) : State :=
  s.modPart p (fun x => { x with rtUse := (x.rtUse ++ [x.rtCur]).drop (x.rtUse.length + 1 - 100), rtCur := 0 })

/-- The registers and entries that show a window (R543, R544, 18 R698). -/
def State.showWindow (s : State) (m : Measures) (t : Int) (th : Rat) : State :=
  let hot (a n : Nat) : Nat := ofSigned 8 (hottest ((m.temps.drop a).take n))
  let s := s.setReg (mtR 0x20) (ratNat 9 (th * 256) * 2 ^ 32 + hot 128 16 * 2 ^ 24 + hot 64 64 * 2 ^ 16 + hot 0 64 * 2 ^ 8 + sensorOf m.temps t)
  let s := s.bump (mtR 0x40) m.inputW
  let s := s.each ((List.range 6).zip m.brickW) (fun u x => u.setRf (mtR (0x100 + 8 * x.1)) 15 0 x.2)
  let s := ((s.odSet 0x2010 1 m.inputW).odSet 0x2010 2 (ofSigned 32 t)).odSet 0x2010 4 (ratToB32 th)
  let s := ((s.odSet 0x2030 1 m.inputMV).odSet 0x2030 2 m.inputMA).odSet 0x2030 3 m.busMV
  s.setBlob 0x2030 6 (if s.ac then (m.fanRpm ++ List.replicate 6 0).take 6 |>.flatMap (leBytes 2) else [])

/-- Whether every brick that delivers puts out more than 520 W, by the outputs given (18 R676). -/
def State.overloaded (s : State) (w : Nat → Nat) : Bool :=
  let on := (s.pw.bricks.filter (fun e => e.2.delivering)).map (·.1)
  on ≠ [] && on.all (fun n => decide (520 < w n))

/-- METER_WINDOW: the measurements of a 1 ms window, and what the Meter decides from them (R516 to R531). -/
def execMeterWindow (m : Measures) (s : State) : Host.Outcome State Fault Refusal :=
  if s.pw.phase ≠ .on then .next s else
  let t := hottest m.temps
  let th := thetaOf t (s.odGet 0x2000 5)
  let was := s.pt.meter.stopped
  let stopped := if was then decide (100 ≤ t) else decide (105 ≤ t)
  let s := s.each (s.pt.kernels.map (·.1)) (fun u k => u.kernelTime k)
  let s := s.each (s.pt.steps.map (·.1)) (fun u q => (u.accountRt q).stepTime q)
  let a := ((List.range 16).zip m.clusterUJ).foldl State.chargeCl (s, [])
  let s := a.1
  let watts (p : Nat) : Rat := (a.2.getD p 0 : Rat) / 1000
  let charged : Rat := (List.range 8).foldl (fun (x : Rat) p => x + watts p) 0
  let s := s.each (List.range 8) (fun u p => (u.modPart p (fun x => { x with used := watts p })).bucketEnd p)
  let s := s.each (List.range 8) (fun u p => u.latchPart p)
  let old := s.pt.meter
  let s := { s with pt := { s.pt with meter := { old with temps := m.temps, base := (m.inputW : Rat) - charged, theta := th, stopped := stopped, limit := s.moduleLimit, reserve := s.odGet 0x2000 6, total := m.inputW, windows := old.windows + 1, tWin := s.now } } }
  let s := s.budgets
  let s := if th < 1 then (s.each s.enabledParts (fun u p => u.errVec p 5)).odBump 0x61D0 8 1 else s
  let s := if stopped then s.each (List.range 16) (fun u c => u.setDuty c 1) else s.each s.enabledParts (fun u p => u.dutyPart p)
  let s := if stopped && !was then (s.logEvent 0x0030 2 0 0).alert 3 else s
  let s := if s.overloaded (fun n => m.brickW.getD n 0) && !s.overloaded (fun n => s.rf (mtR (0x100 + 8 * n)) 15 0) then s.odBumpSat 0x6220 4 32 1 else s
  .next ((s.choosePoint).showWindow m t th)

end Sys2Proof.Machine
end

