-- ==== Sys2Proof/Machine/Power.lean ====
section
/-! DEFINITION. Power, cooling and mechanics (18_electrical_and_mechanical.md R673 to R692; 16_management_and_startup.md R636). -/

namespace Sys2Proof.Machine

/-! ### Power-up and power-down (R678, R680 to R683) -/

/-- A brick that power-up enables. -/
def Brick.usable (b : Brick) : Bool := b.present && b.genuine && !b.failed

/-- Power-up: REFCLK is chosen and ROOT locks, the bricks and fans run, and with three bricks the hub is released in stage ROM; with
fewer the module holds (R678, R680; 16 R620, R636; 01 R32, R39). The time stamp counts from zero (01 R34). -/
def State.powerGo (s : State) : State :=
  let few : Bool := decide ((s.pw.bricks.filter (fun e => e.2.usable)).length < 3)
  if few then { s with pw := { s.pw with phase := .held true, holdoff := false } }
  else
    let p := s.pw.pins
    let pw := { s.pw with phase := .on, holdoff := false, bricks := s.pw.bricks.mapAll {} (fun _ b => { b with delivering := b.usable }),
                          fans := s.pw.fans.mapAll {} (fun _ f => { f with running := f.fitted }) }
    let s : State := { s with now := 0, pw := pw, clk := { osc := !p.j2Ok }, host := { s.host with perst := true }, mg := { s.mg with slotId := p.slotId % 8, silent := p.slotId % 8 = 7 || p.addressInUse } }
    let s := if s.mg.slotId = 7 then s.slotStatus.alert 7 else s.slotStatus
    let s := if p.addressInUse && s.mg.slotId ≠ 7 then s.logEvent 0x0005 1 0 0 else s
    s.setStage .rom

/-- POWER_UP: PWR_EN rises. A rise within the 500 ms after a power-down has no effect until they have passed (R683). -/
def execPowerUp (pins : PowerPins) (s : State) : Host.Outcome State Fault Refusal :=
  if s.pw.pwrEn then .next s
  else
    let t := { s with pw := { s.pw with pwrEn := true, pins := pins } }
    .next (if t.pw.phase = .off ∧ !t.pw.holdoff then t.powerGo else t)

/-- PWR_EN_FALL: the power-down sequence, and the held state ends (R681, R682). -/
def execPwrEnFall (s : State) : Host.Outcome State Fault Refusal :=
  if !s.pw.pwrEn then .next s
  else
    let t := if s.pw.phase = .off then s else s.powerLost .off true
    .next { t with pw := { t.pw with pwrEn := false } }

/-- RESTART_HOLDOFF: the 500 ms after a power-down have passed (R683). -/
def execRestartHoldoff (pins : PowerPins) (s : State) : Host.Outcome State Fault Refusal :=
  if s.pw.phase ≠ .off || !s.pw.holdoff then .next s
  else if s.pw.pwrEn then .next ({ s with pw := { s.pw with pins := pins } }).powerGo
  else .next { s with pw := { s.pw with holdoff := false } }

/-! ### The input and the load on the bricks (R673, R675, R676) -/

/-- INPUT_DIP (R675). -/
def execInputDip (s : State) : Host.Outcome State Fault Refusal := .next (if s.pw.phase = .on then s.odBump 0x6220 3 1 else s)

/-- UNDERVOLTAGE: as PWR_EN falling; power-up follows when the hold-off ends (R675, R681, R683). -/
def execUndervoltage (s : State) : Host.Outcome State Fault Refusal := .next (if s.pw.phase = .off then s else s.powerLost .off true)

/-- OVERVOLTAGE: every brick stops, and with fewer than three bricks delivering the module ends in the held state (R673, R678). -/
def execOvervoltage (s : State) : Host.Outcome State Fault Refusal := .next (if s.pw.phase = .on then s.powerLost (.held true) true else s)

/-- BRICK_OVERLOAD: the power-down sequence (R676, R681). -/
def execBrickOverload (s : State) : Host.Outcome State Fault Refusal := .next (if s.pw.phase = .on then s.powerLost .off true else s)

/-! ### Bricks and fans (R602, R605, R677 to R679, R685) -/

/-- A part was fitted (R610, 0x61F0:07). -/
def State.partFitted (s : State) (b : Nat) : State := (s.odBumpSat 0x61F0 7 32 1).ngEvent b

/-- BRICK_INSERT: the identity record is read; a genuine brick delivers, another is refused and its LED blinks (R677). The module
that holds for want of bricks goes on once three are there (R678). -/
def execBrickInsert (n : Nat) (genuine : Bool) (s : State) : Host.Outcome State Fault Refusal :=
  if 6 ≤ n ∨ (s.pw.bricks.getD n {}).present then .next s
  else
    let on : Bool := s.pw.phase = .on
    let t := { s with pw := { s.pw with bricks := s.pw.bricks.set n {} { present := true, genuine := genuine, delivering := genuine && on } } }
    if on then .next ((t.led (ledKey 0 n) (!genuine)).partFitted 3)
    else .next (if t.pw.phase = .held true && t.pw.pwrEn then t.powerGo else t)

/-- BRICK_LOST: a brick that delivers fails, and a release that waits ends with UNIT_OFFLINE; one that no longer delivers is
pulled out. With fewer than three left the module powers down and holds (R605, R678, R679). -/
def execBrickLost (n : Nat) (s : State) : Host.Outcome State Fault Refusal :=
  let b := s.pw.bricks.getD n {}
  if !b.present then .next s
  else if b.delivering then
    let t := { s with pw := { s.pw with bricks := s.pw.bricks.set n {} { b with delivering := false, failed := true } } }
    let t := t.svcAnswer (fun w => match w with | .brick _ _ => true | _ => false) stUnitOffline
    let t := (((t.odBumpSat 0x6220 1 32 1).logEvent 0x0020 1 n 0).alert 4).ngEvent 3
    .next (if t.bricksOn < 3 then t.powerLost (.held true) true else t)
  else
    let t := { s with pw := { s.pw with bricks := s.pw.bricks.set n {} {} } }
    .next (if s.pw.phase = .on then (t.led (ledKey 0 n) false).ngEvent 3 else t)

/-- FAN_INSERT: a fan module of the FV-80-AC is taken into service (R602). -/
def execFanInsert (n : Nat) (s : State) : Host.Outcome State Fault Refusal :=
  if !s.ac ∨ 6 ≤ n ∨ (s.pw.fans.getD n {}).fitted then .next s
  else
    let on : Bool := s.pw.phase = .on
    let t := { s with pw := { s.pw with fans := s.pw.fans.set n {} { fitted := true, running := on } } }
    .next (if on then (t.led (ledKey 1 n) false).partFitted 4 else t)

/-- FAN_LOST: a fan module that runs is lost; one that does not is pulled out (R605, R685). -/
def execFanLost (n : Nat) (s : State) : Host.Outcome State Fault Refusal :=
  let f := s.pw.fans.getD n {}
  if !s.ac || !f.fitted then .next s
  else if f.running then
    let t := { s with pw := { s.pw with fans := s.pw.fans.set n {} { f with running := false } } }
    .next ((((t.odBumpSat 0x6220 2 32 1).logEvent 0x0021 1 n 0).alert 4).ngEvent 4).fanCheck
  else
    let t := { s with pw := { s.pw with fans := s.pw.fans.set n {} {} } }
    .next (if s.pw.phase = .on then (t.led (ledKey 1 n) false).ngEvent 4 else t)

/-! ### Thermal shutdown (R686) -/

/-- THERMAL_SHUTDOWN by the firmware: a sensor reaches 110 °C, or the hottest has stayed at 105 °C or more for 1 s. -/
def execThermalShutdown (maxTemp : Int) (s : State) : Host.Outcome State Fault Refusal :=
  .next (if s.pw.phase = .on && decide (105 ≤ maxTemp) then s.thermalStop else s)

/-- HW_THERMAL_TRIP at 115 °C. -/
def execHwThermalTrip (s : State) : Host.Outcome State Fault Refusal := .next (if s.pw.phase = .on then s.thermalStop else s)

end Sys2Proof.Machine
end

