-- ==== Sys2Proof/Machine/RegView.lean ====
section
/-! DEFINITION. What a read of a register returns: the stored registers, and those that show the state of their block
(the register sections of each chapter). -/

namespace Sys2Proof.Machine

/-! ### State codes -/

/-- State codes of R86. -/
def TeState.code (x : TeState) : Nat :=
  match x with
  | .off => 0 | .idle => 1 | .running => 2 | .draining => 3 | .exception => 4 | .clearing => 5

/-- State codes of R130. -/
def MxState.code (x : MxState) : Nat :=
  match x with
  | .off => 0 | .idle => 1 | .busy => 2 | .error => 3 | .clearing => 4

/-- State codes of R210. -/
def SqState.code (x : SqState) : Nat :=
  match x with
  | .off => 0 | .idle => 1 | .running => 2 | .waiting => 3 | .parked => 4 | .error => 5

/-- State codes of R317. -/
def UnitSt.code (x : UnitSt) : Nat :=
  match x with
  | .absent => 0 | .training => 1 | .inService => 2 | .draining => 3 | .quiesced => 4 | .testing => 5 | .failed => 6

/-- State codes of R462. -/
def QSt.code (x : QSt) : Nat :=
  match x with
  | .none => 0 | .stopped => 1 | .idle => 2 | .active => 3 | .stopping => 4

/-- State codes of R497. -/
def PartSt.code (x : PartSt) : Nat :=
  match x with
  | .absent => 0 | .active => 1 | .changing => 2 | .resetting => 3

/-- The state code of an update unit (R413). -/
def State.uuCode (s : State) (u : Nat) : Nat :=
  let x := s.uu u
  if x.state = .off then 0 else if x.state = .offline || s.uuOut u then 3 else if x.jobs ≠ [] then 2 else 1

/-- The state code of a port (R549). -/
def State.portCode (s : State) (n : Nat) : Nat :=
  let p := s.port n
  if p.module.isNone || p.refused then 0 else if s.rf (lkR n 0x18) 7 4 = 15 then 5
  else if p.quads = 4 then 3 else if 2 ≤ p.quads then 4 else if p.training ≠ 0 then 2 else 1

/-! ### Registers that show state -/

/-- Whole watts of a power, in 16 bits. -/
def watts16 (r : Rat) : Nat := if r < 0 then 0 else Nat.min r.floor.toNat 0xFFFF

/-- Registers of a core's TE_ page. -/
def State.teView (s : State) (slot o : Nat) : Nat :=
  let c := s.core slot
  if o = 0x00 then (match s.logicalOf slot with | some n => 2 ^ 16 + n | none => 0) + slot * 2 ^ 8
  else if o = 0x14 then c.groups.length * 2 ^ 16 + c.blocks.length * 2 ^ 8 + c.te.code * 2 ^ 5
  else if o = 0x58 then (match c.lastCtx with | some x => 2 ^ 31 + x | none => 0)
  else if o = 0x60 then s.rf (teR slot 0x60) 21 16 * 2 ^ 16 + (c.sb.filter (·.closed)).length * 2 ^ 8 + c.sb.length
  else s.reg (teR slot o)

/-- Registers of a core's MX_ page. The cycles of MX_STATUS.FROZEN are timing: it reads 0 (log 8). -/
def State.mxView (s : State) (slot o : Nat) : Nat :=
  let m := s.mx slot
  let f := (s.core slot).kernel.isSome && (s.core slot).cur.fv40
  if o = 0x14 then
    Nat.min m.queue.length 16 * 2 ^ 16 + (if f then 8 else m.groupsOn) * 2 ^ 12 + b2n f * 2 ^ 11 + b2n m.shadowValid * 2 ^ 9 + b2n m.activeValid * 2 ^ 8
      + b2n m.activeBuf * 2 ^ 7 + m.state.code
  else if o = 0x78 then s.rf (mxR slot 0x78) 23 8 * 2 ^ 8 + ofBitList (m.sets.map (·.idx))
  else s.reg (mxR slot o)

/-- Registers of a cluster's SQ_ page. -/
def State.sqView (s : State) (cl o : Nat) : Nat :=
  let q := s.seq cl
  if o = 0x00 then ofBitList ((List.range 8).filter (fun n => (s.slotOf cl n).isSome)) * 2 ^ 8 + cl
  else if o = 0x14 then
    q.rank * 2 ^ 24 + q.placed * 2 ^ 20 + Nat.min q.inFlight.length 15 * 2 ^ 16 + Nat.min q.mxOut.length 255 * 2 ^ 8 + q.loops.length * 2 ^ 3 + q.state.code
  else if o = 0x18 then q.pc
  else if o = 0x20 then q.stepVa
  else if o = 0x28 then b2n q.queue.isSome * 2 ^ 31 + q.ctx
  else s.reg (sqR cl o)

/-- Registers of a die's TK_ page: the way map is that of the applied layouts (R280). -/
def State.tkView (s : State) (die o : Nat) : Nat :=
  let owner (w : Nat) : Nat := match s.wayOwner w with | some (p, _) => p | none => 0
  if o = 0x10 then
    ofBitList ((List.range 16).filter (fun w => match s.wayOwner w with | some (_, st) => st | none => false)) * 2 ^ 16
      + ofBitList ((List.range 16).filter (fun w => (s.wayOwner w).isSome))
  else if o = 0x18 then sumNat ((List.range 16).map (fun w => owner w * 2 ^ (3 * w)))
  else if o = 0x28 then sumNat ((List.range 8).map (fun p => Nat.min (s.keepLimit p) 15 * 2 ^ (4 * p)))
  else s.reg (tkR die o)

/-- MC_UNITn of a unit. -/
def State.unitView (s : State) (u : UnitId) : Nat :=
  let x := s.unit u
  (x.bytes / 128) * 2 ^ 32 + x.rate * 2 ^ 16 + (u.kind + 1) * 2 ^ 12 + x.cause * 2 ^ 8 + x.st.code

/-- Registers of an MC_ page: 0 to 7 HBM stacks of four channel sets, 8 to 15 pairs of DDR channels. -/
def State.mcView (s : State) (i o : Nat) : Nat :=
  let n := if i < 8 then 4 else 2
  let k := (o - 0x10) / 8
  if 0x10 ≤ o ∧ o < 0x30 ∧ o % 8 = 0 then (if k < n then s.unitView (if i < 8 then ⟨0, 4 * i + k⟩ else ⟨1, 2 * (i - 8) + k⟩) else 0)
  else s.reg (mcR i o)

/-- Registers of a CXL port's XL_ page. -/
def State.xlView (s : State) (p o : Nat) : Nat :=
  let x := s.unit ⟨2, p⟩
  if o = 0x10 then b2n x.linkUp * 2 ^ 31 + x.version * 2 ^ 24 + x.rate * 2 ^ 16 + x.width * 2 ^ 8 + x.cause % 8 * 2 ^ 3 + x.st.code
  else if o = 0x18 then x.bytes
  else if o = 0x20 then x.devid
  else s.reg (xlR p o)

/-- Registers of the TT_ pages. -/
def State.ttView (s : State) (i o : Nat) : Nat :=
  let off := 0x2500000 + i * 0x10000 + o
  if i = 0 ∧ o = 0x20 then Nat.min s.xl.faults.length 256 * 2 ^ 16 + Nat.min s.xl.walks.length 64
  else if i = 0 ∧ 0x1000 ≤ o ∧ o < 0x1800 ∧ o % 0x100 = 0x54 then setBits (s.reg off) 12 8 (s.xl.inv.getD ((o - 0x1000) / 0x100) []).length
  else s.reg off

/-- Registers of an update unit's UU_ page. -/
def State.uuView (s : State) (u o : Nat) : Nat :=
  let x := s.uu u
  if o = 0x14 then Nat.min (x.jobs.length - 1) 64 * 2 ^ 16 + x.part * 2 ^ 8 + s.uuCode u else s.reg (uuR u o)

/-- Registers of a queue's doorbell page. -/
def State.dbellView (s : State) (q o : Nat) : Nat :=
  let x := s.queue q
  if o = 0x00 then x.tail
  else if o = 0x08 then x.head
  else if o = 0x10 then x.seq
  else if o = 0x18 then b2n x.badTail * 2 ^ 31 + b2n x.rt * 2 ^ 12 + b2n x.device * 2 ^ 11 + x.fmt * 2 ^ 9 + b2n x.irqEn * 2 ^ 8 + b2n x.pending * 2 ^ 3 + x.st.code
  else s.reg (dbell q o)

/-- Registers of the LK_ pages. -/
def State.lkView (s : State) (i o : Nat) : Nat :=
  if i = 0 then
    if o = 0x10 then s.odGet 0x5000 2 * 2 ^ 31 + s.lkCfg 1
    else if o = 0x14 then s.lk.inc
    else if o = 0x18 then s.planesUp
    else if o = 0x20 then (s.lk.peers.filter (fun e => e.2.st = .open_)).length * 2 ^ 16 + s.heldPeers
    else s.reg (lkR 0 o)
  else
    let p := s.port i
    if o = 0x10 then
      p.inService * 2 ^ 20 + (if 2 ≤ p.quads then 4 * p.quads else 0) * 2 ^ 8 + (match p.module with | some m => m.modType % 4 * 2 ^ 6 | none => 0)
        + b2n p.refused * 2 ^ 5 + b2n p.module.isSome * 2 ^ 4 + s.portCode i
    else s.reg (lkR i o)

/-- The shared units that have not reported the committing epoch, and the clusters with a core or sequencer that has not
(PT_LAG). -/
def State.lagView (s : State) : Nat :=
  if s.pt.modes.phase ≠ .commit then 0
  else
    let l := s.pt.modes.left
    let cls := l.filterMap (fun u => match u with | .core c => some (slotCl c) | .seq cl => some cl | _ => none)
    b2n (l.any (fun u => match u with | .core _ => false | .seq _ => false | _ => true)) * 2 ^ 16 + ofBitList cls

/-- Steps of a partition that meet a test. -/
def State.countSteps (s : State) (p : Nat) (f : StepRec → Bool) : Nat := (s.stepsIn [p] f).length

/-- Registers of the PT_ page. -/
def State.ptView (s : State) (o : Nat) : Nat :=
  let m := s.pt.modes
  if o = 0x10 then ((if m.phase = .idle then m.epoch else m.epoch + 1) % 2 ^ 32) * 2 ^ 32 + m.epoch % 2 ^ 32
  else if o = 0x18 then
    s.rf (ptR 0x18) 31 24 * 2 ^ 24 + m.cur.kind * 2 ^ 16 + (if m.cur.kind = 1 then 0xFF else m.cur.scope) * 2 ^ 8
      + (match m.phase with | .idle => 0 | .stage => 1 | .commit => 2)
  else if o = 0x20 then s.lagView
  else if o = 0x28 then sumNat ((List.range 16).map (fun c => (match s.clPart c with | some p => p | none => 15) * 2 ^ (4 * c)))
  else if 0x1000 ≤ o ∧ o < 0x1800 then
    let p := (o - 0x1000) / 0x100
    let q := o % 0x100
    let x := s.part p
    if q = 0x00 then x.st.code
    else if q = 0x08 then x.lay.sets
    else if q = 0x10 then (if x.lay.enabled then s.sysArea p else 0)
    else if q = 0x28 then
      s.countSteps p (fun r => r.st = .parked) * 2 ^ 40 + s.countSteps p (fun r => r.rt && (r.st = .running || r.st = .yielding)) * 2 ^ 32
        + Nat.min (s.countSteps p (fun r => !r.rt && (r.st = .running || r.st = .yielding))) 255 * 2 ^ 24
        + Nat.min (s.countSteps p (fun r => r.st = .ready && r.deferred)) 255 * 2 ^ 16 + Nat.min (sumNat x.rtUse / (Nat.max 1 (s.partSize p) * 10000)) 1023
    else s.reg (ptR o)
  else s.reg (ptR o)

/-- Registers of the MT_ page. -/
def State.mtView (s : State) (o : Nat) : Nat :=
  let m := s.pt.meter
  if o = 0x10 then (s.odGet 0x2000 3 % 16) * 2 ^ 20 + (s.odGet 0x2000 2 % 16) * 2 ^ 16 + s.rf (mtR 0x10) 11 0
  else if o = 0x18 then watts16 m.limit * 2 ^ 48 + watts16 m.avail * 2 ^ 32 + watts16 m.base * 2 ^ 16 + watts16 m.total
  else if 0x100 ≤ o ∧ o < 0x130 ∧ o % 8 = 0 then
    let b := s.pw.bricks.getD ((o - 0x100) / 8) {}
    b2n b.present * 2 ^ 31 + b2n b.delivering * 2 ^ 30 + s.rf (mtR o) 15 0
  else if 0x1000 ≤ o ∧ o < 0x1800 then
    let x := s.part ((o - 0x1000) / 0x100)
    if o % 0x100 = 0x00 then watts16 x.share * 2 ^ 48 + watts16 x.rtBudget * 2 ^ 32 + watts16 x.rtProj * 2 ^ 16 + watts16 x.beProj
    else if o % 0x100 = 0x08 then watts16 x.used
    else s.reg (mtR o)
  else s.reg (mtR o)

/-- Registers of the NG_ page. -/
def State.ngView (s : State) (o : Nat) : Nat :=
  if 0x1000 ≤ o ∧ o < 0x1800 then
    let x := s.plan ((o - 0x1000) / 0x100)
    let q := o % 0x100
    if q = 0x00 then x.done * 2 ^ 32 + x.state
    else if x.state = 0 then 0
    else if q = 0x08 then x.c / 100000 * 2 ^ 32 + x.tau / 100000
    else if q = 0x10 then x.hist.length * 2 ^ 58 + secsTo 1000 (meanSecs x.hist)
    else if q = 0x18 then x.due
    else s.reg (ngR o)
  else s.reg (ngR o)

/-- What a read of the register at an offset of the register space returns to a path that reaches it. -/
def State.regView (s : State) (off : Nat) : Nat :=
  match locate off with
  | none => 0
  | some (b, i, o) =>
    match b with
    | .te => s.teView i o
    | .mx => s.mxView i o
    | .sq => s.sqView i o
    | .tk => s.tkView i o
    | .mc => s.mcView i o
    | .xl => s.xlView i o
    | .tt => s.ttView i o
    | .uu => s.uuView i o
    | .hq => if i = 0 ∧ o = 0x10 then objBase else s.reg off
    | .doorbell => s.dbellView i o
    | .lk => s.lkView i o
    | .pt => s.ptView o
    | .mt => s.mtView o
    | .ng => s.ngView o
    | .mg => if o = 0x30 then s.mg.eventCount % 2 ^ 64 else if o = 0x28 then Nat.min (s.mg.wdTimes.filter (fun t => s.now < t + 360000000000)).length 255 * 2 ^ 24 + s.rf off 15 0 else s.reg off
    | .bar4 => if o = 0x12008 then b2n s.mg.loader.busy * 2 ^ 30 + s.rf off 26 0 else s.reg off
    | .cc => s.reg off
    | .db => s.reg off

/-- The bytes that an access of 4 or 8 bytes reads from the register space (00_scope.md R8, R10): nothing stands where no register
does, and what lies outside a register reads zero. -/
def State.regRead (s : State) (off size : Nat) : Nat :=
  let piece (o : Nat) : Nat := match findReg o with
    | some (r, _, d) => bits (s.regView (o - d)) (8 * r.bytes - 1) 0 / 2 ^ (8 * d) % 2 ^ 32
    | none => 0
  if size = 8 then piece off + 2 ^ 32 * piece (off + 4) else piece off

end Sys2Proof.Machine
end

