-- ==== Sys2Proof/Machine/OdView.lean ====
section
/-! DEFINITION. What a read or a DESCRIBE of a dictionary entry returns (16_management_and_startup.md R612, R613, R616, R643, R646,
and the object-dictionary section of each chapter). -/

namespace Sys2Proof.Machine

/-- The core map of a cluster (R610): the position of logical core n in [4n + 3:4n], 0xF when absent. -/
def State.coreMapView (s : State) (cl : Nat) : Nat :=
  sumNat ((List.range 8).map (fun n => (match s.slotOf cl n with | some x => x % 16 | none => 15) * 2 ^ (4 * n)))

/-- Logical cores that a spare carries: those away from the position at manufacture (01 R23; log 6). -/
def State.sparesUsed (s : State) : Nat := (s.ng.coreMap.filter (fun e => !s.ng.absent.getD e.1 false)).length

/-- Clusters that run short (01 R23). -/
def State.clustersShort (s : State) : Nat := ((List.range 16).filter (fun cl => (List.range 8).any (fun n => (s.slotOf cl n).isNone))).length

/-- Numeric entries that show state; the others are stored. -/
def State.odNum (s : State) (idx sub : Nat) : Nat :=
  if idx = 0x3410 then (s.unit ⟨0, sub - 1⟩).st.code
  else if idx = 0x3411 then (s.unit ⟨1, sub - 1⟩).st.code
  else if idx = 0x3412 then (s.unit ⟨2, sub - 1⟩).st.code
  else if idx = 0x3501 then let m := s.ext.mirrors.getD (sub - 1) {}; m.st * 2 ^ 56 + m.primary
  else if idx = 0x3601 then let m := s.ext.moves.getD (sub - 1) {}; m.st * 2 ^ 56 + m.status * 2 ^ 48 + m.lines
  else if 0x4240 ≤ idx ∧ idx < 0x4248 ∧ sub = 8 then (if (s.part (idx - 0x4240)).lay.enabled then s.slotArea (idx - 0x4240) else 0)
  else if 0x4300 ≤ idx ∧ idx < 0x4308 ∧ sub = 3 then s.reg (ptP (idx - 0x4300) 0x18)
  else if 0x4300 ≤ idx ∧ idx < 0x4308 ∧ sub = 4 then b2n (s.part (idx - 0x4300)).compat
  else if idx = 0x2010 ∧ sub = 3 then s.point
  else if idx = 0x2020 ∧ sub = 2 then (s.pt.meter.learned.filter (·.valid)).length
  else if idx = 0x2030 ∧ sub = 4 then (s.pw.bricks.filter (fun e => e.2.delivering)).length
  else if idx = 0x2030 ∧ sub = 5 then s.fansOn
  else if idx = 0x5300 ∧ sub = 3 then let r := s.lk.runs.getD (s.odGet 0x5300 1) {}; r.name * 2 ^ 32 + b2n r.running * 2 ^ 8 + r.status
  else if idx = 0x6010 then s.coreMapView (sub - 1)
  else if idx = 0x6011 ∧ sub = 1 then s.sparesUsed
  else if idx = 0x6011 ∧ sub = 2 then s.clustersShort
  else if idx = 0x1000 ∧ sub = 6 then Config.pciVendor % 2 ^ 16
  else if idx = 0x1000 ∧ sub = 8 then Config.maskRomVersion % 2 ^ 32
  else if idx = 0x1000 ∧ sub = 9 then b2n s.clk.osc
  else if idx = 0x1010 ∧ sub = 1 then Config.managementMac % 2 ^ 48
  else if idx = 0x1010 ∧ sub = 2 then s.plca
  else if idx = 0x1010 ∧ sub = 4 then s.openSessions.length
  else if idx = 0x1020 ∧ sub = 1 then s.mg.eventCount % 2 ^ 64
  else if idx = 0x8000 ∧ sub = 3 then s.mg.keyRevoked
  else if idx = 0x8000 ∧ sub = 4 then ofBitList (s.mg.owners.map (·.1)) + s.mg.ownerRevoked * 16
  else if idx = 0x8020 ∧ sub = 2 then s.mg.floor
  else if idx = 0x8020 ∧ sub = 4 then s.mg.raisesLeft
  else if idx = 0x7300 ∧ sub = 1 then s.reg (dbR 0 0x10)
  else s.odGet idx sub

/-- The event log as it is read: record n of R643 stands at index n mod 1,024, the first being record 0 (log 31). -/
def State.eventLog (s : State) : List Byte :=
  let at_ (i : Nat) : List Byte :=
    match (s.mg.events.zip (List.range s.mg.events.length)).find? (fun e => (s.mg.eventCount - 1 - e.2) % 1024 = i) with
    | some e => e.1.bytes
    | none => List.replicate 32 0
  (List.range 1024).flatMap at_

/-- The entry of the learned table that 0x2020:10 selects (13 R518). -/
def State.learnedView (s : State) : List Byte :=
  match s.pt.meter.learned.find? (fun l => l.valid && l.idx = s.odGet 0x2020 0x10) with
  | some l => leBytes 4 l.cls ++ leBytes 4 (2 ^ 31 + l.kind * 2 ^ 30 + l.part * 2 ^ 24 + l.count) ++ leBytes 4 l.e0.toNat ++ leBytes 4 l.d0.toNat
  | none => List.replicate 16 0

/-- STR and BLOB entries. -/
def State.odBytes (s : State) (idx sub : Nat) (max : Nat) : List Byte :=
  if idx = 0x1000 then
    (if sub = 1 then strBytes "Wenpeby" else if sub = 2 then strBytes "FV-80" else if sub = 3 then strBytes (if s.ac then "FV-80-AC" else "FV-80-LC")
     else if sub = 4 then strBytes "A1" else Config.serial.take 16)
  else if idx = 0x1020 ∧ sub = 2 then s.eventLog
  else if idx = 0x1030 ∧ sub = 2 then slice (s.mg.changes.flatMap (fun k => leBytes 2 (k % 256) ++ leBytes 2 (k / 256))) 0 1024
  else if idx = 0x2010 ∧ sub = 5 then (List.range 6).flatMap (fun j => leBytes 4 (ratToB32 (piOf j)))
  else if idx = 0x2020 ∧ sub = 0x11 then s.learnedView
  else if idx = 0x3502 ∧ sub = 2 then slice (s.ext.quarantine.flatMap (fun l => leBytes 8 (l * 128))) 0 32768
  else if idx = 0x5200 then slice (s.lkGroup (s.odGet 0x5200 1)) 0 64
  else if idx = 0x5300 then slice (s.lkOp (s.odGet 0x5300 1)) 0 64
  else if idx = 0x7100 then slice (s.obs.plans.getD (s.odGet 0x7100 1) []) 0 16
  else if idx = 0x8000 ∧ sub = 1 then slice Config.identityKey 0 97
  else if idx = 0x8000 ∧ sub = 2 then Config.certChain.take 4096
  else if idx = 0x8010 then slice (s.mg.owners.getD (sub - 1) []) 0 48
  else slice (s.blob idx sub) 0 max

/-- What a READ of an entry returns: its whole value; none where the entry does not exist. -/
def State.odValue (s : State) (idx sub : Nat) : Option (List Byte) :=
  match odRow idx sub with
  | none => if sub = 0 then (odHighest idx).map (fun h => leBytes 1 h) else none
  | some r =>
    match r.acc, r.ty with
    | .wo, .blob n => some (List.replicate n 0)
    | .wo, ty => some (List.replicate ty.bytes 0)
    | _, .blob n => some (s.odBytes idx sub n)
    | _, .str => some (s.odBytes idx sub 64)
    | _, ty => some (leBytes ty.bytes (s.odNum idx sub))

/-- What a DESCRIBE of an entry returns (R613). -/
def odDescription (idx sub : Nat) : Option (List Byte) :=
  match odRow idx sub with
  | none => if sub = 0 then (odHighest idx).map (fun _ => [1, 5, 0, 0, 1, 0]) else none
  | some r =>
    let size := match r.ty with | .blob n => n | .str => 64 | ty => ty.bytes
    some (leBytes 1 r.ty.code ++ leBytes 1 r.acc.code ++ leBytes 1 (b2n r.keep) ++ [0] ++ leBytes 2 (Nat.min size 0xFFFF))

end Sys2Proof.Machine
end

