-- ==== Sys2Proof/Machine/Observe.lean ====
section
/-! DEFINITION. Observation (17_observation.md): profile plans, the draining of reels, the progress watchdog and the contact
sheet. -/

namespace Sys2Proof.Machine

/-! ### Profile plans (R652) -/

/-- Whether a plan's fields are in range. -/
def planBytesOk (d : List Byte) : Bool :=
  d.length = 16 && bits (sliceNat d 0 4) 30 5 = 0 && decide (6 ≤ bits (sliceNat d 0 4) 4 0) && decide (bits (sliceNat d 0 4) 4 0 ≤ 16)
    && (slice d 4 4).all (fun c => decide (c.toNat ≤ 0x12)) && sliceNat d 8 8 < 2 ^ 52 && sliceNat d 8 8 % 4096 = 0

/-- A write of 0x7100:02 gives the selected context its plan. -/
def State.profileAct (t : State) (d : List Byte) : State × Option Nat :=
  let c := t.odGet 0x7100 1
  if !planBytesOk d || (t.ctx c).st ≠ .live then (t, some stBadDesc)
  else ({ t with obs := { t.obs with plans := t.obs.plans.put c d } }, some stOk)

/-- PROFILE_PLAN_WRITE. -/
def execProfilePlanWrite (p : Path) (data : List Byte) (s : State) : Host.Outcome State Fault Refusal :=
  .next (s.odCmd p 0x7100 2 (fun t => t.profileAct data))

/-! ### Reels (R655, R656, R670) -/

/-- The bytes of a record (R657). -/
def recBytes (r : List W64) : List Byte := r.flatMap (fun w => leBytes 8 w.toNat)

/-- Flush a reel: the half being filled drains, now or when the other half has drained. -/
def State.reelFlush (s : State) (u : Nat) : State := s.modReel u (fun r => Reel.turn { r with flush := true } (reelHalf u))

/-- A write of DB_RCTRL: FLUSH, and a clearing of ENABLE, flush the reel. LSAMPLE stands on the hub page only. -/
def State.rctrlWrite (s : State) (u v : Nat) : State :=
  let off := dbR u 0x100
  let was := bit (s.reg off) 31
  let keep := bits v 31 31 * 2 ^ 31 + bits v 29 29 * 2 ^ 29 + bits v 25 16 * 2 ^ 16 + (if u = 0 then bits v 15 12 * 2 ^ 12 else 0) + bits v 5 0
  let s := s.setReg off keep
  if bit v 30 || (was && !bit v 31) then s.reelFlush u else s

/-- DB_RCTRL by a path: FLUSH is WO, the other fields RWP, and the hub page belongs to privileged paths (17 R669, R670). -/
def State.rctrlBy (s : State) (p : Path) (u v : Nat) : State :=
  if s.privileged p then s.rctrlWrite u v
  else
    let t := s.discardRwp
    if u ≠ 0 ∧ bit v 30 then t.reelFlush u else t

/-- REEL_FLUSH: a write of DB_RCTRL with FLUSH. -/
def execReelFlush (p : Path) (reel : Nat) (v : W32) (s : State) : Host.Outcome State Fault Refusal :=
  .next (if reel < 17 then s.regGate p (dbR reel 0x100) none (fun t => t.rctrlBy p reel v.toNat) else s)

/-- REEL_DISABLE: a write of DB_RCTRL that clears ENABLE. -/
def execReelDisable (p : Path) (reel : Nat) (v : W32) (s : State) : Host.Outcome State Fault Refusal :=
  .next (if reel < 17 then s.regGate p (dbR reel 0x100) none (fun t => t.rctrlBy p reel v.toNat) else s)

/-- Write a block of a reel to a destination: the state, or nothing where it fails; the flag says that its memory makes it wait. -/
def State.reelPut (s : State) (host : Bool) (a : Nat) (bs : List Byte) : Option State × Bool :=
  if host then (if s.host.up then some (s.hostWrite a bs) else none, false)
  else
    let r := s.writeMem ownAccess 1 .bank a bs false
    if r.wait then (none, true) else if r.undec.isSome || r.status.isSome then (none, false) else (some r.st, false)

/-- REEL_DRAIN_DONE: the waiting half is written as one block to the next slot of the ring, and DB_RHEAD rises by the block's
records, padding among them (DEDUCED, log 34); a write that fails drops the block and stops the reel. -/
def execReelDrainDone (reel : Nat) (ok : Bool) (s : State) : Host.Outcome State Fault Refusal :=
  let cap := reelHalf reel
  match (s.reelOf reel).waiting with
  | none => .next s
  | some l =>
    let d := s.reg (dbR reel 0x108)
    let slot := s.reg (dbR reel 0x110) / cap % 2 ^ bits d 3 0
    let r := s.reelPut (bit d 63) (bits d 56 15 * 2 ^ 15 + slot * (cap * 32)) (slice (l.flatMap recBytes) 0 (cap * 32))
    if ok && r.2 then .next s
    else
      let t := match (if ok then r.1 else none) with
        | some t => t.bump (dbR reel 0x110) cap
        | none => ((s.bump (dbR reel 0x118) l.length).odBump 0x6210 3 l.length).setRf (dbR reel 0x100) 31 31 0
      .next (t.modReel reel (fun r => Reel.turn { r with waiting := none } cap))

/-! ### The progress watchdog (R662, R672) -/

/-- PROGRESS_WATCHDOG: a running step has made no progress for the time of its admission. -/
def execProgressWatchdog (queue : Nat) (s : State) : Host.Outcome State Fault Refusal :=
  match s.stepOf queue with
  | none => .next s
  | some r =>
    .next (if (r.st = .running || r.st = .yielding) && !s.frozen r.ctx && decide (r.watch ≠ 0) && decide (r.lastProgress + r.watch * 100000 ≤ s.now)
      then s.hang queue 2 else s)

/-! ### The contact sheet (R663 to R668) -/

/-- The base of the sheet. -/
def sheetBase : Nat := 0x20000000

/-- The state of a group in its record (R667). -/
def State.groupCode (s : State) (core slot : Nat) (g : Group) : Nat :=
  let info := s.reg (teR core 0x30)
  if (s.core core).te = .exception && bit info 31 && bits info 5 0 = slot then 6
  else match g.stall with
    | .mwait _ => 5
    | .none => if g.paths.any (·.atBarrier) then 2 else 1
    | .mxFull => 1
    | _ => 3

/-- A group record. -/
def State.groupRecord (s : State) (core slot : Nat) : List Byte :=
  match s.group core slot with
  | none => List.replicate 1024 0
  | some g =>
    let p := g.paths.headD { pc := 0, mask := 0 }
    let blk := (s.core core).blocks.findIdx (fun b => b.linear = g.block)
    let w := s.groupCode core slot g + g.places % 256 * 2 ^ 8 + (g.paths.filter (fun p => !p.waits)).length % 256 * 2 ^ 16 + blk % 256 * 2 ^ 24
    slice (leBytes 8 p.pc ++ leBytes 8 p.mask ++ leBytes 4 w ++ leBytes 4 g.count ++ leBytes 8 g.block ++ List.replicate (0x200 - 32) 0
      ++ g.entries.flatMap (fun e => leBytes 8 e.recon ++ leBytes 8 e.mask)) 0 1024

/-- The register file: the groups in the order of their blocks, each group's registers of the allocation with a lane after another
(log 34). -/
def State.regFile (s : State) (core : Nat) : List Byte :=
  let n := match s.coreKernel core with | some k => k.desc.alloc | none => 0
  let gs := (s.core core).blocks.flatMap (fun b => b.slots.filterMap (fun x => s.group core x))
  gs.flatMap (fun g => (List.range n).flatMap (fun r => (List.range g.width).flatMap (fun l => leBytes 4 (g.reg l r))))

/-- An entry of the store buffer (R667). -/
def sbRecord (e : SbEntry) : List Byte :=
  leBytes 8 (e.line * 128) ++ leBytes 16 (ofBitList (e.bytes.map (·.1))) ++ leBytes 8 (if e.closed then 2 else 1) ++ List.replicate 96 (0 : Byte)
    ++ (List.range 128).flatMap (fun (i : Nat) => ((match e.bytes.find i with | some (some b) => [b] | _ => [0]) : List Byte))

/-- A stationary buffer, its codes packed (log 34). -/
def bufBytes (b : StatBuf) : List Byte := slice (b.rows.flatMap (fun r => leBytes (cdiv (fmtBits b.fmt * r.length) 8) (pack (fmtBits b.fmt) r))) 0 16384

/-- The pieces of a core section: offset and bytes (R667). -/
def State.corePieces (s : State) (core : Nat) (sb : List SbEntry) : List (Nat × List Byte) :=
  let m := s.mx core
  let page (f : Nat → Nat) : List Byte := (List.range 512).flatMap (fun i => leBytes 4 (s.regRead (f (4 * i)) 4))
  [(0, (List.range 64).flatMap (fun g => s.groupRecord core g)), (0x10000, s.regFile core), (0x50000, page (teR core) ++ page (mxR core)),
   (0x51000, sb.flatMap sbRecord), (0x53000, (m.queue.take 16).flatMap (fun c => leBytes 8 c.word)), (0x60000, bufBytes m.active ++ bufBytes m.shadow),
   (0x70000, (List.range 128).flatMap (fun r => slice ((m.drainRow r 128).vals.flatMap (fun v => leBytes 4 v)) 0 512)), (0x100000, s.rdBytes (winBase core) (s.lmemOf core))]

/-- A sequencer section: the image, the registers and the drain records (R666). -/
def State.seqSection (s : State) (cl : Nat) : List Byte :=
  let q := s.seq cl
  slice q.image 0 512 ++ slice ((List.range 24).flatMap (fun i => leBytes 4 (s.regRead (sqR cl (4 * i)) 4))) 0 256
    ++ q.inFlight.flatMap (fun k => match s.kernel k with | some x => drainRecord x | none => [])

/-- A queue record (R666). -/
def State.queueRecord (s : State) (q : Nat) : List Byte :=
  let held := match (s.queue q).held with | some h => h.raw | none => []
  let obj := match s.stepOf q with | some r => r.obj | none => []
  leBytes 4 (s.dbellView q 0x18) ++ leBytes 4 (s.dbellView q 8) ++ leBytes 8 (s.dbellView q 0) ++ leBytes 8 (s.dbellView q 16) ++ List.replicate 40 0
    ++ slice held 0 128 ++ slice obj 0 64

/-- The tag of a Tank line (R668). -/
def State.tagWord (s : State) (l : TkLine) : Nat :=
  let bad := ofBitList ((List.range 4).filter (fun i => s.poisoned (l.line * 4 + i)))
  l.valid % 16 * 2 ^ 60 + l.dirty % 16 * 2 ^ 56 + bad * 2 ^ 52 + b2n l.keep * 2 ^ 51 + l.line % 2 ^ 45

/-- The Tank tags of the held cache ways: offset and bytes. -/
def State.tagPieces (s : State) (ways : List Nat) : List (Nat × List Byte) :=
  [0, 1].flatMap (fun d => (s.die d).tank.flatMap (fun e => e.2.filterMap (fun l =>
    match ways.findIdx? (· = l.way) with
    | some k => some (0x11000000 + (d * ways.length + k) * 0xF00000 + e.1 * 8, leBytes 8 (s.tagWord l))
    | none => none)))

/-- The reel of a unit as its memory holds it. -/
def State.reelBytes (s : State) (u : Nat) : List Byte :=
  let r := s.reelOf u
  (match r.waiting with | some l => slice (l.flatMap recBytes) 0 (reelHalf u * 32) | none => []) ++ r.fill.flatMap recBytes

/-- The pieces of a sheet: offset and bytes (R665, R666). -/
def State.sheetPieces (s : State) (x : Sheet) : List (Nat × List Byte) :=
  let cores := (s.cores.filter (fun e => e.2.ctx = some x.ctx)).filterMap (fun e => (s.logicalOf e.1).map (fun n => (n, e.1)))
  let seqs := (s.seqs.filter (fun e => e.2.queue.isSome && e.2.ctx = x.ctx)).map (·.1)
  let all := s.cacheWays x.part
  let ways := all.take 8
  let mask := ofBitList (cores.map (·.1))
  let va := match s.stepOf x.queue with | some r => r.va | none => 0
  let head := leBytes 4 0x46534354 ++ leBytes 4 (0x10000 + x.cause * 2 ^ 8 + s.point) ++ leBytes 8 x.tFreeze ++ leBytes 8 va
    ++ leBytes 4 (x.part * 2 ^ 29 + x.ctx * 2 ^ 16 + x.queue) ++ leBytes 4 s.pt.modes.epoch ++ leBytes 16 mask ++ leBytes 4 (ofBitList ways * 2 ^ 16 + ofBitList seqs)
    ++ leBytes 4 (b2n (decide (8 < all.length)) * 2 ^ 31) ++ leBytes 8 s.now
  let fq := (s.rf (ttP x.part 0x18) 51 18) * 0x40000
  [(0, head), (0x200000, (s.xl.faults.filter (fun o => o.ctx = x.ctx)).flatMap (fun o => faultRecord 1 o.part o.ctx o.count o.f o.opened o.cores o.seqs 0 (o.record.getD 0))),
   (0x240000, (s.ownRead fq 0x40000).1), (0x500000, s.reelBytes 0)]
    ++ seqs.map (fun c => (0x10000 + 0x1000 * c, s.seqSection c)) ++ (s.ctxQueues x.ctx).map (fun q => (0x20000 + 0x100 * q, s.queueRecord q))
    ++ (List.range 16).map (fun c => (0x400000 + 0x10000 * c, s.reelBytes (1 + c)))
    ++ cores.flatMap (fun c => (s.corePieces c.2 ((x.sb.find? (fun e => e.1 = c.2)).elim [] (·.2))).map (fun p => (0x1000000 + c.1 * 0x200000 + p.1, p.2)))
    ++ s.tagPieces ways

/-- The sheet's 512 MiB become zero, and no cache holds a line of them. -/
def State.sheetZero (s : State) : State :=
  let inSheet (a : Nat) : Bool := decide (sheetBase ≤ a) && decide (a < 2 * sheetBase)
  let s := s.each (List.range 16) (fun t cl => t.each ((t.ccLines cl).filter (fun l => inSheet (l.line * 128))) (fun t l => t.ccForget cl (l.line * 128)))
  let s := s.each [0, 1] (fun t d => t.each ((t.die d).tank.flatMap (fun e => e.2.filter (fun l => inSheet (l.line * 128)))) (fun t l => t.tkDrop (l.line * 128)))
  { s with mem := s.mem.filter (fun (e : Nat × Byte) => !inSheet e.1),
           ext := { s.ext with poison := s.ext.poison.filter (fun (e : Nat × Bool) => !inSheet (e.1 * 32)), stale := s.ext.stale.filter (fun (e : Nat × Option TierSector) => !inSheet (e.1 * 32)) } }

/-- Write the sheet. Where its channel set is out of service the writes are lost and counted (08 R700). -/
def State.writeSheet (s : State) (x : Sheet) : State :=
  let ps := (s.sheetPieces x).filter (fun p => p.2 ≠ [])
  let s := if s.serves ⟨0, 0⟩ = .ok then s.sheetZero else s
  s.each ps (fun t p => t.ownWrite (sheetBase + p.1) p.2)

/-- CONTACT_SHEET_DONE: the sheet is written and HELD, and the context is torn down; the hung step completes with TIMEOUT. -/
def execContactSheetDone (s : State) : Host.Outcome State Fault Refusal :=
  match s.obs.sheet with
  | none => .next s
  | some x =>
    let t := s.writeSheet x
    let t := { t with obs := { t.obs with sheet := none } }
    let t := (t.setRf (dbR 0 0x10) 31 0 (2 ^ 31 + x.cause * 2 ^ 24 + x.ctx)).odBump 0x6210 1 1
    .next (t.teardown x.ctx (some (x.queue, stTimeout)) false false)

/-- Release the sheet: one that is being written stays (R664). -/
def State.sheetRelease (s : State) : State :=
  if s.obs.sheet.isSome then s else (s.setRf (dbR 0 0x10) 63 32 0).setRf (dbR 0 0x10) 31 31 0

/-- A write of 0x7300:02: only TRUE releases (R672). -/
def State.releaseAct (t : State) (v : Nat) : State × Option Nat :=
  if v = 1 then (t.sheetRelease, some stOk) else (t, some stBadDesc)

/-- CONTACT_SHEET_RELEASE: by DB_CSREL or by 0x7300:02. -/
def execContactSheetRelease (p : Path) (byRegister : Bool) (v : W32) (s : State) : Host.Outcome State Fault Refusal :=
  .next (if byRegister then s.regGateP p (dbR 0 0x18) (fun t => if bit v.toNat 0 then t.sheetRelease else t)
    else s.odCmd p 0x7300 2 (fun t => t.releaseAct v.toNat))

end Sys2Proof.Machine
end

