-- ==== Sys2Proof/Machine/Mgmt.lean ====
section
/-! DEFINITION. Management, security and start-up (16_management_and_startup.md R612 to R647), and what a write of each
dictionary entry is checked for and does (the object-dictionary section of each chapter). -/

namespace Sys2Proof.Machine

/-! ### Ranges of the entries (R616, R647; 08 R351; 11 R447; 12 R490; 13 R545; 14 R585; 15 R611; 17 R672) -/

/-- The variant's maximum input power in watts (13 R544). -/
def State.maxInput (s : State) : Nat := if s.ac then 1600 else 2600

/-- Whether an index is `base + p` for a partition p. -/
def partIdx (idx base : Nat) : Bool := decide (base ≤ idx) && decide (idx < base + 8)

/-- Whether a value lies in the range of its entry. -/
def State.odInRange (s : State) (idx sub v : Nat) : Bool :=
  let within (a b : Nat) : Bool := decide (a ≤ v) && decide (v ≤ b)
  if partIdx idx 0x4240 then (if sub = 3 then within 900000 999999 else if sub = 4 then within 0 8 else true)
  else if idx = 0x4250 then within 0 4096
  else if idx = 0x4260 then within 10 10000
  else if idx = 0x3100 then within 1 168
  else if partIdx idx 0x3110 then within 0 15
  else if partIdx idx 0x3200 then sub % 2 = 1 || within 1 65536
  else if idx = 0x3300 then (if sub ≤ 2 then within 1 168 else if sub ≤ 4 then within 1 255 else true)
  else if idx = 0x3600 then within 1 64
  else if idx = 0x3700 then within 0 100
  else if idx = 0x1200 then sub ≠ 2 || v = 1 || v = 2 || v = 4 || v = 8 || v = 16
  else if idx = 0x4270 then (if sub = 1 then within 1 3600000 else if sub = 2 then within 10 10000 else if sub = 3 then within 1 1048576 else within 1 65536)
  else if idx = 0x2000 then
    (if sub = 1 then within 100 s.maxInput else if sub = 2 then within 0 (s.odGet 0x2000 3) else if sub = 3 then within (s.odGet 0x2000 2) 5
     else if sub = 4 then within 1 255 else if sub = 5 then within 80 95 else within 0 400)
  else if idx = 0x2020 then (if sub = 1 then within 1 7 else within 0 16383)
  else if partIdx idx 0x2100 then
    (if sub = 1 then v = 0 || decide (s.odGet idx 2 ≤ v) else if sub = 2 then within 0 (if s.odGet idx 1 = 0 then s.maxInput else s.odGet idx 1) else within 50 100)
  else if idx = 0x4010 then (if sub = 1 then within 10 100000 else if sub = 2 then within 1 60000 else within 1 10000)
  else if partIdx idx 0x4300 then (if sub = 1 then within 0 100 else within 100 1000000)
  else if idx = 0x5000 then
    (if sub = 3 then within 0x600 0xFFFF else if sub = 4 then !bit v 8 else if sub = 5 then v = 0 || (bits v 11 0 ≠ 0 && !bit v 12)
     else if sub = 6 then within 256 4096 && v % 256 = 0 else if sub = 7 then within 1 1000 else if sub = 8 then within 10 10000
     else if sub = 9 then within 1 3600000 else if sub = 10 then within 16 1024 else if sub = 11 then within 1 65535 else true)
  else if idx = 0x5200 then within 0 4095
  else if idx = 0x5300 then within 0 1023
  else if idx = 0x6020 then sub = 1 || within 1 65535
  else if partIdx idx 0x6030 then (if sub = 9 then within 60 31536000 else if sub = 10 then within 1 3600 else true)
  else if idx = 0x1010 then within 1024 65535
  else if idx = 0x9000 then within 100 60000
  else if idx = 0x7100 then within 0 1023
  else if idx = 0x7200 then v = 0 || within 100 3600000
  else true

/-- Whether an entry may not be written as the module stands: fabric settings while the fabric is enabled (14 R585), and the entries
of an enabled plan (15 R611). -/
def State.odLocked (s : State) (idx sub : Nat) : Bool :=
  (idx = 0x5000 && (sub = 1 || sub = 3 || sub = 4 || sub = 6) && s.odGet 0x5000 2 = 1)
    || (partIdx idx 0x6030 && decide (2 ≤ sub) && decide (sub ≤ 8) && s.planOn (idx - 0x6030))

/-- Whether bytes are a value of a type (R612, R616). No entry that may be written is a STR. -/
def odTypeOk (ty : OdTy) (d : List Byte) : Bool :=
  match ty with
  | .blob n => d.length = n
  | .str => decide (d.length ≤ 64)
  | .bool => d.length = 1 && decide (leNat d < 2)
  | .enum n => d.length = 1 && decide (leNat d < n)
  | t => d.length = t.bytes

/-- The four 64-bit words of a 32-byte command. -/
def words4 (d : List Byte) : Words4 :=
  let w (i : Nat) : W64 := BitVec.ofNat 64 (sliceNat d (8 * i) 8)
  ⟨w 0, w 1, w 2, w 3⟩

/-! ### Fuses (R633, R634) -/

/-- Revoke a key-hash slot: refused for the slot that signed the running image and for the last one not revoked (R633). -/
def State.keyRevoke (s : State) (v : Nat) : State × Option Nat :=
  let left := (List.range 4).filter (fun n => !bit s.mg.keyRevoked n)
  if 4 ≤ v || v = s.mg.runSlot || left = [v] then (s, some stBadDesc)
  else (({ s with mg := { s.mg with keyRevoked := s.mg.keyRevoked ||| 2 ^ v } }).logEvent 0x0051 0 v 0, some stOk)

/-- Raise the rollback floor to the running image's ARB (R633). -/
def State.floorRaise (s : State) (v : Nat) : State × Option Nat :=
  if v ≠ 1 then (s, some stBadDesc)
  else if s.mg.runArb ≤ s.mg.floor then (s, some stOk)
  else if s.mg.raisesLeft = 0 then (s, some stQuota)
  else ({ s with mg := { s.mg with floor := s.mg.runArb, raisesLeft := s.mg.raisesLeft - 1 } }, some stOk)

/-- Program an owner slot (R634). -/
def State.ownerProgram (s : State) (d : List Byte) : State × Option Nat :=
  let n := sliceNat d 0 1
  if d.length ≠ 49 || 4 ≤ n || (s.mg.owners.find n).isSome then (s, some stBadDesc)
  else ({ s with mg := { s.mg with owners := s.mg.owners.put n (d.drop 1) } }, some stOk)

/-- Revoke an owner slot: its sessions close once the reply has been sent (R634). -/
def State.ownerRevoke (s : State) (v : Nat) : State × Option Nat :=
  if 4 ≤ v then (s, some stBadDesc)
  else (({ s with mg := { s.mg with ownerRevoked := s.mg.ownerRevoked ||| 2 ^ v } }).logEvent 0x0051 0 v 1, some stOk)

/-- The command of a hub warm reset, which starts once the reply has been sent (R639, R647). -/
def warmOk (v : Nat) : Bool := bits v 23 0 = 0 && (bits v 31 24 = 1 || bits v 31 24 = 2)

/-- The restore ends (R637). -/
def State.restoreEnd (s : State) : State :=
  if s.mg.stage = .start ∧ !s.mg.restoreDone then ({ s with mg := { s.mg with restoreDone := true } }).bootGo else s

/-- What a write of 0x9000:03 does (R637, R647). -/
def State.restoreAct (s : State) (v : Nat) : State × Option Nat := if v ≠ 1 then (s, some stBadDesc) else (s.restoreEnd, some stOk)

/-! ### Writes of entries (R615 to R617) -/

/-- A unit command by its ACTION (08 R318, R319). -/
def State.unitAct (s : State) (p : Path) (v : Nat) : State × Option Nat :=
  let a := bits v 31 24
  if a = 7 then s.sparePcAct p v
  else if !unitCmdOk v then s.unitAnswer stBadDesc
  else if a = 1 then s.drainAct (cmdUnit v)
  else if a = 2 then s.undrainAct (cmdUnit v)
  else if a = 3 then s.quiesceAct p (cmdUnit v)
  else if a = 4 then s.testAct (BitVec.ofNat 32 v) (cmdUnit v)
  else if a = 5 then s.returnAct p (cmdUnit v)
  else if a = 6 then s.retrainAct (cmdUnit v)
  else s.unitAnswer stBadDesc

/-- A layout command by its ACTION (13 R495). -/
def State.layoutAct (s : State) (p : Path) (v : Nat) : State × Option Nat :=
  let a := bits v 31 24
  if a = 1 then s.applyAct p (BitVec.ofNat 32 v)
  else if a = 2 then s.abortAct (BitVec.ofNat 32 v)
  else if a = 3 then s.resetAct p (BitVec.ofNat 32 v)
  else (s, some stBadDesc)

/-- A move or mirror command by its ACTION (08 R326, R342). -/
def State.rangeAct (s : State) (mirror : Bool) (d : List Byte) : State × Option Nat :=
  let w := words4 d
  let a := bits w.w0.toNat 63 56
  if mirror then (if a = 1 then s.mirrorAddAct w else if a = 2 then s.mirrorRemoveAct w else (s, some stBadDesc))
  else if a = 1 then s.moveStartAct w
  else if a = 2 then s.moveReleaseAct w
  else s.moveAnswer stBadDesc 0

/-- The effect of a checked write: a command entry acts, another entry takes the value. -/
def State.odEffect (s : State) (p : Path) (idx sub : Nat) (ty : OdTy) (d : List Byte) : State × Option Nat :=
  let v := leNat d
  if idx = 0x3400 then s.unitAct p v
  else if idx = 0x3500 then s.rangeAct true d
  else if idx = 0x3600 ∧ sub = 1 then s.rangeAct false d
  else if partIdx idx 0x3820 then s.ruleAct p (idx - 0x3820) (sub - 1) d
  else if idx = 0x4000 then s.layoutAct p v
  else if partIdx idx 0x4240 ∧ sub = 1 then s.subnormalAct (idx - 0x4240) v
  else if idx = 0x4248 then s.slotCommand (bits v 63 56) v
  else if idx = 0x2020 ∧ sub = 3 then s.forgetAct v
  else if idx = 0x5000 ∧ sub = 2 then (s.fabricSet (v = 1), some stOk)
  else if idx = 0x5200 ∧ sub = 2 then s.groupEntry d
  else if idx = 0x5300 ∧ sub = 2 then s.opEntry d
  else if partIdx idx 0x6030 ∧ sub = 1 then s.planSet (idx - 0x6030) v
  else if idx = 0x6040 then s.serviceCmd p v
  else if idx = 0x6041 then s.digestCmd (words4 d)
  else if idx = 0x6042 then s.fabricCmd (words4 d)
  else if idx = 0x6043 then s.failureReport v
  else if idx = 0x7100 ∧ sub = 2 then s.profileAct d
  else if idx = 0x7300 then s.releaseAct v
  else if idx = 0x8010 ∧ sub = 5 then s.ownerProgram d
  else if idx = 0x8010 then s.ownerRevoke v
  else if idx = 0x8020 ∧ sub = 1 then s.keyRevoke v
  else if idx = 0x8020 then s.floorRaise v
  else if idx = 0x9000 ∧ sub = 3 then s.restoreAct v
  else if idx = 0x9010 then (s, some (if warmOk v then stOk else stBadDesc))
  else if s.odLocked idx sub || !s.odInRange idx sub v then (s, some stBadDesc)
  else match ty with
    | .blob _ => (s.setBlob idx sub d, some stOk)
    | _ =>
      let t := s.odSet idx sub v
      (if idx = 0x1200 ∧ sub = 3 ∧ v = 2 ∧ s.host.ide ≠ 2 then { t with host := { t.host with policy := 2 } } else t, some stOk)

/-- A WRITE of an entry: its checks, its effect and its status; none where it waits. A write of an S entry is noted (R616, R617). -/
def State.odWriteAct (s : State) (p : Path) (idx sub : Nat) (d : List Byte) : State × Option Nat :=
  match odRow idx sub with
  | none => (if sub = 0 ∧ (odHighest idx).isSome then s.discardRo else s, some stBadDesc)
  | some r =>
    if r.acc = .ro ∨ r.acc = .const then (s.discardRo, some stBadDesc)
    else if !odTypeOk r.ty d then (s, some stBadDesc)
    else
      let x := s.odEffect p idx sub r.ty d
      if r.keep ∧ x.2 = some stOk then (x.1.noteS p idx sub, x.2) else x

/-- The loader's choice at the start of a stage: with the held image VERIFY, else WAIT_IMAGE, at once (R635, R636, R639). -/
def State.leaveRom (s : State) : State :=
  if s.pw.phase ≠ .on || s.mg.inReset then s
  else if s.mg.stage = .rom ∨ s.mg.stage = .warm then s.setStage (if s.mg.held then .verify else .waitImage)
  else s

/-- A hub warm reset; with `reload` the image held is given up for a new one (R639). -/
def State.warmGo (s : State) (reload : Bool) : State :=
  let t := s.warmReset
  if reload then { t with mg := { t.mg with held := false } } else t

/-- What a write does after its reply has been sent (R634, R639), and the check of the fans after a service command (18 R685). -/
def State.afterWrite (s : State) (idx sub v : Nat) : State :=
  if idx = 0x9010 then s.warmGo (bits v 31 24 = 2)
  else if idx = 0x8010 ∧ sub = 6 then s.each (List.range 4) (fun t i => let x := t.mg.sessions.getD i {}; if x.opened ∧ x.owner = v then t.closeSession i else t)
  else if idx = 0x6040 then s.fanCheck
  else s

/-- Whether a path's item is taken up: it reaches the dictionary, no item of it is in progress and the stage allows it. -/
def State.odAdmits (s : State) (p : Path) (idx sub : Nat) : Bool :=
  s.odReach p && !s.odBusy p && s.odStageOk idx sub true && !(decide (p = .pf) && s.earlyStage)

/-- A WRITE by a path: the answer, then what follows it. -/
def State.odWriteItem (s : State) (p : Path) (idx sub : Nat) (d : List Byte) : State :=
  let t := s.odCmd p idx sub (fun t => t.odWriteAct p idx sub d)
  if s.odAdmits p idx sub && decide ((s.odWriteAct p idx sub d).2 = some stOk) then t.afterWrite idx sub (leNat d) else t

/-- OD_WRITE. -/
def execOdWrite (p : Path) (index sub : Nat) (data : List Byte) (s : State) : Host.Outcome State Fault Refusal :=
  .next (s.odWriteItem p index sub data)

/-! ### Reads and descriptions (R613, R619, R623) -/

/-- Put bytes into the data buffer of the BAR4 window and end the item (R619). -/
def State.buf4Put (s : State) (bs : List Byte) : State :=
  let t := { s with buf4 := ((List.range bs.length).zip bs).foldl (fun (m : SMap Byte) (e : Nat × Byte) => SMap.set m e.1 0 e.2) s.buf4 }
  t.odStat stOk bs.length

/-- The status of a read or a description, and what it returns. -/
def State.odLook (s : State) (describe : Bool) (idx sub : Nat) : Nat × List Byte :=
  if !s.odStageOk idx sub false then (stUnitOffline, [])
  else match (if describe then odDescription idx sub else s.odValue idx sub) with
    | none => (stBadDesc, [])
    | some v => (stOk, v)

/-- Whether an entry is a BLOB, which is read from an offset. -/
def odBlobEntry (idx sub : Nat) : Bool := match odRow idx sub with | some r => (match r.ty with | .blob _ => true | _ => false) | none => false

/-- A read or description by a path; `off` counts 4 KiB in the BAR4 window and bytes in a session, and applies to BLOBs. -/
def State.odLookItem (s : State) (p : Path) (describe : Bool) (idx sub off : Nat) : State :=
  let r := s.odLook describe idx sub
  let blob : Bool := !describe && odBlobEntry idx sub
  match p with
  | .pf =>
    if !s.fnServes 0 then s.urAnswer 0
    else if s.odBusy p then s.setRf (b4R 0x10008) 30 30 1
    else if s.earlyStage then s.odStat stUnitOffline 0
    else if r.1 ≠ stOk then s.odStat r.1 0
    else s.buf4Put ((if blob then r.2.drop (4096 * off) else r.2).take 4096)
  | .session i =>
    let bs := if blob then r.2.drop off else r.2
    if 4 ≤ i then s
    else if 1400 < bs.length then s.odReply p stQuota
    else s.tuiSend i 0x21 0 0 (replyHead r.1 bs.length ++ slice bs 0 (8 * cdiv bs.length 8))
  | _ => s

/-- OD_READ. -/
def execOdRead (p : Path) (index sub off : Nat) (s : State) : Host.Outcome State Fault Refusal := .next (s.odLookItem p false index sub off)

/-- OD_DESCRIBE. -/
def execOdDescribe (p : Path) (index sub : Nat) (s : State) : Host.Outcome State Fault Refusal := .next (s.odLookItem p true index sub 0)

/-! ### Tuinias frames (R621, R622, R626) -/

/-- Drop a frame and count it (R622, R626). -/
def State.tuiDrop (s : State) : State := s.odBump 0x6200 2 1

/-- A frame follows R621: its header and its length. -/
def headOk (h : TuiHead) (len : Nat) : Bool := h.version = 1 && h.reservedZero && h.length = len && decide (len ≤ 1408)

/-- An unsealed frame whose type may be unsealed is taken up; another is dropped. A module without power hears nothing. -/
def State.plainIn (s : State) (h : TuiHead) (len : Nat) (act : State → State) : State :=
  if s.pw.phase ≠ .on ∨ s.mg.inReset then s
  else if headOk h len && !h.sealed && h.session = 0 && h.seq = 0 then act s else s.tuiDrop

/-- Whether a session accepts a SEQ: above the highest, or one of the 64 below it and not seen (R626). -/
def Session.takes (x : Session) (q : Nat) : Bool := q ≠ 0 && (decide (x.rxSeq < q) || (decide (x.rxSeq < q + 65) && q ≠ x.rxSeq && !x.seen.contains q))

/-- A sealed frame of an open session whose tag verifies and whose SEQ is accepted is taken up; another is dropped. SEQ 2^32 closes
the session (R621, R626). -/
def State.sealedIn (s : State) (h : TuiHead) (len : Nat) (act : State → Nat → State) : State :=
  if s.pw.phase ≠ .on ∨ s.mg.inReset then s
  else match s.openSessions.find? (fun i => (s.mg.sessions.getD i {}).id = h.session) with
    | none => s.tuiDrop
    | some i =>
      let x := s.mg.sessions.getD i {}
      if headOk h len && h.sealed && h.tagOk && x.takes h.seq then
        let top := Nat.max x.rxSeq h.seq
        let t : State := { s with mg := { s.mg with sessions := s.mg.sessions.set i {} { x with rxSeq := top, seen := (h.seq :: x.seen).filter (fun q => top < q + 65), tLast := s.now } } }
        let t := act t i
        if 2 ^ 32 ≤ h.seq then t.closeSession i else t
      else s.tuiDrop

/-- DISCOVER (R622). -/
def execDiscover (h : TuiHead) (s : State) : Host.Outcome State Fault Refusal := .next (s.plainIn h 0 (fun t => t.announce))

/-- SPDM (R629; log 14). -/
def execSpdm (h : TuiHead) (msg : List Byte) (s : State) : Host.Outcome State Fault Refusal :=
  .next (s.plainIn h msg.length (fun t => t.draw.2.tuiPlain 0x40 h.req 0 (Config.spdmAnswer t.free t.measurements msg)))

/-! ### Sessions (R624 to R627) -/

/-- A session is refused: SESSION_REJECT, counted and logged (R624, R626, R643). -/
def State.sessionReject (s : State) (req st : Nat) : State := ((s.tuiPlain 0x13 req 0 (leBytes 1 st)).odBump 0x6200 3 1).logEvent 0x0050 1 0 st

/-- A session number, not zero, that no session holds: the first at or after a free value (which one is not stated, log 35). -/
def State.newSessionId (s : State) : Nat :=
  let start := (Config.freeWord s.free).toNat % (2 ^ 32 - 1)
  (((List.range 5).map (fun k => (start + k) % (2 ^ 32 - 1) + 1)).find? (fun n => s.mg.sessions.all (fun e => e.2.id ≠ n))).getD (start + 1)

/-- SESSION_INIT: SESSION_ACCEPT with the module's key, nonce and signature, or SESSION_REJECT where four sessions are held
(R624, R626). -/
def execSessionInit (h : TuiHead) (staticKey ephKey nonce : List Byte) (s : State) : Host.Outcome State Fault Refusal :=
  .next (if staticKey.length ≠ 97 ∨ ephKey.length ≠ 97 ∨ nonce.length ≠ 32 then (if s.pw.phase = .on then s.tuiDrop else s)
    else s.plainIn h 226 (fun t =>
      match (List.range 4).find? (fun i => (t.mg.sessions.find i).isNone) with
      | none => t.sessionReject h.req stQuota
      | some i =>
        let n := t.free
        let id := t.newSessionId
        let body := leBytes 4 id ++ slice (Config.ephemeralKey n) 0 97 ++ slice (Config.sessionNonce n) 0 32
        let script := staticKey ++ ephKey ++ nonce ++ body
        let sig := slice (Config.sign script) 0 96
        let x : Session := { id := id, hostKey := staticKey, script := script ++ sig, tLast := t.now, tOpen := t.now, born := n }
        let t := t.draw.2
        ({ t with mg := { t.mg with sessions := t.mg.sessions.set i {} x } }).tuiPlain 0x11 h.req 0 (body ++ sig)))

/-- The session opened last that awaits SESSION_FINISH (log 35). -/
def State.halfOpen (s : State) : Option Nat :=
  (s.mg.sessions.filter (fun e => !e.2.opened)).foldl (fun (a : Option Nat) e =>
    match a with | none => some e.1 | some i => if (s.mg.sessions.getD i {}).born < e.2.born then some e.1 else some i) none

/-- SESSION_FINISH: the session opens when the controller's key hashes to a programmed owner slot that is not revoked and the
signature verifies, else it is rejected (R624). -/
def execSessionFinish (h : TuiHead) (sig : List Byte) (s : State) : Host.Outcome State Fault Refusal :=
  .next (if sig.length ≠ 96 then (if s.pw.phase = .on then s.tuiDrop else s)
    else s.plainIn h 96 (fun t =>
      match t.halfOpen with
      | none => t.tuiDrop
      | some i =>
        let x := t.mg.sessions.getD i {}
        match (List.range 4).find? (fun n => decide (t.mg.owners.find n = some (Config.sha384 x.hostKey)) && !bit t.mg.ownerRevoked n) with
        | some n =>
          if Config.ecdsaVerify x.hostKey x.script sig then
            { t with mg := { t.mg with sessions := t.mg.sessions.set i {} { x with opened := true, owner := n, script := [], tLast := t.now, tOpen := t.now } } }
          else (t.closeSession i).sessionReject h.req stBadDesc
        | none => (t.closeSession i).sessionReject h.req stBadDesc))

/-- SESSION_CLOSE (R626). -/
def execSessionClose (h : TuiHead) (s : State) : Host.Outcome State Fault Refusal := .next (s.sealedIn h 0 (fun t i => t.closeSession i))

/-- SESSION_TIMEOUT: 60 s without a valid frame, or 24 h (R626). A session that has not opened ends in the same way (log 35). -/
def execSessionTimeout (i : Nat) (s : State) : Host.Outcome State Fault Refusal :=
  .next (match s.mg.sessions.find i with
    | none => s
    | some x => if x.tLast + 6000000000 ≤ s.now ∨ x.tOpen + 8640000000000 ≤ s.now then s.closeSession i else s)

/-- EVENT_ACK: the EVENT that it names is not sent again (R627). -/
def execEventAck (h : TuiHead) (s : State) : Host.Outcome State Fault Refusal :=
  .next (s.sealedIn h 0 (fun t i => { t with mg := { t.mg with sessions := t.mg.sessions.upd i {} (fun x => { x with events := x.events.filter (fun e => e.req ≠ h.req) }) } }))

/-- One EVENT of a session is sent again, or given up after 60 s (R627). -/
def State.eventAgain (s : State) (i : Nat) (e : TuiEvent) : State :=
  if s.now < e.tLast + 100000000 then s
  else
    let rest (x : Session) : List TuiEvent := x.events.filter (fun y => y.req ≠ e.req)
    if e.tFirst + 6000000000 ≤ s.now then { s with mg := { s.mg with sessions := s.mg.sessions.upd i {} (fun x => { x with events := rest x }) } }
    else
      let t := s.tuiSend i 0x30 e.req 0 e.body
      if (t.mg.sessions.getD i {}).opened then { t with mg := { t.mg with sessions := t.mg.sessions.upd i {} (fun x => { x with events := rest x ++ [{ e with tLast := s.now }] }) } } else t

/-- EVENT_REPEAT (R627). -/
def execEventRepeat (i : Nat) (s : State) : Host.Outcome State Fault Refusal :=
  .next (if (s.mg.sessions.getD i {}).opened then s.each (s.mg.sessions.getD i {}).events (fun t e => t.eventAgain i e) else s)

/-! ### OD_REQUEST (R614, R615, R623) -/

/-- A request as far as its items have been performed. -/
structure ReqRun where
  st : State
  out : List Byte
  posts : List (Nat × Nat × Nat)
  rest : List OdItem
  held : Bool

/-- Bytes padded with zeros to a multiple of 8. -/
def pad8 (bs : List Byte) : List Byte := slice bs 0 (8 * cdiv bs.length 8)

/-- One item: the state, and its status and data; none where it waits. `used` counts reply bytes so far and the heads still to come.
A READ of a BLOB returns LENGTH bytes from OFFSET, or all of them where LENGTH is 0 (log 35). -/
def State.odItem (s : State) (p : Path) (sealed : Bool) (used : Nat) (it : OdItem) : State × Option (Nat × List Byte) :=
  if !sealed && !((it.op = 1 || it.op = 3) && (it.index = 0x1000 || it.index = 0x1010 || it.index = 0x9000)) then
    (if it.op = 2 then s.discardRwp.odBump 0x6200 1 1 else s, some (stBadDesc, []))
  else if it.op = 2 then
    if !s.odStageOk it.index it.sub true then (s.odBump 0x6200 1 1, some (stUnitOffline, []))
    else
      let r := s.odWriteAct p it.index it.sub it.data
      match r.2 with
      | some st => (if st = stOk then r.1 else r.1.odBump 0x6200 1 1, some (st, []))
      | none => (r.1, none)
  else if it.op = 1 ∨ it.op = 3 then
    let r := s.odLook (it.op = 3) it.index it.sub
    let bs := if it.op = 1 && odBlobEntry it.index it.sub then (let d := r.2.drop it.offset; if it.length = 0 then d else d.take it.length) else r.2
    if 1408 < used + 8 + (pad8 bs).length then (s, some (stQuota, [])) else (s, some (r.1, bs))
  else (s, some (stBadDesc, []))

/-- Perform items in order until one waits. -/
def State.runItems (s : State) (p : Path) (sealed : Bool) (out : List Byte) (posts : List (Nat × Nat × Nat)) : List OdItem → ReqRun
  | [] => { st := s, out := out, posts := posts, rest := [], held := false }
  | it :: rest =>
    let r := s.odItem p sealed (out.length + 8 * rest.length) it
    match r.2 with
    | none => { st := r.1, out := out, posts := posts ++ [(it.index, it.sub, leNat it.data)], rest := rest, held := true }
    | some (st, bs) =>
      let posts := if it.op = 2 ∧ st = stOk then posts ++ [(it.index, it.sub, leNat it.data)] else posts
      r.1.runItems p sealed (out ++ replyHead st bs.length ++ pad8 bs) posts rest

/-- The end of a request: the reply, and then what its writes do after it; or it is held up by an item that waits (R615, R623). -/
def State.reqEnd (r : ReqRun) (key req : Nat) : State :=
  if r.held then { r.st with mg := { r.st.mg with reqs := r.st.mg.reqs.set key none (some { req := req, sealed := true, done := r.out, rest := r.rest, posts := r.posts }) } }
  else
    let t := { r.st with mg := { r.st.mg with reqs := r.st.mg.reqs.del key } }
    (t.tuiSend (key % 4) 0x21 req 0 r.out).each r.posts (fun t w => t.afterWrite w.1 w.2.1 w.2.2)

/-- Requests whose item that waited has been answered go on. -/
def State.reqsGo (s : State) : State :=
  s.each s.mg.reqs (fun t e =>
    match e.2 with
    | some r =>
      match r.answered with
      | some st => State.reqEnd (t.runItems (.session e.1) r.sealed (r.done ++ replyHead st 0) r.posts r.rest) e.1 r.req
      | none => t
    | none => t)

/-- Bytes of an item in the request. -/
def OdItem.size (it : OdItem) : Nat := 8 + (if it.op = 2 then 8 * cdiv it.data.length 8 else 0)

/-- Items follow R623: at most 32, WRITE data of the length that the head gives. -/
def itemsOk (items : List OdItem) : Bool := decide (items.length ≤ 32) && items.all (fun it => it.op ≠ 2 || it.length = it.data.length)

/-- OD_REQUEST: its items in order, and the reply (R614, R615, R623). A request with no items is a keep-alive. -/
def execOdRequest (h : TuiHead) (items : List OdItem) (s : State) : Host.Outcome State Fault Refusal :=
  let len := sumNat (items.map OdItem.size)
  .next (if s.pw.phase ≠ .on then s
    else if !itemsOk items then s.tuiDrop
    else if h.sealed then
      s.sealedIn h len (fun t i =>
        let k := ((List.range (t.mg.reqs.length + 1)).find? (fun k => (t.mg.reqs.find (i + 4 * (k + 1))).isNone)).getD 0
        State.reqEnd (t.runItems (.session (i + 4 * (k + 1))) true [] [] items) (i + 4 * (k + 1)) h.req)
    else s.plainIn h len (fun t => let r := t.runItems .firmware false [] [] items; r.st.tuiPlain 0x21 h.req 0 r.out))

/-! ### The loader (R630 to R632, R635, R636) -/

/-- A firmware image failed: WAIT_IMAGE with its cause, the alert bit BOOT, and an event (R631, R632, R643). -/
def State.loaderFail (s : State) (cause : Nat) : State :=
  let t := { s with mg := { s.mg with held := false, image := [], imageSize := 0, loader := {} } }
  let t := (t.setRf (mgR 0x10) 15 8 cause).odSet 0x9000 2 cause
  ((t.logEvent 0x0002 2 0 cause).alert 6).setStage .waitImage

/-- Send IMAGE_READs while fewer than eight are outstanding (R632). -/
def State.imageReads (s : State) : Nat → State
  | 0 => s
  | n + 1 =>
    let l := s.mg.loader
    if 8 ≤ l.reads.length ∨ l.size ≤ l.next then s
    else
      let len := Nat.min 1400 (l.size - l.next)
      let t := { s with mg := { s.mg with loader := { l with next := l.next + len, reads := l.reads.put l.next 0 } } }
      (t.tuiPlain 0x52 0 0 (leBytes 4 l.next ++ leBytes 4 len)).imageReads n

/-- The loader takes an offer: stage VERIFY, and the image held is overwritten (R632). -/
def State.fetchStart (s : State) (source size addr : Nat) : State :=
  let t := { s with mg := { s.mg with held := false, image := [], imageSize := 0, loader := { busy := true, source := source, size := size, addr := addr } } }
  t.setStage .verify

/-- IMAGE_REQUEST (R622, R632). -/
def execImageRequest (s : State) : Host.Outcome State Fault Refusal :=
  let t := s.leaveRom
  .next (if t.pw.phase = .on ∧ t.mg.stage = .waitImage then t.tuiPlain 0x50 0 0 [] else t)

/-- IMAGE_OFFER: the first offer in WAIT_IMAGE is taken, others are refused (R632). An image beyond 64 MiB fails as R631 says. -/
def execImageOffer (h : TuiHead) (size : Nat) (s : State) : Host.Outcome State Fault Refusal :=
  .next (s.leaveRom.plainIn h 4 (fun t =>
    if t.mg.stage ≠ .waitImage then t.tuiDrop
    else if 0x4000000 < size then t.loaderFail 2
    else (t.fetchStart 2 size 0).imageReads 8))

/-- IMAGE_DATA: bytes that a read awaits are placed, and the next read goes out (R632). Other data is dropped. -/
def execImageData (h : TuiHead) (off : Nat) (data : List Byte) (s : State) : Host.Outcome State Fault Refusal :=
  .next (s.plainIn h (8 + data.length) (fun t =>
    let l := t.mg.loader
    if t.mg.stage ≠ .verify || l.source ≠ 2 || (l.reads.find off).isNone || data.length ≠ Nat.min 1400 (l.size - off) then t.tuiDrop
    else
      let t := { t with mg := { t.mg with image := t.mg.image.put off data, imageSize := t.mg.imageSize + data.length, loader := { l with reads := l.reads.del off } } }
      t.imageReads 1))

/-- IMAGE_READ_TIMEOUT: a read is repeated, and the tenth repeat without data ends with TRANSFER (R632). -/
def execImageReadTimeout (off : Nat) (s : State) : Host.Outcome State Fault Refusal :=
  let l := s.mg.loader
  .next (if s.mg.stage ≠ .verify ∨ l.source ≠ 2 then s
    else match l.reads.find off with
      | none => s
      | some n =>
        if 10 ≤ n then s.loaderFail 1
        else ({ s with mg := { s.mg with loader := { l with reads := l.reads.put off (n + 1) } } }).tuiPlain 0x52 0 0 (leBytes 4 off ++ leBytes 4 (Nat.min 1400 (l.size - off))))

/-- A write of MG_LDCTRL: SIZE, and GO, which reads the image from the host by DMA (R619, R632). -/
def State.ldctrlWrite (s : State) (p : Path) (v : Nat) : State :=
  match p with
  | .pf =>
    if !s.fnServes 0 then s.urAnswer 0
    else
      let t := s.leaveRom.setRf (b4R 0x12008) 26 0 (bits v 26 0)
      if !bit v 31 then t
      else if t.mg.stage ≠ .waitImage ∨ t.mg.loader.busy then t.discardRo
      else
        let size := bits v 26 0
        let addr := t.reg (b4R 0x12000)
        if 0x4000000 < size then t.loaderFail 2
        else
          let t := t.fetchStart 1 size addr
          match t.hostRead addr size with
          | none => t.hostReadFailed.loaderFail 1
          | some bs => { t with mg := { t.mg with image := [(0, bs)], imageSize := bs.length } }
  | _ => s

/-- LOADER_GO: a write of MG_LDCTRL with GO. -/
def execLoaderGo (p : Path) (v : W32) (s : State) : Host.Outcome State Fault Refusal := .next (s.ldctrlWrite p (setBits v.toNat 31 31 1))

/-- Bytes of the header that no field names are zero (R630). -/
def headerZeros (b : List Byte) : Bool :=
  [(0x1C, 0x20), (0xB1, 0x200), (0x260, 0x1000)].all (fun r => ((b.drop r.1).take (r.2 - r.1)).all (· = 0))

/-- Why the image held fails R631, if it does; else the key-hash slot that signed it. -/
def State.imageVerdict (s : State) : Except Nat Nat :=
  let b := s.imageBytes
  let size := sliceNat b 0xC 4
  let pub := slice b 0x50 97
  if sliceNat b 0 4 ≠ 0x46563830 || sliceNat b 4 4 ≠ 1 || !headerZeros b || size + 4096 ≠ s.mg.imageSize || decide (0x4000000 < size + 4096) || !bit (sliceNat b 0x18 4) 1 then .error 2
  else match (List.range 4).find? (fun n => decide (Config.keyHash n = Config.sha384 pub)) with
    | none => .error 3
    | some n =>
      if bit s.mg.keyRevoked n then .error 4
      else if !Config.ecdsaVerify pub (slice b 0 0x200) (slice b 0x200 96) || slice b 0x20 48 ≠ Config.sha384 (b.drop 4096) then .error 5
      else if sliceNat b 0x10 8 < s.mg.floor then .error 6
      else .ok n

/-- The firmware starts: it enables the units and starts memory training (R636, 08 R325); after a hub warm reset nothing is
trained again or restored (R639). -/
def State.fwStart (s : State) (slot : Nat) : State :=
  let b := s.imageBytes
  let t := { s with mg := { s.mg with held := true, loader := {}, runArb := sliceNat b 0x10 8, runSlot := slot, tRestore := s.now } }
  let t := (((t.setRf (mgR 0x10) 15 8 0).odSet 0x9000 2 0).odSet 0x1000 7 (sliceNat b 8 4)).setStage .start
  if t.mg.warming && t.mg.trainDone then t.bootGo
  else
    let train (k n : Nat) (t : State) : State := t.each (List.range n) (fun t i => t.modUnit ⟨k, i⟩ (fun m => { m with st := .training, toService := true, power := true }))
    let t := train 2 4 (train 1 16 (train 0 32 t))
    let t := t.each (List.range 16) (fun t cl => (t.setSqEnable cl true).each ((List.range 8).filterMap (fun n => t.slotOf cl n)) (fun t c => (t.setTeEnable c true).setMxEnable c true))
    t.each (List.range 8) (fun t i => if (t.port (i + 1)).module.isSome then t.quadsTrain (i + 1) 0xF else t)

/-- IMAGE_CHECK: the image held or fetched is checked, and the firmware starts or the loader waits (R631, R632, R635). -/
def execImageCheck (s : State) : Host.Outcome State Fault Refusal :=
  let t := s.leaveRom
  let l := t.mg.loader
  .next (if t.pw.phase ≠ .on || t.mg.stage ≠ .verify || (l.source = 2 && (l.reads ≠ [] || decide (l.next < l.size))) then t
    else match t.imageVerdict with
      | .error c => t.loaderFail c
      | .ok n => t.fwStart n)

/-! ### Restore (R637) -/

/-- RESTORE_DONE. -/
def execRestoreDone (p : Path) (v : Byte) (s : State) : Host.Outcome State Fault Refusal :=
  .next (s.odCmd p 0x9000 3 (fun t => t.restoreAct v.toNat))

/-- RESTORE_WINDOW_EXPIRY: 30 s into START the restore ends with the values held, and DEFAULTS is set. -/
def execRestoreWindowExpiry (s : State) : Host.Outcome State Fault Refusal :=
  .next (if s.mg.stage = .start ∧ !s.mg.restoreDone ∧ s.mg.tRestore + 3000000000 ≤ s.now then (s.setRf (mgR 0x10) 30 30 1).restoreEnd else s)

/-! ### Hub warm reset and the watchdog (R639 to R641) -/

/-- A write of 0x9010:01 by a path. -/
def State.warmWrite (s : State) (p : Path) (v : Nat) : State := s.odWriteItem p 0x9010 1 (leBytes 4 v)

/-- WARM. -/
def execWarm (p : Path) (v : W32) (s : State) : Host.Outcome State Fault Refusal := .next (s.warmWrite p (setBits v.toNat 31 24 1))

/-- WARM_RELOAD. -/
def execWarmReload (p : Path) (v : W32) (s : State) : Host.Outcome State Fault Refusal := .next (s.warmWrite p (setBits v.toNat 31 24 2))

/-- WATCHDOG: an expiry while the firmware runs starts a hub warm reset; the third within an hour gives up the image (R640, R641). -/
def execWatchdog (s : State) : Host.Outcome State Fault Refusal :=
  .next (if s.mg.stage ≠ .start ∧ s.mg.stage ≠ .ready then s
    else
      let times := s.now :: s.mg.wdTimes.filter (fun t => s.now < t + 360000000000)
      let t := (({ s with mg := { s.mg with wdTimes := times } }).bumpSat (mgR 0x28) 0 16 1).alert 5
      let t := (t.logEvent 0x0003 2 0 0).warmReset
      if 3 ≤ times.length then t.loaderFail 7 else t)

/-! ### Key-hash and owner slots (R633, R634) -/

/-- REVOKE_KEY_SLOT. -/
def execRevokeKeySlot (p : Path) (v : Byte) (s : State) : Host.Outcome State Fault Refusal := .next (s.odWriteItem p 0x8020 1 [v])

/-- RAISE_ROLLBACK_FLOOR. -/
def execRaiseRollbackFloor (p : Path) (v : Byte) (s : State) : Host.Outcome State Fault Refusal := .next (s.odCmd p 0x8020 3 (fun t => t.floorRaise v.toNat))

/-- PROGRAM_OWNER_SLOT. -/
def execProgramOwnerSlot (p : Path) (data : List Byte) (s : State) : Host.Outcome State Fault Refusal := .next (s.odCmd p 0x8010 5 (fun t => t.ownerProgram data))

/-- REVOKE_OWNER_SLOT: the sessions opened with the slot close after the reply. -/
def execRevokeOwnerSlot (p : Path) (v : Byte) (s : State) : Host.Outcome State Fault Refusal := .next (s.odWriteItem p 0x8010 6 [v])

end Sys2Proof.Machine
end

