-- ==== Sys2Proof/Machine/Translate.lean ====
section
/-! DEFINITION. Commands of address translation (09_address_translation.md R365 to R385). -/

namespace Sys2Proof.Machine

/-! ### Walks (R367, R368, R371) -/

/-- WALK_COMPLETE: one of the 64 running walks returns. Its translation fills the caches of every agent that joined it, or each
of them meets the fault. -/
def execWalkComplete (walk : Nat) (s : State) : Host.Outcome State Fault Refusal :=
  match (s.xl.walks.take 64).find? (fun w => w.id = walk) with
  | none => .next s
  | some w =>
    let r := s.walkXlate w.ctx w.va w.acc
    if r.wait then .next s
    else
      let t := { r.st with xl := { r.st.xl with walks := r.st.xl.walks.filter (fun x => x.id ≠ walk) } }
      match r.out with
      | .ok e => .next (t.each w.agents (fun t a => (t.xlFill a e).wake a))
      | .error f => .next (t.each w.agents (fun t a => t.raiseFault a w.ctx (s.ctxPart w.ctx) { f with pc := w.pc } w.desc))

/-- FAULT_WINDOW_CLOSE: the merge window of an open fault ends and its record is written (R372). -/
def execFaultWindowClose (fault : Nat) (s : State) : Host.Outcome State Fault Refusal :=
  match s.xl.faults.find? (fun o => o.id = fault) with
  | none => .next s
  | some o => .next (if o.windowOpen && decide (o.opened + o.window * 100 ≤ s.now) then s.recordFault o else s)

/-! ### The fault queue and its resolution (R373 to R376) -/

/-- The function that reaches a partition's registers besides the PF (11 R428). -/
def partVf (part : Nat) : Option Nat := some (part + 1)

/-- A write of TT_FQTAIL: records that waited for space are written in order while the queue has room. -/
def State.fqTail (s : State) (part v : Nat) : State :=
  let s := s.setReg (ttP part 0x28) v
  s.each (s.xl.faults.filter (fun o => o.part = part && o.held)) (fun t o => if t.fqFull part then t else t.recordFault o)

/-- FQTAIL_WRITE (R373, R376). -/
def execFqtailWrite (p : Path) (part : Nat) (v : W32) (s : State) : Host.Outcome State Fault Refusal :=
  .next (s.regGate p (ttP part 0x28) (partVf part) (fun t => t.fqTail part v.toNat))

/-- The step of an agent's access. -/
def State.agentStep (s : State) (a : Agent) : Option Nat :=
  match a with
  | .te c _ => s.coreStep c
  | .mx c => match (s.mx c).queue with | m :: _ => s.mxQueue c m | [] => none
  | .seq cl => (s.seq cl).queue

/-- The descriptor read of a sequencer fails: the step ends under R194 with the instruction that read it. -/
def State.descAbort (s : State) (cl st : Nat) : State :=
  match s.fetchWord cl with
  | (some w, t) => t.seqFail cl w st true
  | (none, _) => s.seqFail cl 0 st true

/-- ABORT of an open fault (R374): every access of it fails. -/
def State.abortFault (s : State) (o : OpenFault) : State :=
  let st := causeStatus o.f.cause
  let steps := (o.agents.filterMap (fun a => s.agentStep a)).eraseDups
  let t := s.closeFault o
  if o.desc then t.each o.agents (fun t a => match a with | .seq cl => t.descAbort cl st | _ => t)
  else
    let t := t.each (steps.drop 1) (fun t q => t.modStep q (fun r => { r with status := r.endStatus st, stopping := true }))
    t.teardown o.ctx (steps.head?.map (fun q => (q, st))) false false

/-- A write of TT_RESOLVE (R374). -/
def State.resolve (s : State) (part v : Nat) : State :=
  let unknown := s.setRf (ttP part 0x38) 31 31 1
  match s.xl.faults.find? (fun o => o.part = part && (match o.record with | some h => decide (h = bits v 31 0) | none => false)) with
  | none => unknown
  | some o =>
    if bits v 63 60 = 1 then (s.closeFault o).each o.agents (fun t a => t.wake a)
    else if bits v 63 60 = 2 then s.abortFault o
    else unknown

/-- RESOLVE_RETRY: every access of the open fault walks again when its agent next issues it. -/
def execResolveRetry (p : Path) (part : Nat) (v : W64) (s : State) : Host.Outcome State Fault Refusal :=
  .next (s.regGate p (ttP part 0x30) (partVf part) (fun t => t.resolve part (setBits v.toNat 63 60 1)))

/-- RESOLVE_ABORT. -/
def execResolveAbort (p : Path) (part : Nat) (v : W64) (s : State) : Host.Outcome State Fault Refusal :=
  .next (s.regGate p (ttP part 0x30) (partVf part) (fun t => t.resolve part (setBits v.toNat 63 60 2)))

/-! ### Invalidation (R378 to R381) -/

/-- Post an invalidation command. With 16 pending it is discarded (R381). A virtual function's S2_RANGE or PARTITION completes
in its turn with BAD_DESCRIPTOR (11 R428). -/
def State.invPost (s : State) (p : Path) (part v : Nat) : State :=
  let q := s.xl.inv.getD part []
  if 16 ≤ q.length then s.setRf (ttP part 0x54) 31 31 1
  else
    let act := bits v 63 60
    let ranged := decide (act = 2 ∨ act = 4)
    let vf := match p with | .vf _ => decide (act = 4 ∨ act = 5) | _ => false
    let c : InvCmd := { action := act, ctx := bits v 59 50, pages := bits v 49 32, seq := bits v 31 0, addr := s.rf (ttP part 0x40) 56 16 * 65536, reserved := vf || (ranged && s.xl.badAddr.getD part false) }
    { s with xl := { s.xl with inv := s.xl.inv.set part [] (q ++ [c]) } }

/-- Post a command of a given action. -/
def State.invCmd (s : State) (p : Path) (part : Nat) (v : W64) (action : Nat) : State :=
  s.regGate p (ttP part 0x48) (partVf part) (fun t => t.invPost p part (setBits v.toNat 63 60 action))

/-- SYNC. -/
def execSync (p : Path) (part : Nat) (v : W64) (s : State) : Host.Outcome State Fault Refusal := .next (s.invCmd p part v 1)

/-- CONTEXT_RANGE. -/
def execContextRange (p : Path) (part : Nat) (v : W64) (s : State) : Host.Outcome State Fault Refusal := .next (s.invCmd p part v 2)

/-- CONTEXT. -/
def execContext (p : Path) (part : Nat) (v : W64) (s : State) : Host.Outcome State Fault Refusal := .next (s.invCmd p part v 3)

/-- S2_RANGE. -/
def execS2Range (p : Path) (part : Nat) (v : W64) (s : State) : Host.Outcome State Fault Refusal := .next (s.invCmd p part v 4)

/-- PARTITION. -/
def execPartition (p : Path) (part : Nat) (v : W64) (s : State) : Host.Outcome State Fault Refusal := .next (s.invCmd p part v 5)

/-- Whether a command completes with BAD_DESCRIPTOR (R381). -/
def State.invBad (s : State) (part : Nat) (c : InvCmd) : Bool :=
  c.reserved || c.action = 0 || decide (5 < c.action) || ((c.action = 2 || c.action = 4) && c.pages = 0)
    || ((c.action = 2 || c.action = 3) && !((s.ctx c.ctx).st ≠ .free && (s.ctx c.ctx).part = part))

/-- Whether a command names the accesses of a context. -/
def InvCmd.names (c : InvCmd) (part ctx cpart : Nat) : Bool :=
  if c.action = 2 ∨ c.action = 3 then decide (ctx = c.ctx) else decide (4 ≤ c.action) && decide (cpart = part)

/-- Whether a translation is one that a command removes (R379). -/
def InvCmd.removes (c : InvCmd) (part : Nat) (e : Xent) : Bool :=
  if c.action = 2 then e.ctx = c.ctx && overlaps e.va e.size c.addr (c.pages * 65536)
  else if c.action = 3 then e.ctx = c.ctx
  else if c.action = 4 then e.part = part && !e.host && overlaps e.ipa e.size c.addr (c.pages * 65536)
  else c.action = 5 && e.part = part

/-- Drain the store-buffer entries that a command names (R380): entries hold device physical addresses, so every entry of the
contexts named drains (log 17). -/
def State.invDrain (s : State) (part : Nat) (c : InvCmd) : State :=
  s.each (s.cores.map (·.1)) (fun t slot => if (t.core slot).sb.any (fun e => c.names part e.ctx e.part) then t.drainCore slot else t)

/-- Whether an access translated under an entry that the command removes has not been performed (R380). -/
def State.invPending (s : State) (part : Nat) (c : InvCmd) : Bool :=
  s.cores.any (fun k => k.2.sb.any (fun e => c.names part e.ctx e.part) || k.2.winQ.any (fun a => c.names part a.ctx (s.ctxPart a.ctx))
    || k.2.mx.queue.any (fun m => m.started && m.pages.any (fun e => c.removes part e)))

/-- INV_COMPLETE: the partition's oldest command removes what it names and completes, once the accesses translated under the
removed entries have been performed (R380, R381). -/
def execInvComplete (part : Nat) (s : State) : Host.Outcome State Fault Refusal :=
  match s.xl.inv.getD part [] with
  | [] => .next s
  | c :: rest =>
    let fin (t : State) (st : Nat) : State :=
      ({ t with xl := { t.xl with inv := t.xl.inv.set part [] rest } }.setReg (ttP part 0x50) c.seq).setRf (ttP part 0x54) 7 0 st
    if s.invBad part c then .next (fin s stBadDesc)
    else
      let s := (s.invApply part c).invDrain part c
      if s.invPending part c then .next s else .next (fin s stOk)

end Sys2Proof.Machine
end

