-- ==== Sys2Proof/Machine/Regs.lean ====
section
/-! DEFINITION. Accesses to the register space, the PF's BAR4 window and the controls of configuration space by offset
(00_scope.md R8 to R13, R699; 11_host_link.md R427 to R431, R435; 16_management_and_startup.md R619, R638, R639). -/

namespace Sys2Proof.Machine

/-! ### Size and alignment (00 R8, R9) -/

/-- Whether an offset lies in the data buffer of the BAR4 window (16 R619). -/
def inBuf4 (off : Nat) : Bool := decide (b4R 0x11000 ≤ off) && decide (off < b4R 0x12000)

/-- Whether a 32-bit register stands at an offset. -/
def reg32At (off : Nat) : Bool := match findReg off with | some (r, _, _) => r.bytes = 4 | none => false

/-- Whether an access follows R8: 4 bytes, or the 8 bytes of one 64-bit register, aligned to its size. -/
def accessOk (off size : Nat) : Bool :=
  (decide (size = 4) && decide (off % 4 = 0)) || (decide (size = 8) && decide (off % 8 = 0) && !reg32At off && !reg32At (off + 4))

/-! ### Fields by access code (00 R11, R12, R699) -/

/-- Bits `[hi:lo]` set. -/
def fieldMask (hi lo : Nat) : Nat := (2 ^ (hi + 1 - lo) - 1) * 2 ^ lo

/-- A register's value after a write of the bits of `m` with the data `v`: each field follows its access code. -/
def fieldsWrite (fs : List RegField) (priv : Bool) (old v m : Nat) : Nat :=
  fs.foldl (fun (a : Nat) (f : RegField) =>
    let fm := fieldMask f.hi f.lo &&& m
    match f.acc with
    | .rw => a - (a &&& fm) + (v &&& fm)
    | .rwp => if priv then a - (a &&& fm) + (v &&& fm) else a
    | .w1c => a - (a &&& (v &&& fm))
    | _ => a) old

/-- Whether a write of the bits of `m` reaches an RWP field. -/
def reachesRwp (fs : List RegField) (m : Nat) : Bool := fs.any (fun f => decide (f.acc = .rwp) && (fieldMask f.hi f.lo &&& m) != 0)

/-- Whether all that a register holds is RO, CONST or reserved. -/
def allRo (fs : List RegField) : Bool := fs.all (fun f => f.acc = .ro || f.acc = .const || f.acc = .reserved)

/-- Registers and pages whose writes the spec restricts to privileged paths (07 TK_RETIRE, 08 MC_TGCTRL, 14 R583, 15 R609, 17 R669). -/
def restricted (r : RegRow) (i : Nat) : Bool :=
  r.priv || r.blk = .ng || (r.blk = .db && i = 0) || (r.blk = .lk && decide (1 ≤ i))

/-- Error records whose MORE is cleared with VALID (02 to 05, 07, 08, 10). -/
def errInfo (b : Blk) (o : Nat) : Bool :=
  match b with
  | .te => o = 0x30 | .mx => o = 0x30 | .sq => o = 0x30 | .cc => o = 0x30 | .uu => o = 0x30
  | .tk => o = 0x40 | .mc => o = 0x40 | .xl => o = 0x40
  | _ => false

/-- A write of a register whose fields only follow their codes. -/
def State.regPlain (s : State) (p : Path) (r : RegRow) (base o v m : Nat) : State :=
  let t := s.setReg base (fieldsWrite r.fields (s.privileged p) (s.reg base) v m)
  if errInfo r.blk o && bit (v &&& m) 31 then t.setRf base 15 8 0 else t

/-! ### Action registers (00 R8) -/

/-- Whether the register at an offset of its page starts an action when its high half is written. -/
def isAction (b : Blk) (i o : Nat) : Bool :=
  match b with
  | .tt => decide (i = 0) && decide (0x1000 ≤ o) && decide (o < 0x1800) && (decide (o % 0x100 = 0x30) || decide (o % 0x100 = 0x48))
  | .hq => decide (1 ≤ i) && decide (i ≤ 8) && decide (o = 0x10)
  | .bar4 => decide (o = 0x10000)
  | _ => false

/-- MG_ODCMD (16 R616, R619): a dictionary item by the BAR4 window. -/
def State.odcmdWrite (s : State) (p : Path) (v : Nat) : State :=
  let idx := bits v 47 32
  let sub := bits v 31 24
  let len := bits v 12 0
  if s.odBusy p then s.setRf (b4R 0x10008) 30 30 1
  else if s.earlyStage then s.odStat stUnitOffline 0
  else match bits v 63 56 with
    | 1 => s.odLookItem p false idx sub (bits v 19 16)
    | 2 => if 4096 < len then s.odStat stBadDesc 0 else s.odWriteItem p idx sub ((List.range len).map (fun n => s.buf4.getD n 0))
    | 3 => s.odLookItem p true idx sub 0
    | _ => s.odStat stBadDesc 0

/-- What an action register starts with its 64 bits. -/
def State.regAct (s : State) (p : Path) (b : Blk) (i o v : Nat) : State :=
  match b with
  | .tt => if o % 0x100 = 0x30 then s.resolve ((o - 0x1000) / 0x100) v else s.invPost p ((o - 0x1000) / 0x100) v
  | .hq => s.hqWrite p (i - 1) (bits v 63 56)
  | .bar4 => s.odcmdWrite p v
  | _ => s

/-- A write of an action register: the low half is held, the high half acts with it, an 8-byte write acts once (R8). -/
def State.actWrite (s : State) (p : Path) (b : Blk) (i o base d size val : Nat) : State :=
  let clear (t : State) : State := { t with actLow := t.actLow.set base 0 0 }
  if size = 8 then (clear s).regAct p b i o val
  else if d = 0 then { s with actLow := s.actLow.set base 0 (BitVec.ofNat 32 val) }
  else (clear s).regAct p b i o (val % 2 ^ 32 * 2 ^ 32 + (s.actLow.getD base 0).toNat)

/-! ### Registers whose writes do more -/

/-- A write of RWP fields by a path: discarded and counted where it is not privileged. -/
def State.byPriv (s : State) (p : Path) (act : State → State) : State := if s.privileged p then act s else s.discardRwp

/-- CC_WAYPWR: each way whose bit changes powers on, or starts to be cleaned (07 R276, R277). -/
def State.wayPwr (s : State) (cl v : Nat) : State := s.each (List.range 16) (fun t w => t.ccWaySet cl w (bit v w))

/-- TT_INVADDR by half or whole (09 R379, R381): bits outside ADDR are remembered until a half that sets none is written. -/
def State.invAddr (s : State) (p : Path) (r : RegRow) (part base o v m : Nat) : State :=
  let bad := decide ((v &&& m) &&& (fieldMask 63 57 ||| fieldMask 15 0) ≠ 0)
  let t := s.regPlain p r base o v m
  { t with xl := { t.xl with badAddr := t.xl.badAddr.set part false bad } }

/-- A write of a 32-bit register that does more than hold its fields, and of those that write elsewhere than the register: nothing
where it is a plain one. -/
def State.regSpecial (s : State) (p : Path) (r : RegRow) (i base o v m : Nat) : Option State :=
  match r.blk with
  | .te => if o = 0x10 then some (s.byPriv p (fun t => (t.setTeEnable i (bit v 0)).setDrain i (bit v 1))) else none
  | .mx => if o = 0x10 then some (s.byPriv p (fun t => t.setMxEnable i (bit v 0))) else none
  | .sq => if o = 0x10 then some (s.byPriv p (fun t => t.setSqEnable i (bit v 0))) else none
  | .cc => if o = 0x10 then some (s.byPriv p (fun t => t.wayPwr i v)) else none
  | .tk => if o = 0x2C then some ((s.keepClr 0 v).keepClr 1 v) else if o = 0x30 then some (if bit v 31 then s.bankRetire i (bits v 8 0) else s) else none
  | .mc => if o = 0x80 then some (s.tgWrite false i v) else none
  | .xl => if o = 0x80 then some (s.tgWrite true i v) else none
  | .tt =>
    let part := (o - 0x1000) / 0x100
    if i ≠ 0 ∨ o < 0x1000 then none
    else if o % 0x100 = 0x28 then some (s.fqTail part v)
    else if o % 0x100 = 0x40 then some (s.invAddr p r part base o v m)
    else none
  | .uu => if o = 0x10 then some (s.byPriv p (fun t => t.uuEnable i (bit v 0))) else none
  | .lk => if 1 ≤ i ∧ o = 0x18 then some (s.qctrlWrite p i v) else if 1 ≤ i ∧ o = 0x80 then some (s.prbsWrite p i v) else none
  | .pt => if 0x1000 ≤ o ∧ o % 0x100 = 0x20 then some (if bit v 31 then (s.startReset p ((o - 0x1000) / 0x100) true).1 else s) else none
  | .db =>
    if o = 0x18 then some (if bit v 0 then s.sheetRelease else s)
    else if o = 0x100 then some (s.rctrlBy p i v)
    else if o = 0x108 then
      some (s.byPriv p (fun t =>
        if bit (t.reg (dbR i 0x100)) 31 then t
        else
          let t := t.regPlain p r base o v m
          if i = 0 then t.setRf base 16 15 0 else t))
    else none
  | .doorbell =>
    if o = 0x00 then some (s.hostDoorbell i v)
    else if o = 0x18 then some (if bit v 31 then s.modQueue i (fun q => { q with badTail := false }) else s)
    else none
  | .bar4 => if o = 0x12008 then some (s.ldctrlWrite p v) else none
  | _ => none

/-- A write of 4 or 8 bytes that reaches the registers (R8, R10 to R12, R699). -/
def State.regBody (s : State) (p : Path) (off size val : Nat) : State :=
  if inBuf4 off then
    { s with buf4 := (List.range size).foldl (fun (a : SMap Byte) n => a.set (off - b4R 0x11000 + n) 0 (BitVec.ofNat 8 (val / 256 ^ n))) s.buf4 }
  else match findReg off with
    | none => s
    | some (r, i, d) =>
      let base := off - d
      let o := match locate base with | some (_, _, x) => x | none => 0
      let m := (2 ^ (8 * size) - 1) * 2 ^ (8 * d)
      let v := val % 2 ^ (8 * size) * 2 ^ (8 * d)
      if restricted r i && !s.privileged p then s.discardRwp
      else if allRo r.fields then s.discardRo
      else if isAction r.blk i o then s.actWrite p r.blk i o base d size val
      else match s.regSpecial p r i base o v m with
        | some t => t
        | none => (if reachesRwp r.fields m && !s.privileged p then s.discardRwp else s).regPlain p r base o v m

/-! ### Configuration space (11 R427, R430, R434): model offsets above the BAR4 window -/

/-- Offset of a function's configuration controls. -/
def cfgBase : Nat := 0x5000000

/-- A 4-byte write of the controls that the model keeps of a function's configuration space: APERTURE_BASE at 0x80C and 0x810, the
sizes of BAR2 as powers of two above the least (the PF at 0xF00, the VFs at 0xF04) and PASID Enable at 0xF08 (log 32). -/
def State.cfgWrite (s : State) (f off val : Nat) : State :=
  let o := off - cfgBase
  let v := val % 2 ^ 32
  if s.pw.phase ≠ .on ∨ (f ≠ 0 ∧ !s.vfOn f) then s
  else if o = 0x80C then s.modFn f (fun x => { x with aperture := setBits x.aperture 31 27 (bits v 31 27) })
  else if o = 0x810 then s.modFn f (fun x => { x with aperture := setBits x.aperture 51 32 (bits v 19 0) })
  else if f ≠ 0 ∨ (decide (4 < v) && decide (o < 0xF08)) then s
  else if o = 0xF00 then s.modFn 0 (fun x => { x with barLog := v })
  else if o = 0xF04 then s.each [1, 2, 3, 4, 5, 6, 7, 8] (fun t k => t.modFn k (fun x => { x with barLog := v }))
  else if o = 0xF08 then { s with host := { s.host with pasid := bit v 0 } }
  else s

/-! ### By path (00 R9, R13; 11 R428, R435; 16 R638, R639) -/

/-- What an offset of VF k's BAR0 reaches (R428). -/
def vfMap (k off : Nat) : Option Nat :=
  if off < 0x10000 then some (hqP (k - 1) off)
  else if off < 0x10100 then some (ttP (k - 1) (off - 0x10000))
  else if 0x1000000 ≤ off ∧ off < 0x2000000 then some (dbell ((off - 0x1000000) / 0x1000) (off % 0x1000))
  else none

/-- The offset that a path's own offset reaches, if any. -/
def State.reached (p : Path) (off : Nat) : Option Nat :=
  match p with
  | .pf => some off
  | .vf k => vfMap k off
  | .session _ => none
  | _ => if off < 0x4000000 then some off else none

/-- A write of `size` bytes to the register space by a path; `off` is the path's own offset. -/
def State.regStore (s : State) (p : Path) (off size val : Nat) : State :=
  let ok := match State.reached p off with | some o => accessOk o size | none => (size = 4 || size = 8) && off % size = 0
  match p with
  | .session _ => s
  | .pf =>
    if cfgBase ≤ off then s.cfgWrite 0 off val
    else if !s.fnServes 0 || !ok then s.urAnswer 0
    else if s.mg.stage ≠ .ready && !inMg off && decide (off < 0x4000000) then s.discardRo
    else s.regBody p off size val
  | .vf k =>
    if cfgBase ≤ off then s.cfgWrite k off val
    else if !s.fnServes k || !ok then s.urAnswer k
    else if s.mg.stage ≠ .ready then s.discardRo
    else match vfMap k off with
      | none => s
      | some o => if decide (0x1000000 ≤ off) && !s.queueIn (k - 1) ((off - 0x1000000) / 0x1000) then s.odBump 0x61B0 4 1 else s.regBody p o size val
  | _ => match State.reached p off with | some o => if ok then s.regBody p o size val else s | none => s

/-- REG_WRITE. -/
def execRegWrite (p : Path) (off size : Nat) (val : W64) (s : State) : Host.Outcome State Fault Refusal := .next (s.regStore p off size val.toNat)

/-- Whether an offset that a path reaches is the low half of an action register. -/
def lowHalf (p : Path) (off : Nat) : Bool :=
  match State.reached p off with
  | none => false
  | some o => match findReg o with
    | some (r, i, 0) => (match locate o with | some (_, _, x) => isAction r.blk i x | none => false)
    | _ => false

/-- ACTION_LOW_HALF_WRITE (R8): the four bytes are held, and nothing starts. -/
def execActionLowHalfWrite (p : Path) (off : Nat) (val : W32) (s : State) : Host.Outcome State Fault Refusal :=
  .next (if lowHalf p off then s.regStore p off 4 val.toNat else s)

/-- BAD_SIZE_ACCESS (R9): a write is discarded and a read returns all ones; a host access is answered with Unsupported Request. An
access of a good size and alignment is none. -/
def execBadSizeAccess (p : Path) (write : Bool) (off size : Nat) (_val : W64) (s : State) : Host.Outcome State Fault Refusal :=
  let ok := match State.reached p off with | some o => accessOk o size | none => (size = 4 || size = 8) && off % size = 0
  let host (f : Nat) : State :=
    let t := s.urAnswer f
    if write then t else { t with host := { t.host with reply := [.unsupported] } }
  match p with
  | .pf => .next (if ok || decide (cfgBase ≤ off) then s else host 0)
  | .vf k => .next (if ok || decide (cfgBase ≤ off) then s else host k)
  | _ => .next s

/-! ### Reads by an engine (00 R9, R10; 17 R648) -/

/-- Registers that count the work of every context, which privileged paths only read (R648). -/
def globalCounter (b : Blk) (i o : Nat) : Bool :=
  match b with
  | .te => o = 0x68 || o = 0x70 || o = 0x78
  | .mx => o = 0x50 || o = 0x58 || o = 0x60
  | .sq => o = 0x50 || o = 0x58
  | .cc => o = 0x40 || o = 0x50 || o = 0x58 || o = 0x60
  | .tk => o = 0x50 || o = 0x58 || (0x80 ≤ o && o ≤ 0xA0)
  | .mc => 0x50 ≤ o && o ≤ 0x68
  | .xl => o = 0x50 || o = 0x60 || o = 0x68
  | .tt => (0x40 ≤ o && o ≤ 0x58)
  | .uu => 0x50 ≤ o && o ≤ 0x68
  | .lk => if i = 0 then 0x40 ≤ o && o ≤ 0x70 else (0x40 ≤ o && o < 0x80) || (0x100 ≤ o && o < 0x180)
  | .pt => 0x1000 ≤ o && (o % 0x100 = 0x30 || o % 0x100 = 0x38)
  | .mt => o = 0x40 || (0x1000 ≤ o && o % 0x100 = 0x10)
  | .db => 0x1000 ≤ o && (o % 0x100 = 0x80 || o % 0x100 = 0x88 || (0x60 ≤ o % 0x100 && o % 0x100 < 0x80))
  | _ => false

/-- What an engine's access of `size` bytes reads: all ones where the size or alignment is bad. What a read of a global counter gives
a context is not stated: a free value (log 36). -/
def State.regLoad (s : State) (off size : Nat) : Nat × State :=
  if !accessOk off size then (2 ^ (8 * size) - 1, s)
  else
    let hid := match findReg off with
      | some (r, i, d) => (match locate (off - d) with | some (_, _, o) => globalCounter r.blk i o | none => false)
      | none => false
    if hid then
      let (w, t) := s.draw
      (w.toNat % 2 ^ (8 * size), t)
    else (s.regRead off size, s)

end Sys2Proof.Machine
end

