-- ==== Sys2Proof/Machine/ThreadMem.lean ====
section
/-! DEFINITION. The memory instructions of the thread engine (02_thread_groups.md R77 to R82; 06_memory_ordering.md R216 to R230,
R247 to R253; 07_caches_and_tank.md R264 to R268, R287; 08_external_memory.md R337, R338; 09_address_translation.md R367 to R371) and
accesses to local-memory windows. -/

namespace Sys2Proof.Machine

/-! ### Lanes and their addresses -/

/-- A lane's access: its VA and the translation that covers it. -/
structure LaneAt where
  lane : Nat
  va : Nat
  x : Xent
  deriving DecidableEq, Repr

/-- The output address of a lane's access: device physical, or a host address. -/
def LaneAt.pa (l : LaneAt) : Nat := l.x.out + (l.va - l.x.va)

/-- The line of a lane's access, and whether it is host memory. -/
def LaneAt.line (l : LaneAt) : Bool × Nat := (l.x.host, l.pa / 128)

/-- What a lane's address reaches. -/
inductive LaneKind where
  | host | own | window (slot off : Nat) | reg (off : Nat) | mem | bad
  deriving DecidableEq, Repr

/-- Who a core's thread engine is for an access. -/
def teWho (i : Issue) (k : Kernel) (l : LaneAt) : Who := coreWho i.core k.part k.ctx l.x.strict

/-- What a lane's address reaches (01 R44, R45). The size of another core's window is checked on arrival (06 R250). -/
def State.laneKind (s : State) (i : Issue) (k : Kernel) (l : LaneAt) : LaneKind :=
  let pa := l.pa
  if l.x.host then .host
  else if winBase 0 ≤ pa ∧ pa < winBase 256 then
    let slot := (pa - winBase 0) / 0x100000
    if slot = i.core then (match s.decode pa with | .window _ _ => .own | _ => .bad)
    else if slot % 16 < 9 then .window slot (pa % 0x100000) else .bad
  else match s.decode pa with
    | .reg off => .reg off
    | .none => .bad
    | _ => if s.lineServe (teWho i k l) false (s.route pa) = .undec then .bad else .mem

/-- Whether an access cannot be served now (08 R317). -/
def State.laneWaits (s : State) (i : Issue) (k : Kernel) (write : Bool) (l : LaneAt) : Bool :=
  decide (s.laneKind i k l = .mem) && decide (s.lineServe (teWho i k l) write (s.route l.pa) = .wait)

/-- What translating an instruction's lanes came to. -/
structure LanesRes where
  st : State
  at_ : List LaneAt := []
  miss : Bool := false

/-- Translate one more lane: the first miss stalls the group for a walk (09 R367, R368; 17 R651 code 0x08). -/
def State.laneXlate (i : Issue) (k : Kernel) (pc acc : Nat) (r : LanesRes) (x : Nat × Nat) : LanesRes :=
  if r.miss then r
  else
    let a : Agent := .te i.core i.slot
    let va := x.2 % 2 ^ 57
    let s := if (r.st.microOf a).any (fun e => e.covers k.ctx va && rightsOk e acc) then r.st else r.st.coreEvent i.core 8 1
    match s.xlLookup a k.ctx va acc with
    | (some e, t) => { st := t, at_ := r.at_ ++ [{ lane := x.1, va := va, x := e }] }
    | (none, t) => { st := (t.startWalk a k.ctx va acc pc false).stallGroup i .xlate, miss := true }

/-- A lane's address falls where nothing decodes, or where the access is refused: a stalling fault (01 R45, 09 R371). -/
def State.laneFault (s : State) (i : Issue) (k : Kernel) (pc acc cause stage : Nat) (l : LaneAt) : State :=
  let lvl := if l.x.size = 16 then 0 else if l.x.size = 21 then 1 else 2
  let f : XFault := { cause := cause, stage := stage, level := if stage = 0 then 0 else lvl, acc := acc, va := l.va, ipa := l.x.ipa + (l.va - l.x.va), pc := pc }
  (s.raiseFault (.te i.core i.slot) k.ctx k.part f false).stallGroup i .xlate

/-- A memory instruction of `size` bytes a lane: MISALIGNED, a busy memory engine, translation of the active lanes in ascending order,
and the fault of the first lane that decodes to nothing; then `f` with the state before, the state after, and the lanes. -/
def State.lanesDo (s : State) (i : Issue) (k : Kernel) (g : Group) (p : PathSt) (size acc : Nat) (va : Nat → Nat)
    (f : State → State → List LaneAt → State) : State :=
  let vas := (lanesOf p.mask).map (fun l => (l, va l % 2 ^ 57))
  if vas.any (fun x => x.2 % size ≠ 0) || g.width = 0 then s.exception i 2
  else if s.agentBusy (.te i.core i.slot) then s
  else
    let r := vas.foldl (State.laneXlate i k p.pc acc) { st := s }
    if r.miss then r.st
    else match r.at_.find? (fun l => r.st.laneKind i k l = .bad) with
      | some l => r.st.laneFault i k p.pc acc 0x75 0 l
      | none => f s r.st r.at_

/-- Registers that hold `size` bytes. -/
def regsFor (size : Nat) : Nat := cdiv size 4

/-- Write a value of `n` registers to a lane. -/
def Group.setRegs (g : Group) (lane rd n v : Nat) : Group :=
  (List.range n).foldl (fun (h : Group) j => h.setReg lane (rd + j) (v / 2 ^ (32 * j))) g

/-- A value of `n` registers of a lane. -/
def Group.regsVal (g : Group) (lane r n : Nat) : Nat :=
  (List.range n).foldl (fun (a : Nat) j => a + g.reg lane (r + j) * 2 ^ (32 * j)) 0

/-! ### The store buffer (06 R219, R220, R222) -/

/-- The byte that the core's store buffer holds for an address, the newest entry first. -/
def State.fwd (s : State) (core : Nat) (host : Bool) (a : Nat) : Option Byte :=
  (s.core core).sb.foldl (fun (o : Option Byte) e =>
    if e.host = host ∧ e.line = a / 128 then (match e.bytes.getD (a % 128) none with | some v => some v | none => o) else o) none

/-- Drain the entries of a core that hold some lines: nothing where one's path is blocked. -/
def State.drainLines : Nat → State → Nat → List (Bool × Nat) → Option State
  | 0, s, _, _ => some s
  | n + 1, s, core, ls =>
    let j := (s.core core).sb.findIdx (fun e => ls.contains (e.host, e.line))
    if (s.core core).sb.length ≤ j then some s
    else match s.drainSb core j with
      | some t => State.drainLines n t core ls
      | none => none

/-- Make room for an entry: nothing where no entry can drain. -/
def State.sbRoom (s : State) (core : Nat) : Option State :=
  if (s.core core).sb.length < 32 then some s else (List.range 32).findSome? (fun j => s.drainSb core j)

/-- A store's bytes enter the buffer: they merge into the open entry of the line, or take a new one (R219, R220). -/
def State.sbPut (s : State) (i : Issue) (k : Kernel) (h : Nat) (l : LaneAt) (bs : List Byte) : State :=
  let put (m : SMap (Option Byte)) : SMap (Option Byte) :=
    ((List.range bs.length).zip bs).foldl (fun (m : SMap (Option Byte)) e => m.set (l.pa % 128 + e.1) none (some e.2)) m
  let mine (e : SbEntry) : Bool := !e.closed && decide ((e.host, e.line) = l.line)
  s.modCore i.core (fun c =>
    if c.sb.any mine then { c with sb := listMod c.sb mine (fun e => { e with bytes := put e.bytes, groups := (i.slot :: e.groups).eraseDups }) }
    else { c with sb := c.sb ++ [{ line := l.pa / 128, bytes := put [], groups := [i.slot], hint := h, host := l.x.host, ctx := k.ctx, part := k.part }] })

/-- The lines of a list that no open entry of the core holds. -/
def State.newLines (s : State) (core : Nat) (ls : List (Bool × Nat)) : List (Bool × Nat) :=
  ls.filter (fun x => !(s.core core).sb.any (fun e => !e.closed && decide ((e.host, e.line) = x)))

/-- A wait on a full buffer is over: its cycles are counted, and how many there were is timing (a free value, log 8). -/
def State.sbStallEnd (s : State) (i : Issue) (g : Group) : State :=
  if g.stall = .sbFull then
    let (w, t) := s.draw
    (t.bump (teR i.core 0x68) w.toNat).coreEvent i.core 6 w.toNat
  else s

/-- The stores of an instruction that enter the buffer: nothing where the group has to wait for entries. An instruction that needs more
entries than the buffer has drains entries as it goes (log 11). -/
def State.sbStores (s : State) (i : Issue) (k : Kernel) (xs : List (Nat × LaneAt × List Byte)) : Option State :=
  let ls := (xs.map (fun x => x.2.1.line)).eraseDups
  let fresh := s.newLines i.core ls
  let merged := ls.length - fresh.length
  let free := 32 - (s.core i.core).sb.length
  let put (t : State) (x : Nat × LaneAt × List Byte) : State := t.sbPut i k x.1 x.2.1 x.2.2
  let fin (t : State) : State :=
    (t.bump (teR i.core 0x70) merged).setRf (teR i.core 0x60) 21 16 (Nat.max (t.rf (teR i.core 0x60) 21 16) (t.core i.core).sb.length)
  if fresh.length ≤ free then some (fin (xs.foldl put s))
  else if fresh.length ≤ 32 then none
  else (xs.foldl (fun (o : Option State) x => match o with
    | none => none
    | some t => if (t.newLines i.core [x.2.1.line]).isEmpty then some (put t x)
      else match t.sbRoom i.core with | some u => some (put u x) | none => none) (some s)).map fin

/-! ### Loads (02 R56; 06 R216 to R218, R222, R248) -/

/-- A line that a load read: its bytes, its poisoned sectors and its unit's status. -/
structure LineGot where
  line : Nat
  data : List Byte
  poison : List Nat
  status : Option Nat
  deriving DecidableEq, Repr

/-- Read a line through the core's L1, counting the hit or miss (17 R651 codes 0x04, 0x05). -/
def State.loadLine (i : Issue) (k : Kernel) (h : Nat) (r : State × List LineGot) (l : LaneAt) : State × List LineGot :=
  let pa := l.pa / 128 * 128
  let s := r.1.coreEvent i.core (if (r.1.core i.core).l1.contains (r.1.route pa / 128) then 4 else 5) 1
  let m := s.readMem (teWho i k l) h pa 128
  (m.st, r.2 ++ [{ line := l.pa / 128, data := m.data, poison := (List.range 4).filter (fun j => m.poison.any (fun x => x % 4 = j)), status := m.status }])

/-- What a lane loaded: its value, and whether a byte of it was poisoned. -/
structure LaneGot where
  lane : Nat
  val : Nat
  deriving DecidableEq, Repr

/-- A lane's bytes of a line, forwarded bytes over it, poisoned bytes zero (06 R222, 08 R337); and the poisoned sectors met. -/
def State.laneBytes (s : State) (core : Nat) (l : LaneAt) (size : Nat) (g : LineGot) : Nat × List Nat :=
  let o := l.pa % 128
  let byte (n : Nat) : Byte := match s.fwd core l.x.host (l.pa + n) with
    | some v => v
    | none => if g.poison.contains ((o + n) / 32) then 0 else g.data.getD (o + n) 0
  let met := g.poison.filter (fun j => (List.range size).any (fun n => (o + n) / 32 = j && (s.fwd core l.x.host (l.pa + n)).isNone))
  (leNat ((List.range size).map byte), met)

/-- A load's poison and its unit's status reach the step (08 R317, R337, R338). -/
def State.loadMet (s : State) (i : Issue) (k : Kernel) (acc pc va line : Nat) (secs : List Nat) (status : Option Nat) : State :=
  s.metPoison (.te i.core i.slot) k.part k.ctx acc pc (some k.queue) va (line * 128) { st := s, poison := secs.map (fun j => line * 4 + j), status := status }

/-- Write a lane's register value. -/
def State.laneWrite (s : State) (i : Issue) (lane rd n v : Nat) : State := s.modGroup i.core i.slot (fun g => g.setRegs lane rd n v)

/-- One lane of a load, other than a lane of another core's window. -/
def State.loadLane (i : Issue) (k : Kernel) (pc size rd : Nat) (got : List LineGot) (s : State) (l : LaneAt) : State :=
  let n := regsFor size
  match s.laneKind i k l with
  | .host =>
    match s.hostRead l.pa size with
    | some bs =>
      let v := s.laneBytes i.core l size { line := l.pa / 128, data := List.replicate (l.pa % 128) (0 : Byte) ++ bs, poison := [], status := none }
      s.laneWrite i l.lane rd n v.1
    | none => (s.hostReadFailed.loadMet i k accRead pc l.va (l.pa / 128) [l.pa % 128 / 32] none).laneWrite i l.lane rd n 0
  | .own =>
    let m := s.readMem (teWho i k l) 0 l.pa size
    let v := s.laneBytes i.core l size { line := l.pa / 128, data := List.replicate (l.pa % 128) (0 : Byte) ++ m.data, poison := m.poison.map (· % 4), status := none }
    (m.st.loadMet i k accRead pc l.va (l.pa / 128) v.2 none).laneWrite i l.lane rd n v.1
  | .reg off =>
    let r := s.regLoad off size
    r.2.laneWrite i l.lane rd n r.1
  | .mem =>
    if l.x.strict then
      let m := s.readMem (teWho i k l) l.x.hint l.pa size
      let v := s.laneBytes i.core l size { line := l.pa / 128, data := List.replicate (l.pa % 128) (0 : Byte) ++ m.data, poison := m.poison.map (· % 4), status := m.status }
      (m.st.loadMet i k accRead pc l.va (l.pa / 128) v.2 m.status).laneWrite i l.lane rd n v.1
    else match got.find? (fun x => x.line = l.pa / 128) with
      | none => s
      | some x =>
        let v := s.laneBytes i.core l size x
        s.laneWrite i l.lane rd n v.1
  | _ => s

/-- The accesses that a group's lanes send to other cores' windows (06 R247). -/
def State.winSend (s : State) (slot : Nat) (a : WinAcc) : State := s.modCore slot (fun c => { c with winQ := c.winQ ++ [a] })

/-- The poisoned sectors that a load's lanes met in a line. -/
def State.lineMet (s : State) (core size : Nat) (ls : List LaneAt) (x : LineGot) : List Nat :=
  ((ls.filter (fun l => !l.x.host && l.pa / 128 = x.line)).flatMap (fun l => (s.laneBytes core l size x).2)).eraseDups

/-- A load by the lanes of a group whose addresses are known. `h` is the hint of the access. -/
def State.loadDo (s : State) (i : Issue) (k : Kernel) (p : PathSt) (size rd h : Nat) (ls : List LaneAt) : State :=
  let normal := ls.filter (fun l => decide (s.laneKind i k l = .mem) && !l.x.strict)
  let heads := normal.foldl (fun (a : List LaneAt) l => if a.any (fun b => b.line = l.line) then a else a ++ [l]) []
  let r := heads.foldl (fun r l => State.loadLine i k (if h = 4 then l.x.hint else h) r l) (s, [])
  let t := r.2.foldl (fun (t : State) x => t.loadMet i k accRead p.pc (((normal.find? (fun l => l.pa / 128 = x.line)).map (·.va)).getD 0) x.line (s.lineMet i.core size normal x) x.status) r.1
  let t := ls.foldl (State.loadLane i k p.pc size rd r.2) t
  let wins := ls.filterMap (fun l => match s.laneKind i k l with | .window slot off => some (l, slot, off) | _ => none)
  if wins = [] then t.retire i
  else
    (wins.foldl (fun (t : State) x => t.winSend x.2.1 { src := i.core, slot := i.slot, ctx := k.ctx, off := x.2.2, write := false, size := size, val := 0, rd := rd, lane := x.1.lane, va := x.1.va, ipa := x.1.x.ipa + (x.1.va - x.1.x.va), pc := p.pc, next := i.next }) t).stallGroup i .window

/-- LOAD: 1, 2, 4, 8 or 16 bytes a lane, zero-extended (log 19). An acquire at DEVICE or SYSTEM scope, a LAST read and a device-strict
read take no forwarded value: the buffer's stores to their lines drain first (06 R222, R252). -/
def execLoad (i : Issue) (size rd ra : Nat) (off : Int) (acq : Option Scope) (h : Hint) (s : State) : Host.Outcome State Fault Refusal :=
  .next (s.issue i [(rd, regsFor size)] [(ra, 2)] (fun s g p =>
    match s.coreKernel i.core with
    | none => s
    | some k =>
      let hc := if h = .none then 4 else Hint.code h
      s.lanesDo i k g p size accRead (fun l => ofSigned 57 ((g.reg64 l ra : Int) + off)) (fun s0 s1 ls =>
        if ls.any (fun l => s1.laneWaits i k false l) then s0
        else
          let strong : Bool := match acq with | some .device => true | some .system => true | _ => false
          let must := ls.filter (fun l => strong || l.x.strict || h = .last || (h = .none && decide (l.x.hint = 3)))
          match State.drainLines 33 s1 i.core (must.map (fun l => l.line)) with
          | none => s0
          | some t => t.loadDo i k p size rd hc ls)))

/-! ### Stores (06 R219, R223, R247, R252, R253; 07 R267) -/

/-- One lane of a store that does not enter the buffer. -/
def State.storeLane (i : Issue) (k : Kernel) (pc : Nat) (s : State) (x : Nat × LaneAt × List Byte) : State :=
  let l := x.2.1
  let bs := x.2.2
  match s.laneKind i k l with
  | .own => (s.writeMem (teWho i k l) 0 .bank l.pa bs false).st
  | .window slot off =>
    s.winSend slot { src := i.core, slot := i.slot, ctx := k.ctx, off := off, write := true, size := bs.length, val := leNat bs, rd := 0, lane := l.lane, va := l.va, ipa := l.x.ipa + (l.va - l.x.va), pc := pc }
  | .reg off => s.regStore (.engine k.ctx) off bs.length (leNat bs)
  | .mem =>
    let m := s.writeMem (teWho i k l) x.1 .bank l.pa bs false
    m.st.loadMet i k accWrite pc l.va (l.pa / 128) [] m.status
  | _ => s

/-- A store of `size` bytes a lane with the bytes that `val` gives. A release qualifier is a release fence before it (06 R226). -/
def State.storeOp (s : State) (i : Issue) (size ra : Nat) (rd : List (Nat × Nat)) (off : Int) (val : Group → Nat → List Byte) (rel : Option Scope)
    (h : Hint) : State :=
  s.issue i [] ((ra, 2) :: rd) (fun s g p =>
    match s.coreKernel i.core with
    | none => s
    | some k =>
      let rl := match rel with | some sc => s.release i false sc | none => (s, true)
      if !rl.2 then rl.1
      else rl.1.lanesDo i k g p size accWrite (fun l => ofSigned 57 ((g.reg64 l ra : Int) + off)) (fun s0 s1 ls =>
        if ls.any (fun l => l.x.strict && s1.laneWaits i k true l) then s0
        else
          let xs := ls.map (fun l => (if h = .none then l.x.hint else Hint.code h, l, val g l.lane))
          let buffered (x : Nat × LaneAt × List Byte) : Bool := match s1.laneKind i k x.2.1 with
            | .host => true
            | .mem => !x.2.1.x.strict
            | _ => false
          match s1.sbStores i k (xs.filter buffered) with
          | none => s0.stallGroup i .sbFull
          | some t => (((xs.filter (fun x => !buffered x)).foldl (State.storeLane i k p.pc) t).sbStallEnd i g).retire i))

/-- STORE: 1, 2, 4, 8 or 16 bytes a lane. -/
def execStore (i : Issue) (size ra rb : Nat) (off : Int) (rel : Option Scope) (h : Hint) (s : State) : Host.Outcome State Fault Refusal :=
  .next (s.storeOp i size ra [(rb, regsFor size)] off (fun g l => leBytes size (g.regsVal l rb (regsFor size))) rel h)

/-- DEVICE_STRICT_STORE (06 R252, R253): 4 or 8 bytes a lane, posted to the register or page in lane order, past the buffer. -/
def execDeviceStrictStore (i : Issue) (size ra rb : Nat) (off : Int) (s : State) : Host.Outcome State Fault Refusal :=
  .next (s.storeOp i size ra [(rb, regsFor size)] off (fun g l => leBytes size (g.regsVal l rb (regsFor size))) none .none)

/-- ZLINE (07 R267): a line of zeros, one entry with a full mask. -/
def execZline (i : Issue) (ra : Nat) (h : Hint) (s : State) : Host.Outcome State Fault Refusal :=
  .next (s.storeOp i 128 ra [] 0 (fun _ _ => List.replicate 128 (0 : Byte)) none h)

/-! ### Atomics (02 R77 to R81) -/

/-- The word that one lane's operation leaves; `w` is a free value for a NaN's payload (log 13). -/
def atomicNew (op : AtomicOp) (wide : Bool) (w : W64) (x b c : Nat) : Nat :=
  let n := if wide then 64 else 32
  match op with
  | .add => (x + b) % 2 ^ n
  | .smin => if toSigned n b < toSigned n x then b else x
  | .smax => if toSigned n x < toSigned n b then b else x
  | .umin => Nat.min x b
  | .umax => Nat.max x b
  | .and => x &&& b
  | .or => x ||| b
  | .xor => x ^^^ b
  | .incWrap => if b ≤ x then 0 else x + 1
  | .xchg => b
  | .cas => if x = b then c else x
  | .fadd => res32 w ((b32 x).add (b32 b))
  | .fmin => redF 2 x b
  | .fmax => redF 1 x b

/-- The read-modify-write of one word by lanes in ascending order (R81): each lane's old value, and the word left. -/
def atomicFold (op : AtomicOp) (wide : Bool) (free x : Nat) (lanes : List (Nat × Nat × Nat)) : List (Nat × Nat) × Nat :=
  lanes.foldl (fun (r : List (Nat × Nat) × Nat) l =>
    (r.1 ++ [(l.1, r.2)], atomicNew op wide (Config.freeWord (free + l.1)) r.2 l.2.1 l.2.2)) ([], x)

/-- Whether an operation exists on binary32 only. -/
def atomicFloat : AtomicOp → Bool
  | .fadd => true | .fmin => true | .fmax => true | _ => false

/-- Lanes receive their old values. -/
def State.lanesWrite (s : State) (i : Issue) (rd n : Nat) (vs : List (Nat × Nat)) : State := vs.foldl (fun (t : State) v => t.laneWrite i v.1 rd n v.2) s

/-- The read-modify-write of one address at the cluster cache, the bank or the core's own window (R78). A poisoned word, or one whose unit is
out of service, is not changed and returns zero (08 R317, R337). -/
def State.atomicAt (i : Issue) (k : Kernel) (pc : Nat) (op : AtomicOp) (wide : Bool) (sc : Scope) (rd : Nat) (s : State)
    (x : LaneAt × List (Nat × Nat × Nat)) : State :=
  let l := x.1
  let size := if wide then 8 else 4
  let n := regsFor size
  let w := teWho i k l
  let h := if l.x.hint = 3 then 0 else l.x.hint
  let m := s.readMem { w with core := none, cl := if sc = Scope.system then none else w.cl } h l.pa size
  if m.poison ≠ [] ∨ m.status.isSome then
    (m.st.metPoison (.te i.core i.slot) k.part k.ctx accAtomic pc (some k.queue) l.va l.pa m).lanesWrite i rd n (x.2.map (fun e => (e.1, 0)))
  else
    let f := m.st.free
    let r := atomicFold op wide f (leNat m.data) x.2
    let t := ({ m.st with free := f + 64 }).writeMem w h (if sc = Scope.system then .bank else .owner (slotCl i.core)) l.pa (leBytes size r.2) false
    (t.st.coreEvent i.core 0x10 1).lanesWrite i rd n r.1

/-- The lanes of an atomic by address, in order of each address's first lane (R80). -/
def atomicGroups (ls : List LaneAt) (opnd : Nat → Nat × Nat) : List (LaneAt × List (Nat × Nat × Nat)) :=
  (ls.foldl (fun (a : List LaneAt) l => if a.any (fun b => b.pa = l.pa) then a else a ++ [l]) []).map (fun l =>
    (l, (ls.filter (fun b => b.pa = l.pa)).map (fun b => (b.lane, (opnd b.lane).1, (opnd b.lane).2))))

/-- ATOMIC: `rb` is the operand, or what a compare-exchange expects; `rc` is what it offers. A host page refuses it (R79), and so does the
register space, on which no atomic is given a place to run (R78; log 19). -/
def execAtomic (i : Issue) (op : AtomicOp) (wide : Bool) (sc : Scope) (_acq rel : Bool) (rd ra rb rc : Nat) (s : State) :
    Host.Outcome State Fault Refusal :=
  let size := if wide then 8 else 4
  let n := regsFor size
  .next (s.issue i [(rd, n)] ([(ra, 2), (rb, n)] ++ (if op = .cas then [(rc, n)] else [])) (fun s g p =>
    match s.coreKernel i.core with
    | none => s
    | some k =>
      if wide && atomicFloat op then s.exception i 1
      else
        let rl := if rel then s.release i false sc else (s, true)
        if !rl.2 then rl.1
        else rl.1.lanesDo i k g p size accAtomic (fun l => g.reg64 l ra) (fun s0 s1 ls =>
          match ls.find? (fun l => l.x.host) with
          | some l => s1.laneFault i k p.pc accAtomic 0x72 1 l
          | none => match ls.find? (fun l => match s1.laneKind i k l with | .reg _ => true | _ => false) with
            | some l => s1.laneFault i k p.pc accAtomic 0x75 0 l
            | none =>
              if ls.any (fun l => s1.laneWaits i k false l || s1.laneWaits i k true l) then s0
              else match State.drainLines 33 s1 i.core (ls.map (fun l => l.line)) with
                | none => s0
                | some t =>
                  let gs := atomicGroups ls (fun l => (g.regsVal l rb n, g.regsVal l rc n))
                  let t := t.coreEvent i.core 0x0F 1
                  let far := gs.filterMap (fun x => match s1.laneKind i k x.1 with | .window slot off => some (x, slot, off) | _ => none)
                  let near := gs.filter (fun x => match s1.laneKind i k x.1 with | .window _ _ => false | _ => true)
                  let t := near.foldl (State.atomicAt i k p.pc op wide sc rd) t
                  if far = [] then t.retire i
                  else (far.foldl (fun (t : State) x =>
                    let l := x.1.1
                    t.winSend x.2.1 { src := i.core, slot := i.slot, ctx := k.ctx, off := x.2.2, write := false, size := size, val := 0, rd := rd, lane := l.lane, va := l.va, ipa := l.x.ipa + (l.va - l.x.va), pc := p.pc, next := i.next, op := some op, lanes := x.1.2 }) t).stallGroup i .window)))

/-! ### Windows (06 R247 to R250) -/

/-- Whether a fault of the group that sent an access is open: its accesses wait. -/
def State.winHeld (s : State) (a : WinAcc) : Bool :=
  s.frozen a.ctx || s.xl.faults.any (fun f => f.agents.contains (.te a.src a.slot)) || s.xl.waiting.any (fun w => w.agent = .te a.src a.slot)

/-- An access is done: a group with no more loads or atomics at windows goes on to its next instruction. -/
def State.winDone (s : State) (a : WinAcc) : State :=
  if a.write then s
  else if s.cores.any (fun e => e.2.winQ.any (fun b => b.src = a.src && b.slot = a.slot && !b.write)) then s
  else s.retire { core := a.src, slot := a.slot, next := a.next }

/-- Perform an access at the owner. -/
def State.winPerform (s : State) (core : Nat) (a : WinAcc) : State :=
  let pa := winBase core + a.off
  let i : Issue := { core := a.src, slot := a.slot, next := a.next }
  let n := regsFor a.size
  if a.write then (s.writeMem ownAccess 0 .bank pa (leBytes a.size a.val) false).st
  else
    let m := s.readMem ownAccess 0 pa a.size
    let q := s.coreStep a.src
    match a.op with
    | none =>
      let v := leNat ((List.range a.size).map (fun j => if m.poison.contains ((pa + j) / 32) then 0 else m.data.getD j 0))
      (m.st.metPoison (.te a.src a.slot) (s.ctxPart a.ctx) a.ctx accRead a.pc q a.va pa m).laneWrite i a.lane a.rd n v
    | some op =>
      if m.poison ≠ [] then
        (m.st.metPoison (.te a.src a.slot) (s.ctxPart a.ctx) a.ctx accAtomic a.pc q a.va pa m).lanesWrite i a.rd n (a.lanes.map (fun e => (e.1, 0)))
      else
        let f := m.st.free
        let r := atomicFold op (decide (a.size = 8)) f (leNat m.data) a.lanes
        let t := ({ m.st with free := f + 64 }).writeMem ownAccess 0 .bank pa (leBytes a.size r.2) false
        (t.st.coreEvent a.src 0x10 1).lanesWrite i a.rd n r.1

/-- WINDOW_ACCESS: the oldest access waiting at a core's memory engine arrives; an offset found too large is UNDECODED (R250, 09 R370). -/
def execWindowAccess (core : Nat) (s : State) : Host.Outcome State Fault Refusal :=
  match (s.core core).winQ with
  | [] => .next s
  | a :: rest =>
    if s.winHeld a then .next s
    else if s.lmemOf core < a.off + a.size then
      .next (s.raiseFault (.te a.src a.slot) a.ctx (s.ctxPart a.ctx) { cause := 0x75, acc := if a.op.isSome then accAtomic else if a.write then accWrite else accRead, va := a.va, ipa := a.ipa, pc := a.pc } false)
    else
      let t := s.modCore core (fun c => { c with winQ := rest })
      .next ((t.winPerform core a).winDone a)

/-! ### Device-side enqueue (05 R205, R206) -/

/-- What an enqueue came to: its status; none where a unit makes it wait. -/
structure EnqRes where
  st : State
  status : Option Nat

/-- Copy the entry at `va` into the ring of a device queue of the context, and ring its doorbell (R205, R469). The checks take the
order of R16: handles, the read, then quota (DEDUCED, log 19). -/
def State.enqueue (s : State) (a : Agent) (ctx queue va pc : Nat) : EnqRes :=
  let x := s.queue queue
  let p := s.ctxPart ctx
  let b := s.agentBits a
  if x.st = .none ∨ !x.device ∨ x.ctx ≠ ctx then { st := s, status := some stBadDesc }
  else
    let r := s.hubRead ctx va 128 accRead
    if r.wait then { st := s, status := none }
    else match r.fault with
      | some f => { st := r.st.quietRecord 2 p ctx { f with pc := pc } b.1 b.2 0, status := some (causeStatus f.cause) }
      | none =>
        if r.status.isSome then { st := r.st, status := r.status }
        else if r.poison ≠ [] then
          { st := r.st.each r.vas (fun t l => t.poisonRecord p ctx l accRead pc b.1 b.2 0), status := some stPoison }
        else if (s.ctx ctx).enqQuota ≤ (s.ctx ctx).enqUsed ∨ 2 ^ x.sizeLog ≤ x.ahead x.tail then { st := r.st.odBump 0x6150 3 1, status := some stQuota }
        else
          let w := r.st.hubWrite ctx (x.ring + x.tail % 2 ^ x.sizeLog * 128) r.data
          if w.wait then { st := s, status := none }
          else match w.fault with
            | some f => { st := w.st.quietRecord 2 p ctx { f with pc := pc } b.1 b.2 0, status := some (causeStatus f.cause) }
            | none =>
              if w.status.isSome then { st := w.st, status := w.status }
              else { st := (w.st.modCtx ctx (fun c => { c with enqUsed := c.enqUsed + 1 })).ringDoorbell queue ((x.tail + 1) % 2 ^ 32), status := some stOk }

/-- THREAD_ENQUEUE (R206): the operands of the lowest active lane; the status goes to that lane. The core's buffered stores to the entry
drain first (06 R216). -/
def execThreadEnqueue (i : Issue) (rd ra rb : Nat) (s : State) : Host.Outcome State Fault Refusal :=
  .next (s.issue i [(rd, 1)] [(ra, 1), (rb, 2)] (fun s g p =>
    match s.coreKernel i.core with
    | none => s
    | some k =>
      if !(s.core i.core).cur.devEnq then s.exception i 6
      else
        let l := lowLane p.mask
        let t := s.drainCore i.core
        if (t.core i.core).sb ≠ [] then s
        else
          let r := t.enqueue (.te i.core i.slot) k.ctx (g.reg l ra % 4096) (g.reg64 l rb % 2 ^ 57) p.pc
          match r.status with
          | none => s
          | some st => (r.st.laneWrite i l rd 1 st).retire i))

end Sys2Proof.Machine
end

