-- ==== Sys2Proof/Machine/SeqMem.lean ====
section
/-! DEFINITION. The stream instructions that reach memory and queues: LD, ST and ENQ (05_sequencers_streams.md R183, R205, R208;
08_external_memory.md R337). -/

namespace Sys2Proof.Machine

/-- The address of an LD or ST: sA + IMM, signed. -/
def Seq.ldAddr (q : Seq) (w : Nat) : Nat := ofSigned 57 ((q.sreg (swA w) : Int) + swImmS w)

/-- Who a sequencer is to memory. -/
def seqWho (q : Seq) (cl : Nat) (e : Xent) : Who := { part := some q.part, ctx := some q.ctx, cl := some cl, strict := e.strict }

/-- A sequencer's access falls on an undecoded address (01 R45, 09 R371). -/
def State.seqUndec (s : State) (cl acc va : Nat) (e : Xent) : State :=
  let q := s.seq cl
  s.raiseFault (.seq cl) q.ctx q.part { cause := 0x75, acc := acc, va := va, ipa := e.ipa + (va - e.va), pc := q.pc } false

/-- Translate the 8-byte access of an LD or ST: MISALIGNED_STREAM, a walk, or what `f` does with the translation. -/
def State.seqAccess (s : State) (cl w acc : Nat) (f : State → Nat → Xent → State) : State :=
  let q := s.seq cl
  let va := q.ldAddr w
  if va % 8 ≠ 0 then s.seqFault cl 0x44 w stAborted
  else match s.xlateOr (.seq cl) q.ctx va acc q.pc with
    | (none, t) => t
    | (some e, t) => f t va e

/-- LD: a poisoned word reads zero and the step completes with POISON. -/
def execLd (cl : Nat) (s : State) : Host.Outcome State Fault Refusal :=
  .next (s.stream cl 0x20 (fun s w => s.seqAccess cl w accRead (fun t va e =>
    let q := t.seq cl
    let pa := e.out + (va - e.va)
    let set (u : State) (v : Nat) : State := u.seqDone cl (fun q => q.setS (swD w) v)
    if e.host then
      match t.hostRead pa 8 with
      | some bs => set t (leNat bs)
      | none => set (t.hostReadFailed.metPoison (.seq cl) q.part q.ctx accRead q.pc q.queue va pa { st := t, poison := [pa / 32] }) 0
    else match t.decode pa with
      | .reg off => (let r := t.regLoad off 8; set r.2 r.1)
      | _ =>
        let r := t.readMem (seqWho q cl e) e.hint pa 8
        if r.wait then s
        else if r.undec.isSome then r.st.seqUndec cl accRead va e
        else set (r.st.metPoison (.seq cl) q.part q.ctx accRead q.pc q.queue va pa r) (if r.poison ≠ [] then 0 else leNat r.data))))

/-- ST: performed in the cluster cache that holds the line exclusive (06 R221, R234). -/
def execSt (cl : Nat) (s : State) : Host.Outcome State Fault Refusal :=
  .next (s.stream cl 0x21 (fun s w => s.seqAccess cl w accWrite (fun t va e =>
    let q := t.seq cl
    let pa := e.out + (va - e.va)
    let v := q.sreg (swB w)
    if e.host then (t.hostWrite pa (leBytes 8 v)).seqDone cl id
    else match t.decode pa with
      | .reg off => (t.regStore (.engine q.ctx) off 8 v).seqDone cl id
      | _ =>
        let r := t.writeMem (seqWho q cl e) e.hint (.owner cl) pa (leBytes 8 v) false
        if r.wait then s
        else if r.undec.isSome then r.st.seqUndec cl accWrite va e
        else (r.st.metPoison (.seq cl) q.part q.ctx accWrite q.pc q.queue va pa r).seqDone cl id)))

/-- ENQ (R205): the status goes to sD, and the step goes on whatever it is. -/
def execEnq (cl : Nat) (s : State) : Host.Outcome State Fault Refusal :=
  .next (s.stream cl 0x60 (fun s w =>
    let q := s.seq cl
    let r := s.enqueue (.seq cl) q.ctx (q.sreg (swA w) % 4096) (q.sreg (swB w) % 2 ^ 57) q.pc
    match r.status with
    | none => s
    | some st => r.st.seqDone cl (fun q => q.setS (swD w) st)))

end Sys2Proof.Machine
end

