-- ==== Sys2Proof/Machine/Dispatch.lean ====
section
/-! DEFINITION. The dispatch of commands: one arm for each constructor of `Instr`, each one direct call of its meaning. -/

namespace Sys2Proof.Machine

def exec (i : Instr) (s : State) : Host.Outcome State Fault Refusal :=
  match i with
  -- 00, 01: registers and clocks
  | .regWrite p off size val => Sys2Proof.Machine.execRegWrite p off size val s
  | .actionLowHalfWrite p off val => Sys2Proof.Machine.execActionLowHalfWrite p off val s
  | .badSizeAccess p write off size val => Sys2Proof.Machine.execBadSizeAccess p write off size val s
  | .refclkSwitch => Sys2Proof.Machine.execRefclkSwitch s
  | .rootPointReached => Sys2Proof.Machine.execRootPointReached s
  -- 02: thread groups and kernels
  | .blockStart kernel core => Sys2Proof.Machine.execBlockStart kernel core s
  | .blockExit core linear => Sys2Proof.Machine.execBlockExit core linear s
  | .kernelCompleteCore core => Sys2Proof.Machine.execKernelCompleteCore core s
  | .kernelComplete kernel => Sys2Proof.Machine.execKernelComplete kernel s
  | .threadAluInstruction iss op rd a b c => Sys2Proof.Machine.execThreadAluInstruction iss op rd a b c s
  | .specialRegRead iss rd r => Sys2Proof.Machine.execSpecialRegRead iss rd r s
  | .branch iss recon k => Sys2Proof.Machine.execBranch iss recon k s
  | .barrier iss => Sys2Proof.Machine.execBarrier iss s
  | .threadExit iss lanes => Sys2Proof.Machine.execThreadExit iss lanes s
  | .atomic iss op wide sc acq rel rd ra rb rc => Sys2Proof.Machine.execAtomic iss op wide sc acq rel rd ra rb rc s
  | .load iss size rd ra off acq h => Sys2Proof.Machine.execLoad iss size rd ra off acq h s
  | .store iss size ra rb off rel h => Sys2Proof.Machine.execStore iss size ra rb off rel h s
  | .deviceStrictStore iss size ra rb off => Sys2Proof.Machine.execDeviceStrictStore iss size ra rb off s
  | .fence iss k sc => Sys2Proof.Machine.execFence iss k sc s
  | .releaseComplete core slot => Sys2Proof.Machine.execReleaseComplete core slot s
  | .zline iss ra h => Sys2Proof.Machine.execZline iss ra h s
  | .convert iss dst src round rd ra => Sys2Proof.Machine.execConvert iss dst src round rd ra s
  | .trap iss => Sys2Proof.Machine.execTrap iss s
  | .threadEnqueue iss rd ra rb => Sys2Proof.Machine.execThreadEnqueue iss rd ra rb s
  | .teDrainWrite p core on => Sys2Proof.Machine.execTeDrainWrite p core on s
  | .teEnableWrite p core on => Sys2Proof.Machine.execTeEnableWrite p core on s
  | .coreClearDone core => Sys2Proof.Machine.execCoreClearDone core s
  -- 03: the matrix engine
  | .mload m => Sys2Proof.Machine.execMload m s
  | .mswap m => Sys2Proof.Machine.execMswap m s
  | .mstream m => Sys2Proof.Machine.execMstream m s
  | .mtile m => Sys2Proof.Machine.execMtile m s
  | .mdrain m => Sys2Proof.Machine.execMdrain m s
  | .mwait m => Sys2Proof.Machine.execMwait m s
  | .mwaitReturn w => Sys2Proof.Machine.execMwaitReturn w s
  | .mxCommandStart core => Sys2Proof.Machine.execMxCommandStart core s
  | .mxCommandComplete core t => Sys2Proof.Machine.execMxCommandComplete core t s
  | .arrayRampDown core => Sys2Proof.Machine.execArrayRampDown core s
  -- 04: number formats, scales and the densitometer
  | .densRecordClose kernel => Sys2Proof.Machine.execDensRecordClose kernel s
  | .seqRecordClose cl => Sys2Proof.Machine.execSeqRecordClose cl s
  | .setScale p v => Sys2Proof.Machine.execSetScale p v s
  | .hold p v => Sys2Proof.Machine.execHold p v s
  | .slotRelease p v => Sys2Proof.Machine.execSlotRelease p v s
  | .setCentre p v => Sys2Proof.Machine.execSetCentre p v s
  | .clearCentre p v => Sys2Proof.Machine.execClearCentre p v s
  | .slotReset p v => Sys2Proof.Machine.execSlotReset p v s
  | .subnormalDefaultWrite p part v => Sys2Proof.Machine.execSubnormalDefaultWrite p part v s
  -- 05: sequencers and stream programs
  | .stepStart cl => Sys2Proof.Machine.execStepStart cl s
  | .nop cl => Sys2Proof.Machine.execNop cl s
  | .endStream cl => Sys2Proof.Machine.execEndStream cl s
  | .movi cl => Sys2Proof.Machine.execMovi cl s
  | .movhi cl => Sys2Proof.Machine.execMovhi cl s
  | .add cl => Sys2Proof.Machine.execAdd cl s
  | .sub cl => Sys2Proof.Machine.execSub cl s
  | .mul cl => Sys2Proof.Machine.execMul cl s
  | .and cl => Sys2Proof.Machine.execAnd cl s
  | .or cl => Sys2Proof.Machine.execOr cl s
  | .xor cl => Sys2Proof.Machine.execXor cl s
  | .shl cl => Sys2Proof.Machine.execShl cl s
  | .shr cl => Sys2Proof.Machine.execShr cl s
  | .addi cl => Sys2Proof.Machine.execAddi cl s
  | .ld cl => Sys2Proof.Machine.execLd cl s
  | .st cl => Sys2Proof.Machine.execSt cl s
  | .rdts cl => Sys2Proof.Machine.execRdts cl s
  | .br cl => Sys2Proof.Machine.execBr cl s
  | .loop cl => Sys2Proof.Machine.execLoop cl s
  | .lidx cl => Sys2Proof.Machine.execLidx cl s
  | .cset cl => Sys2Proof.Machine.execCset cl s
  | .cinc cl => Sys2Proof.Machine.execCinc cl s
  | .crd cl => Sys2Proof.Machine.execCrd cl s
  | .kset cl => Sys2Proof.Machine.execKset cl s
  | .kwait cl => Sys2Proof.Machine.execKwait cl s
  | .kwaitEnd cl => Sys2Proof.Machine.execKwaitEnd cl s
  | .kbr cl => Sys2Proof.Machine.execKbr cl s
  | .launch cl => Sys2Proof.Machine.execLaunch cl s
  | .lwait cl => Sys2Proof.Machine.execLwait cl s
  | .lwaitEnd cl => Sys2Proof.Machine.execLwaitEnd cl s
  | .kstat cl => Sys2Proof.Machine.execKstat cl s
  | .mxsel cl => Sys2Proof.Machine.execMxsel cl s
  | .fwait cl => Sys2Proof.Machine.execFwait cl s
  | .fwaitEnd cl => Sys2Proof.Machine.execFwaitEnd cl s
  | .fsig cl => Sys2Proof.Machine.execFsig cl s
  | .fsigRelease cl => Sys2Proof.Machine.execFsigRelease cl s
  | .esig cl => Sys2Proof.Machine.execEsig cl s
  | .ewait cl => Sys2Proof.Machine.execEwait cl s
  | .ewaitEnd cl => Sys2Proof.Machine.execEwaitEnd cl s
  | .sbar cl => Sys2Proof.Machine.execSbar cl s
  | .sbarLeave queue => Sys2Proof.Machine.execSbarLeave queue s
  | .enq cl => Sys2Proof.Machine.execEnq cl s
  | .seqPark cl => Sys2Proof.Machine.execSeqPark cl s
  | .seqResume cl => Sys2Proof.Machine.execSeqResume cl s
  | .stepEnd queue => Sys2Proof.Machine.execStepEnd queue s
  -- 06, 07: ordering, caches and the Tank
  | .storeBufferDrain core idx => Sys2Proof.Machine.execStoreBufferDrain core idx s
  | .windowAccess core => Sys2Proof.Machine.execWindowAccess core s
  | .teardownDrainLimit core => Sys2Proof.Machine.execTeardownDrainLimit core s
  | .cacheFill cl line h e => Sys2Proof.Machine.execCacheFill cl line h e s
  | .ccEviction cl line => Sys2Proof.Machine.execCcEviction cl line s
  | .ccWayPowerDown p cl way => Sys2Proof.Machine.execCcWayPowerDown p cl way s
  | .ccWayPowerUp p cl way => Sys2Proof.Machine.execCcWayPowerUp p cl way s
  | .ccWayCleanDone cl way => Sys2Proof.Machine.execCcWayCleanDone cl way s
  | .tkKeepclr p die v => Sys2Proof.Machine.execTkKeepclr p die v s
  | .keepSweepDone die => Sys2Proof.Machine.execKeepSweepDone die s
  | .tkRetire p die v => Sys2Proof.Machine.execTkRetire p die v s
  | .bankMoveDone die => Sys2Proof.Machine.execBankMoveDone die s
  | .tankScrubPass die bank errs => Sys2Proof.Machine.execTankScrubPass die bank errs s
  -- 08: external memory
  | .drain p v => Sys2Proof.Machine.execDrain p v s
  | .undrain p v => Sys2Proof.Machine.execUndrain p v s
  | .quiesce p v => Sys2Proof.Machine.execQuiesce p v s
  | .unitQuiesced u => Sys2Proof.Machine.execUnitQuiesced u s
  | .test p v => Sys2Proof.Machine.execTest p v s
  | .testPassEnd u failing first => Sys2Proof.Machine.execTestPassEnd u failing first s
  | .returnUnit p v => Sys2Proof.Machine.execReturnUnit p v s
  | .unitReturned u => Sys2Proof.Machine.execUnitReturned u s
  | .retrain p v => Sys2Proof.Machine.execRetrain p v s
  | .unitTrainingEnd u r => Sys2Proof.Machine.execUnitTrainingEnd u r s
  | .sparePc p v => Sys2Proof.Machine.execSparePc p v s
  | .sparePcDone pc => Sys2Proof.Machine.execSparePcDone pc s
  | .dimmLatch ch => Sys2Proof.Machine.execDimmLatch ch s
  | .dimmLatchClose ch fitted => Sys2Proof.Machine.execDimmLatchClose ch fitted s
  | .dimmTrainingStart ch => Sys2Proof.Machine.execDimmTrainingStart ch s
  | .dimmThermalRead ch temp => Sys2Proof.Machine.execDimmThermalRead ch temp s
  | .cxlLinkDown port => Sys2Proof.Machine.execCxlLinkDown port s
  | .cxlReadyTimeout port linkUp bound => Sys2Proof.Machine.execCxlReadyTimeout port linkUp bound s
  | .cxlRequestTimeout port => Sys2Proof.Machine.execCxlRequestTimeout port s
  | .unitFailed u part => Sys2Proof.Machine.execUnitFailed u part s
  | .memoryTrainingEnd hbm ddr ms => Sys2Proof.Machine.execMemoryTrainingEnd hbm ddr ms s
  | .moveStart p w => Sys2Proof.Machine.execMoveStart p w s
  | .moveCopied entry => Sys2Proof.Machine.execMoveCopied entry s
  | .moveRelease p w => Sys2Proof.Machine.execMoveRelease p w s
  | .bucketRefill => Sys2Proof.Machine.execBucketRefill s
  | .patrolPass u errs => Sys2Proof.Machine.execPatrolPass u errs s
  | .rowRepair u firstLine lines spareRow => Sys2Proof.Machine.execRowRepair u firstLine lines spareRow s
  | .mirrorAdd p w => Sys2Proof.Machine.execMirrorAdd p w s
  | .mirrorRemove p w => Sys2Proof.Machine.execMirrorRemove p w s
  | .tgGo p cxl page v => Sys2Proof.Machine.execTgGo p cxl page v s
  | .tgStop p cxl page v => Sys2Proof.Machine.execTgStop p cxl page v s
  -- 09: address translation
  | .walkComplete walk => Sys2Proof.Machine.execWalkComplete walk s
  | .faultWindowClose fault => Sys2Proof.Machine.execFaultWindowClose fault s
  | .fqtailWrite p part v => Sys2Proof.Machine.execFqtailWrite p part v s
  | .resolveRetry p part v => Sys2Proof.Machine.execResolveRetry p part v s
  | .resolveAbort p part v => Sys2Proof.Machine.execResolveAbort p part v s
  | .sync p part v => Sys2Proof.Machine.execSync p part v s
  | .contextRange p part v => Sys2Proof.Machine.execContextRange p part v s
  | .context p part v => Sys2Proof.Machine.execContext p part v s
  | .s2Range p part v => Sys2Proof.Machine.execS2Range p part v s
  | .partition p part v => Sys2Proof.Machine.execPartition p part v s
  | .invComplete part => Sys2Proof.Machine.execInvComplete part s
  -- 10: update units
  | .shardHandout queue => Sys2Proof.Machine.execShardHandout queue s
  | .pass1Shard unit => Sys2Proof.Machine.execPass1Shard unit s
  | .pass2Shard unit => Sys2Proof.Machine.execPass2Shard unit s
  | .updateComplete queue => Sys2Proof.Machine.execUpdateComplete queue s
  | .ruleWrite p part rule data => Sys2Proof.Machine.execRuleWrite p part rule data s
  | .ruleApplied part rule => Sys2Proof.Machine.execRuleApplied part rule s
  | .uuEnableWrite p unit on => Sys2Proof.Machine.execUuEnableWrite p unit on s
  -- 11: the host link
  | .linkTraining rate width flit => Sys2Proof.Machine.execLinkTraining rate width flit s
  | .laneLossRetrain width => Sys2Proof.Machine.execLaneLossRetrain width s
  | .dlDown => Sys2Proof.Machine.execDlDown s
  | .hotReset => Sys2Proof.Machine.execHotReset s
  | .perst => Sys2Proof.Machine.execPerst s
  | .hostBar2Write fn off data poisoned => Sys2Proof.Machine.execHostBar2Write fn off data poisoned s
  | .hostBar2Read fn off len => Sys2Proof.Machine.execHostBar2Read fn off len s
  | .unsupportedRequest fn k => Sys2Proof.Machine.execUnsupportedRequest fn k s
  | .hostReadFail addr => Sys2Proof.Machine.execHostReadFail addr s
  | .msixUnmask fn w => Sys2Proof.Machine.execMsixUnmask fn w s
  | .flrVf k => Sys2Proof.Machine.execFlrVf k s
  | .flrPf => Sys2Proof.Machine.execFlrPf s
  | .doeRequest k msg => Sys2Proof.Machine.execDoeRequest k msg s
  | .ideEstablish => Sys2Proof.Machine.execIdeEstablish s
  | .ideCheckFail => Sys2Proof.Machine.execIdeCheckFail s
  | .d3hotEntry fn => Sys2Proof.Machine.execD3hotEntry fn s
  -- 12: objects, queues and submission
  | .ctxCreate p part => Sys2Proof.Machine.execCtxCreate p part s
  | .ctxKill p part => Sys2Proof.Machine.execCtxKill p part s
  | .objQuery p part => Sys2Proof.Machine.execObjQuery p part s
  | .qCreate p part => Sys2Proof.Machine.execQCreate p part s
  | .qStart p part => Sys2Proof.Machine.execQStart p part s
  | .qStop p part => Sys2Proof.Machine.execQStop p part s
  | .qReset p part => Sys2Proof.Machine.execQReset p part s
  | .qDestroy p part => Sys2Proof.Machine.execQDestroy p part s
  | .memCreate p part => Sys2Proof.Machine.execMemCreate p part s
  | .memFree p part => Sys2Proof.Machine.execMemFree p part s
  | .fenceCreate p part => Sys2Proof.Machine.execFenceCreate p part s
  | .eventCreate p part => Sys2Proof.Machine.execEventCreate p part s
  | .syncFree p part => Sys2Proof.Machine.execSyncFree p part s
  | .fenceSignal p part => Sys2Proof.Machine.execFenceSignal p part s
  | .eventSignal p part => Sys2Proof.Machine.execEventSignal p part s
  | .fenceExport p part => Sys2Proof.Machine.execFenceExport p part s
  | .fenceImport p part => Sys2Proof.Machine.execFenceImport p part s
  | .fenceImportRemote p part => Sys2Proof.Machine.execFenceImportRemote p part s
  | .importRemoteTimeout part => Sys2Proof.Machine.execImportRemoteTimeout part s
  | .refAdd p part => Sys2Proof.Machine.execRefAdd p part s
  | .doorbell p queue tail => Sys2Proof.Machine.execDoorbell p queue tail s
  | .entryAccept queue => Sys2Proof.Machine.execEntryAccept queue s
  | .waitsMet queue => Sys2Proof.Machine.execWaitsMet queue s
  | .entryComplete queue => Sys2Proof.Machine.execEntryComplete queue s
  | .queueTimeout queue => Sys2Proof.Machine.execQueueTimeout queue s
  | .killTimeout queue => Sys2Proof.Machine.execKillTimeout queue s
  | .reclaimEpochEnd => Sys2Proof.Machine.execReclaimEpochEnd s
  -- 13: partitions, steps and the Meter
  | .apply p v => Sys2Proof.Machine.execApply p v s
  | .layoutAbort p v => Sys2Proof.Machine.execLayoutAbort p v s
  | .partitionReset p v => Sys2Proof.Machine.execPartitionReset p v s
  | .ptResetGo p part v => Sys2Proof.Machine.execPtResetGo p part v s
  | .layoutDrainLimit => Sys2Proof.Machine.execLayoutDrainLimit s
  | .meterWindow m => Sys2Proof.Machine.execMeterWindow m s
  | .stepPlace part => Sys2Proof.Machine.execStepPlace part s
  | .sliceEligible queue => Sys2Proof.Machine.execSliceEligible queue s
  | .preemptTimeout queue => Sys2Proof.Machine.execPreemptTimeout queue s
  | .modeStage => Sys2Proof.Machine.execModeStage s
  | .modeStageLimit => Sys2Proof.Machine.execModeStageLimit s
  | .modeCommit => Sys2Proof.Machine.execModeCommit s
  | .epochBoundary u => Sys2Proof.Machine.execEpochBoundary u s
  | .modeChangeComplete => Sys2Proof.Machine.execModeChangeComplete s
  | .compatHoldExpiry part => Sys2Proof.Machine.execCompatHoldExpiry part s
  | .learnForget p v => Sys2Proof.Machine.execLearnForget p v s
  | .maintenanceStep w => Sys2Proof.Machine.execMaintenanceStep w s
  -- 14: Niandop Link
  | .data f => Sys2Proof.Machine.execData f s
  | .signal f => Sys2Proof.Machine.execSignal f s
  | .subscribe f => Sys2Proof.Machine.execSubscribe f s
  | .subReply f => Sys2Proof.Machine.execSubReply f s
  | .fenceChange f => Sys2Proof.Machine.execFenceChange f s
  | .unsubscribe f => Sys2Proof.Machine.execUnsubscribe f s
  | .credit f => Sys2Proof.Machine.execCredit f s
  | .runAbort f => Sys2Proof.Machine.execRunAbort f s
  | .ack f => Sys2Proof.Machine.execAck f s
  | .nak f => Sys2Proof.Machine.execNak f s
  | .hello f => Sys2Proof.Machine.execHello f s
  | .ackTimer node => Sys2Proof.Machine.execAckTimer node s
  | .retransmitTimeout node psn => Sys2Proof.Machine.execRetransmitTimeout node psn s
  | .helloTimer node => Sys2Proof.Machine.execHelloTimer node s
  | .keepAlive node => Sys2Proof.Machine.execKeepAlive node s
  | .lostTimeout node => Sys2Proof.Machine.execLostTimeout node s
  | .peerIdleClose node => Sys2Proof.Machine.execPeerIdleClose node s
  | .quadOut port quad why => Sys2Proof.Machine.execQuadOut port quad why s
  | .quadRetrainTry port quad trained => Sys2Proof.Machine.execQuadRetrainTry port quad trained s
  | .quadReturn port quad => Sys2Proof.Machine.execQuadReturn port quad s
  | .qctrlOut p port v => Sys2Proof.Machine.execQctrlOut p port v s
  | .quadRetrain p port v => Sys2Proof.Machine.execQuadRetrain p port v s
  | .cageInsert port m => Sys2Proof.Machine.execCageInsert port m s
  | .cageRemove port => Sys2Proof.Machine.execCageRemove port s
  | .fabricEnable p => Sys2Proof.Machine.execFabricEnable p s
  | .groupWrite p data => Sys2Proof.Machine.execGroupWrite p data s
  | .operationWrite p data => Sys2Proof.Machine.execOperationWrite p data s
  | .runStart op => Sys2Proof.Machine.execRunStart op s
  | .runComplete op => Sys2Proof.Machine.execRunComplete op s
  | .runTimeout op => Sys2Proof.Machine.execRunTimeout op s
  | .prbsGo p port v => Sys2Proof.Machine.execPrbsGo p port v s
  | .prbsStop p port v => Sys2Proof.Machine.execPrbsStop p port v s
  -- 15: negatives, replicas and repair in service
  | .planEnable p part v => Sys2Proof.Machine.execPlanEnable p part v s
  | .negativeDue part => Sys2Proof.Machine.execNegativeDue part s
  | .negativeLate part => Sys2Proof.Machine.execNegativeLate part s
  | .failureReport p group => Sys2Proof.Machine.execFailureReport p group s
  | .restore p w => Sys2Proof.Machine.execRestore p w s
  | .remap p w => Sys2Proof.Machine.execRemap p w s
  | .digest p w => Sys2Proof.Machine.execDigest p w s
  | .compare p w => Sys2Proof.Machine.execCompare p w s
  | .digestDone => Sys2Proof.Machine.execDigestDone s
  | .releaseBrick p v => Sys2Proof.Machine.execReleaseBrick p v s
  | .brickReleaseEnd inputW => Sys2Proof.Machine.execBrickReleaseEnd inputW s
  | .releaseFan p v => Sys2Proof.Machine.execReleaseFan p v s
  | .releaseCage p v => Sys2Proof.Machine.execReleaseCage p v s
  | .returnCage p v => Sys2Proof.Machine.execReturnCage p v s
  | .prepareModule p v => Sys2Proof.Machine.execPrepareModule p v s
  | .spareCore p v => Sys2Proof.Machine.execSpareCore p v s
  -- 16: management, security and start-up
  | .odRead p index sub off => Sys2Proof.Machine.execOdRead p index sub off s
  | .odWrite p index sub data => Sys2Proof.Machine.execOdWrite p index sub data s
  | .odDescribe p index sub => Sys2Proof.Machine.execOdDescribe p index sub s
  | .odRequest h items => Sys2Proof.Machine.execOdRequest h items s
  | .discover h => Sys2Proof.Machine.execDiscover h s
  | .sessionInit h staticKey ephKey nonce => Sys2Proof.Machine.execSessionInit h staticKey ephKey nonce s
  | .sessionFinish h sig => Sys2Proof.Machine.execSessionFinish h sig s
  | .sessionClose h => Sys2Proof.Machine.execSessionClose h s
  | .sessionTimeout iss => Sys2Proof.Machine.execSessionTimeout iss s
  | .eventAck h => Sys2Proof.Machine.execEventAck h s
  | .eventRepeat iss => Sys2Proof.Machine.execEventRepeat iss s
  | .spdm h msg => Sys2Proof.Machine.execSpdm h msg s
  | .imageRequest => Sys2Proof.Machine.execImageRequest s
  | .imageOffer h size => Sys2Proof.Machine.execImageOffer h size s
  | .imageData h off data => Sys2Proof.Machine.execImageData h off data s
  | .imageReadTimeout off => Sys2Proof.Machine.execImageReadTimeout off s
  | .loaderGo p v => Sys2Proof.Machine.execLoaderGo p v s
  | .imageCheck => Sys2Proof.Machine.execImageCheck s
  | .restoreDone p v => Sys2Proof.Machine.execRestoreDone p v s
  | .restoreWindowExpiry => Sys2Proof.Machine.execRestoreWindowExpiry s
  | .warm p v => Sys2Proof.Machine.execWarm p v s
  | .warmReload p v => Sys2Proof.Machine.execWarmReload p v s
  | .watchdog => Sys2Proof.Machine.execWatchdog s
  | .revokeKeySlot p v => Sys2Proof.Machine.execRevokeKeySlot p v s
  | .raiseRollbackFloor p v => Sys2Proof.Machine.execRaiseRollbackFloor p v s
  | .programOwnerSlot p data => Sys2Proof.Machine.execProgramOwnerSlot p data s
  | .revokeOwnerSlot p v => Sys2Proof.Machine.execRevokeOwnerSlot p v s
  -- 17: counters, reels and the contact sheet
  | .profilePlanWrite p data => Sys2Proof.Machine.execProfilePlanWrite p data s
  | .reelDrainDone reel ok => Sys2Proof.Machine.execReelDrainDone reel ok s
  | .reelFlush p reel v => Sys2Proof.Machine.execReelFlush p reel v s
  | .reelDisable p reel v => Sys2Proof.Machine.execReelDisable p reel v s
  | .progressWatchdog queue => Sys2Proof.Machine.execProgressWatchdog queue s
  | .contactSheetDone => Sys2Proof.Machine.execContactSheetDone s
  | .contactSheetRelease p byRegister v => Sys2Proof.Machine.execContactSheetRelease p byRegister v s
  -- 18: power, cooling and mechanics
  | .powerUp pins => Sys2Proof.Machine.execPowerUp pins s
  | .pwrEnFall => Sys2Proof.Machine.execPwrEnFall s
  | .restartHoldoff pins => Sys2Proof.Machine.execRestartHoldoff pins s
  | .inputDip => Sys2Proof.Machine.execInputDip s
  | .undervoltage => Sys2Proof.Machine.execUndervoltage s
  | .overvoltage => Sys2Proof.Machine.execOvervoltage s
  | .brickOverload => Sys2Proof.Machine.execBrickOverload s
  | .brickInsert n genuine => Sys2Proof.Machine.execBrickInsert n genuine s
  | .brickLost n => Sys2Proof.Machine.execBrickLost n s
  | .fanInsert n => Sys2Proof.Machine.execFanInsert n s
  | .fanLost n => Sys2Proof.Machine.execFanLost n s
  | .thermalShutdown maxTemp => Sys2Proof.Machine.execThermalShutdown maxTemp s
  | .hwThermalTrip => Sys2Proof.Machine.execHwThermalTrip s
  -- rows the table lists last
  | .sqEnableWrite p cl on => Sys2Proof.Machine.execSqEnableWrite p cl on s
  | .mxEnableWrite p core on => Sys2Proof.Machine.execMxEnableWrite p core on s
  | .perstRelease => Sys2Proof.Machine.execPerstRelease s
  | .d0Entry fn => Sys2Proof.Machine.execD0Entry fn s
  | .vfEnable on numVfs ari => Sys2Proof.Machine.execVfEnable on numVfs ari s
  | .fabricDisable p => Sys2Proof.Machine.execFabricDisable p s
  | .cxlRetrainEnd port ok => Sys2Proof.Machine.execCxlRetrainEnd port ok s

end Sys2Proof.Machine
end

