-- ==== Sys2Proof/Machine/Tick.lean ====
section
/-! DEFINITION. What happens as time passes with no command waiting (log 3). -/

namespace Sys2Proof.Machine

/-- One period of the timestamp counter: it counts while power holds (01_module_hierarchy.md R34), and CXL writes whose
link is up are acknowledged (06_memory_ordering.md R238). The loader leaves stage ROM or WARM at once, and requests whose item that
waited has been answered go on (16_management_and_startup.md R615, R635). -/
def State.tick (s : State) : State :=
  let s := s.leaveRom.reqsGo
  { s with now := if s.pw.phase = .on then s.now + 1 else s.now,
           ext := { s.ext with cxl := s.ext.cxl.map (fun e => (e.1, if e.2.linkUp then { e.2 with unacked := 0 } else e.2)) } }

end Sys2Proof.Machine
end

