-- ==== Sys2Proof/Safety.lean ====
section
/-! DEFINITION. What counts as a safe run, and the terms that the statements use: the canonical form of memory, a command that
answers a next state, the conditions under which a command has its effect, and what it leaves as it is. -/

namespace Sys2Proof

open Sys2Proof.Machine

/-- Device memory, host memory, and the poison marks stand in canonical form: addresses strictly rising, and no entry equal to
what an unlisted address holds. -/
def Memory.wf (s : State) : Bool :=
  SMap.wf (fun _ => (0 : Byte)) s.mem && SMap.wf (fun _ => (0 : Byte)) s.hostMem && SMap.wf (fun _ => false) s.ext.poison

/-- A step answers a next state: no fault, no refusal. -/
def goesOn (s : State) : Prop := ∃ t, step s = .next t

/-- A command answers a next state of which `P` holds. -/
def Gives (c : Instr) (s : State) (P : State → Prop) : Prop := ∃ t, exec c s = .next t ∧ P t

/-- A byte of device memory. -/
def Memory.byte (s : State) (a : Nat) : Byte := s.mem.getD a 0

/-- A byte of the host's memory. -/
def Memory.hostByte (s : State) (a : Nat) : Byte := s.hostMem.getD a 0

/-- Every byte of device memory and of the host's memory, and every poison mark, reads as before. -/
def SameBytes (s t : State) : Prop :=
  ∀ a, Memory.byte t a = Memory.byte s a ∧ Memory.hostByte t a = Memory.hostByte s a ∧ t.poisoned a = s.poisoned a

/-- A path reaches a register with privilege: firmware, or the PF where it serves memory requests and the module is READY or the
register is in the MG_ page (00_scope.md R13; 11_host_link.md R423, R435; 16_management_and_startup.md R638). -/
def Privileged (s : State) (p : Path) (off : Nat) : Prop :=
  p = .firmware ∨ (p = .pf ∧ s.fnServes 0 = true ∧ (s.mg.stage = .ready ∨ inMg off = true))

/-- A path reaches a register that any context may write: firmware and engines, and the PF or the virtual function `vf` where that function
serves memory requests and the module is READY or the register is in the MG_ page (00 R13; 11 R423, R428, R435; 16 R638). -/
def Reaches (s : State) (p : Path) (off : Nat) (vf : Option Nat) : Prop :=
  p = .firmware ∨ (∃ c, p = .engine c) ∨ ∃ k, ((p = .pf ∧ k = 0) ∨ (p = .vf k ∧ vf = some k)) ∧ s.fnServes k = true ∧ (s.mg.stage = .ready ∨ inMg off = true)

/-- An item of the dictionary is taken: its path reaches it, its window is free, and the stage allows it
(16_management_and_startup.md R614 to R616, R619). -/
def TakesItem (s : State) (p : Path) (idx sub : Nat) : Prop :=
  s.odReach p = true ∧ s.odBusy p = false ∧ s.odStageOk idx sub true = true ∧ (p = .pf → s.earlyStage = false)

/-- A sequencer can issue, and the word at its PC is `w`, valid, of opcode `op`; `u` is the state once it is fetched
(05_sequencers_streams.md R179 to R184). -/
def Runs (s : State) (cl op w : Nat) (u : State) : Prop :=
  s.seqCan cl = true ∧ s.fetchWord cl = (some w, u) ∧ streamOk w = true ∧ swOp w = op

/-- A stream instruction touched its own sequencer, its counts, the last progress of its step, and nothing else. -/
def OnlySeq (u t : State) (cl : Nat) : Prop :=
  t = { u with regs := t.regs, seqs := t.seqs, pt := t.pt } ∧ t.pt = { u.pt with steps := t.pt.steps }
    ∧ (∀ o, o ≠ sqR cl 0x50 → t.reg o = u.reg o) ∧ (∀ c, c ≠ cl → t.seq c = u.seq c)
    ∧ (∀ q, t.stepOf q = u.stepOf q ∨ t.stepOf q = (u.stepOf q).map (fun r => { r with lastProgress := u.now }))

/-- The group of an issue runs path `p`, and an instruction that writes registers `wr` and reads `rd` issues: they lie below the kernel's
allocation, and no tile makes it wait (02_thread_groups.md R68, R82; 03_matrix_units.md R118). -/
def Issues (s : State) (i : Issue) (wr rd : List (Nat × Nat)) (g : Group) (p : PathSt) : Prop :=
  s.issuing i = some (g, p) ∧ s.regsOk i.core (wr ++ rd) = true ∧ s.scoreboard i wr rd g = false

/-- A group that runs one path and has no entry on its reconvergence stack (02 R68). -/
def Single (g : Group) (p : PathSt) : Prop := g.paths = [p] ∧ g.entries = []

/-- An instruction touched one group of one core, that core's event counters, the model's counter of free values, and nothing else. -/
def OnlyGroup (u t : State) (core slot : Nat) : Prop :=
  t = { u with regs := t.regs, cores := t.cores, free := t.free } ∧ (∀ c, c ≠ core → t.core c = u.core c)
    ∧ t.core core = { u.core core with groups := (t.core core).groups } ∧ (∀ k, k ≠ slot → t.group core k = u.group core k)
    ∧ ∀ o, (∀ x, 0x40 ≤ x → x < 0x90 → o ≠ dbCore core x) → t.reg o = u.reg o

/-- From `u` to `t`, the lanes of `ls` took the values `val` in the `n` registers from `rd` on, every other register of the group stayed, and
a group of one path went to the next instruction (02 R51, R56, R70). -/
def LaneResults (u t : State) (i : Issue) (p : PathSt) (ls : List Nat) (rd n : Nat) (val : Nat → Nat) : Prop :=
  OnlyGroup u t i.core i.slot ∧ ∃ g h, u.group i.core i.slot = some g ∧ t.group i.core i.slot = some h
    ∧ (∀ l ∈ ls, ∀ j, j < n → h.reg l (rd + j) = val l / 2 ^ (32 * j) % 2 ^ 32)
    ∧ (∀ l r, r < 256 → l ∉ ls ∨ r < rd ∨ rd + n ≤ r → h.reg l r = g.reg l r)
    ∧ (Single g p → h.paths = [{ p with pc := i.next }])

/-- The lanes of an access of `size` bytes at `va` are aligned and translated: `u` is the state then, `ls` the lanes with what covers them,
and none falls where nothing decodes (02 R79; 09_address_translation.md R367). -/
def Translates (s : State) (i : Issue) (k : Kernel) (g : Group) (p : PathSt) (size acc : Nat) (va : Nat → Nat) (u : State) (ls : List LaneAt) : Prop :=
  g.width ≠ 0 ∧ (∀ l ∈ lanesOf p.mask, va l % 2 ^ 57 % size = 0) ∧ s.agentBusy (.te i.core i.slot) = false
    ∧ ((lanesOf p.mask).map (fun l => (l, va l % 2 ^ 57))).foldl (State.laneXlate i k p.pc acc) { st := s } = { st := u, at_ := ls, miss := false }
    ∧ ∀ l ∈ ls, u.laneKind i k l ≠ .bad

/-- A command of a partition's HQ_ page is taken: its write reaches HQ_CMD, the hub goes on, and the page is not BUSY
(12_objects_and_submission.md R459; 11_host_link.md R428; 08_external_memory.md R700). -/
def TakesHq (s : State) (p : Path) (part : Nat) : Prop :=
  Reaches s p (hqP part 0x10) (some (part + 1)) ∧ s.mg.down = false ∧ bit (s.reg (hqP part 0x40)) 31 = false

/-- A command of an HQ_ page ends with OK and a result, the state being `x` apart from HQ_STATUS and HQ_RESULT (12 R459). -/
def EndsHq (c : Instr) (s : State) (part : Nat) (x : State) (res : Nat) : Prop := exec c s = .next (x.hqAnswer part stOk res)

/-- A command of an HQ_ page is refused with BAD_DESC and changes nothing else (12 R459, R460). -/
def RefusedHq (c : Instr) (s : State) (part : Nat) : Prop := exec c s = .next (s.hqAnswer part stBadDesc 0)

end Sys2Proof
end

