-- ==== Sys2Proof/WellFormed.lean ====
section
/-! DEFINITION. Which commands are well formed: every unit number names a unit that the spec gives the FV-80, and every
length is what the row carries. A command that is not well formed comes from no sender; `exec` still answers it. -/

namespace Sys2Proof

/-- A physical core slot (01_module_hierarchy.md R24): cluster * 16 + position, positions 0 to 8. -/
def slotWf (n : Nat) : Bool := n < 256 && n % 16 < 9
/-- A cluster (01 R22). -/
def clWf (n : Nat) : Bool := n < 16
/-- A partition (13_partitions_and_meter.md R490). -/
def partWf (n : Nat) : Bool := n < 8
/-- A group slot of a core (02_thread_groups.md R48). -/
def groupWf (n : Nat) : Bool := n < 64
/-- A register of a group's file (02 R51). -/
def regWf (n : Nat) : Bool := n < 256
/-- An operand of a thread instruction. -/
def srcWf : Src → Bool
  | .reg n => regWf n
  | .imm _ => true
/-- The issue of a thread instruction. -/
def issueWf (i : Issue) : Bool := slotWf i.core && groupWf i.slot
/-- The issuer of a matrix command. -/
def mxIssuerWf : MxIssuer → Bool
  | .group i _ => issueWf i
  | .seq cl => clWf cl
/-- The waiter of an MWAIT. -/
def mxWaiterWf : MxWaiter → Bool
  | .group c g => slotWf c && groupWf g
  | .seq cl => clWf cl
/-- A unit of service (08_external_memory.md R303). -/
def unitWf (u : UnitId) : Bool :=
  (u.kind = 0 && u.num < 32) || (u.kind = 1 && u.num < 16) || (u.kind = 2 && u.num < 4)
/-- An access path (00_scope.md R13). -/
def pathWf : Path → Bool
  | .pf => true
  | .vf k => 1 ≤ k && k ≤ 8
  | .firmware => true
  | .session i => i < 4
  | .engine c => c < 1024
/-- A port of the fabric (14_niandop_link.md R546). -/
def portWf (n : Nat) : Bool := 1 ≤ n && n ≤ 8
/-- A quad of a port. -/
def quadWf (n : Nat) : Bool := n < 4
/-- A PCIe function (11_host_link.md R423). -/
def fnWf (n : Nat) : Bool := n ≤ 8
/-- A queue (12_objects_and_submission.md R461). -/
def queueWf (n : Nat) : Bool := n < 4096
/-- An operation of the collective engine (14 R570). -/
def opWf (n : Nat) : Bool := n < 1024
/-- A group of the fabric (14 R568). -/
def fabricGroupWf (n : Nat) : Bool := n < 4096
/-- An update unit (10_update_units.md R394). -/
def uuWf (n : Nat) : Bool := n < 48
/-- A frame's payload is at most 4,096 bytes and it arrives on a plane (14 R546, R547). -/
def frameWf (f : Frame) : Bool := f.plane < 32 && f.payload.length ≤ 4096
/-- The unit of a shared mode (13 R533, R535). -/
def modeUnitWf : ModeUnit → Bool
  | .core s => slotWf s
  | .seq c => clWf c
  | .update u => uuWf u
  | .tank d => d < 2
  | .walker => true
  | .frontEnd => true
  | .collective => true

/-- Well-formed commands. -/
def Instr.wf : Instr → Bool
  | .regWrite p _ size _ => pathWf p && (size = 4 || size = 8)
  | .actionLowHalfWrite p _ _ => pathWf p
  | .badSizeAccess p _ _ size _ => pathWf p && size ≠ 0
  | .refclkSwitch => true
  | .rootPointReached => true
  | .blockStart _ c => slotWf c
  | .blockExit c _ => slotWf c
  | .kernelCompleteCore c => slotWf c
  | .kernelComplete _ => true
  | .threadAluInstruction i _ rd a b c => issueWf i && regWf rd && srcWf a && srcWf b && srcWf c
  | .specialRegRead i rd _ => issueWf i && regWf rd
  | .branch i _ _ => issueWf i
  | .barrier i => issueWf i
  | .threadExit i _ => issueWf i
  | .atomic i _ _ _ _ _ rd ra rb rc => issueWf i && regWf rd && regWf ra && regWf rb && regWf rc
  | .load i size rd ra _ _ _ => issueWf i && (size = 1 || size = 2 || size = 4 || size = 8 || size = 16) && regWf rd && regWf ra
  | .store i size ra rb _ _ _ => issueWf i && (size = 1 || size = 2 || size = 4 || size = 8 || size = 16) && regWf ra && regWf rb
  | .deviceStrictStore i size ra rb _ => issueWf i && (size = 4 || size = 8) && regWf ra && regWf rb
  | .fence i _ _ => issueWf i
  | .releaseComplete c g => slotWf c && groupWf g
  | .zline i ra _ => issueWf i && regWf ra
  | .convert i _ _ _ rd ra => issueWf i && regWf rd && regWf ra
  | .trap i => issueWf i
  | .threadEnqueue i rd ra rb => issueWf i && regWf rd && regWf ra && regWf rb
  | .teDrainWrite p c _ => pathWf p && slotWf c
  | .teEnableWrite p c _ => pathWf p && slotWf c
  | .coreClearDone c => slotWf c
  | .mload m => mxIssuerWf m
  | .mswap m => mxIssuerWf m
  | .mstream m => mxIssuerWf m
  | .mtile m => mxIssuerWf m
  | .mdrain m => mxIssuerWf m
  | .mwait m => mxIssuerWf m
  | .mwaitReturn w => mxWaiterWf w
  | .mxCommandStart c => slotWf c
  | .mxCommandComplete c _ => slotWf c
  | .arrayRampDown c => slotWf c
  | .densRecordClose _ => true
  | .seqRecordClose cl => clWf cl
  | .setScale p _ => pathWf p
  | .hold p _ => pathWf p
  | .slotRelease p _ => pathWf p
  | .setCentre p _ => pathWf p
  | .clearCentre p _ => pathWf p
  | .slotReset p _ => pathWf p
  | .subnormalDefaultWrite p q _ => pathWf p && partWf q
  | .stepStart cl => clWf cl
  | .nop cl => clWf cl
  | .endStream cl => clWf cl
  | .movi cl => clWf cl
  | .movhi cl => clWf cl
  | .add cl => clWf cl
  | .sub cl => clWf cl
  | .mul cl => clWf cl
  | .and cl => clWf cl
  | .or cl => clWf cl
  | .xor cl => clWf cl
  | .shl cl => clWf cl
  | .shr cl => clWf cl
  | .addi cl => clWf cl
  | .ld cl => clWf cl
  | .st cl => clWf cl
  | .rdts cl => clWf cl
  | .br cl => clWf cl
  | .loop cl => clWf cl
  | .lidx cl => clWf cl
  | .cset cl => clWf cl
  | .cinc cl => clWf cl
  | .crd cl => clWf cl
  | .kset cl => clWf cl
  | .kwait cl => clWf cl
  | .kwaitEnd cl => clWf cl
  | .kbr cl => clWf cl
  | .launch cl => clWf cl
  | .lwait cl => clWf cl
  | .lwaitEnd cl => clWf cl
  | .kstat cl => clWf cl
  | .mxsel cl => clWf cl
  | .fwait cl => clWf cl
  | .fwaitEnd cl => clWf cl
  | .fsig cl => clWf cl
  | .fsigRelease cl => clWf cl
  | .esig cl => clWf cl
  | .ewait cl => clWf cl
  | .ewaitEnd cl => clWf cl
  | .sbar cl => clWf cl
  | .sbarLeave q => queueWf q
  | .enq cl => clWf cl
  | .seqPark cl => clWf cl
  | .seqResume cl => clWf cl
  | .stepEnd q => queueWf q
  | .storeBufferDrain c i => slotWf c && i < 32
  | .windowAccess c => slotWf c
  | .teardownDrainLimit c => slotWf c
  | .cacheFill cl _ _ _ => clWf cl
  | .ccEviction cl _ => clWf cl
  | .ccWayPowerDown p cl w => pathWf p && clWf cl && w < 16
  | .ccWayPowerUp p cl w => pathWf p && clWf cl && w < 16
  | .ccWayCleanDone cl w => clWf cl && w < 16
  | .tkKeepclr p d _ => pathWf p && d < 2
  | .keepSweepDone d => d < 2
  | .tkRetire p d _ => pathWf p && d < 2
  | .bankMoveDone d => d < 2
  | .tankScrubPass d b _ => d < 2 && b < 512
  | .drain p _ => pathWf p
  | .undrain p _ => pathWf p
  | .quiesce p _ => pathWf p
  | .unitQuiesced u => unitWf u
  | .test p _ => pathWf p
  | .testPassEnd u _ _ => unitWf u
  | .returnUnit p _ => pathWf p
  | .unitReturned u => unitWf u
  | .retrain p _ => pathWf p
  | .unitTrainingEnd u _ => unitWf u
  | .sparePc p _ => pathWf p
  | .sparePcDone pc => pc < 256
  | .dimmLatch ch => ch < 16
  | .dimmLatchClose ch _ => ch < 16
  | .dimmTrainingStart ch => ch < 16
  | .dimmThermalRead ch _ => ch < 16
  | .cxlLinkDown port => port < 4
  | .cxlReadyTimeout port _ _ => port < 4
  | .cxlRequestTimeout port => port < 4
  | .unitFailed u _ => unitWf u
  | .memoryTrainingEnd h d _ => h.length = 32 && d.length = 16
  | .moveStart p _ => pathWf p
  | .moveCopied entry => entry < 64
  | .moveRelease p _ => pathWf p
  | .bucketRefill => true
  | .patrolPass u _ => unitWf u
  | .rowRepair u _ _ _ => unitWf u
  | .mirrorAdd p _ => pathWf p
  | .mirrorRemove p _ => pathWf p
  | .tgGo p cxl page _ => pathWf p && page < (if cxl then 4 else 16)
  | .tgStop p cxl page _ => pathWf p && page < (if cxl then 4 else 16)
  | .walkComplete _ => true
  | .faultWindowClose _ => true
  | .fqtailWrite p part _ => pathWf p && partWf part
  | .resolveRetry p part _ => pathWf p && partWf part
  | .resolveAbort p part _ => pathWf p && partWf part
  | .sync p part _ => pathWf p && partWf part
  | .contextRange p part _ => pathWf p && partWf part
  | .context p part _ => pathWf p && partWf part
  | .s2Range p part _ => pathWf p && partWf part
  | .partition p part _ => pathWf p && partWf part
  | .invComplete part => partWf part
  | .shardHandout q => queueWf q
  | .pass1Shard u => uuWf u
  | .pass2Shard u => uuWf u
  | .updateComplete q => queueWf q
  | .ruleWrite p q r d => pathWf p && partWf q && r < 16 && d.length ≤ 256
  | .ruleApplied q r => partWf q && r < 16
  | .uuEnableWrite p u _ => pathWf p && uuWf u
  | .linkTraining _ w _ => w ≤ 16
  | .laneLossRetrain _ => true
  | .dlDown => true
  | .hotReset => true
  | .perst => true
  | .hostBar2Write f _ d _ => fnWf f && d.length ≤ 4096
  | .hostBar2Read f _ n => fnWf f && n ≤ 4096
  | .unsupportedRequest fn _ => fnWf fn
  | .hostReadFail _ => true
  | .msixUnmask fn _ => fnWf fn
  | .flrVf k => 1 ≤ k && k ≤ 8
  | .flrPf => true
  | .doeRequest _ _ => true
  | .ideEstablish => true
  | .ideCheckFail => true
  | .d3hotEntry f => fnWf f
  | .ctxCreate p q => pathWf p && partWf q
  | .ctxKill p part => pathWf p && partWf part
  | .objQuery p part => pathWf p && partWf part
  | .qCreate p part => pathWf p && partWf part
  | .qStart p part => pathWf p && partWf part
  | .qStop p part => pathWf p && partWf part
  | .qReset p part => pathWf p && partWf part
  | .qDestroy p part => pathWf p && partWf part
  | .memCreate p part => pathWf p && partWf part
  | .memFree p part => pathWf p && partWf part
  | .fenceCreate p part => pathWf p && partWf part
  | .eventCreate p part => pathWf p && partWf part
  | .syncFree p part => pathWf p && partWf part
  | .fenceSignal p part => pathWf p && partWf part
  | .eventSignal p part => pathWf p && partWf part
  | .fenceExport p part => pathWf p && partWf part
  | .fenceImport p part => pathWf p && partWf part
  | .fenceImportRemote p part => pathWf p && partWf part
  | .importRemoteTimeout part => partWf part
  | .refAdd p part => pathWf p && partWf part
  | .doorbell p q _ => pathWf p && queueWf q
  | .entryAccept q => queueWf q
  | .waitsMet q => queueWf q
  | .entryComplete q => queueWf q
  | .queueTimeout q => queueWf q
  | .killTimeout queue => queueWf queue
  | .reclaimEpochEnd => true
  | .apply p _ => pathWf p
  | .layoutAbort p _ => pathWf p
  | .partitionReset p _ => pathWf p
  | .ptResetGo p part _ => pathWf p && partWf part
  | .layoutDrainLimit => true
  | .meterWindow _ => true
  | .stepPlace p => partWf p
  | .sliceEligible q => queueWf q
  | .preemptTimeout q => queueWf q
  | .modeStage => true
  | .modeStageLimit => true
  | .modeCommit => true
  | .epochBoundary u => modeUnitWf u
  | .modeChangeComplete => true
  | .compatHoldExpiry p => partWf p
  | .learnForget p _ => pathWf p
  | .maintenanceStep _ => true
  | .data f => frameWf f
  | .signal f => frameWf f
  | .subscribe f => frameWf f
  | .subReply f => frameWf f
  | .fenceChange f => frameWf f
  | .unsubscribe f => frameWf f
  | .credit f => frameWf f
  | .runAbort f => frameWf f
  | .ack f => frameWf f
  | .nak f => frameWf f
  | .hello f => frameWf f
  | .ackTimer node => node < 65536
  | .retransmitTimeout node _ => node < 65536
  | .helloTimer node => node < 65536
  | .keepAlive node => node < 65536
  | .lostTimeout node => node < 65536
  | .peerIdleClose node => node < 65536
  | .quadOut p q _ => portWf p && quadWf q
  | .quadRetrainTry p q _ => portWf p && quadWf q
  | .quadReturn p q => portWf p && quadWf q
  | .qctrlOut p port _ => pathWf p && portWf port
  | .quadRetrain p port _ => pathWf p && portWf port
  | .cageInsert p _ => portWf p
  | .cageRemove p => portWf p
  | .fabricEnable p => pathWf p
  | .groupWrite p _ => pathWf p
  | .operationWrite p _ => pathWf p
  | .runStart o => opWf o
  | .runComplete o => opWf o
  | .runTimeout o => opWf o
  | .prbsGo p port _ => pathWf p && portWf port
  | .prbsStop p port _ => pathWf p && portWf port
  | .planEnable p part _ => pathWf p && partWf part
  | .negativeDue p => partWf p
  | .negativeLate p => partWf p
  | .failureReport p group => pathWf p && fabricGroupWf group
  | .restore p _ => pathWf p
  | .remap p _ => pathWf p
  | .digest p _ => pathWf p
  | .compare p _ => pathWf p
  | .digestDone => true
  | .releaseBrick p _ => pathWf p
  | .brickReleaseEnd _ => true
  | .releaseFan p _ => pathWf p
  | .releaseCage p _ => pathWf p
  | .returnCage p _ => pathWf p
  | .prepareModule p _ => pathWf p
  | .spareCore p _ => pathWf p
  | .odRead p _ _ _ => pathWf p
  | .odWrite p _ _ _ => pathWf p
  | .odDescribe p _ _ => pathWf p
  | .odRequest _ _ => true
  | .discover _ => true
  | .sessionInit _ _ _ _ => true
  | .sessionFinish _ _ => true
  | .sessionClose _ => true
  | .sessionTimeout i => i < 4
  | .eventAck _ => true
  | .eventRepeat i => i < 4
  | .spdm _ _ => true
  | .imageRequest => true
  | .imageOffer _ _ => true
  | .imageData _ _ _ => true
  | .imageReadTimeout _ => true
  | .loaderGo p _ => pathWf p
  | .imageCheck => true
  | .restoreDone p _ => pathWf p
  | .restoreWindowExpiry => true
  | .warm p _ => pathWf p
  | .warmReload p _ => pathWf p
  | .watchdog => true
  | .revokeKeySlot p _ => pathWf p
  | .raiseRollbackFloor p _ => pathWf p
  | .programOwnerSlot p _ => pathWf p
  | .revokeOwnerSlot p _ => pathWf p
  | .profilePlanWrite p _ => pathWf p
  | .reelDrainDone reel _ => reel < 17
  | .reelFlush p reel _ => pathWf p && reel < 17
  | .reelDisable p reel _ => pathWf p && reel < 17
  | .progressWatchdog queue => queueWf queue
  | .contactSheetDone => true
  | .contactSheetRelease p _ _ => pathWf p
  | .powerUp _ => true
  | .pwrEnFall => true
  | .restartHoldoff _ => true
  | .inputDip => true
  | .undervoltage => true
  | .overvoltage => true
  | .brickOverload => true
  | .brickInsert n _ => n < 6
  | .brickLost n => n < 6
  | .fanInsert n => n < 6
  | .fanLost n => n < 6
  | .thermalShutdown _ => true
  | .hwThermalTrip => true
  | .sqEnableWrite p cl _ => pathWf p && clWf cl
  | .mxEnableWrite p c _ => pathWf p && slotWf c
  | .perstRelease => true
  | .d0Entry f => fnWf f
  | .vfEnable _ n _ => n ≤ 8
  | .fabricDisable p => pathWf p
  | .cxlRetrainEnd p _ => p < 4

end Sys2Proof
end

