-- ==== Sys2Proof/Certificates/Slice0/Obligations.lean ====
section
/-! DEFINITION. The statements for the provers. -/

section

open Sys2Proof Sys2Proof.Machine

/-! ### Sequencers (05_sequencers_streams.md) -/

/-- The arithmetic stream instructions (R183): the destination takes the result modulo 2^64, every other s-register and the counters stay,
the PC falls through (R186), and nothing else of the machine changes. -/
def Obligations.StreamArithmetic : Prop :=
  ∀ (s u : State) (cl w : Nat),
    let q := u.seq cl
    let a := q.sreg (swA w)
    let b := q.sreg (swB w)
    let sets (c : Instr) (op v : Nat) : Prop := Runs s cl op w u → Gives c s (fun t =>
      (t.seq cl).sreg (swD w) = v % 2 ^ 64 ∧ (∀ r, r ≠ swD w → (t.seq cl).sreg r = q.sreg r) ∧ (t.seq cl).c = q.c
        ∧ (t.seq cl).pc = q.fall.pc ∧ (t.seq cl).loops = q.fall.loops ∧ OnlySeq u t cl)
    sets (.movi cl) 0x10 (ofSigned 64 (swImmS w)) ∧ sets (.movhi cl) 0x11 (swImm w * 2 ^ 32 + q.sreg (swD w) % 2 ^ 32)
      ∧ sets (.add cl) 0x12 (a + b) ∧ sets (.sub cl) 0x13 (a + 2 ^ 64 - b) ∧ sets (.mul cl) 0x14 (a * b) ∧ sets (.and cl) 0x15 (a &&& b)
      ∧ sets (.or cl) 0x16 (a ||| b) ∧ sets (.xor cl) 0x17 (a ^^^ b) ∧ sets (.shl cl) 0x18 (a * 2 ^ (swImm w % 64))
      ∧ sets (.shr cl) 0x19 (a / 2 ^ (swImm w % 64)) ∧ sets (.addi cl) 0x1A (a + ofSigned 64 (swImmS w))

/-- What reads and counts in a sequencer (R183, R189 to R191, R195): RDTS, LIDX, CRD and KSTAT write their s-register; CSET and CINC write a
counter; KSET arms a comparator; MXSEL sets the mask and the step of matrix commands; NOP only falls through. -/
def Obligations.StreamCounters : Prop :=
  ∀ (s u : State) (cl w : Nat),
    let q := u.seq cl
    let a := q.sreg (swA w)
    let goes (c : Instr) (op : Nat) (P : Seq → Prop) : Prop := Runs s cl op w u → Gives c s (fun t =>
      P (t.seq cl) ∧ (t.seq cl).pc = q.fall.pc ∧ (t.seq cl).loops = q.fall.loops ∧ (t.seq cl).wait = .none ∧ OnlySeq u t cl)
    let keepsS (x : Seq) : Prop := x.s = q.s
    let keepsC (x : Seq) : Prop := x.c = q.c ∧ x.csrc = q.csrc ∧ x.k = q.k
    goes (.nop cl) 0x00 (fun x => keepsS x ∧ keepsC x)
      ∧ goes (.rdts cl) 0x22 (fun x => x.sreg (swD w) = s.now % 2 ^ 64 ∧ (∀ r, r ≠ swD w → x.sreg r = q.sreg r) ∧ keepsC x)
      ∧ (∀ l, q.loops[swX w]? = some l → goes (.lidx cl) 0x32 (fun x => x.sreg (swD w) = l.index % 2 ^ 64 ∧ (∀ r, r ≠ swD w → x.sreg r = q.sreg r) ∧ keepsC x))
      ∧ goes (.crd cl) 0x3A (fun x => x.sreg (swD w) = q.ctr (swX w % 8) ∧ (∀ r, r ≠ swD w → x.sreg r = q.sreg r) ∧ keepsC x)
      ∧ goes (.cset cl) 0x38 (fun x => keepsS x ∧ x.ctr (swX w % 8) = a ∧ x.csrc.getD (swX w % 8) 0 = bits (swX w) 6 3 ∧ x.k = q.k
          ∧ ∀ i, i ≠ swX w % 8 → x.ctr i = q.ctr i ∧ x.csrc.getD i 0 = q.csrc.getD i 0)
      ∧ goes (.cinc cl) 0x39 (fun x => keepsS x ∧ x.ctr (swX w % 8) = (q.ctr (swX w % 8) + ofSigned 64 (swImmS w)) % 2 ^ 64 ∧ x.csrc = q.csrc ∧ x.k = q.k
          ∧ ∀ i, i ≠ swX w % 8 → x.ctr i = q.ctr i)
      ∧ goes (.kset cl) 0x3B (fun x => keepsS x ∧ x.c = q.c
          ∧ x.k.getD (swX w % 4) {} = { armed := true, ctr := bits (swX w) 4 2, rel := bits (swX w) 6 5, val := a }
          ∧ ∀ i, i ≠ swX w % 4 → x.k.getD i {} = q.k.getD i {})
      ∧ goes (.kstat cl) 0x42 (fun x => x.sreg (swD w) = (q.kcount * 16 + q.kflags) % 2 ^ 64 ∧ x.kcount = 0 ∧ x.kflags = 0
          ∧ (∀ r, r ≠ swD w → x.sreg r = q.sreg r) ∧ keepsC x)
      ∧ goes (.mxsel cl) 0x48 (fun x => keepsS x ∧ keepsC x ∧ x.mxMask = swImm w % 256 ∧ x.mxStep = a)

/-- Branches, loops and the end of a stream (R181, R183, R186 to R188): a taken branch goes to PC + 8 × IMM and keeps only the levels whose
body holds the target; one not taken falls through; LOOP opens a level inside the innermost one, and skips its body when the count is
zero; END ends this sequencer's part of the step. -/
def Obligations.StreamControl : Prop :=
  ∀ (s u : State) (cl w : Nat),
    let q := u.seq cl
    let a := q.sreg (swA w)
    let b := q.sreg (swB w)
    let target := ofSigned 57 ((q.pc : Int) + 8 * swImmS w)
    let branches (c : Instr) (op : Nat) (taken : Prop) : Prop := Runs s cl op w u →
      (taken → Gives c s (fun t => (t.seq cl).pc = target ∧ (∀ l ∈ (t.seq cl).loops, l.start ≤ target ∧ target < l.stop)
        ∧ (t.seq cl).s = q.s ∧ (t.seq cl).c = q.c ∧ OnlySeq u t cl))
      ∧ (¬taken → Gives c s (fun t => (t.seq cl).pc = q.fall.pc ∧ (t.seq cl).loops = q.fall.loops ∧ (t.seq cl).s = q.s ∧ (t.seq cl).c = q.c
        ∧ OnlySeq u t cl))
    (swX w = 0 → branches (.br cl) 0x30 True) ∧ (swX w = 1 → branches (.br cl) 0x30 (a = b)) ∧ (swX w = 2 → branches (.br cl) 0x30 (a ≠ b))
      ∧ (swX w = 3 → branches (.br cl) 0x30 (toSigned 64 a < toSigned 64 b)) ∧ (swX w = 4 → branches (.br cl) 0x30 (toSigned 64 b ≤ toSigned 64 a))
      ∧ (swX w = 5 → branches (.br cl) 0x30 (a < b)) ∧ (swX w = 6 → branches (.br cl) 0x30 (b ≤ a))
      ∧ branches (.kbr cl) 0x3D (q.cmpTrue (swX w % 4) = true)
      ∧ (Runs s cl 0x31 w u → q.loops.length < 4 → (∀ l, q.loops.head? = some l → q.pc + 8 + 8 * swImm w ≤ l.stop) →
          (a % 2 ^ 32 ≠ 0 → Gives (.loop cl) s (fun t => (t.seq cl).pc = (q.pc + 8) % 2 ^ 57 ∧ OnlySeq u t cl
            ∧ (t.seq cl).loops = { start := q.pc + 8, stop := q.pc + 8 + 8 * swImm w, remaining := a % 2 ^ 32, index := 0 } :: q.loops))
          ∧ (a % 2 ^ 32 = 0 → Gives (.loop cl) s (fun t => OnlySeq u t cl
            ∧ (t.seq cl).pc = (Seq.fall { q with pc := q.pc + 8 * swImm w }).pc)))
      ∧ (Runs s cl 0x01 w u → Gives (.endStream cl) s (fun t => (t.seq cl).ended = true ∧ (t.seq cl).pc = q.pc ∧ (t.seq cl).s = q.s ∧ OnlySeq u t cl))

/-- Waits inside a sequencer (R183, R191): KWAIT goes on when its comparator reads true, and otherwise waits at its instruction; LWAIT goes on
when at most IMM[2:0] kernels are incomplete. A wait ends when its condition holds and its step goes on. -/
def Obligations.StreamWaits : Prop :=
  ∀ (s u : State) (cl w : Nat),
    let q := u.seq cl
    let passes (c : Instr) (v : State) : Prop := Gives c s (fun t => (t.seq cl).pc = (v.seq cl).fall.pc ∧ (t.seq cl).wait = .none
      ∧ (t.seq cl).state = .running ∧ (t.seq cl).s = (v.seq cl).s ∧ (t.seq cl).c = (v.seq cl).c ∧ OnlySeq v t cl)
    let stays (c : Instr) (why : SqWait) : Prop := Gives c s (fun t => t.seq cl = { q with wait := why, state := .waiting } ∧ OnlySeq u t cl)
    (Runs s cl 0x3C w u → (q.cmpTrue (swX w % 4) = true → passes (.kwait cl) u) ∧ (q.cmpTrue (swX w % 4) = false → stays (.kwait cl) (.kwait (swX w % 4))))
      ∧ (Runs s cl 0x41 w u → (q.inFlight.length ≤ swImm w % 8 → passes (.lwait cl) u)
          ∧ (swImm w % 8 < q.inFlight.length → stays (.lwait cl) (.lwait (swImm w % 8))))
      ∧ (∀ k, s.seqLive cl = true → (s.seq cl).wait = .kwait k → (s.seq cl).cmpTrue k = true → passes (.kwaitEnd cl) s)
      ∧ (∀ n, s.seqLive cl = true → (s.seq cl).wait = .lwait n → (s.seq cl).inFlight.length ≤ n → passes (.lwaitEnd cl) s)

/-- LD and ST (R183, R221, 08 R337; 06 R237): LD takes the eight bytes that its address translates to, zero where a sector of them is
poisoned; ST writes the eight bytes of sB, to the host exactly those. Whatever the memory operation did, the sequencer then falls
through and nothing else changes. -/
def Obligations.StreamLoadStore : Prop :=
  ∀ (s u v : State) (cl w : Nat) (e : Xent),
    let va := ofSigned 57 (((u.seq cl).sreg (swA w) : Int) + swImmS w)
    let pa := e.out + (va - e.va)
    let q := v.seq cl
    let falls (x t : State) : Prop := OnlySeq x t cl ∧ (t.seq cl).pc = (x.seq cl).fall.pc ∧ (t.seq cl).wait = .none ∧ (t.seq cl).state = .running
    let takes (x : State) (n : Nat) : Prop := Gives (.ld cl) s (fun t => (t.seq cl).sreg (swD w) = n % 2 ^ 64
      ∧ (∀ r, r ≠ swD w → (t.seq cl).sreg r = (x.seq cl).sreg r) ∧ falls x t)
    (Runs s cl 0x20 w u → va % 8 = 0 → u.xlateOr (.seq cl) (u.seq cl).ctx va accRead (u.seq cl).pc = (some e, v) →
        (∀ bs, e.host = true → v.hostRead pa 8 = some bs → takes v (leNat bs))
        ∧ (∀ off, e.host = false → v.decode pa = .reg off → takes (v.regLoad off 8).2 (v.regLoad off 8).1)
        ∧ (let r := v.readMem (seqWho q cl e) e.hint pa 8
           e.host = false → (∀ off, v.decode pa ≠ .reg off) → r.wait = false → r.undec = none → r.status = none → r.poison = [] → takes r.st (leNat r.data))
        ∧ (let r := v.readMem (seqWho q cl e) e.hint pa 8
           e.host = false → (∀ off, v.decode pa ≠ .reg off) → r.wait = false → r.undec = none → r.poison ≠ [] →
             takes (r.st.metPoison (.seq cl) q.part q.ctx accRead q.pc q.queue va pa r) 0))
      ∧ (Runs s cl 0x21 w u → va % 8 = 0 → u.xlateOr (.seq cl) (u.seq cl).ctx va accWrite (u.seq cl).pc = (some e, v) →
        (e.host = true → Gives (.st cl) s (fun t => falls (v.hostWrite pa (leBytes 8 (q.sreg (swB w)))) t ∧ (t.seq cl).s = q.s
          ∧ (∀ n, n < 8 → Memory.hostByte t (pa + n) = BitVec.ofNat 8 (q.sreg (swB w) / 256 ^ n))
          ∧ (∀ a, a < pa ∨ pa + 8 ≤ a → Memory.hostByte t a = Memory.hostByte v a) ∧ ∀ a, Memory.byte t a = Memory.byte v a))
        ∧ (∀ off, e.host = false → v.decode pa = .reg off →
            Gives (.st cl) s (fun t => falls (v.regStore (.engine q.ctx) off 8 (q.sreg (swB w))) t))
        ∧ (let r := v.writeMem (seqWho q cl e) e.hint (.owner cl) pa (leBytes 8 (q.sreg (swB w))) false
           e.host = false → (∀ off, v.decode pa ≠ .reg off) → r.wait = false → r.undec = none → r.status = none → r.poison = [] →
             Gives (.st cl) s (fun t => falls r.st t)))

/-- Kernel launches and enqueues (R192 to R194, R205): a LAUNCH of a good descriptor on at least one present core, with fewer than eight
kernels in flight and no mode change or yield that holds it, records the kernel and gives its number; the ninth waits; ENQ gives the
status of the enqueue. -/
def Obligations.StreamLaunches : Prop :=
  ∀ (s u : State) (cl w : Nat),
    let q := u.seq cl
    let va := q.sreg (swA w)
    let g := u.seqGet cl va 128 true
    let cores := g.st.maskSlots cl (swImm w % 256)
    (∀ b, Runs s cl 0x40 w u → q.inFlight.length < 8 → q.yield = false → u.launchHeld q.part = false → va % 128 = 0 →
        g.data = some b → g.fail = none → kdescBad va b = false → cores ≠ [] → ((kdescOf b).fv40 = true → (g.st.part q.part).compat = true) →
        Gives (.launch cl) s (fun t => (t.seq cl).sreg (swD w) = (q.launchNo + 1) % 2 ^ 64 ∧ (t.seq cl).launchNo = q.launchNo + 1
          ∧ (t.seq cl).inFlight = (g.st.seq cl).inFlight ++ [g.st.pt.nextKernel]
          ∧ ∃ k, t.kernel g.st.pt.nextKernel = some k ∧ k.desc = g.st.resolveDesc q.part (kdescOf b) ∧ k.descVa = va % 2 ^ 57 ∧ k.ctx = q.ctx
            ∧ k.cl = cl ∧ k.num = q.launchNo + 1 ∧ k.cores = cores ∧ k.next = 0))
      ∧ (Runs s cl 0x40 w u → 8 ≤ q.inFlight.length → Gives (.launch cl) s (fun t => t.seq cl = { q with wait := .launch8, state := .waiting } ∧ OnlySeq u t cl))
      ∧ (let r := u.enqueue (.seq cl) q.ctx (q.sreg (swA w) % 4096) (q.sreg (swB w) % 2 ^ 57) q.pc
         ∀ st, Runs s cl 0x60 w u → r.status = some st → Gives (.enq cl) s (fun t => (t.seq cl).sreg (swD w) = st % 2 ^ 64
           ∧ (∀ n, n ≠ swD w → (t.seq cl).sreg n = (r.st.seq cl).sreg n) ∧ (t.seq cl).pc = (r.st.seq cl).fall.pc ∧ OnlySeq r.st t cl))

/-- Fences, events and the barrier of sequencers (R200 to R203, R449): FSIG signals once its work is drained, FWAIT goes on when its fence
has reached its value, ESIG adds one and EWAIT takes one, SBAR waits until the whole placement has arrived or ended; the waits end when
their conditions hold. -/
def Obligations.StreamSync : Prop :=
  ∀ (s u : State) (cl w : Nat),
    let q := u.seq cl
    let h := q.sreg (swA w) % 2 ^ 16
    let v := q.sreg (swB w)
    let on (c : Instr) (x : State) : Prop := Gives c s (fun t => OnlySeq x t cl ∧ (t.seq cl).pc = (x.seq cl).fall.pc ∧ (t.seq cl).wait = .none ∧ (t.seq cl).state = .running)
    let stays (c : Instr) (x : State) (why : SqWait) : Prop := Gives c s (fun t => t.seq cl = { x.seq cl with wait := why, state := .waiting } ∧ OnlySeq x t cl)
    (Runs s cl 0x51 w u → u.streamHandle q.ctx h false = true →
        (u.fsigReady cl w = true → u.cxlPending = [] → on (.fsig cl) ((u.signal h v (bit (swX w) 3)).reelCl cl 2 0x07 q.ctx h v (swX w)))
        ∧ (u.fsigReady cl w = false → stays (.fsig cl) u .fsig))
      ∧ (s.seqLive cl = true → (s.seq cl).wait = .fsig → s.fetchWord cl = (some w, u) → u.fsigReady cl w = true → u.cxlPending = [] →
          on (.fsigRelease cl) ((u.signal h v (bit (swX w) 3)).reelCl cl 2 0x07 q.ctx h v (swX w)))
      ∧ (Runs s cl 0x52 w u → u.streamHandle q.ctx h true = true →
          Gives (.esig cl) s (fun t => (t.sync h).value = Nat.min ((u.sync h).value + 1) 0xFFFFFFFF ∧ (∀ k, k ≠ h → t.sync k = u.sync k)
            ∧ OnlySeq (u.signalEvent h) t cl ∧ (t.seq cl).pc = q.fall.pc))
      ∧ (Runs s cl 0x53 w u → u.streamHandle q.ctx h true = true →
          (0 < (u.sync h).value → Gives (.ewait cl) s (fun t => (t.sync h).value = (u.sync h).value - 1 ∧ (∀ k, k ≠ h → t.sync k = u.sync k)
            ∧ OnlySeq (u.takeEvent h) t cl ∧ (t.seq cl).pc = q.fall.pc))
          ∧ ((u.sync h).value = 0 → stays (.ewait cl) u (.ewait h)))
      ∧ (∀ k, s.seqLive cl = true → (s.seq cl).wait = .ewait k →
          ((List.range cl).filter (fun c => (s.seq c).wait = .ewait k && s.seqLive c)).length < (s.sync k).value →
          Gives (.ewaitEnd cl) s (fun t => (t.sync k).value = (s.sync k).value - 1 ∧ (t.seq cl).pc = (s.seq cl).fall.pc ∧ (t.seq cl).wait = .none))
      ∧ (Runs s cl 0x50 w u → u.streamHandle q.ctx h false = true →
          let x := u.reelCl cl 2 0x05 q.ctx h v 0
          let o := x.sync (x.original h)
          (x.fwaitNow h v = some stOk → on (.fwait cl) (x.reelCl cl 2 0x06 (x.seq cl).ctx h o.value (b2n o.error)))
          ∧ (x.fwaitNow h v = none → stays (.fwait cl) x (.fwait h v)))
      ∧ (∀ k n, s.seqLive cl = true → (s.seq cl).wait = .fwait k n → s.fwaitNow k n = some stOk → s.fetchWord cl = (some w, u) →
          on (.fwaitEnd cl) (u.reelCl cl 2 0x06 q.ctx k (u.sync (u.original k)).value (b2n (u.sync (u.original k)).error)))
      ∧ (Runs s cl 0x58 w u → Gives (.sbar cl) s (fun t => t.seq cl = { q with wait := .sbar, state := .waiting } ∧ OnlySeq u t cl))
      ∧ (∀ queue c, s.placement queue = [c] → (s.seq c).wait = .sbar → s.seqLive c = true → (s.seq c).ended = false → (s.seq c).drained = true →
          Gives (.sbarLeave queue) s (fun t => (t.seq c).wait = .none ∧ (t.seq c).state = .running
            ∧ (t.seq c).pc = ((s.seq c).event 6 1).fall.pc))

/-! ### Threads (02_thread_groups.md, 04_number_formats.md, 06_memory_ordering.md) -/

/-- Thread arithmetic, special registers and conversions (02 R56, R65; 04 R151): an instruction that issues gives each active lane its
result, leaves every other register, and the group goes to the next instruction. A NaN's payload, a shift by 32 or more and a transcendental
result are free values (log 13). -/
def Obligations.ThreadArithmetic : Prop :=
  ∀ (s : State) (i : Issue) (g : Group) (p : PathSt) (rd : Nat),
    (∀ (op : AluOp) (a b c : Src),
      let n := if aluWide op then 2 else 1
      rd + n ≤ 256 → Issues s i [(rd, n)] (srcRegs a n ++ srcRegs b n ++ srcRegs c n) g p →
        Gives (.threadAluInstruction i op rd a b c) s (fun t => t.free = s.free + 64 ∧ LaneResults s t i p (lanesOf p.mask) rd n (fun l =>
          aluResult op (Config.freeWord (s.free + l)) (srcValue a g l (aluWide op)) (srcValue b g l (aluWide op)) (srcValue c g l (aluWide op)))))
    ∧ (∀ (r : SpecialReg) (k : Kernel),
      let n := if spWide r then 2 else 1
      rd + n ≤ 256 → Issues s i [(rd, n)] [] g p → s.coreKernel i.core = some k →
        Gives (.specialRegRead i rd r) s (fun t => t.free = s.free ∧ LaneResults s t i p (lanesOf p.mask) rd n (fun l => s.special i.core k g l r)))
    ∧ (∀ (dst src rnd ra : Nat),
      let set := (s.core i.core).cur
      let conv (l : Nat) : Conv × Nat := convLane dst src (roundField rnd set.round) (decide (set.subn = 2)) ((g.lfsr.find l).getD (lfsrSeed set.seed l)) (g.reg l ra)
      slotWf i.core = true → rd < 256 → ra < 256 → dst ≤ 9 → src ≤ 9 → rnd ≤ 3 → Issues s i [(rd, 1)] [(ra, 1)] g p →
        Gives (.convert i dst src rnd rd ra) s (fun t => t.free = s.free
          ∧ LaneResults (s.setReg (mxR i.core 0x70) (t.reg (mxR i.core 0x70))) t i p (lanesOf p.mask) rd 1 (fun l => (conv l).1.code)
          ∧ t.reg (mxR i.core 0x70) = (s.reg (mxR i.core 0x70) ||| (b2n ((lanesOf p.mask).any (fun l => (conv l).1.flushed))
              + 2 * b2n ((lanesOf p.mask).any (fun l => (conv l).1.sat))))))

/-- Control of a group that runs one path (02 R66, R68 to R71, R75, R82): uniform branches move the path; a divergent one splits it into one
path for each target under a new reconvergence entry; a barrier waits for the other threads of the block; lanes that exit leave the
group; a trap is the exception TRAP. -/
def Obligations.ThreadControl : Prop :=
  ∀ (s : State) (i : Issue) (g : Group) (p : PathSt),
    let goesTo (c : Instr) (pc : Nat) : Prop := Gives c s (fun t => OnlyGroup s t i.core i.slot ∧ t.free = s.free
      ∧ ∃ h, t.group i.core i.slot = some h ∧ h.paths = [{ p with pc := pc }] ∧ h.regs = g.regs ∧ h.exited = g.exited)
    let splits (c : Instr) (recon : Nat) (parts : List (Nat × Nat)) : Prop := Gives c s (fun t => OnlyGroup s t i.core i.slot
      ∧ ∃ h, t.group i.core i.slot = some h ∧ h.paths = parts.map (fun x => { pc := x.1, mask := x.2, entry := some g.nextEntry }) ∧ h.regs = g.regs
        ∧ h.entries = [{ id := g.nextEntry, recon := recon, mask := p.mask, parent := p.entry, places := parts.length - 1 }])
    Single g p → Issues s i [] [] g p →
      (∀ recon target, goesTo (.branch i recon (.always target)) target)
      ∧ (∀ recon target (taken : W64),
          let m := taken.toNat &&& p.mask
          (m = 0 → goesTo (.branch i recon (.cond taken target)) i.next) ∧ (m ≠ 0 → m = p.mask → goesTo (.branch i recon (.cond taken target)) target)
          ∧ (m ≠ 0 → m ≠ p.mask → recon ≠ i.next → recon ≠ target →
              splits (.branch i recon (.cond taken target)) recon [(i.next, p.mask ^^^ m), (target, m)]))
      ∧ (∀ recon ra,
          let ts := (lanesOf p.mask).foldl (fun l x => addTarget l (g.reg64 x ra % 2 ^ 57) x) []
          Issues s i [] [(ra, 2)] g p → (∀ a m, ts = [(a, m)] → goesTo (.branch i recon (.indirect ra)) a)
            ∧ (2 ≤ ts.length → ts.length ≤ 33 → (∀ x ∈ ts, x.1 ≠ recon) → splits (.branch i recon (.indirect ra)) recon ts)
            ∧ (33 < ts.length → exec (.branch i recon (.indirect ra)) s = .next (s.exception i 3)))
      ∧ ((∃ e ∈ (s.core i.core).groups, e.2.block = g.block ∧ e.1 ≠ i.slot ∧ ∃ q ∈ e.2.paths, q.atBarrier = false) →
          Gives (.barrier i) s (fun t => OnlyGroup s t i.core i.slot ∧ ∃ h, t.group i.core i.slot = some h ∧ h.paths = [{ p with pc := i.next, atBarrier := true }]))
      ∧ ((s.core i.core).groups = [(i.slot, g)] → goesTo (.barrier i) i.next)
      ∧ (∀ lanes : W64,
          let out := lanes.toNat &&& p.mask
          let left := p.mask &&& (2 ^ 64 - 1 - out)
          Gives (.threadExit i lanes) s (fun t => t = { s with regs := t.regs, cores := t.cores }
            ∧ ∃ h, t.group i.core i.slot = some h ∧ h.exited = (g.exited ||| out) ∧ h.regs = g.regs
              ∧ h.paths = if left = 0 then [] else [{ p with pc := i.next, mask := left }]))
      ∧ exec (.trap i) s = .next (s.exception i 7)

/-- Fences (06 R225 to R227, R238): an acquire and a fence at CORE scope go on; a wider release or full fence closes the group's entries of the
store buffer, and waits while one of its stores has not drained; the wait ends when they have. -/
def Obligations.ThreadFences : Prop :=
  ∀ (s : State) (i : Issue) (g : Group) (p : PathSt),
    let goes (c : Instr) (u : State) (st : Stall) : Prop := Gives c s (fun t => OnlyGroup u t i.core i.slot
      ∧ ∃ h, t.group i.core i.slot = some h ∧ h.paths = [{ p with pc := i.next }] ∧ h.regs = g.regs ∧ h.stall = st)
    let u (full : Bool) (sc : Scope) : Prop :=
      let x := (s.retire i).closeGroup i.core i.slot
      goes (.fence i (if full then .full else .release) sc) (s.closeGroup i.core i.slot)
        (if x.releaseFree i.core i.slot (decide (sc = Scope.system)) then .none else .fence full (decide (sc = Scope.system)))
    (Single g p → Issues s i [] [] g p →
      (∀ sc, goes (.fence i .acquire sc) s .none) ∧ goes (.fence i .release .core) s .none ∧ goes (.fence i .full .core) s .none
      ∧ ∀ full sc, sc ≠ .core → u full sc)
    ∧ (∀ full system, s.group i.core i.slot = some g → g.stall = .fence full system → s.groupPending i.core i.slot = false →
        (system = true → s.cxlPending = []) →
        Gives (.releaseComplete i.core i.slot) s (fun t => t.group i.core i.slot = some { g with stall := .none } ∧ SameBytes s t))

/-- Loads and stores of threads that reach one lane (02 R56; 06 R216 to R222, R247, R252; 07 R267; 11 R437): a load gives the lane the bytes that its
address reads, the core's buffered stores over them; a store of normal memory enters the buffer, which then forwards it, and leaves memory as
it is; ZLINE does so with 128 zeros; a store to a register acts at once. -/
def Obligations.ThreadLoadStore : Prop :=
  ∀ (s u : State) (i : Issue) (g : Group) (p : PathSt) (k : Kernel) (l : LaneAt) (size rd ra rb : Nat) (off : Int) (h : Hint),
    let va (x : Nat) : Nat := ofSigned 57 ((g.reg64 x ra : Int) + off)
    let bs := leBytes size (g.regsVal l.lane rb (regsFor size))
    let gives (c : Instr) (x : State) (v : Nat) : Prop :=
      x.group i.core i.slot = some g → Gives c s (fun t => LaneResults x t i p [l.lane] rd (regsFor size) (fun _ => v))
    let buffers (c : Instr) (n : Nat) (v : Nat → Byte) : Prop := l.pa % 128 + n ≤ 128 → (u.core i.core).sb.length < 32 →
      (∀ e ∈ (u.core i.core).sb, (e.host, e.line) ≠ l.line) → g.stall ≠ .sbFull → u.group i.core i.slot = some g →
        Gives c s (fun t => (∀ j, j < n → t.fwd i.core l.x.host (l.pa + j) = some (v j)) ∧ SameBytes u t
          ∧ (t.core i.core).sb.length = (u.core i.core).sb.length + 1
          ∧ ∃ x, t.group i.core i.slot = some x ∧ x.regs = g.regs ∧ (Single g p → x.paths = [{ p with pc := i.next }]))
    let goesIn := u.laneKind i k l = .host ∨ (u.laneKind i k l = .mem ∧ l.x.strict = false)
    rd + regsFor size ≤ 256 → s.coreKernel i.core = some k →
    (Issues s i [(rd, regsFor size)] [(ra, 2)] g p → Translates s i k g p size accRead va u [l] → l.x.strict = false → h ≠ .last → ¬(h = .none ∧ l.x.hint = 3) →
      (∀ f, u.laneKind i k l = .reg f → gives (.load i size rd ra off none h) (u.regLoad f size).2 (u.regLoad f size).1)
      ∧ (∀ d, u.laneKind i k l = .host → u.hostRead l.pa size = some d → gives (.load i size rd ra off none h) u
          (u.laneBytes i.core l size { line := l.pa / 128, data := List.replicate (l.pa % 128) (0 : Byte) ++ d, poison := [], status := none }).1)
      ∧ (let m := u.readMem (teWho i k l) 0 l.pa size
         u.laneKind i k l = .own → m.poison = [] → gives (.load i size rd ra off none h) m.st
          (u.laneBytes i.core l size { line := l.pa / 128, data := List.replicate (l.pa % 128) (0 : Byte) ++ m.data, poison := [], status := none }).1)
      ∧ (let e := u.coreEvent i.core (if (u.core i.core).l1.contains (u.route (l.pa / 128 * 128) / 128) then 4 else 5) 1
         let m := e.readMem (teWho i k l) (if h = .none then l.x.hint else Hint.code h) (l.pa / 128 * 128) 128
         u.laneKind i k l = .mem → u.laneWaits i k false l = false → m.poison = [] → m.status = none → m.st.laneKind i k l = .mem →
           gives (.load i size rd ra off none h) m.st (m.st.laneBytes i.core l size { line := l.pa / 128, data := m.data, poison := [], status := none }).1))
    ∧ (Issues s i [] [(ra, 2), (rb, regsFor size)] g p → Translates s i k g p size accWrite va u [l] →
      (goesIn → buffers (.store i size ra rb off none h) size (fun j => bs.getD j 0))
      ∧ (∀ f t0, u.laneKind i k l = .reg f → u.sbStores i k [] = some t0 → t0.laneKind i k l = .reg f → g.stall ≠ .sbFull →
          exec (.store i size ra rb off none h) s = .next ((t0.regStore (.engine k.ctx) f size (leNat bs)).retire i)))
    ∧ (Issues s i [] [(ra, 2), (rb, regsFor size)] g p → Translates s i k g p size accWrite va u [l] → ∀ f t0, u.laneKind i k l = .reg f →
        u.sbStores i k [] = some t0 → t0.laneKind i k l = .reg f → g.stall ≠ .sbFull →
        exec (.deviceStrictStore i size ra rb off) s = .next ((t0.regStore (.engine k.ctx) f size (leNat bs)).retire i))
    ∧ (Issues s i [] [(ra, 2)] g p → Translates s i k g p 128 accWrite (fun x => ofSigned 57 ((g.reg64 x ra : Int) + 0)) u [l] → goesIn →
        buffers (.zline i ra h) 128 (fun _ => 0))

/-- Atomics of threads on one lane (02 R77 to R81; 08 R337), accesses at another core's window (06 R247, R250), and the enqueue of a thread
(05 R205, R206): an atomic writes what the operation gives and returns the old value; the window's owner performs the oldest access that
waits there; an enqueue gives its status to the lowest active lane. -/
def Obligations.ThreadAtomics : Prop :=
  ∀ (s u t0 : State) (i : Issue) (g : Group) (p : PathSt) (k : Kernel),
    (∀ (l : LaneAt) (op : AtomicOp) (wide : Bool) (sc : Scope) (acq : Bool) (rd ra rb rc : Nat),
      let size := if wide then 8 else 4
      let n := regsFor size
      let x := t0.coreEvent i.core 0x0F 1
      let w := teWho i k l
      let h := if l.x.hint = 3 then 0 else l.x.hint
      let m := x.readMem { w with core := none, cl := if sc = Scope.system then none else w.cl } h l.pa size
      let old := leNat m.data
      let new := atomicNew op wide (Config.freeWord (m.st.free + l.lane)) old (g.regsVal l.lane rb n) (g.regsVal l.lane rc n)
      let y := (({ m.st with free := m.st.free + 64 }).writeMem w h (if sc = Scope.system then .bank else .owner (slotCl i.core)) l.pa (leBytes size new) false).st.coreEvent i.core 0x10 1
      rd + n ≤ 256 → s.coreKernel i.core = some k → (wide && atomicFloat op) = false →
      Issues s i [(rd, n)] ([(ra, 2), (rb, n)] ++ (if op = .cas then [(rc, n)] else [])) g p →
      Translates s i k g p size accAtomic (fun q => g.reg64 q ra) u [l] → l.x.host = false → (u.laneKind i k l = .own ∨ u.laneKind i k l = .mem) →
      u.laneWaits i k false l = false → u.laneWaits i k true l = false → State.drainLines 33 u i.core [l.line] = some t0 →
      m.poison = [] → m.status = none → y.group i.core i.slot = some g →
        Gives (.atomic i op wide sc acq false rd ra rb rc) s (fun t => LaneResults y t i p [l.lane] rd n (fun _ => old)))
    ∧ (∀ core a rest, (s.core core).winQ = a :: rest → s.winHeld a = false → a.off + a.size ≤ s.lmemOf core →
        exec (.windowAccess core) s = .next (((s.modCore core (fun c => { c with winQ := rest })).winPerform core a).winDone a))
    ∧ (∀ rd ra rb l ls st, Issues s i [(rd, 1)] [(ra, 1), (rb, 2)] g p → s.coreKernel i.core = some k → (s.core i.core).cur.devEnq = true →
        lanesOf p.mask = l :: ls → rd < 256 → ((s.drainCore i.core).core i.core).sb = [] →
        let r := (s.drainCore i.core).enqueue (.te i.core i.slot) k.ctx (g.reg l ra % 4096) (g.reg64 l rb % 2 ^ 57) p.pc
        r.status = some st → r.st.group i.core i.slot = some g →
          Gives (.threadEnqueue i rd ra rb) s (fun t => LaneResults r.st t i p [l] rd 1 (fun _ => st)))

/-- Blocks and kernels (02 R49, R50, R60, R61, R63, R67, R86): a block starts on a core of the kernel's mask that has room for its groups; once
every thread has exited its slots are free; a kernel whose blocks have all started leaves a quiet core; the kernel completes when no core
holds it. -/
def Obligations.BlocksAndKernels : Prop :=
  (∀ (s : State) (kernel core : Nat) (k : Kernel),
    let c := s.core core
    let d := k.desc
    let slots := c.freeSlots d.width d.groups
    s.kernel kernel = some k → core ∈ k.cores → k.next < d.blocks → c.te = .idle ∨ c.te = .running → c.tearing = false →
    bit (s.reg (teR core 0x10)) 1 = false → s.frozen k.ctx = false → c.kernel = none ∨ c.kernel = some kernel → c.blocks.length < d.occ →
    slots.length = d.groups →
      Gives (.blockStart kernel core) s (fun t =>
        t.kernel kernel = some { k with next := k.next + 1, started := true, tFirst := if k.started then k.tFirst else s.now }
        ∧ (t.core core).te = .running ∧ (t.core core).kernel = some kernel
        ∧ (∃ l, (t.core core).blocks = l ++ [{ linear := k.next, slots := slots }])
        ∧ ∀ j x, slots[j]? = some x → t.group core x = some { block := k.next, index := j, width := widthOf d.width, lanes := d.laneMask j, paths := [{ pc := d.code, mask := d.laneMask j }] }))
  ∧ (∀ (s : State) (core linear : Nat) (b : Block), (s.core core).blocks.find? (fun b => b.linear = linear) = some b →
      (∀ x ∈ b.slots, ∀ g, s.group core x = some g → g.paths = []) →
      Gives (.blockExit core linear) s (fun t => (t.core core).blocks = (s.core core).blocks.filter (fun x => x.linear ≠ linear)
        ∧ (∀ x ∈ b.slots, t.group core x = none) ∧ (∀ x, x ∉ b.slots → t.group core x = s.group core x)
        ∧ ((t.core core).blocks = [] → (t.core core).te = if bit (s.reg (teR core 0x10)) 0 then .idle else .off)
        ∧ ((t.core core).blocks ≠ [] → (t.core core).te = (s.core core).te)))
  ∧ (∀ (s : State) (core kid : Nat) (k : Kernel), (s.core core).kernel = some kid → s.kernel kid = some k → k.next = k.desc.blocks →
      s.coreQuiet core = true →
      Gives (.kernelCompleteCore core) s (fun t => (t.core core).kernel = none ∧ (t.core core).ctx = none
        ∧ ∃ x, t.kernel kid = some x ∧ core ∈ x.coresDone))
  ∧ (∀ (s : State) (kernel : Nat) (k : Kernel), s.kernel kernel = some k → k.next = k.desc.blocks → k.slots = [] → k.cores ≠ [] →
      (∀ e ∈ s.cores, e.2.kernel ≠ some kernel) →
      Gives (.kernelComplete kernel) s (fun t => t.kernel kernel = none ∧ kernel ∉ (t.seq k.cl).inFlight))

/-- Enabling, draining and clearing engines (02 R86 to R88; 03 R130; 05 R210, R211; 10_update_units.md R413): a privileged write of ENABLE or
DRAIN holds the bit and moves the engine as its states say; a clear ends in IDLE, or OFF where ENABLE is clear. -/
def Obligations.EngineControl : Prop :=
  ∀ (s : State) (p : Path) (on : Bool) (n : Nat),
    (Privileged s p (teR n 0x10) → Gives (.teDrainWrite p n on) s (fun t => t = { s with regs := t.regs, cores := t.cores }
        ∧ (∀ o, o ≠ teR n 0x10 → t.reg o = s.reg o) ∧ t.rf (teR n 0x10) 1 1 = b2n on ∧ (∀ c, c ≠ n → t.core c = s.core c)
        ∧ t.core n = { s.core n with te := if on ∧ (s.core n).te = .running then .draining else if ¬on ∧ (s.core n).te = .draining then .running else (s.core n).te }))
    ∧ (Privileged s p (teR n 0x10) → Gives (.teEnableWrite p n on) s (fun t => t.rf (teR n 0x10) 0 0 = b2n on ∧ (∀ c, c ≠ n → t.core c = s.core c)
        ∧ (on = true → (s.core n).te = .off → s.ng.retired.getD n false = false → (t.core n).te = .clearing)
        ∧ (on = true → (s.core n).te ≠ .off ∨ s.ng.retired.getD n false = true → t.core n = s.core n)
        ∧ (on = false → (s.core n).te = .idle → t.core n = { s.core n with te := .off }) ∧ (on = false → (s.core n).te ≠ .idle → t.core n = s.core n)))
    ∧ (Privileged s p (mxR n 0x10) → Gives (.mxEnableWrite p n on) s (fun t => t.rf (mxR n 0x10) 0 0 = b2n on ∧ (∀ c, c ≠ n → t.core c = s.core c)
        ∧ (on = true → (s.mx n).state = .off → (t.mx n).state = .clearing ∧ (t.mx n).queue = [] ∧ t.reg (mxR n 0x50) = 0 ∧ t.reg (mxR n 0x58) = 0 ∧ t.reg (mxR n 0x60) = 0)
        ∧ (on = false → (s.mx n).state = .idle → t.mx n = { s.mx n with state := .off })
        ∧ (¬(on = true ∧ (s.mx n).state = .off) → ¬(on = false ∧ (s.mx n).state = .idle) → t.mx n = s.mx n)))
    ∧ (Privileged s p (sqR n 0x10) → Gives (.sqEnableWrite p n on) s (fun t => t = { s with regs := t.regs, seqs := t.seqs }
        ∧ t.rf (sqR n 0x10) 0 0 = b2n on ∧ (∀ c, c ≠ n → t.seq c = s.seq c)
        ∧ t.seq n = { s.seq n with state := if on = true ∧ (s.seq n).state = .off then .idle
            else if on = false ∧ (s.seq n).state = .idle ∧ (s.seq n).queue = none then .off else (s.seq n).state }))
    ∧ Gives (.coreClearDone n) s (fun t => t = { s with cores := t.cores } ∧ (∀ c, c ≠ n → t.core c = s.core c)
        ∧ ((s.core n).te = .clearing → (t.core n).te = if bit (s.reg (teR n 0x10)) 0 then .idle else .off)
        ∧ ((s.core n).te ≠ .clearing → (t.core n).te = (s.core n).te)
        ∧ ((s.mx n).state = .clearing → (t.mx n).state = if (s.mx n).queue ≠ [] then .busy else if bit (s.reg (mxR n 0x10)) 0 then .idle else .off)
        ∧ ((s.mx n).state ≠ .clearing → (t.mx n).state = (s.mx n).state))

/-! ### Matrix engine and densitometer (03_matrix_units.md, 04_number_formats.md) -/

/-- Matrix commands enter the engine's queue (03 R93 to R95, R98; 05 R198, R199): a group's command enters its core's queue, a sequencer's the
queue of every core that its mask names, with the operands that its word names; the issuer goes on. -/
def Obligations.MatrixIssue : Prop :=
  (∀ (s : State) (i : Issue) (word : W64) (g : Group) (p : PathSt) (k : Kernel),
    let w := word.toNat
    let c := mxOfGroup k i g p w
    let spread (x : List (Nat × Nat)) : List (Nat × Nat) := x.map (fun y => (y.1 * 32, y.2 * 32))
    let m := s.mx i.core
    let u := s.modMx i.core (fun m => { m with queue := m.queue ++ [{ c with id := m.nextId }], nextId := m.nextId + 1, state := if m.state = .idle then .busy else m.state })
    let enters (x : Instr) (op : Nat) : Prop := mwOp w = op → Gives x s (fun t => LaneResults u t i p [] 0 0 (fun _ => 0)
      ∧ (t.mx i.core).queue = m.queue ++ [{ c with id := m.nextId }] ∧ (t.mx i.core).nextId = m.nextId + 1)
    s.coreKernel i.core = some k → k.desc.mxUse = true → Issues s i [] (mxRegs w (g.reg64 (lowLane p.mask) (mwD w))) g p →
    s.scoreboard i (spread (c.tiles g.width).2) (spread (c.tiles g.width).1) g = false → s.mxOn i.core = true → m.waiting < 16 →
      enters (.mload (.group i word)) 0xE1 ∧ enters (.mswap (.group i word)) 0xE2 ∧ enters (.mstream (.group i word)) 0xE3
      ∧ enters (.mtile (.group i word)) 0xE4 ∧ enters (.mdrain (.group i word)) 0xE5)
  ∧ (∀ (s u : State) (cl w : Nat),
    let q := u.seq cl
    let on := (u.mxTargets cl q.mxMask).filter (fun x => u.mxOn x.2)
    let enters (x : Instr) (op : Nat) : Prop := Runs s cl op w u → Gives x s (fun t => (t.seq cl).pc = q.fall.pc ∧ (t.seq cl).wait = .none ∧ (t.seq cl).s = q.s
      ∧ ∀ e ∈ on, ∃ m, m = (u.mxPass e.2 q.ctx).mx e.2 ∧ (t.mx e.2).queue = m.queue ++ [{ mxOfSeq q e.1 w with id := m.nextId }])
    mwUnused w = true → (on.map (·.2)).Nodup → (∀ e ∈ on, (u.mx e.2).waiting < 16) →
      enters (.mload (.seq cl)) 0xE1 ∧ enters (.mswap (.seq cl)) 0xE2 ∧ enters (.mstream (.seq cl)) 0xE3
      ∧ enters (.mtile (.seq cl)) 0xE4 ∧ enters (.mdrain (.seq cl)) 0xE5)

/-- MWAIT (03 R105; 04 R160; 05 R199): the issuer goes on when at most n of its commands are incomplete, and waits otherwise; the wait ends when
that holds. -/
def Obligations.MatrixWaits : Prop :=
  (∀ (s : State) (i : Issue) (word : W64) (g : Group) (p : PathSt) (k : Kernel), s.issuing i = some (g, p) → s.coreKernel i.core = some k →
    k.desc.mxUse = true → mwOp word.toNat = 0xE6 → mwUnused word.toNat = true → bits word.toNat 23 4 = 0 →
      Gives (.mwait (.group i word)) s (fun t => OnlyGroup s t i.core i.slot ∧ ∃ h, t.group i.core i.slot = some h ∧ h.regs = g.regs
        ∧ h.stall = (if (s.mx i.core).outstanding i.slot ≤ mwImm word.toNat then .none else .mwait (mwImm word.toNat))
        ∧ (Single g p → h.paths = [{ p with pc := i.next }])))
  ∧ (∀ (s u : State) (cl w : Nat), Runs s cl 0xE6 w u → mwUnused w = true → bits w 23 4 = 0 →
      ((u.seq cl).mwaitMet (mwImm w) = true → Gives (.mwait (.seq cl)) s (fun t => OnlySeq u t cl ∧ (t.seq cl).pc = (u.seq cl).fall.pc ∧ (t.seq cl).wait = .none))
      ∧ ((u.seq cl).mwaitMet (mwImm w) = false → Gives (.mwait (.seq cl)) s (fun t => OnlySeq u t cl
          ∧ t.seq cl = { u.seq cl with wait := .mwait (mwImm w), state := .waiting })))
  ∧ (∀ (s : State) (core slot n : Nat) (g : Group), s.group core slot = some g → g.stall = .mwait n → s.frozen ((s.core core).ctx.getD 1024) = false →
      (s.mx core).outstanding slot ≤ n →
      Gives (.mwaitReturn (.group core slot)) s (fun t => OnlyGroup s t core slot ∧ t.group core slot = some { g with stall := .none }))
  ∧ (∀ (s : State) (cl n : Nat), (s.seq cl).wait = .mwait n → s.seqLive cl = true → (s.seq cl).mwaitMet n = true →
      Gives (.mwaitReturn (.seq cl)) s (fun t => OnlySeq s t cl ∧ (t.seq cl).pc = (s.seq cl).fall.pc ∧ (t.seq cl).wait = .none))

/-- Commands of a matrix engine run (03 R94, R101, R102, R106, R108, R124): the first command that has not started starts, or is a matrix fault;
the oldest command, once started, has its effect and leaves the queue; an idle array turns its column groups off one by one. -/
def Obligations.MatrixCommands : Prop :=
  ∀ (s : State) (core : Nat),
    (∀ m, (s.mx core).queue.find? (fun c => !c.started) = some m → (s.mx core).state = .busy → s.frozen m.ctx = false → s.agentBusy (.mx core) = false →
      mxMayStart ((s.mx core).queue.takeWhile (fun c => c.started)) m = true → m.fromSeq = true ∨ s.groupPending core m.slot = false →
        (∀ c, s.mxBad core m = some c → exec (.mxCommandStart core) s = .next (s.mxFault core m c))
        ∧ (s.mxBad core m = none → mwOp m.word = 0xE4 → exec (.mxCommandStart core) s = .next (s.mtileBegin core m))
        ∧ (s.mxBad core m = none → mwOp m.word ≠ 0xE4 → exec (.mxCommandStart core) s = .next (s.mxBegin core m (tileDescOf []) []))
        ∧ (s.mxBad core m = none → mwOp m.word = 0xE2 → Gives (.mxCommandStart core) s (fun t => (∀ c, c ≠ core → t.core c = s.core c)
            ∧ (t.mx core).queue.length = (s.mx core).queue.length ∧ ∀ c ∈ (t.mx core).queue, c.id = m.id → c.started = true)))
    ∧ (∀ m rest tm, (s.mx core).queue = m :: rest → m.started = true → (s.mx core).state = .busy → s.frozen m.ctx = false →
        (let r := s.mxRun core m
         r.wait = false → Gives (.mxCommandComplete core tm) s (fun t => (t.mx core).queue = (r.st.mx core).queue.filter (fun c => c.id ≠ m.id)
           ∧ (t.mx core).active = (r.st.mx core).active ∧ (t.mx core).shadow = (r.st.mx core).shadow ∧ (t.mx core).drain = (r.st.mx core).drain))
        ∧ (mwOp m.word = 0xE2 → Gives (.mxCommandComplete core tm) s (fun t => (t.mx core).active = (s.mx core).shadow ∧ (t.mx core).shadow = (s.mx core).active
            ∧ (t.mx core).activeValid = (s.mx core).shadowValid ∧ (t.mx core).shadowValid = false ∧ SameBytes s t)))
    ∧ ((∀ x ∈ (s.mx core).queue, x.started = false) → (s.core core).kernel = none ∨ (s.core core).cur.fv40 = false →
        Gives (.arrayRampDown core) s (fun t => t = { s with cores := t.cores } ∧ (∀ c, c ≠ core → t.core c = s.core c)
          ∧ t.mx core = { s.mx core with groupsOn := (s.mx core).groupsOn - 1 }))

/-- Densitometer records and scale slots (04 R158, R160, R171, R172): a kernel's and a sequencer's records close; a slot command writes the
slot's entry as its action says and answers OK. -/
def Obligations.DensitometerSlots : Prop :=
  (∀ (s : State) (kernel : Nat) (k : Kernel), s.kernel kernel = some k → k.started = true → k.next = k.desc.gx * k.desc.gy * k.desc.gz →
    (∀ c ∈ k.cores, (s.core c).kernel ≠ some kernel) → Gives (.densRecordClose kernel) s (fun t => t.kernel kernel = some { k with slots := [] }))
  ∧ (∀ (s : State) (cl : Nat), ((s.seq cl).wait = .mwait 0 ∨ (s.seq cl).ended = true) → (s.seq cl).mxOut = [] →
      Gives (.seqRecordClose cl) s (fun t => (t.seq cl).densDone = true))
  ∧ (∀ (s : State) (p : Path) (v : W64),
      let w := v.toNat
      let part := bits w 50 48
      let slot := bits w 41 32
      let x := s.slotEntry part slot
      let e := x.1
      let writes (c : Instr) (f : List Byte) : Prop := exec c s = .next ((x.2.ownWrite (x.2.slotAddr part slot) f).odReply p stOk)
      TakesItem s p 0x4248 1 → bits w 55 51 = 0 → bits w 47 42 = 0 → bits w 31 24 = 0 → (s.part part).st ≠ .absent →
        writes (.setScale p v) (putNat (putNat e 0 2 (bits w 15 0)) 2 1 0)
        ∧ writes (.hold p v) (slotBit e 31 1)
        ∧ writes (.slotRelease p v) (putNat (slotBit (slotBit e 31 0) 30 0) 2 1 0)
        ∧ (-120 ≤ toSigned 8 (bits w 23 16) → toSigned 8 (bits w 23 16) ≤ 120 → writes (.setCentre p v) (slotBit (putNat e 4 1 (bits w 23 16)) 29 1))
        ∧ writes (.clearCentre p v) (slotBit e 29 0)
        ∧ writes (.slotReset p v) (leBytes 2 0x3F80 ++ List.replicate 14 0))

/-- The start, the parking, the resumption and the end of a step on its sequencers (05 R178, R181, R207; 13 R512 to R514): a start loads s0 to s3
and the stream's address; a sequencer that parks writes its image and is PARKED; one that resumes has the image's state; at the end every
sequencer leaves the step, and the entry waits for completion with the step's status. -/
def Obligations.SequencerSteps : Prop :=
  ∀ (s : State) (cl k : Nat) (r : StepRec),
    let q := s.seq cl
    (q.queue = some k → s.seqStep cl = some r → s.stepOf k = some r → r.st = .running ∨ r.st = .yielding → s.frozen r.ctx = false → r.slot = none →
      q.state = .idle ∨ q.state = .parked → cl ∉ r.awake →
      Gives (.stepStart cl) s (fun t => (t.seq cl).state = .running ∧ (t.seq cl).pc = r.stream ∧ (t.seq cl).wait = .none ∧ (t.seq cl).loops = []
        ∧ (t.seq cl).sreg 0 = q.rank % 2 ^ 64 ∧ (t.seq cl).sreg 1 = (q.placed + 1) % 2 ^ 64 ∧ (t.seq cl).sreg 2 = q.stepVa % 2 ^ 64
        ∧ (t.seq cl).sreg 3 = r.arg % 2 ^ 64 ∧ (∀ n, 4 ≤ n → (t.seq cl).sreg n = 0) ∧ (∀ n, (t.seq cl).ctr n = 0)
        ∧ (∀ c, c ≠ cl → t.seq c = s.seq c) ∧ t.stepOf k = some { r with awake := r.awake ++ [cl], lastProgress := s.now } ∧ SameBytes s t))
    ∧ (∀ sl, q.queue = some k → s.seqStep cl = some r → r.slot = some sl → r.st = .yielding → s.frozen r.ctx = false → s.mayPark cl r = true →
        let recs := (q.inFlight.filterMap (fun x => s.kernel x)).flatMap drainRecord
        let a := s.ownWrite (s.parkAddr r.part sl q.rank) (q.image ++ recs ++ List.replicate (256 - recs.length) 0)
        let b := (a.each q.inFlight (fun t x => t.liftKernel x)).each q.densCores (fun t c => t.densFlush c)
        let c := b.modSeq cl (fun q => { q with state := .parked, wait := .none, yield := false, inFlight := [], densCores := [], densSlots := [] })
        let u := c.modStep k (fun r => { r with parkSrc := r.parkSrc.put q.rank q.csrc, parkDens := r.parkDens.put q.rank (b.seq cl).densSlots })
        (u.seq cl).state = .parked ∧ (u.seq cl).inFlight = [] ∧ (u.seq cl).yield = false
        ∧ ∀ x, u.stepOf k = some x → exec (.seqPark cl) s = .next (if x.cls.all (fun c => (u.seq c).state = .parked) then u.stepParked k x else u))
    ∧ (∀ sl, q.queue = some k → s.seqStep cl = some r → r.slot = some sl → r.st = .running ∨ r.st = .yielding → s.frozen r.ctx = false →
        q.state = .idle ∨ q.state = .parked → cl ∉ r.awake → s.launchHeld q.part = false →
        let y := s.ownRead (s.parkAddr r.part sl q.rank) 0x300
        y.2.1 = none → (∀ i, i < 8 → bit (sliceNat (slice y.1 (0x200 + 32 * i) 32) 0 8) 63 = false) →
          Gives (.seqResume cl) s (fun t => t.seq cl = seqOfImage q y.1 (r.parkSrc.getD q.rank []) (r.parkDens.getD q.rank [])
            ∧ (t.seq cl).pc = sliceNat y.1 0x1A0 8 ∧ (t.seq cl).state = .running ∧ ∀ c, c ≠ cl → t.seq c = y.2.2.seq c))
    ∧ (s.stepOf k = some r → r.st = .running ∨ r.st = .yielding → r.cls ≠ [] → (∀ c ∈ r.cls, s.partOver r c = true) →
        Gives (.stepEnd k) s (fun t => (∀ c ∈ r.cls, (t.seq c).queue = none ∧ ((t.seq c).state = .idle ∨ (t.seq c).state = .off))
          ∧ ∀ h, (s.queue k).held = some h → (∀ c, h.phase ≠ .done c) → ∃ x, (t.queue k).held = some x ∧ x.phase = .done r.status))

/-! ### Store buffers, caches and the Tank (06_memory_ordering.md, 07_caches_and_tank.md) -/

/-- Store buffers (06 R219 to R221, R237, R258): a drain performs one entry: one of host memory writes exactly the bytes that it holds; one that
is blocked stays; at the drain limit of a teardown what is left is discarded and the core is cleared.
Cluster caches (07 R265, R274 to R277, R292): a hit of a whole line changes nothing, a miss fetches the line; an eviction leaves the line in
the cache no more; a way is switched on at once and off after its clean. -/
def Obligations.StoreBuffersAndCaches : Prop :=
  (∀ (s : State) (core idx : Nat),
      (s.drainSb core idx = none → exec (.storeBufferDrain core idx) s = .next s)
      ∧ (∀ t, s.drainSb core idx = some t → exec (.storeBufferDrain core idx) s = .next (t.tearDone core))
      ∧ (∀ e, (s.core core).sb[idx]? = some e → e.host = true → (s.core core).tearing = false → e.bytes.Pairwise (fun a b => a.1 < b.1) →
          Gives (.storeBufferDrain core idx) s (fun t => (t.core core).sb = (s.core core).sb.eraseIdx idx
            ∧ (∀ b v, (b, some v) ∈ e.bytes → Memory.hostByte t (e.line * 128 + b) = v)
            ∧ (∀ a, (∀ b v, (b, some v) ∈ e.bytes → a ≠ e.line * 128 + b) → Memory.hostByte t a = Memory.hostByte s a)
            ∧ ∀ a, Memory.byte t a = Memory.byte s a))
      ∧ ((s.core core).tearing = true → Gives (.teardownDrainLimit core) s (fun t => (t.core core).te = .clearing ∧ (t.core core).sb = []
          ∧ (t.core core).tearing = false ∧ ∀ c, c ≠ core → t.core c = s.core c)))
  ∧ (∀ (s : State) (cl line way : Nat) (p : Path) (h : Hint),
      let w : Who := { part := s.clPart cl, cl := some cl }
      (∀ l, s.ccFind cl (line * 128) = some l → l.valid = 15 → exec (.cacheFill cl line h none) s = .next s)
      ∧ (s.ccFind cl (line * 128) = none → s.lineServe w false (line * 128) = .ok → h ≠ .last → (∀ a b, s.decode (line * 128) ≠ .window a b) →
          exec (.cacheFill cl line h none) s = .next (s.lineRead w (Hint.code h) (line * 128)))
      ∧ (∀ t e, exec (.cacheFill cl line h none) s = .next t → exec (.cacheFill cl line h (some e)) s = .next (t.ccError cl e))
      ∧ Gives (.ccEviction cl line) s (fun t => t.ccFind cl (line * 128) = none)
      ∧ (Privileged s p (ccR cl 0x10) → 2 ≤ way → way ≤ 15 →
          (bit (s.reg (ccR cl 0x10)) way = true → bit (s.reg (ccR cl 0x14)) way = true →
            Gives (.ccWayPowerDown p cl way) s (fun t => t.rf (ccR cl 0x10) way way = 0 ∧ t.rf (ccR cl 0x14) (16 + way) (16 + way) = 1 ∧ t.rf (ccR cl 0x14) way way = 1
              ∧ t = { s with regs := t.regs }))
          ∧ (bit (s.reg (ccR cl 0x10)) way = false →
            Gives (.ccWayPowerUp p cl way) s (fun t => t.rf (ccR cl 0x10) way way = 1 ∧ t.rf (ccR cl 0x14) (16 + way) (16 + way) = 0 ∧ t.rf (ccR cl 0x14) way way = 1
              ∧ t = { s with regs := t.regs })))
      ∧ (2 ≤ way → way ≤ 15 → bit (s.reg (ccR cl 0x14)) (16 + way) = true →
          Gives (.ccWayCleanDone cl way) s (fun t => t.rf (ccR cl 0x14) way way = 0 ∧ t.rf (ccR cl 0x14) (16 + way) (16 + way) = 0)))

/-- The Tank (07 R285, R294 to R296; 15_negatives_and_repair.md R599): a sweep of KEEP marks begins on both dies and ends; a bank that is retired
moves to the lowest free spare, or is degraded where none is free; the spare carries the bank when the move is done; a scrub meets its
errors one after another. -/
def Obligations.TankCommands : Prop :=
  ∀ (s : State) (p : Path) (die : Nat) (v : W32),
    (Privileged s p (tkR die 0x2C) → v.toNat % 256 ≠ 0 → Gives (.tkKeepclr p die v) s (fun t =>
      (t.die 0).keepParts = (s.die 0).keepParts ||| v.toNat % 256 ∧ (t.die 1).keepParts = (s.die 1).keepParts ||| v.toNat % 256
      ∧ t.rf (tkR 0 0x20) 1 1 = 1 ∧ t.rf (tkR 1 0x20) 1 1 = 1))
    ∧ Gives (.keepSweepDone die) s (fun t => (t.die die).keepParts = 0 ∧ t.rf (tkR die 0x20) 1 1 = 0
        ∧ ∀ a l, l ∈ (t.die die).tank.getD a [] → l.keep = true → ∀ q b, s.wayOwner l.way = some (q, b) → q ∉ bitList 8 (s.die die).keepParts)
    ∧ (Privileged s p (tkR die 0x30) → bit v.toNat 31 = true →
        (∀ m, (s.die die).move = some m → exec (.tkRetire p die v) s = .next s)
        ∧ (∀ n, (s.die die).move = none → s.freeSpare die = some n → Gives (.tkRetire p die v) s (fun t =>
            (t.die die).move = some { bank := bits v.toNat 8 0, spare := n } ∧ t.rf (tkR die 0x20) 0 0 = 1))
        ∧ ((s.die die).move = none → s.freeSpare die = none → exec (.tkRetire p die v) s = .next (s.bankDegrade die (bits v.toNat 8 0))))
    ∧ (∀ m, die < 2 → m.spare < 16 → m.bank < 512 → (s.die die).move = some m → Gives (.bankMoveDone die) s (fun t => (t.die die).move = none
        ∧ (t.die die).spares.getD m.spare 0 = m.bank + 1 ∧ m.bank ∉ (t.die die).degraded ∧ t.reg (tkR die (0x100 + 4 * m.spare)) = 2 ^ 31 + m.bank))
    ∧ (∀ bank errs, exec (.tankScrubPass die bank errs) s = .next (s.each errs (fun t e => t.tkError die e)))

/-! ### External memory (08_external_memory.md) -/

/-- Unit commands of the dictionary (08 R307, R318 to R321, R346, R347): each acts only on a unit in the state that it needs and answers OK, or waits
for its end, and is answered BAD_DESC otherwise, which changes no unit. -/
def Obligations.UnitCommands : Prop :=
  ∀ (s : State) (p : Path) (v : W32),
    let u := cmdUnit v.toNat
    let m := s.unit u
    let done (c : Instr) (x : State) : Prop := exec c s = .next ((x.odSet 0x3400 2 stOk).odReply p stOk)
    let waits (c : Instr) (x : State) : Prop := exec c s = .next (x.odHold p)
    let bad (c : Instr) : Prop := exec c s = .next (((s.odSet 0x3400 2 stBadDesc).odBump 0x6200 1 1).odReply p stBadDesc)
    let moves := s.ext.moves.any (fun e => e.2.st ≠ 0 && (s.inUnit u e.2.src || s.inUnit u e.2.dst))
    TakesItem s p 0x3400 1 →
      (unitCmdOk v.toNat = true →
        (m.st = .inService → done (.drain p v) (s.modUnit u (fun m => { m with st := .draining })))
        ∧ (m.st ≠ .inService → bad (.drain p v))
        ∧ (m.st = .draining → m.quiescing = false → done (.undrain p v) (s.modUnit u (fun m => { m with st := .inService })))
        ∧ (m.st ≠ .draining → bad (.undrain p v))
        ∧ (m.st = .draining → m.quiescing = false → moves = false → s.keepsStructures u = false →
            waits (.quiesce p v) (s.modUnit u (fun m => { m with quiescing := true, asked := some p })))
        ∧ (m.st ≠ .draining ∨ moves = true ∨ s.keepsStructures u = true → bad (.quiesce p v))
        ∧ (m.st = .quiesced → m.returning = false → bits v.toNat 15 12 ≤ 2 → bits v.toNat 11 8 ≤ 4 → done (.test p v) (s.tgStart u 1))
        ∧ (m.st ≠ .quiesced ∨ 2 < bits v.toNat 15 12 ∨ 4 < bits v.toNat 11 8 → bad (.test p v))
        ∧ (m.st = .quiesced → m.cause ≠ 4 → m.returning = false →
            waits (.returnUnit p v) (s.modUnit u (fun m => { m with returning := true, asked := some p, power := true })))
        ∧ (m.st ≠ .quiesced ∨ m.cause = 4 → bad (.returnUnit p v))
        ∧ (u.kind = 1 → m.st = .quiesced ∨ m.st = .failed ∨ m.st = .absent → m.returning = false → done (.retrain p v) (s.trainStart u false))
        ∧ (u.kind = 2 → m.st = .quiesced ∨ m.st = .failed ∨ m.st = .absent → m.returning = false →
            done (.retrain p v) ((s.trainStart u false).bump (xlR u.num 0x50) 1))
        ∧ (u.kind = 0 → bad (.retrain p v)))
      ∧ (bits v.toNat 23 20 = 3 → bits v.toNat 19 16 = 0 →
          let pc := bits v.toNat 7 0
          let st := (s.unit ⟨0, pc / 8⟩).st
          (s.ext.spared.getD pc false = true → done (.sparePc p v) s)
          ∧ (s.ext.spared.getD pc false = false → (∀ e ∈ s.ext.sparing, e.1 ≠ pc) → st = .inService ∨ st = .draining → s.sparedIn (pc / 32) < 2 →
              waits (.sparePc p v) { s with ext := { s.ext with sparing := s.ext.sparing ++ [(pc, p)] } })
          ∧ (s.ext.spared.getD pc false = false → (∀ e ∈ s.ext.sparing, e.1 ≠ pc) → 2 ≤ s.sparedIn (pc / 32) → bad (.sparePc p v)))

/-- What happens to units of service (08 R307, R320 to R322, R324, R325, R346, R347): quiescing, testing, returning, training and failing move the unit
as its states say; a unit that returns after a test or a training holds zeros and nothing else of memory changes. -/
def Obligations.UnitEvents : Prop :=
  ∀ (s : State) (u : UnitId),
    let m := s.unit u
    let goes (c : Instr) (P : State → MemUnit → Prop) : Prop := Gives c s (fun t => P t (t.unit u))
    (m.quiescing = true → goes (.unitQuiesced u) (fun _ x => x.st = .quiesced ∧ x.changed = false ∧ x.asked = none))
    ∧ (∀ failing first, m.st = .testing → goes (.testPassEnd u failing first) (fun t x =>
        t.rf (unitReg u 0x88) 31 16 = Nat.min (s.rf (unitReg u 0x88) 31 16 + 1) 0xFFFF
        ∧ (m.passes ≠ 0 → m.passes ≤ s.rf (unitReg u 0x88) 31 16 + 1 → x.st = .quiesced)
        ∧ (m.passes = 0 ∨ s.rf (unitReg u 0x88) 31 16 + 1 < m.passes → x.st = .testing) ∧ (failing ≠ 0 → x.cause = 4)))
    ∧ (m.returning = true → m.st = .quiesced → goes (.unitReturned u) (fun t x => x.st = .inService ∧ x.returning = false ∧ x.changed = false ∧ x.asked = none
        ∧ ∀ a, Memory.byte t a = if m.changed = true ∧ s.inUnit u a = true then 0 else Memory.byte s a))
    ∧ (unitExists u = true → m.st = .training →
        (∀ r, exec (.unitTrainingEnd u r) s = .next (s.trainEnd u r))
        ∧ (∀ b r w g ver vd dv, u.kind ≠ 1 → goes (.unitTrainingEnd u (.ok b r w g ver vd dv)) (fun _ x =>
            x.st = (if m.toService then .inService else .quiesced) ∧ x.cause = 0 ∧ x.width = w ∧ x.gen = g ∧ x.bytes = if u.kind = 0 then hbmSetBytes else b))
        ∧ goes (.unitTrainingEnd u .absent) (fun _ x => x.st = .absent ∧ x.power = false)
        ∧ goes (.unitTrainingEnd u .failTraining) (fun _ x => x.st = .failed ∧ x.cause = 1)
        ∧ goes (.unitTrainingEnd u .failUnsupported) (fun _ x => x.st = .failed ∧ x.cause = 2)
        ∧ goes (.unitTrainingEnd u .failMixed) (fun _ x => x.st = .failed ∧ x.cause = 3)
        ∧ goes (.unitTrainingEnd u .failNotReady) (fun _ x => x.st = .failed ∧ x.cause = 7))
    ∧ (∀ part, unitExists u = true → m.st = .inService ∨ m.st = .draining →
        goes (.unitFailed u part) (fun _ x => x.st = .failed ∧ x.cause = 5 ∧ x.power = false ∧ x.linkUp = false))
    ∧ (∀ e pc, s.ext.sparing.find? (fun e => e.1 = pc) = some e → Gives (.sparePcDone pc) s (fun t => t.ext.spared.getD pc false = true
        ∧ (∀ x ∈ t.ext.sparing, x.1 ≠ pc) ∧ t.odGet 0x3400 2 = stOk))
    ∧ (∀ hbm ddr ms, s.mayTrain = true → ∃ x : State, exec (.memoryTrainingEnd hbm ddr ms) s = .next x.bootGo ∧ x.mg.trainDone = true ∧ x.odGet 0x9000 6 = ms % 2 ^ 64)

/-- DDR sockets and CXL ports (08 R311, R314 to R316, R322, R323): a latch that opens takes the channel out of service; one that closes over a DIMM
starts training 2 s later; a sensor sets refresh and bandwidth; a CXL link that is lost retrains, and fails for good the third time. -/
def Obligations.SocketsAndPorts : Prop :=
  ∀ (s : State) (n : Nat),
    let d := s.unit ⟨1, n⟩
    let x := s.unit ⟨2, n⟩
    let ddr (c : Instr) (P : MemUnit → Prop) : Prop := Gives c s (fun t => P (t.unit ⟨1, n⟩))
    let cxl (c : Instr) (P : MemUnit → Prop) : Prop := Gives c s (fun t => P (t.unit ⟨2, n⟩))
    let served (m : MemUnit) : Prop := m.st = .inService ∨ m.st = .draining
    (served d ∨ d.st = .testing → ddr (.dimmLatch n) (fun m => m.st = .failed ∧ m.cause = 6 ∧ m.latchOpen = true))
    ∧ (d.st = .quiesced ∨ d.st = .failed → ddr (.dimmLatch n) (fun m => m.st = .absent ∧ m.power = false ∧ m.latchOpen = true))
    ∧ (d.st = .absent ∨ d.st = .training → ddr (.dimmLatch n) (fun m => m = { d with latchOpen := true, tArm := none }))
    ∧ (∀ fitted, ddr (.dimmLatchClose n fitted) (fun m => m = { d with latchOpen := false, fitted := fitted, tArm := if (d.st = .absent ∧ fitted = true) ∨ (d.st = .failed ∧ d.cause = 6) then some s.now else none }))
    ∧ (∀ t0, d.tArm = some t0 → t0 + 200000000 ≤ s.now → d.latchOpen = false →
        ddr (.dimmTrainingStart n) (fun m => m.st = .training ∧ m.toService = false ∧ m.power = true ∧ m.tArm = none))
    ∧ (∀ t0, d.tArm = some t0 → s.now < t0 + 200000000 → exec (.dimmTrainingStart n) s = .next s)
    ∧ (∀ temp : Int, d.power = true → ddr (.dimmThermalRead n temp) (fun m =>
        m = { d with refresh2 := decide (85 < temp), halfBw := if 95 < temp then true else if temp ≤ 90 then false else d.halfBw }))
    ∧ (served x → x.linkUp = true → cxl (.cxlLinkDown n) (fun m => m = { x with linkUp := false, retrains := 0 })
        ∧ cxl (.cxlRequestTimeout n) (fun m => m = { x with linkUp := false, retrains := 0 }))
    ∧ (served x → x.linkUp = false → cxl (.cxlRetrainEnd n true) (fun m => m = { x with linkUp := true, retrains := 0 })
        ∧ (x.retrains + 1 < 3 → cxl (.cxlRetrainEnd n false) (fun m => m = { x with retrains := x.retrains + 1 }))
        ∧ (3 ≤ x.retrains + 1 → cxl (.cxlRetrainEnd n false) (fun m => m.st = .failed ∧ m.cause = 5)))
    ∧ (x.st = .training → cxl (.cxlReadyTimeout n true true) (fun m => m.st = .failed ∧ m.cause = 7)
        ∧ cxl (.cxlReadyTimeout n false true) (fun m => m.st = .failed ∧ m.cause = 1)
        ∧ cxl (.cxlReadyTimeout n false false) (fun m => m.st = .absent ∧ m.power = false))

/-- The page mover, buckets and mirrors (08 R326 to R332, R342): a move that meets the conditions takes the lowest free entry; when it is copied the
destination reads as the source did and no other byte changes; releasing frees the entry; every bucket gains its rate; a mirror takes the
lowest free entry. -/
def Obligations.MovesAndMirrors : Prop :=
  ∀ (s : State) (p : Path) (w : Words4),
    let src := bits w.w0.toNat 51 0
    let dst := w.w1.toNat
    let len := w.w2.toNat * 65536
    let moved (c : Instr) (x : State) (n : Nat) : Prop := exec c s = .next ((x.odSet 0x3600 2 (stOk * 256 + n)).odReply p stOk)
    (∀ a b i, TakesItem s p 0x3600 1 → bits w.w0.toNat 55 52 = 0 → dst < 2 ^ 52 → src % 65536 = 0 → dst % 65536 = 0 → w.w2.toNat ≠ 0 → w.w2.toNat ≤ 16384 →
        w.w3.toNat = 0 → s.rangeUnit src len = some a → s.rangeUnit dst len = some b → (s.unit a).st = .inService ∨ (s.unit a).st = .draining →
        (s.unit a).quiescing = false → (s.unit b).st = .inService → rangeMeets src len dst len = false → s.rangeTaken src len = false →
        s.rangeTaken dst len = false → (List.range 64).find? (fun i => (s.ext.moves.getD i {}).st = 0) = some i →
          moved (.moveStart p w) { s with ext := { s.ext with moves := s.ext.moves.set i {} { st := 1, src := src, dst := dst, len := len } } } i)
    ∧ (∀ n a b, let m := s.ext.moves.getD n {}
        s.rangeUnit m.src m.len = some a → s.rangeUnit m.dst m.len = some b → m.st = 1 → s.serves a = .ok → s.serves b = .ok →
        Memory.wf s = true →
          Gives (.moveCopied n) s (fun t => t.ext.moves.getD n {} = { m with st := 2, lines := m.len / 128 }
            ∧ ∀ x, Memory.byte t x = if m.dst ≤ x ∧ x < m.dst + m.len then Memory.byte s (m.src + (x - m.dst)) else Memory.byte s x))
    ∧ (let n := w.w3.toNat
       TakesItem s p 0x3600 1 → bits w.w0.toNat 55 52 = 0 → w.w1.toNat < 2 ^ 52 → w.w2.toNat < 2 ^ 32 → n ≤ 63 →
         ((s.ext.moves.getD n {}).st = 2 ∨ (s.ext.moves.getD n {}).st = 3) → moved (.moveRelease p w) { s with ext := { s.ext with moves := s.ext.moves.set n {} {} } } n)
    ∧ Gives .bucketRefill s (fun t => ∀ q k, q < 8 → k < 3 → t.ext.used.getD (q * 4 + k) 0
        = Nat.min (s.ext.used.getD (q * 4 + k) 0 - s.odGet (0x3200 + q) (2 * k + 1)) (s.bucketDepth q k))
    ∧ (∀ x y i, let len := w.w2.toNat
        TakesItem s p 0x3500 1 → bits w.w0.toNat 55 52 = 0 → dst < 2 ^ 52 → src % 65536 = 0 → dst % 65536 = 0 → len ≠ 0 → len % 65536 = 0 → w.w3.toNat = 0 →
        s.rangeUnit src len = some x → s.rangeUnit dst len = some y → x ≠ y → (s.unit x).st = .inService → (s.unit y).st = .inService →
        s.rangeTaken src len = false → s.rangeTaken dst len = false → (List.range 128).find? (fun i => (s.ext.mirrors.getD i {}).st = 0) = some i →
          exec (.mirrorAdd p w) s = .next (({ s with ext := { s.ext with mirrors := s.ext.mirrors.set i {} { st := 1, primary := src, mirror := dst, len := len } } }).odReply p stOk))
    ∧ (let n := w.w3.toNat
       TakesItem s p 0x3500 1 → bits w.w0.toNat 55 52 = 0 → w.w1.toNat < 2 ^ 52 → n ≤ 127 → (s.ext.mirrors.getD n {}).st ≠ 0 →
         exec (.mirrorRemove p w) s = .next (({ s with ext := { s.ext with mirrors := s.ext.mirrors.set n {} {} } }).odReply p stOk))

/-- Errors of memory and the traffic generator (08 R335, R340, R341, R346 to R348): a patrol meets its errors one after another and passes a unit
that is not in service by; a row is repaired and counted, or reported; a write of the generator's control starts it on a QUIESCED unit, and
STOP returns the unit to QUIESCED. -/
def Obligations.PatrolAndGenerator : Prop :=
  ∀ (s : State) (u : UnitId) (p : Path) (cxl : Bool) (page : Nat) (v : W32),
    let served := (s.unit u).st = .inService ∨ (s.unit u).st = .draining
    (∀ errs, u.kind < 2 → served → exec (.patrolPass u errs) s = .next (s.each errs (fun t e => t.patrolError u e)))
    ∧ (∀ errs, ¬served → exec (.patrolPass u errs) s = .next s)
    ∧ (∀ first lines, s.odGet 0x3300 5 = 1 → u.kind < 2 → served →
        (u.kind = 0 ∨ (s.unit u).gen ≠ 4 → Gives (.rowRepair u first lines true) s (fun t =>
          t.odGet 0x6180 (if u.kind = 0 then 7 else 8) = Nat.min (s.odGet 0x6180 (if u.kind = 0 then 7 else 8) + 1) (2 ^ 32 - 1) ∧ SameBytes s t))
        ∧ exec (.rowRepair u first lines false) s = .next (s.rowReport first lines))
    ∧ (let go := setBits v.toNat 31 31 1
       let x := tgUnit cxl page (bits go 1 0)
       Privileged s p (tgOff cxl page) → bit go 31 = true → tgUnitOk cxl page (bits go 1 0) = true →
         ((s.unit x).st = .quiesced → bits go 26 24 ≤ 2 → bits go 23 20 ≤ 4 → Gives (.tgGo p cxl page v) s (fun t => (t.unit x).st = .testing
           ∧ (t.unit x).changed = true ∧ (t.unit x).passes = bits go 15 8 ∧ t.reg (unitReg x 0x88) = 1))
         ∧ ((s.unit x).st ≠ .quiesced → exec (.tgGo p cxl page v) s = .next s))
    ∧ (let stop := setBits v.toNat 31 30 1
       let x := tgUnit cxl page (bits stop 1 0)
       Privileged s p (tgOff cxl page) → bit stop 31 = false → bit stop 30 = true → tgUnitOk cxl page (bits stop 1 0) = true → (s.unit x).st = .testing →
         Gives (.tgStop p cxl page v) s (fun t => (t.unit x).st = .quiesced ∧ t.rf (unitReg x 0x88) 0 0 = 0))

/-! ### Address translation (09_address_translation.md) -/

/-- Walks and faults (09 R367, R371 to R374): a walk that returns fills the caches of the agents that joined it, or gives each of them the fault; an
open fault is recorded when its merge window ends; a resolution of a recorded fault closes it, and one that names none sets the bit that says so. -/
def Obligations.WalksAndFaults : Prop :=
  ∀ (s : State) (p : Path) (part : Nat) (v : W64),
    (∀ w, (s.xl.walks.take 64).find? (fun x => x.id = w.id) = some w →
      let r := s.walkXlate w.ctx w.va w.acc
      let t : State := { r.st with xl := { r.st.xl with walks := r.st.xl.walks.filter (fun x => x.id ≠ w.id) } }
      (r.wait = true → exec (.walkComplete w.id) s = .next s)
      ∧ (∀ e, r.wait = false → r.out = .ok e → exec (.walkComplete w.id) s = .next (t.each w.agents (fun t a => (t.xlFill a e).wake a)))
      ∧ (∀ f, r.wait = false → r.out = .error f →
          exec (.walkComplete w.id) s = .next (t.each w.agents (fun t a => t.raiseFault a w.ctx (s.ctxPart w.ctx) { f with pc := w.pc } w.desc))))
    ∧ (∀ o, s.xl.faults.find? (fun x => x.id = o.id) = some o → o.windowOpen = true →
        (o.opened + o.window * 100 ≤ s.now → s.fqFull o.part = true → Gives (.faultWindowClose o.id) s (fun t =>
          ∀ x ∈ t.xl.faults, x.id = o.id → x = { o with windowOpen := false, held := true }))
        ∧ (o.opened + o.window * 100 ≤ s.now → exec (.faultWindowClose o.id) s = .next (s.recordFault o))
        ∧ (s.now < o.opened + o.window * 100 → exec (.faultWindowClose o.id) s = .next s))
    ∧ (∀ n : W32, Reaches s p (ttP part 0x28) (partVf part) →
        ((∀ o ∈ s.xl.faults, o.part ≠ part ∨ o.held = false) → Gives (.fqtailWrite p part n) s (fun t => t = { s with regs := t.regs }
          ∧ t.reg (ttP part 0x28) = n.toNat ∧ ∀ o, o ≠ ttP part 0x28 → t.reg o = s.reg o))
        ∧ (∀ o, s.xl.faults.filter (fun o => o.part = part && o.held) = [o] → (s.setReg (ttP part 0x28) n.toNat).fqFull part = false →
            exec (.fqtailWrite p part n) s = .next ((s.setReg (ttP part 0x28) n.toNat).recordFault o)))
    ∧ (Reaches s p (ttP part 0x30) (partVf part) →
        let named (o : OpenFault) : Bool := decide (o.part = part) && decide (o.record = some (bits v.toNat 31 0))
        (∀ o, s.xl.faults.find? named = some o →
          exec (.resolveRetry p part v) s = .next ((s.closeFault o).each o.agents (fun t a => t.wake a))
          ∧ exec (.resolveAbort p part v) s = .next (s.abortFault o))
        ∧ ((∀ o ∈ s.xl.faults, named o = false) →
            let tells (c : Instr) : Prop := Gives c s (fun t => t = { s with regs := t.regs } ∧ t.rf (ttP part 0x38) 31 31 = 1 ∧ ∀ o, o ≠ ttP part 0x38 → t.reg o = s.reg o)
            tells (.resolveRetry p part v) ∧ tells (.resolveAbort p part v)))

/-- Invalidation (09 R378 to R381): a command joins its partition's list, the seventeenth is discarded; a command removes the translations that it
names from both dies and completes in order with its number and status, once no access that used them is under way. -/
def Obligations.Invalidation : Prop :=
  ∀ (s : State) (p : Path) (part : Nat) (v : W64),
    let q := s.xl.inv.getD part []
    let posts (c : Instr) (n : Nat) : Prop :=
      (q.length < 16 → Gives c s (fun t => ∃ x, t.xl.inv.getD part [] = q ++ [x] ∧ x.action = n ∧ x.ctx = bits v.toNat 59 50 ∧ x.pages = bits v.toNat 49 32
        ∧ x.seq = bits v.toNat 31 0 ∧ x.addr = s.rf (ttP part 0x40) 56 16 * 65536 ∧ ∀ k, k ≠ part → t.xl.inv.getD k [] = s.xl.inv.getD k []))
      ∧ (16 ≤ q.length → Gives c s (fun t => t.xl.inv = s.xl.inv ∧ t.rf (ttP part 0x54) 31 31 = 1))
    (Reaches s p (ttP part 0x48) (partVf part) → posts (.sync p part v) 1 ∧ posts (.contextRange p part v) 2 ∧ posts (.context p part v) 3
      ∧ posts (.s2Range p part v) 4 ∧ posts (.partition p part v) 5)
    ∧ (∀ c rest, q = c :: rest →
        let u := (s.invApply part c).invDrain part c
        let done (x : State) (st : Nat) : Prop := Gives (.invComplete part) s (fun t => t.xl = { x.xl with inv := x.xl.inv.set part [] rest }
          ∧ t.reg (ttP part 0x50) = c.seq % 2 ^ 64 ∧ t.rf (ttP part 0x54) 7 0 = st)
        (s.invBad part c = true → done s stBadDesc)
        ∧ (s.invBad part c = false → u.invPending part c = false → done u stOk)
        ∧ (s.invBad part c = false → u.invPending part c = true → exec (.invComplete part) s = .next u)
        ∧ ∀ e, e ∈ (s.invApply part c).xl.die0 ∨ e ∈ (s.invApply part c).xl.die1 → c.removes part e = false ∧ (e ∈ s.xl.die0 ∨ e ∈ s.xl.die1))

/-! ### Partitions, modes and clocks (13_partitions_and_meter.md, 01_module_hierarchy.md) -/

/-- Layout commands (13 R495 to R499, R503): APPLY of a staged layout that fails the checks, or while a change runs, is refused; one that changes
nothing answers OK; otherwise the change prepares and the answer waits. ABORT rolls back a change that is not yet committed. RESET kills the
partition's contexts and applies its layout again. At the drain limit steps that still run are torn down. -/
def Obligations.LayoutCommands : Prop :=
  ∀ (s : State) (p : Path) (v : W32) (part : Nat),
    let bad (c : Instr) : Prop := exec c s = .next (((s.odSet 0x4000 2 stBadDesc).odBump 0x6200 1 1).odReply p stBadDesc)
    (TakesItem s p 0x4000 1 →
      (layoutReserved v = true ∨ s.pt.layout.isSome = true ∨ s.layoutBad = true → bad (.apply p v))
      ∧ (layoutReserved v = false → s.pt.layout = none → s.layoutBad = false → s.affected = [] → exec (.apply p v) s = .next ((s.odSet 0x4000 2 stOk).odReply p stOk))
      ∧ (layoutReserved v = false → s.pt.layout = none → s.layoutBad = false → s.affected ≠ [] →
          exec (.apply p v) s = .next ((s.layoutPrepare { parts := s.affected, target := s.affected.map (fun q => s.staged q), path := p }).odHold p))
      ∧ (layoutReserved v = false → s.pt.layout = none → exec (.layoutAbort p v) s = .next ((s.odBump 0x6200 1 1).odReply p stBadDesc))
      ∧ (∀ c, layoutReserved v = false → s.pt.layout = some c → s.mayAbort c = false → exec (.layoutAbort p v) s = .next ((s.odBump 0x6200 1 1).odReply p stBadDesc))
      ∧ (∀ c, layoutReserved v = false → s.pt.layout = some c → s.mayAbort c = true → c.phase = .mode → exec (.layoutAbort p v) s = .next ((s.modeAbort stAborted).odReply p stOk))
      ∧ (∀ c, layoutReserved v = false → s.pt.layout = some c → s.mayAbort c = true → c.phase ≠ .mode →
          exec (.layoutAbort p v) s = .next (((s.setModes { s.pt.modes with waiting := s.pt.modes.waiting.filter (fun r => r.kind ≠ 4) }).layoutEnd c stAborted).odReply p stOk))
      ∧ (layoutReserved v = true ∨ s.pt.layout.isSome = true ∨ (s.part (bits v.toNat 2 0)).lay.enabled = false → bad (.partitionReset p v))
      ∧ (layoutReserved v = false → s.pt.layout = none → (s.part (bits v.toNat 2 0)).lay.enabled = true → (s.startReset p (bits v.toNat 2 0) false).2 = none
          ∧ exec (.partitionReset p v) s = .next ((s.startReset p (bits v.toNat 2 0) false).1.odHold p)))
    ∧ (Reaches s p (ptP part 0x20) none → (bit v.toNat 31 = true → exec (.ptResetGo p part v) s = .next (s.startReset p part true).1)
        ∧ (bit v.toNat 31 = false → exec (.ptResetGo p part v) s = .next s))
    ∧ (∀ c, s.pt.layout = some c → c.phase = .preparation →
        (s.now < c.tPrep + s.odGet 0x4010 2 * 100000 → exec .layoutDrainLimit s = .next s)
        ∧ (c.tPrep + s.odGet 0x4010 2 * 100000 ≤ s.now → exec .layoutDrainLimit s = .next
            (s.each (((s.stepsIn c.parts (fun r => r.st = .running || r.st = .yielding)).filterMap (fun q => (s.stepOf q).map (·.ctx))).eraseDups)
              (fun t x => t.teardown x none false false))))

/-- Shared modes (13 R533 to R538; 04 R144), where no layout change runs: a change is staged, committed by the units in its scope one after another,
and complete with the next epoch; a unit that does not acknowledge in time, or is in an error state, aborts it; a write of the subnormal
default and an expired hold ask for a change.
Clocks (01 R33, R36 to R38): ROOT moves one listed point at a time toward its target and says when it stands there; when the reference is
lost it goes on from the oscillator, with an event and the alert. -/
def Obligations.SharedModesAndClocks : Prop :=
  (∀ (s : State) (p : Path) (part : Nat),
      let m := s.pt.modes
      s.pt.layout = none →
      (∀ r rest, m.phase = .idle → m.waiting = r :: rest → r.kind ≠ 4 →
        let u := s.setModes { m with phase := .stage, cur := r, waiting := rest, left := [], tStage := s.now }
        (u.scopeError r = false → exec .modeStage s = .next u) ∧ (u.scopeError r = true → exec .modeStage s = .next (u.modeAbort stUnitOffline)))
      ∧ (m.phase = .stage → m.tStage + s.odGet 0x4010 1 * 100 ≤ s.now → Gives .modeStageLimit s (fun t => t.pt.modes.phase = .idle ∧ t.pt.modes.epoch = m.epoch))
      ∧ (m.phase = .stage → s.now < m.tStage + s.odGet 0x4010 1 * 100 → exec .modeStageLimit s = .next s)
      ∧ (m.phase = .stage → s.scopeError m.cur = false → Gives .modeCommit s (fun t => t.pt.modes = { m with phase := .commit, left := s.scopeUnits m.cur }))
      ∧ (∀ u, m.phase = .commit → u ∈ m.left → s.atBoundary m.cur.kind u = true →
          Gives (.epochBoundary u) s (fun t => t.pt.modes = { m with left := m.left.filter (fun x => x ≠ u) }))
      ∧ (m.phase = .commit → m.left = [] → Gives .modeChangeComplete s (fun t => t.pt.modes = { m with phase := .idle, epoch := (m.epoch + 1) % 2 ^ 32 }
          ∧ (m.cur.kind = 1 → t.clk.target = m.cur.value)))
      ∧ (let x := s.part part
         x.compat = true → (∀ e ∈ s.pt.kernels, e.2.part ≠ part ∨ e.2.desc.fv40 = false) → x.lastFv40 + s.odGet 0x4010 3 * 100000 ≤ s.now →
         m.phase = .idle → m.waiting = [] → Gives (.compatHoldExpiry part) s (fun t => t.pt.modes.waiting = [{ kind := 2, part := part, scope := 2 ^ part, value := 0 }]))
      ∧ (∀ v : Byte, TakesItem s p (0x4240 + part) 1 →
          (v.toNat < 2 → (s.part part).st ≠ .absent → exec (.subnormalDefaultWrite p part v) s = .next
            ((((s.odSet (0x4240 + part) 1 v.toNat).modeRequest { kind := 3, part := part, scope := 2 ^ part, value := v.toNat }).noteS p (0x4240 + part) 1).odReply p stOk))
          ∧ (2 ≤ v.toNat → exec (.subnormalDefaultWrite p part v) s = .next ((s.odBump 0x6200 1 1).odReply p stBadDesc))))
  ∧ ((∀ (s : State) (i j : Nat), i < 6 → j < 6 → i ≠ j → s.clk.rootMHz = pointMHz i → s.clk.target = j →
      let k := if i < j then i + 1 else i - 1
      Gives .rootPointReached s (fun t => t.clk = { s.clk with rootMHz := pointMHz k } ∧ t.rf (mtR 0x10) 2 0 = k ∧ t.rf (mtR 0x10) 4 4 = (if k = j then 0 else 1)
        ∧ ∀ o, o ≠ mtR 0x10 → t.reg o = s.reg o))
    ∧ (∀ s : State, s.clk.osc = false → Gives .refclkSwitch s (fun t => t.clk = { s.clk with osc := true, refLost := true }
        ∧ bit (t.reg (mgR 0x18)) 0 = true ∧ ∃ e l, t.mg.events = e :: l ∧ e.code = 1 ∧ e.time = s.now)))

/-! ### Objects, queues and submission (12_objects_and_submission.md) -/

/-- Contexts and queues (12 R448, R451, R454, R460, R461, R468, R485, R486): what each command of an HQ_ page does to the object that it names,
and what it refuses with BAD_DESC. -/
def Obligations.ContextsAndQueues : Prop :=
  ∀ (s : State) (p : Path) (part : Nat),
    let a0 := s.hqArg part 0
    let a1 := s.hqArg part 1
    let a2 := s.hqArg part 2
    let a3 := s.hqArg part 3
    let live (c : Instr) (m : Nat) (kind h : Nat) (ok : Bool) (x : State) : Prop :=
      (a0 &&& m = a0 → a1 = 0 → a2 = 0 → a3 = 0 → s.objLive part kind h = true → ok = true → EndsHq c s part x 0)
      ∧ (s.objLive part kind h = false ∨ ok = false → RefusedHq c s part)
    let st := (s.queue a0).st
    let freed := (s.skipEntries a0).modQueue a0 (fun x => { x with st := .none, gens := [] })
    TakesHq s p part →
      (∀ e, let c := bits a0 9 0
        let q := bits a0 28 16
        s.hqMask part (0x3FF + 0x1FFF * 2 ^ 16 + 2 ^ 31) m64 0 0 = true → q ≤ 4096 → (s.ctx c).st = .free → (s.ctxEntry c).out = .ok e → e.part = part →
          (s.privileged p = true → EndsHq (.ctxCreate p part) s part ((s.ctxEntry c).st.setCtx c { st := .live, refs := 1, part := part, enqQuota := if bit a0 31 then s.odGet 0x4250 1 else q, memQuota := if bits a1 31 0 = 0 then s.odGet 0x4270 3 else bits a1 31 0, syncQuota := if bits a1 63 32 = 0 then s.odGet 0x4270 4 else bits a1 63 32 }) 0)
          ∧ (s.privileged p = false → RefusedHq (.ctxCreate p part) s part))
      ∧ live (.ctxKill p part) 0x3FF kCtx a0 true (s.ctxKill a0)
      ∧ (let kind := bits a0 23 20
         let h := bits a0 19 0
         s.hqMask part 0xFFFFFF 0 0 0 = true → 1 ≤ kind → kind ≤ 5 → h < objCap kind →
           (s.objIn part kind h = true → EndsHq (.objQuery p part) s part s (s.refsOf kind h * 2 ^ 32
              + (match s.objSt kind h with | .free => 0 | .live => 1 | .dying => 2 | .reclaiming => 3) * 2 ^ 24 + kind * 2 ^ 20 + s.objCtx kind h))
           ∧ (s.objSt kind h = .free → EndsHq (.objQuery p part) s part s 0)
           ∧ (s.objSt kind h ≠ .free → s.objIn part kind h = false → RefusedHq (.objQuery p part) s part))
      ∧ (let q := bits a2 11 0
         let c := bits a2 21 12
         let ms := bits a3 21 0
         let ok := s.hqMask part (2 ^ 57 - 2 ^ 12) (2 ^ 57 - 2 ^ 6) (2 ^ 51 - 1) (0x3FFFFF + 0xFFFF * 2 ^ 32) && s.objLive part kCtx c && decide ((s.queue q).ost = .free)
           && decide (4 ≤ bits a2 26 22) && decide (bits a2 26 22 ≤ 16) && (decide (bits a2 28 27 = 1) || decide (bits a2 28 27 = 2)) && (!bit a2 29 || decide (bits a2 28 27 = 2))
           && decide (bits a2 50 43 ≠ 0) && decide (ms ≤ 3600000)
         (ok = true → bit a2 30 = false ∨ s.rtQueues < 128 → EndsHq (.qCreate p part) s part ((s.setQueue q { st := .stopped, ring := a0, compl := a1, ctx := c, sizeLog := bits a2 26 22, fmt := bits a2 28 27, device := bit a2 29, rt := bit a2 30, irqEn := bit a2 31, vector := bits a2 42 32, weight := bits a2 50 43, timeoutMs := if ms = 0 then s.odGet 0x4270 1 else ms, preemptUs := bits a3 47 32, refs := 1, ost := .live }).addRef kCtx c) 0)
         ∧ (ok = true → bit a2 30 = true → 128 ≤ s.rtQueues → exec (.qCreate p part) s = .next (s.hqAnswer part stQuota 0))
         ∧ (ok = false → RefusedHq (.qCreate p part) s part))
      ∧ live (.qStart p part) 0xFFF kQueue a0 (decide (st = .stopped)) ((s.modQueue a0 (fun x => { x with st := .active })).fetchNext a0)
      ∧ live (.qStop p part) 0xFFF kQueue a0 (decide (st = .idle) || decide (st = .active)) (s.modQueue a0 (fun x => { x with st := if x.held = none then .stopped else .stopping }))
      ∧ live (.qReset p part) 0xFFF kQueue a0 (decide (st ≠ .none)) (s.qReset a0)
      ∧ live (.qDestroy p part) 0xFFF kQueue a0 (decide (st = .stopped)) ((freed.kill kQueue a0).releaseHolds (freed.queue a0).ctx)
      ∧ (let kind := bits a0 23 20
         let h := bits a0 19 0
         let n : Int := (s.refsOf kind h : Int) + toSigned 32 a1
         s.hqMask part 0xFFFFFF 0xFFFFFFFF 0 0 = true → 1 ≤ kind → kind ≤ 5 → s.objIn part kind h = true → s.objSt kind h ≠ .reclaiming →
           (0 ≤ n → n ≤ 0xFFFFFFFF → EndsHq (.refAdd p part) s part (s.setRefs kind h n.toNat) n.toNat)
           ∧ (n < 0 ∨ 0xFFFFFFFF < n → RefusedHq (.refAdd p part) s part))

/-- Memory objects, fences and events (12 R449, R455, R457, R458, R460, R479, R481 to R483; 05 R202): what each command creates, signals, exports
and frees. Which FREE handle a new object gets is a free value (log 29), and so is the nonce of a token (log 2). -/
def Obligations.MemoryFencesEvents : Prop :=
  ∀ (s : State) (p : Path) (part : Nat),
    let a0 := s.hqArg part 0
    let a1 := s.hqArg part 1
    let a2 := s.hqArg part 2
    let c := bits a0 9 0
    let dying (h : Nat) : State := (((s.modSync h (fun x => { x with freeGen := some (s.ctx (s.sync h).ctx).gen, hold := true })).addRef kFence h).kill kFence h).releaseHolds (s.sync h).ctx
    let made (h c : Nat) (x : SyncObj) : State := (s.handleTaken.setSync h { x with st := .live, refs := 1, ctx := c }).addRef kCtx c
    ((∀ h, s.freeSync = some h → h < 65536 ∧ (s.sync h).st = .free) ∧ ∀ h, s.freeMem = some h → h < 1048576 ∧ (s.memObj h).st = .free)
    ∧ (TakesHq s p part →
      (∀ h t, s.hqMask part 0x3FF (2 ^ 52 - 1) m64 0 = true → s.objLive part kCtx a0 = true → a2 ≠ 0 → a2 % 65536 = 0 → a1 % 65536 = 0 → s.freeMem = some h →
        (s.ctxMems a0).length < (s.ctx a0).memQuota → a1 + a2 ≤ 2 ^ 52 →
          (State.rangeOwned (a2 / 65536) s part a1 = (some true, t) →
            EndsHq (.memCreate p part) s part ((t.handleTaken.setMemObj h { st := .live, refs := 1, ctx := a0, base := a1, size := a2 }).addRef kCtx a0) h)
          ∧ (State.rangeOwned (a2 / 65536) s part a1 = (some false, t) → exec (.memCreate p part) s = .next (s.hqAnswer part stXlate 0)))
      ∧ (let h := bits a0 19 0
         let c := (s.memObj h).ctx
         s.hqMask part (0xFFFFF + 2 ^ 31 + 0xFFFF * 2 ^ 32) m64 0 0 = true → s.objLive part kMem h = true →
         (bit a0 31 = true → s.objLive part kFence (bits a0 47 32) = true ∧ (s.sync (bits a0 47 32)).ctx = c) →
           EndsHq (.memFree p part) s part ((((s.setMemObj h { s.memObj h with freeGen := some (s.ctx c).gen, hold := true, notify := if bit a0 31 then some (bits a0 47 32, a1) else none }).addRef kMem h).kill kMem h).releaseHolds c) 0)
      ∧ (∀ h, let q := bits a0 27 16
          s.hqMask part (0x3FF + 0xFFF * 2 ^ 16 + 2 ^ 31) m64 (2 ^ 57 - 1) 0 = true → s.objLive part kCtx c = true → a2 % 16 = 0 →
          (bit a0 31 = true → s.objLive part kQueue q = true ∧ (s.queue q).ctx = c) → s.freeSync = some h →
            (s.syncRoom c = true → EndsHq (.fenceCreate p part) s part (if bit a0 31 then (made h c { value := a1, owner := some q, shadow := a2 }).addRef kQueue q else made h c { value := a1, shadow := a2 }) h)
            ∧ (s.syncRoom c = false → exec (.fenceCreate p part) s = .next (s.hqAnswer part stQuota 0)))
      ∧ (∀ h, s.hqMask part 0x3FF 0 0 0 = true → s.objLive part kCtx a0 = true → s.freeSync = some h → s.syncRoom a0 = true →
          EndsHq (.eventCreate p part) s part (made h a0 { event := true }) h)
      ∧ (s.hqMask part 0xFFFF 0 0 0 = true → s.objLive part kFence a0 = true ∨ s.objLive part kEvent a0 = true → EndsHq (.syncFree p part) s part (dying a0) 0)
      ∧ (s.hqMask part (0xFFFF + 2 ^ 31) m64 0 0 = true → s.objLive part kFence (bits a0 15 0) = true →
          EndsHq (.fenceSignal p part) s part (s.signal (bits a0 15 0) a1 (bit a0 31)) 0)
      ∧ (s.hqMask part 0xFFFF 0 0 0 = true → s.objLive part kEvent a0 = true →
          EndsHq (.eventSignal p part) s part (s.modSync a0 (fun e => { e with value := Nat.min (e.value + 1) 0xFFFFFFFF })) 0)
      ∧ (let o := s.original a0
         s.hqMask part 0xFFFF 0 0 0 = true → s.objLive part kFence a0 = true → ((s.sync a0).alias_ = true → (s.sync a0).remote = false) →
           ((s.sync o).exported = true → EndsHq (.fenceExport p part) s part s (o * 2 ^ 16 + (s.sync o).nonce))
           ∧ ((s.sync o).exported = false → ∃ n < 2 ^ 16, ∃ x : State, EndsHq (.fenceExport p part) s part x (o * 2 ^ 16 + n)
                ∧ x.sync o = { s.sync o with exported := true, nonce := n } ∧ ∀ k, k ≠ o → x.sync k = s.sync k))
      ∧ (∀ h, let o := a1 / 2 ^ 16
          s.hqMask part 0x3FF 0xFFFFFFFF 0 0 = true → s.objLive part kCtx a0 = true → s.tokenOk a1 = true → s.freeSync = some h → s.syncRoom a0 = true →
            (s.ctxPart (s.sync o).ctx = part ∨ s.privileged p = true → EndsHq (.fenceImport p part) s part ((made h a0 { alias_ := true, target := o }).addRef kFence o) h)
            ∧ (s.ctxPart (s.sync o).ctx ≠ part → s.privileged p = false → RefusedHq (.fenceImport p part) s part))
      ∧ (∀ h, s.hqMask part (0x3FF + 0xFFFF * 2 ^ 16) 0xFFFFFFFF 0 0 = true → s.objLive part kCtx c = true → s.freeSync = some h → s.syncRoom c = true →
          let x := (made h c { alias_ := true, remote := true, target := a1 / 2 ^ 16, node := bits a0 31 16 }).lkSend (bits a0 31 16) (pktSubscribe a1 h)
          exec (.fenceImportRemote p part) s = .next (({ x with obj := { x.obj with imports := x.obj.imports ++ [({ part := part, ctx := c, node := bits a0 31 16, token := a1, handle := h, tSent := s.now } : RemoteImport)] } }).setRf (hqP part 0x40) 31 31 1)))

/-- The course of a queue's entries (12 R428, R467 to R470, R474 to R477, R485): a doorbell announces entries, or is discarded and counted; the entry at
HEAD is read where the ring says and HEAD passes it; met waits hand it on; a completion frees the queue for the next.
The ends of waits of objects (12 R455, R456, R483, R484, R485): a remote import without an answer fails after 10 ms, a reclaim epoch ends no sooner
than its length, and an entry times out no sooner than its queue says. -/
def Obligations.EntryCourseAndTimes : Prop :=
  (∀ (s : State) (q : Nat),
      let x := s.queue q
      (∀ p tail, Reaches s p (dbell q 0) none → x.device = false → x.st ≠ .none → (s.ctx x.ctx).killed = none →
        (x.ahead tail.toNat ≤ 2 ^ x.sizeLog → Gives (.doorbell p q tail) s (fun t =>
            (t.queue q).tail = tail.toNat ∧ (t.queue q).pending = true ∧ (t.queue q).head = x.head ∧ (t.queue q).held = x.held
            ∧ (t.queue q).st = (if x.st = .idle then .active else x.st) ∧ (∀ k, k ≠ q → t.queue k = s.queue k)
            ∧ (t.ctx x.ctx).gen = ((s.ctx x.ctx).gen + 1) % 2 ^ 64 ∧ SameBytes s t))
        ∧ (2 ^ x.sizeLog < x.ahead tail.toNat → exec (.doorbell p q tail) s = .next ((s.modQueue q (fun y => { y with badTail := true })).odBump 0x61C0 4 1)))
      ∧ (∀ p tail, Reaches s p (dbell q 0) none → x.device = true → exec (.doorbell p q tail) s = .next (s.odBump 0x61C0 4 1))
      ∧ (let size := if x.fmt = 1 then 64 else 128
         let r := s.frontRead x.ctx (x.ring + x.head % 2 ^ x.sizeLog * size) size
         x.st = .active → x.held = none → x.head ≠ x.tail → s.mg.stage = .ready → s.mg.down = false → r.wait = false →
           (r.stat = stOk → exec (.entryAccept q) s = .next (r.st.acceptBytes q x.ctx r.data))
           ∧ (r.stat ≠ stOk → Gives (.entryAccept q) s (fun t => ∃ h, (t.queue q).held = some h ∧ h.phase = .done r.stat ∧ h.refused = true ∧ h.stopAfter = true
                ∧ (t.queue q).head = ((r.st.queue q).head + 1) % 2 ^ 32)))
      ∧ (∀ h, x.held = some h → h.phase = .waiting →
          (∀ st, s.waitsNow h.entry = some st → st ≠ stOk ∨ h.entry.kind = 3 → Gives (.waitsMet q) s (fun t => (t.queue q) = { x with held := some { h with phase := .done st } }
              ∧ t = { s with obj := t.obj }))
          ∧ (s.waitsNow h.entry = some stOk → h.entry.kind ≠ 3 → Gives (.waitsMet q) s (fun t => (t.queue q).held = some { h with phase := .handed }
              ∧ (h.entry.kind = 1 → ∀ r, s.stepOf q = some r → ∃ k, t.stepOf q = some k ∧ k.st = .ready)))
          ∧ (s.waitsNow h.entry = none → exec (.waitsMet q) s = .next s))
      ∧ (∀ h st, x.held = some h → h.phase = .done st → exec (.entryComplete q) s = .next ((s.completeEntry q st).killFinish x.ctx))
      ∧ (∀ h st, x.held = some h → h.phase = .done st → h.quiet = true → h.refused = true → x.device = false → (s.ctx x.ctx).killed = none →
          Gives (.entryComplete q) s (fun t => (t.queue q).held = none ∧ (t.queue q).seq = (x.seq + 1) % 2 ^ 64 ∧ (t.queue q).head = x.head ∧ (t.queue q).tail = x.tail
            ∧ (t.queue q).errors = (if st = stOk then x.errors else Nat.min (x.errors + 1) 0xFFFFFFFF) ∧ t.stepOf q = none ∧ SameBytes s t)))
  ∧ (∀ (s : State) (n : Nat),
      (∀ x, s.obj.imports.find? (fun x => x.part = n) = some x →
        (x.tSent + 1000000 ≤ s.now → exec (.importRemoteTimeout n) s = .next (s.importFail x stDeviceLost))
        ∧ (s.now < x.tSent + 1000000 → exec (.importRemoteTimeout n) s = .next s))
      ∧ (s.obj.tEpoch + s.obj.epochUs * 100 ≤ s.now → Gives .reclaimEpochEnd s (fun t => t.obj.epoch = s.reclaim.obj.epoch + 1 ∧ t.obj.tEpoch = s.reclaim.now
          ∧ t.reg (hqR 0x18) = (s.reclaim.reg (hqR 0x18) + 1) % 2 ^ 64 ∧ t.obj.queues = s.reclaim.obj.queues ∧ t.obj.syncs = s.reclaim.obj.syncs ∧ t.obj.mems = s.reclaim.obj.mems ∧ t.obj.ctxs = s.reclaim.obj.ctxs))
      ∧ (s.now < s.obj.tEpoch + s.obj.epochUs * 100 → exec .reclaimEpochEnd s = .next s)
      ∧ (∀ h, (s.queue n).held = some h → (s.ctx (s.queue n).ctx).killed = none → s.frozen (s.queue n).ctx = false →
          let late := h.tAccept + (s.queue n).timeoutMs * 100000
          (s.now < late → exec (.queueTimeout n) s = .next s)
          ∧ (late ≤ s.now → h.phase = .waiting → s.stepOf n = none → (∀ r, s.req n = some r → r.stop = none) → Gives (.queueTimeout n) s (fun t =>
              (t.queue n).held = some { h with phase := .done stTimeout } ∧ t.odGet 0x61C0 3 = (s.odGet 0x61C0 3 + 1) % 2 ^ 64)))
      ∧ (∀ t0, (s.ctx (s.queue n).ctx).killed = some t0 →
          (s.now < t0 + (s.queue n).timeoutMs * 100000 → exec (.killTimeout n) s = .next s)
          ∧ (∀ r, t0 + (s.queue n).timeoutMs * 100000 ≤ s.now → s.entryRuns n = true → s.stepOf n = some r →
              exec (.killTimeout n) s = .next (s.teardown (s.queue n).ctx none false false))))

/-! ### Update units, the Meter, the scheduler and registers (10, 13, 00) -/

/-- Update units (10 R394, R395, R398, R399, R401, R402, R408 to R410, R413): a shard goes to its unit when the unit's queue has room, a unit runs
the shard at the front of its queue, an UPDATE is over when every part has ended, a rule waits for the requests that name it, and a unit that
is enabled is IDLE. -/
def Obligations.UpdateUnits : Prop :=
  ∀ (s : State) (q u part rule : Nat) (p : Path),
    (∀ r sh x, s.handedReq q = some r → r.shards[r.handed]? = some sh → r.part_ sh.unit = some x → x.ended = false → r.stop = none → s.uuOpen sh.unit = true →
      ((s.uu sh.unit).jobs.length < 65 → Gives (.shardHandout q) s (fun t =>
          (t.uu sh.unit).jobs = (s.uu sh.unit).jobs ++ [{ queue := q, shard := r.handed }] ∧ t.req q = some { r with handed := r.handed + 1 }
          ∧ (∀ k, k ≠ sh.unit → t.uu k = s.uu k) ∧ SameBytes s t))
      ∧ (65 ≤ (s.uu sh.unit).jobs.length → exec (.shardHandout q) s = .next s))
    ∧ (∀ j js r x, (s.uu u).jobs = j :: js → s.req j.queue = some r → r.part_ u = some x → x.ended = false → r.stop = none →
         let b := bytesOf ((r.shards[j.shard]?.map (·.words)).getD [])
         let s1 := s.modUu u (fun y => { y with part := r.part })
         let runs (c : Instr) (k : ShardRun) : Prop :=
           s1.uuOpen u = true → k.wait = false →
             (k.fail = none → exec c s = .next ((k.st.popJob u).shardDone j.queue u))
             ∧ (∀ st, k.fail = some st → exec c s = .next ((k.st.popJob u).endPart j.queue u st k.torn j.shard k.elem k.wva))
         (updPass (bytesOf r.header) = 1 → runs (.pass1Shard u) (pass1Run j.queue u r b s1) ∧ exec (.pass2Shard u) s = .next s)
         ∧ (updPass (bytesOf r.header) = 2 → runs (.pass2Shard u) (pass2Run j.queue u r b s1) ∧ exec (.pass1Shard u) s = .next s))
    ∧ (∀ r, s.handedReq q = some r → r.stop = none →
        (r.parts.all (·.ended) = true → exec (.updateComplete q) s = .next (((s.resultHeader r).odBump 0x61A0 1 1).endHeld q
            (if r.parts.all (fun p => p.status = stOk) then stOk else stPartial) false))
        ∧ (r.parts.all (·.ended) = false → exec (.updateComplete q) s = .next s))
    ∧ (∀ data, TakesItem s p (0x3820 + part) (rule + 1) →
        (data.length = 64 → ruleBad data = false → exec (.ruleWrite p part rule data) s = .next (({ s with upd := { s.upd with ruleWait := s.upd.ruleWait
            ++ [({ path := p, part := part, rule := rule, data := data, queues := s.ruleUsers part rule } : RuleWait)] } }).odHold p))
        ∧ (data.length ≠ 64 ∨ ruleBad data = true → exec (.ruleWrite p part rule data) s = .next ((s.odBump 0x6200 1 1).odReply p stBadDesc)))
    ∧ (∀ w, s.upd.ruleWait.find? (fun w => w.part = part && w.rule = rule) = some w →
        (w.queues = [] → Gives (.ruleApplied part rule) s (fun t => t = (({ s with upd := { s.upd with ruleWait := s.upd.ruleWait.erase w } }).setBlob (0x3820 + part) (rule + 1) w.data).odAnswer w.path stOk))
        ∧ (w.queues ≠ [] → exec (.ruleApplied part rule) s = .next s))
    ∧ (Privileged s p (uuR u 0x10) →
        Gives (.uuEnableWrite p u true) s (fun t => t.rf (uuR u 0x10) 0 0 = 1 ∧ t.uu u = { s.uu u with state := .idle } ∧ (∀ k, k ≠ u → t.uu k = s.uu k) ∧ SameBytes s t)
        ∧ ((s.uu u).jobs = [] → Gives (.uuEnableWrite p u false) s (fun t => t.rf (uuR u 0x10) 0 0 = 0 ∧ t.uu u = { s.uu u with state := .off } ∧ SameBytes s t))
        ∧ ((s.uu u).jobs ≠ [] → exec (.uuEnableWrite p u false) s = .next (((s.setRf (uuR u 0x10) 0 0 0).modUu u (fun x => { x with state := .offline, jobs := [] })).each (s.uu u).jobs
            (fun t j => t.endPart j.queue u stUnitOffline false j.shard 0 0))))

/-- The Meter and the scheduler (13 R505 to R513, R516, R523, R531, R539, R543, R544): a window's measurements are shown; the scheduler places from an
ACTIVE partition and yields for a slice or by DRAIN; learning is forgotten by partition; a maintenance step waits until it may act. The order of
placement and the Meter's answer at it are the model's reading (log 25). -/
def Obligations.MeterAndScheduler : Prop :=
  ∀ (s : State) (n : Nat),
    (∀ m, (s.pw.phase = .on → Gives (.meterWindow m) s (fun t =>
        t.odGet 0x2010 1 = m.inputW % 2 ^ 64 ∧ t.odGet 0x2010 2 = ofSigned 32 (hottest m.temps) % 2 ^ 64
        ∧ t.odGet 0x2010 4 = ratToB32 (thetaOf (hottest m.temps) (s.odGet 0x2000 5)) % 2 ^ 64
        ∧ t.odGet 0x2030 1 = m.inputMV % 2 ^ 64 ∧ t.odGet 0x2030 2 = m.inputMA % 2 ^ 64 ∧ t.odGet 0x2030 3 = m.busMV % 2 ^ 64
        ∧ t.rf (mtR 0x20) 7 0 = sensorOf m.temps (hottest m.temps) % 2 ^ 8))
      ∧ (s.pw.phase ≠ .on → exec (.meterWindow m) s = .next s))
    ∧ ((s.part n).st = .active → exec (.stepPlace n) s = .next (s.budgets.placeNext n (s.budgets.stepOrder n)))
    ∧ ((s.part n).st ≠ .active → exec (.stepPlace n) s = .next s)
    ∧ (∀ r, s.stepOf n = some r →
        (s.sliceOver r = false → exec (.sliceEligible n) s = .next s)
        ∧ (∀ w l x v, s.sliceOver r = true → sortBy s.beBefore (s.stepsIn [r.part] (fun x => !x.rt && s.choosable x)) = w :: l → s.stepOf w = some x →
            s.enough (sortBy s.beBefore (s.stepsIn [r.part] (fun y => s.sliceOver y && y.ctx ≠ x.ctx))).reverse
              (s.stepSize x - ((s.freeCls r.part).length + s.coming r.part)) = some v → v.length ≤ s.parkRoom r.part →
            exec (.sliceEligible n) s = .next (s.each v (fun t k => t.askYield k false)))
        ∧ (let late := r.tYield + (s.queue n).preemptUs * 100
           r.st = .yielding → r.forRt = true → r.drained = false → 0 < (s.queue n).preemptUs →
             (late ≤ s.now → exec (.preemptTimeout n) s = .next ((s.each (s.coresOf (s.kernelsOf (fun k => k.queue = n))) (fun t c => t.setDrain c true)).modStep n (fun x => { x with drained := true })))
             ∧ (s.now < late → exec (.preemptTimeout n) s = .next s)))
    ∧ (∀ p v, TakesItem s p 0x2020 3 → exec (.learnForget p v) s = .next (({ s with pt := { s.pt with meter := { s.pt.meter with
        learned := s.pt.meter.learned.map (fun (x : Learned) => if bit v.toNat x.part then { x with valid := false } else x) } } }).odReply p stOk))
    ∧ (∀ w, let a : State := if s.pt.maint.any (fun m => sameWork m.work w) then s else { s with pt := { s.pt with maint := s.pt.maint ++ [{ work := w, part := s.workPart w }] } }
        let r := a.maintDo w
        (a.maintAdmit w = false ∨ (a.maintAdmit w = true ∧ r.2 = false) → exec (.maintenanceStep w) s = .next (if a.maintAdmit w = true then r.1 else a))
        ∧ (a.maintAdmit w = true → r.2 = true → Gives (.maintenanceStep w) s (fun t => t = { r.1 with pt := t.pt }
            ∧ t.pt = { r.1.pt with maint := t.pt.maint } ∧ ∀ m, m ∈ t.pt.maint ↔ m ∈ r.1.pt.maint ∧ sameWork m.work w = false)))

/-- Writes of registers (00 R8 to R13, R699; 11 R435; 16 R638): a write of 4 or 8 bytes, aligned, that reaches a register changes its fields by their
access codes; RWP from a path without privilege, and RO and CONST, are discarded and counted; the low half of an action register starts
nothing; a bad size is discarded, and a host access of one is answered with Unsupported Request. -/
def Obligations.RegisterWrites : Prop :=
  ∀ (s : State) (p : Path) (off size : Nat) (val : W64),
    let host : Prop := p = .pf ∧ off < cfgBase ∧ s.fnServes 0 = true
    let reach : Prop := ((p = .firmware ∨ ∃ c, p = .engine c) ∧ off < 0x4000000) ∨ (host ∧ (s.mg.stage = .ready ∨ inMg off = true ∨ 0x4000000 ≤ off))
    let v := val.toNat
    (host → s.mg.stage ≠ .ready → inMg off = false → off < 0x4000000 → accessOk off size = true → exec (.regWrite p off size val) s = .next s.discardRo)
    ∧ (host → accessOk off size = false → exec (.regWrite p off size val) s = .next (s.urAnswer 0)
        ∧ exec (.badSizeAccess p true off size val) s = .next (s.urAnswer 0)
        ∧ Gives (.badSizeAccess p false off size val) s (fun t => t.host.reply = [.unsupported] ∧ t.regs = (s.urAnswer 0).regs ∧ SameBytes s t))
    ∧ (p = .firmware → accessOk off size = false → exec (.regWrite p off size val) s = .next s ∧ ∀ w, exec (.badSizeAccess p w off size val) s = .next s)
    ∧ (reach → accessOk off size = true → inBuf4 off = false → (∀ w, exec (.badSizeAccess p w off size val) s = .next s) ∧
        (findReg off = none → exec (.regWrite p off size val) s = .next s)
        ∧ (∀ r i d b o, findReg off = some (r, i, d) → locate (off - d) = some (b, i, o) →
            (restricted r i = true → s.privileged p = false → exec (.regWrite p off size val) s = .next s.discardRwp)
            ∧ (restricted r i = false ∨ s.privileged p = true →
                (allRo r.fields = true → exec (.regWrite p off size val) s = .next s.discardRo)
                ∧ (allRo r.fields = false →
                    (isAction r.blk i o = true → exec (.regWrite p off size val) s = .next (s.actWrite p r.blk i o (off - d) d size v)
                      ∧ (d = 0 → size = 4 → ∀ w : W32, exec (.actionLowHalfWrite p off w) s = .next { s with actLow := s.actLow.set off 0 (BitVec.ofNat 32 w.toNat) }))
                    ∧ (isAction r.blk i o = false →
                        let m := (2 ^ (8 * size) - 1) * 2 ^ (8 * d)
                        let x := v % 2 ^ (8 * size) * 2 ^ (8 * d)
                        (∀ t, s.regSpecial p r i (off - d) o x m = some t → exec (.regWrite p off size val) s = .next t)
                        ∧ (s.regSpecial p r i (off - d) o x m = none →
                            (reachesRwp r.fields m = true → s.privileged p = false → exec (.regWrite p off size val) s = .next (s.discardRwp.regPlain p r (off - d) o x m))
                            ∧ (reachesRwp r.fields m = false ∨ s.privileged p = true → Gives (.regWrite p off size val) s (fun t =>
                                let w := fieldsWrite r.fields (s.privileged p) (s.reg (off - d)) x m % 2 ^ 64
                                t.reg (off - d) = (if errInfo r.blk o = true ∧ bit (x &&& m) 31 = true then setBits w 15 8 0 % 2 ^ 64 else w)
                                ∧ (∀ k, k ≠ off - d → t.reg k = s.reg k) ∧ t = { s with regs := t.regs }))))))))

/-! ### The host link (11_host_link.md) and Niandop Link (14_niandop_link.md) -/

/-- The course of the host link and its functions (11 R417 to R424, R442 to R445, R447; 16 R635, R636, R642): training within the caps, loss of lanes, what a
link down, a hot reset and PERST# do, functions, power states, and IDE. -/
def Obligations.HostLinkCourse : Prop :=
  ∀ (s : State) (fn : Nat),
    let down (c : Instr) (P : State → Prop) : Prop := Gives c s (fun t => P t ∧ t.mg.stage = .rom ∧ t.mem = [] ∧ t.host.up = false ∧ t.obj = {} ∧ t.pt = {} ∧ t.cores = [] ∧ t.seqs = [])
    let serves : Prop := s.host.cfgReady = true ∧ (fn = 0 ∨ s.vfOn fn = true)
    (∀ rate width flit, s.pw.phase = .on → s.host.perst = false → Gives (.linkTraining rate width flit) s (fun t =>
        t.host.up = true ∧ t.host.rate = Nat.max 1 (Nat.min rate (Nat.min (if flit then 6 else 5) (s.odGet 0x1200 1 + 1)))
        ∧ t.host.width = linkWidth (Nat.min width (s.odGet 0x1200 2)) ∧ t.host.flit = flit ∧ (flit = false → t.host.ide = 0) ∧ t.host.cfgReady = true ∧ t.regs = s.regs ∧ SameBytes s t))
    ∧ (∀ rate width flit, s.pw.phase ≠ .on ∨ s.host.perst = true → exec (.linkTraining rate width flit) s = .next s)
    ∧ (∀ width, s.host.up = true → Gives (.laneLossRetrain width) s (fun t => t.host = { s.host with width := linkWidth (Nat.min width s.host.width) } ∧ t.regs = s.regs ∧ SameBytes s t))
    ∧ (s.host.up = true → down .dlDown (fun t => t.host.cfgReady = true) ∧ down .hotReset (fun t => t.host.cfgReady = true))
    ∧ (s.pw.phase = .on → down .perst (fun t => t.host.perst = true ∧ t.mg.inReset = true)
        ∧ Gives .perstRelease s (fun t => t = { s with host := { s.host with perst := false, cfgReady := true }, mg := { s.mg with inReset := false } }))
    ∧ (s.host.cfgReady = true →
        (s.vfOn fn = true → exec (.flrVf fn) s = .next ((s.fnReset fn).flrPart (fn - 1) false))
        ∧ exec .flrPf s = .next ((({ s with host := { s.host with fns := [], vfEnable := false, numVfs := 0, ari := false, pasid := false } }).each (List.range 8) (fun t p => t.flrPart p true)).discardAll)
        ∧ (∀ on n ari, Gives (.vfEnable on n ari) s (fun t => t.host.vfEnable = on ∧ t.host.numVfs = Nat.min n 8 ∧ t.host.ari = ari ∧ t.fn 0 = s.fn 0 ∧ t = { s with host := t.host }
            ∧ ∀ k, k ≠ 0 → t.fn k = if on ∧ s.host.vfEnable then s.fn k else {}))
        ∧ (∀ k msg, Gives (.doeRequest k msg) s (fun t => t = { s with free := s.free + 1, host := { s.host with reply := t.host.reply } }
            ∧ t.host.reply = [match k with | .discovery => .doe (Config.doeAnswer s.free 0 msg) | .spdm => .spdm (Config.spdmAnswer s.free s.measurements msg) | .ideKm => .doe (Config.doeAnswer s.free 2 msg)])))
    ∧ (serves → Gives (.d3hotEntry fn) s (fun t => t.fn fn = { s.fn fn with d3 := true } ∧ (∀ k, k ≠ fn → t.fn k = s.fn k) ∧ t = { s with host := { s.host with fns := t.host.fns } })
        ∧ Gives (.d0Entry fn) s (fun t => t.fn fn = { s.fn fn with d3 := false } ∧ (∀ k, k ≠ fn → t.fn k = s.fn k) ∧ t = { s with host := { s.host with fns := t.host.fns } }))
    ∧ (s.host.up = true → s.host.flit = true → Gives .ideEstablish s (fun t => t.host = { s.host with policy := s.odGet 0x1200 3, ide := if s.odGet 0x1200 3 = 0 then s.host.ide else 2 } ∧ SameBytes s t))
    ∧ (s.host.ide = 2 → Gives .ideCheckFail s (fun t => t.host.ide = 1 ∧ t.host.aer = .ideCheck :: s.host.aer ∧ t.host.up = s.host.up ∧ SameBytes s t))

/-- Requests of the host (11 R423, R429, R430, R435 to R440, R445; 16 R638, R639): BAR2 reaches memory through the function's window, or misses; requests
that are not served are answered with Unsupported Request; a pending vector that is unmasked is sent once. -/
def Obligations.HostRequests : Prop :=
  ∀ (s : State) (fn off : Nat),
    let base := s.bar2Base fn + off
    let ones (n : Nat) : HostReply := .data (List.replicate n 0xFF) false
    (∀ data bad len, s.fnServes fn = false → exec (.hostBar2Write fn off data bad) s = .next (s.urAnswer fn)
        ∧ exec (.hostBar2Read fn off len) s = .next ((s.urAnswer fn).hostAnswer .unsupported))
    ∧ (s.fnServes fn = true →
        (∀ data bad, off + data.length ≤ s.bar2Size fn →
          (s.mg.warming = true → exec (.hostBar2Write fn off data bad) s = .next s.discardRo)
          ∧ (s.mg.warming = false → s.mg.stage ≠ .ready → exec (.hostBar2Write fn off data bad) s = .next (s.bar2Miss fn))
          ∧ (s.mg.warming = false → s.mg.stage = .ready → bad = false →
              (fn = 0 → let r := s.writeMem ownAccess 0 .bank base data false
                r.wait = false → exec (.hostBar2Write fn off data bad) s = .next (if r.undec.isSome then r.st.bar2Miss 0 else r.st))
              ∧ (fn ≠ 0 → let r := s.ipaWriteMem (fn - 1) base data []
                r.wait = false → exec (.hostBar2Write fn off data bad) s = .next (match r.fault with | some x => r.st.bar2Fault fn 1 x | none => r.st))))
        ∧ (∀ len, off + len ≤ s.bar2Size fn →
          (s.mg.warming = true → Gives (.hostBar2Read fn off len) s (fun t => t.host.reply = [ones len] ∧ t.regs = s.regs ∧ SameBytes s t))
          ∧ (s.mg.warming = false → s.mg.stage ≠ .ready → exec (.hostBar2Read fn off len) s = .next ((s.bar2Miss fn).hostAnswer (ones len)))
          ∧ (s.mg.warming = false → s.mg.stage = .ready →
              (fn = 0 → let r := s.readMem ownAccess 0 base len
                r.wait = false → Gives (.hostBar2Read fn off len) s (fun t => t.host.reply = [if r.undec.isSome then ones len else .data (r.st.objOverlay base r.data) (decide (r.poison ≠ []))]))
              ∧ (fn ≠ 0 → let r := s.ipaRead (fn - 1) base len
                r.wait = false → r.fault = none → exec (.hostBar2Read fn off len) s = .next (r.st.hostAnswer (.data r.data (decide (r.poison ≠ []))))))))
    ∧ (∀ k, (k = .disabledFunction → s.fnServes fn = false) → Gives (.unsupportedRequest fn k) s (fun t => t.host.reply = [.unsupported]
        ∧ (s.pw.phase = .on → t.host.aer = .unsupportedRequest fn :: s.host.aer) ∧ t.regs = s.regs ∧ SameBytes s t))
    ∧ Gives (.hostReadFail off) s (fun t => t = { s with hostFail := t.hostFail } ∧ (off / 4096 * 4096 ∈ t.hostFail ↔ off / 4096 * 4096 ∉ s.hostFail)
        ∧ ∀ q, q ≠ off / 4096 * 4096 → (q ∈ t.hostFail ↔ q ∈ s.hostFail))
    ∧ (∀ v, s.fnServes fn = true → v < vectorsOf fn →
        Gives (.msixUnmask fn (.vector v true)) s (fun t => (t.fn fn).unmasked.getD v false = false ∧ t.regs = s.regs ∧ SameBytes s t)
        ∧ ((s.fn fn).msixEn = true → (s.fn fn).fnMask = false → s.mg.stage ≠ .warm → s.mg.warming = false → s.mg.down = false → (s.fn fn).msixPend.getD v false = true →
            Gives (.msixUnmask fn (.vector v false)) s (fun t => { fn := fn, vector := v } ∈ t.host.sent ∧ (t.fn fn).msixPend.getD v false = false
              ∧ (t.fn fn).unmasked.getD v false = true ∧ t.regs = s.regs ∧ SameBytes s t)))

/-- Frames of Niandop Link that arrive (14 R552, R555 to R558, R560 to R562, R565 to R567, R577, R579; 12 R483): a frame that is not for the plane is not seen, a bad
one is counted, a sequenced one is performed once and acknowledged, and a peer that is not OPEN is sent a HELLO. -/
def Obligations.LinkFrames : Prop :=
  ∀ (s : State) (f : Frame),
    let n := f.src
    let u (ty : Nat) : State := s.lkTrace 0x21 n f.psn ty f.plane f.timestamp
    let v (ty : Nat) : State := ((u ty).bump (lkR 0 0x48) 1).heard n
    let seen : Prop := s.fabricOn = true ∧ bit s.planesUp f.plane = true ∧ f.etherType = s.lkCfg 3
    let comes (ty : Nat) (c : Instr) (x : State) : Prop := seen → (u ty).badFrame ty f = false → exec c s = .next x
    let any (ty : Nat) (c : Instr) : Prop := (¬seen → exec c s = .next s) ∧ (seen → (u ty).badFrame ty f = true → exec c s = .next ((u ty).bump (lkR 0 0x68) 1))
    let dist (w : State) : Nat := (f.psn + 2 ^ 32 - (w.peer n).cum) % 2 ^ 32
    let sequenced (ty : Nat) (c : Instr) (act : State → Option State) : Prop :=
      let w := (v ty).lkCum n f.cum
      any ty c
      ∧ (((v ty).peer n).st ≠ .open_ → comes ty c ((v ty).sendHello n))
      ∧ (((v ty).peer n).st = .open_ →
          (2 ^ 31 ≤ dist w ∨ (w.peer n).performed.contains f.psn = true → comes ty c (((w.bump (lkR 0 0x58) 1).lkAck n).lkFlush n))
          ∧ (dist w < rxWindow → (w.peer n).performed.contains f.psn = false →
              (∀ x, act w = some x → comes ty c ((x.lkPerformed n f.psn).lkFlush n)) ∧ (act w = none → comes ty c w))
          ∧ (rxWindow ≤ dist w → dist w < 2 ^ 31 → (w.peer n).performed.contains f.psn = false → comes ty c (w.lkFlush n)))
    sequenced 1 (.data f) (fun t => if t.dataStatus f ≠ stOk then some (t.lkNak n f.psn (t.dataStatus f)) else if f.length = 0 then some t else t.dataWrite f)
    ∧ sequenced 3 (.subscribe f) (fun t => some (t.subscribeIn f))
    ∧ sequenced 4 (.subReply f) (fun t => some (t.subReplyIn f))
    ∧ sequenced 5 (.fenceChange f) (fun t => some (let a := sliceNat f.payload 0 2
        if (t.sync a).st ≠ .free ∧ (t.sync a).alias_ = true ∧ (t.sync a).remote = true ∧ (t.sync a).node = n then t.signalLocal a (sliceNat f.payload 8 8) (bit (sliceNat f.payload 2 2) 0) else t))
    ∧ sequenced 6 (.unsubscribe f) (fun t => some (let h := sliceNat f.payload 0 2
        let a := sliceNat f.payload 2 2
        if (n, a) ∈ (t.sync h).subs then (t.modSync h (fun y => { y with subs := y.subs.erase (n, a) })).dropRef kFence h else t))
    ∧ sequenced 7 (.credit f) (fun t => some (t.creditIn f))
    ∧ sequenced 8 (.runAbort f) (fun t => some (if t.namesOp f = true ∧ (t.run f.op).name = f.run then t.runAbort f.op else t))
    ∧ any 2 (.signal f) ∧ comes 2 (.signal f) ((v 2).signalHeld f)
    ∧ any 16 (.ack f) ∧ comes 16 (.ack f) ((v 16).ackIn f)
    ∧ any 17 (.nak f) ∧ comes 17 (.nak f) ((v 17).nakIn f)
    ∧ any 18 (.hello f) ∧ comes 18 (.hello f) ((v 18).helloIn f)

/-- Timers of Niandop Link (14 R559, R561 to R564): acknowledgements, retransmission with a halved window, HELLOs of opening and quiet peers, loss, and closing. -/
def Obligations.LinkTimers : Prop :=
  ∀ (s : State) (n psn : Nat),
    let p := s.peer n
    (s.fabricOn = true → p.st = .open_ →
      (0 < p.sinceAck → exec (.ackTimer n) s = .next (s.lkAck n)) ∧ (p.sinceAck = 0 → exec (.ackTimer n) s = .next s)
      ∧ (∀ x, p.unacked.find? (fun x => x.psn = psn) = some x →
          let due := x.tSent + Nat.min 1000000 (Nat.max 1000 (2 * p.srtt) * 2 ^ x.tries)
          (due ≤ s.now → exec (.retransmitTimeout n psn) s = .next ((s.modPeer n (fun p => { p with window := Nat.max 8 (p.window / 2), grow := 0 })).lkRetx n psn))
          ∧ (s.now < due → exec (.retransmitTimeout n psn) s = .next s))
      ∧ (s.linked n = true → exec (.keepAlive n) s = .next (s.lkPlain n (s.helloPkt n s.lk.inc)))
      ∧ (s.linked n = false → exec (.keepAlive n) s = .next s)
      ∧ ((∃ x ∈ p.unacked, x.tFirst + s.lkCfg 8 * 100000 ≤ s.now) → exec (.lostTimeout n) s = .next (s.peerLost n))
      ∧ (p.unacked = [] → p.waitTx = [] → s.linked n = false →
          exec (.lostTimeout n) s = .next s
          ∧ (p.lastHeard + 100000000 ≤ s.now → (∀ e ∈ s.lk.peers, e.2.waitTx = []) → Gives (.peerIdleClose n) s (fun t =>
              t.peer n = { leaving := p.leaving } ∧ (∀ k, k ≠ n → t.peer k = s.peer k) ∧ t = { s with lk := { s.lk with peers := t.lk.peers } }))
          ∧ (s.now < p.lastHeard + 100000000 → exec (.peerIdleClose n) s = .next s)))
    ∧ (s.fabricOn = true → p.st = .opening → exec (.helloTimer n) s = .next (s.helloAll n)
        ∧ (p.tOpen + s.lkCfg 8 * 100000 ≤ s.now → exec (.lostTimeout n) s = .next (s.peerLost n)))
    ∧ (s.fabricOn = false → exec (.ackTimer n) s = .next s ∧ exec (.helloTimer n) s = .next s ∧ exec (.keepAlive n) s = .next s ∧ exec (.lostTimeout n) s = .next s)

/-- Quads, cages and lane tests (14 R547 to R551, R581, R583): a quad that loses its lock leaves service and one that trains returns, unless LK_QCTRL.OUT holds
it; a cage module that is not supported leaves its port ABSENT; GO clears the counts of its lanes and STOP ends the test. -/
def Obligations.QuadsAndCages : Prop :=
  ∀ (s : State) (port quad : Nat) (p : Path),
    let x := s.port port
    1 ≤ port → port ≤ 8 →
      (quad < 4 → bit x.inService quad = true →
          exec (.quadOut port quad .lock) s = .next (s.quadsLeave port (2 ^ quad))
          ∧ (∃ k, s.lkCfg 11 < k ∧ exec (.quadOut port quad .fec) s = .next (({ s with free := s.free + 1 }.bump (lkR port (0x60 + 8 * quad)) k).quadsLeave port (2 ^ quad))))
      ∧ (quad < 4 → bit x.inService quad = false →
          (∀ why, exec (.quadOut port quad why) s = .next s)
          ∧ Gives (.quadRetrainTry port quad true) s (fun t => (∀ k, k ≠ port → t.port k = s.port k) ∧ (t.port port).inService = x.inService
              ∧ (bit (t.port port).training quad = true ↔ bit x.training quad = true ∨ (x.module.isSome = true ∧ x.refused = false ∧ bit (s.quadOutMask port) quad = false)) ∧ SameBytes s t)
          ∧ Gives (.quadRetrainTry port quad false) s (fun t => bit (t.port port).training quad = false ∧ (t.port port).inService = x.inService ∧ SameBytes s t))
      ∧ (quad < 4 → bit x.training quad = true → bit (s.quadOutMask port) quad = false → (∀ e ∈ s.lk.peers, e.2.st ≠ .open_) →
          Gives (.quadReturn port quad) s (fun t => t.port port = { x with training := x.training - 2 ^ quad, inService := x.inService ||| 2 ^ quad } ∧ SameBytes s t))
      ∧ (quad < 4 → bit x.training quad = false ∨ bit (s.quadOutMask port) quad = true → exec (.quadReturn port quad) s = .next s)
      ∧ (∀ v, Privileged s p (lkR port 0x18) → let a := s.setQuadOut port (bits v.toNat 7 4)
          exec (.qctrlOut p port v) s = .next ((a.quadsLeave port (bits v.toNat 3 0)).quadsTrain port (bits v.toNat 3 0))
          ∧ exec (.quadRetrain p port v) s = .next ((a.quadsLeave port (bits v.toNat 3 0)).quadsTrain port (bits v.toNat 3 0)))
      ∧ (∀ m, x.module = none → Gives (.cageInsert port m) s (fun t => (t.port port).module = some m ∧ (t.port port).inService = 0 ∧ (∀ k, k ≠ port → t.port k = s.port k)
          ∧ ((t.port port).refused = false ↔ m.lanes16x100 = true ∧ m.fourInterfaces = true ∧ m.watts ≤ 20) ∧ ((t.port port).refused = true → (t.port port).training = 0) ∧ SameBytes s t))
      ∧ (∀ m, x.module.isSome = true → exec (.cageInsert port m) s = .next s)
      ∧ Gives (.cageRemove port) s (fun t => t.port port = {})
      ∧ (∀ v, Privileged s p (lkR port 0x80) →
          let lanes := bits v.toNat 15 0
          (bit v.toNat 31 = true → lanes &&& quadLanes (s.quadOutMask port) = lanes → bits v.toNat 18 16 ≤ 5 → Gives (.prbsGo p port v) s (fun t =>
              t.reg (lkR port 0x80) = bits v.toNat 18 0 ∧ (∀ l, l < 16 → bit lanes l = true → t.reg (lkR port (0x100 + 8 * l)) = 0)
              ∧ t.rf (lkR port 0x88) 15 0 = s.rf (lkR port 0x88) 15 0 ||| lanes ∧ SameBytes s t))
          ∧ (bit v.toNat 31 = true → lanes &&& quadLanes (s.quadOutMask port) ≠ lanes ∨ 5 < bits v.toNat 18 16 → exec (.prbsGo p port v) s = .next s)
          ∧ (bit v.toNat 31 = false → bit v.toNat 30 = true → Gives (.prbsStop p port v) s (fun t => t.reg (lkR port 0x80) = bits v.toNat 18 0 ∧ t.reg (lkR port 0x88) = 0 ∧ SameBytes s t)))

/-- The fabric, groups, operations and runs (14 R560, R564, R568 to R574, R579, R584): entries are checked and stored whole; a run starts when its trigger has risen
above the last, ends when all is done, and fails after its timeout. -/
def Obligations.FabricAndRuns : Prop :=
  ∀ (s : State) (p : Path) (op : Nat) (data : List Byte),
    let e := s.lkOp op
    let f := s.sync (s.original (opTrigger e))
    let stored (c : Instr) (idx st : Nat) (x : State) : Prop :=
      TakesItem s p idx 2 → exec c s = .next ((if st = stOk then x else x.odBump 0x6200 1 1).odReply p st)
    (TakesItem s p 0x5000 2 → exec (.fabricEnable p) s = .next (((s.fabricSet true).noteS p 0x5000 2).odReply p stOk)
        ∧ exec (.fabricDisable p) s = .next (((s.fabricSet false).noteS p 0x5000 2).odReply p stOk))
    ∧ (s.mg.stage = .ready → s.lk.on = false → (s.fabricSet true).lk.on = true ∧ 0 < (s.fabricSet true).lk.inc ∧ (s.fabricSet true).lk.inc < 2 ^ 32 ∧ (s.fabricSet true).lk.peers = [])
    ∧ (let g := s.odGet 0x5200 1
       (data.length ≠ 64 → stored (.groupWrite p data) 0x5200 stBadDesc s)
       ∧ (data.length = 64 → (entValid data = false → stored (.groupWrite p data) 0x5200 stOk (s.groupClear g))
          ∧ (entValid data = true → s.groupBad g data = true → stored (.groupWrite p data) 0x5200 stBadDesc s)
          ∧ (entValid data = true → s.groupBad g data = false → stored (.groupWrite p data) 0x5200 stOk (s.groupPut g data) ∧ (s.groupPut g data).lkGroup g = data)))
    ∧ (let o := s.odGet 0x5300 1
       (data.length ≠ 64 → stored (.operationWrite p data) 0x5300 stBadDesc s)
       ∧ (data.length = 64 → (entValid data = false → stored (.operationWrite p data) 0x5300 stOk (s.opClear o))
          ∧ (entValid data = true → s.opBad o data = true → stored (.operationWrite p data) 0x5300 stBadDesc s)
          ∧ (entValid data = true → s.opBad o data = false → stored (.operationWrite p data) 0x5300 stOk { s with lk := { s.lk with ops := s.lk.ops.set o [] data, runs := s.lk.runs.del o } })))
    ∧ (entValid e = true → (s.run op).running = false →
        (f.error = true → exec (.runStart op) s = .next (s.signal (opDone e) f.value true))
        ∧ (f.error = false → (s.run op).lastTrigger < f.value → s.runsOn < 64 → exec (.runStart op) s = .next (s.runBegin op f.value))
        ∧ (f.error = false → f.value ≤ (s.run op).lastTrigger ∨ 64 ≤ s.runsOn → exec (.runStart op) s = .next s))
    ∧ ((s.run op).running = true → exec (.runStart op) s = .next s
        ∧ ((s.run op).tStart + s.lkCfg 9 * 100000 ≤ s.now → exec (.runTimeout op) s = .next (s.runFail op stTimeout))
        ∧ (s.now < (s.run op).tStart + s.lkCfg 9 * 100000 → exec (.runTimeout op) s = .next s))
    ∧ ((s.opAdvance op).runDone op = true → exec (.runComplete op) s = .next ((s.opAdvance op).runEnd op stOk))
    ∧ ((s.opAdvance op).runDone op = false → exec (.runComplete op) s = .next (s.opAdvance op))

/-! ### Negatives and repair (15), observation (17), and power (18) -/

/-- Negatives (15 R588 to R593, R595, R597, R598): a plan that passes its checks is due τ after it is enabled; a due negative writes its image, signals DUE and
waits for TRIGGER; failures are reported by group; the fabric is restored or remapped whole or not at all; a digest command is checked and answered. When
the first negative is due is the model's choice (log 33). -/
def Obligations.Negatives : Prop :=
  ∀ (s : State) (p : Path) (n : Nat) (w : Words4),
    let x := s.plan n
    let item (c : Instr) (idx sub st : Nat) (x : State) : Prop :=
      TakesItem s p idx sub → exec c s = .next ((if st = stOk then x else x.odBump 0x6200 1 1).odReply p st)
    (n < 8 →
        item (.planEnable p n 0) (0x6030 + n) 1 stOk (s.planOff n) ∧ (s.planOff n).planOn n = false
        ∧ (∀ v, 1 < v.toNat → item (.planEnable p n v) (0x6030 + n) 1 stBadDesc s)
        ∧ (s.planFits n = false → item (.planEnable p n 1) (0x6030 + n) 1 stBadDesc s)
        ∧ (∀ u, s.planFits n = true → x.state = 0 → State.rangeOwned (cdiv (s.planOd n 8) 64) s n (s.planOd n 7) = (some true, u) → TakesItem s p (0x6030 + n) 1 →
            ∃ t : State, exec (.planEnable p n 1) s = .next (t.odReply p stOk) ∧ (t.plan n).state = 1 ∧ (t.plan n).n = 1
              ∧ (t.plan n).c = s.planOd n 10 * 100000000 ∧ (t.plan n).due = s.now + (t.plan n).tau ∧ t.odGet (0x6030 + n) 1 = 1))
    ∧ (4096 ≤ n → item (.failureReport p n) 0x6043 1 stBadDesc s)
    ∧ (n < 4096 → item (.failureReport p n) 0x6043 1 stOk (s.each ((List.range 8).filter (fun p => s.planOn p && decide (s.planOd p 6 = n))) (fun t p => t.planFailure p none)))
    ∧ (x.state ≠ 1 ∨ s.now < x.due → exec (.negativeDue n) s = .next s)
    ∧ (x.state = 1 → x.due ≤ s.now →
        let img := s.fabricImage n x.n
        let r := s.ipaWriteMem n (s.planOd n 7) img []
        (s.planOd n 8 * 1024 < img.length → exec (.negativeDue n) s = .next ((s.negFail n).signal (s.planOd n 3) x.n true))
        ∧ (img.length ≤ s.planOd n 8 * 1024 → r.wait = false → r.fault = none → r.status = none →
            exec (.negativeDue n) s = .next ((r.st.modPlan n (fun x => { x with state := 2, tDue := s.now, late := false })).signal (s.planOd n 3) x.n false)))
    ∧ (x.state = 2 → x.late = false → (s.now < x.tDue + x.tau → exec (.negativeLate n) s = .next s)
        ∧ (x.tDue + x.tau ≤ s.now → Gives (.negativeLate n) s (fun t => t.plan n = { x with late := true } ∧ t.odGet 0x61F0 4 = (s.odGet 0x61F0 4 + 1) % 2 ^ 64 ∧ SameBytes s t)))
    ∧ (x.state = 2 → x.late = true → exec (.negativeLate n) s = .next s)
    ∧ (let r := s.fabricCmd w
       r.1.odGet 0x6042 2 = (r.2.getD 0) % 2 ^ 64 ∧ (∀ st, r.2 = some st → item (.restore p w) 0x6042 1 st r.1 ∧ item (.remap p w) 0x6042 1 st r.1))
    ∧ (let a := w.w0.toNat
       let ok (act : Nat) : Prop := bits a 63 56 = act ∧ bits a 55 51 = 0 ∧ bits a 47 0 % 32 = 0 ∧ w.w1.toNat < 2 ^ 52 ∧ w.w1.toNat % 32 = 0
         ∧ w.w2.toNat < 2 ^ 52 ∧ w.w2.toNat % 64 = 0 ∧ w.w3.toNat < 2 ^ 52 ∧ w.w3.toNat % 64 = 0
       let start (c : Instr) (cmp : Bool) : Prop := TakesItem s p 0x6041 1 → s.ng.digest = none → ∃ t : State, exec c s = .next (t.odReply p stOk)
         ∧ t.ng.digest = some { compare := cmp, part := bits a 50 48, len := bits a 47 0, addr := w.w1.toNat, out := w.w2.toNat, ref := w.w3.toNat } ∧ bit (t.reg (ngR 0x10)) 8 = true
       (ok 1 → start (.digest p w) false) ∧ (ok 2 → start (.compare p w) true)
       ∧ (s.ng.digest ≠ none → item (.digest p w) 0x6041 1 stBadDesc s ∧ item (.compare p w) 0x6041 1 stBadDesc s))
    ∧ (s.ng.digest = none → exec .digestDone s = .next s)
    ∧ (∀ j, s.ng.digest = some j → j.compare = false →
        let r := (List.range (cdiv j.len 67108864)).foldl (State.digestChunk j) { st := s }
        let o := r.st.ipaWriteMem j.part j.out r.out []
        r.wait = false → o.wait = false → o.fault = none → o.status = none → Gives .digestDone s (fun t => t = o.st.digestEnd r.done r.status 0 0 ∧ t.ng.digest = none
          ∧ t.reg (ngR 0x10) = (r.done * 2 ^ 32 + r.status) % 2 ^ 64))

/-- Service commands (15 R600, R603 to R608): a part is released or returned with its LED, and a command that the unit does not fit is refused with BAD_DESC;
a brick goes only within the limit of one brick fewer. -/
def Obligations.ServiceCommands : Prop :=
  ∀ (s : State) (p : Path) (v : W32),
    let u := bits v.toNat 7 0
    let asks (act : Nat) : Prop := bits v.toNat 31 24 = act ∧ bits v.toNat 23 8 = 0 ∧ TakesItem s p 0x6040 1
    let done (c : Instr) (x : State) : Prop := exec c s = .next ((x.odSet 0x6040 2 stOk).odReply p stOk)
    let bad (c : Instr) : Prop := exec c s = .next (((s.odSet 0x6040 2 stBadDesc).odBump 0x6200 1 1).odReply p stBadDesc)
    (asks 1 → (u < 6 → exec (.releaseBrick p v) s = .next (({ s with ng := { s.ng with svc := s.ng.svc ++ [SvcWait.brick p u] } }).odHold p)) ∧ (6 ≤ u → bad (.releaseBrick p v)))
    ∧ (asks 2 → (u < 6 → s.ac = true → exec (.releaseFan p v) s = .next ((((({ s with pw := { s.pw with fans := s.pw.fans.upd u {} (fun f => { f with running := false, released := true }) } }).led (ledKey 1 u) true).odSet 0x6040 2 stOk).odReply p stOk).fanCheck))
        ∧ (6 ≤ u ∨ s.ac = false → exec (.releaseFan p v) s = .next ((((s.odSet 0x6040 2 stBadDesc).odBump 0x6200 1 1).odReply p stBadDesc).fanCheck)))
    ∧ (asks 3 → (1 ≤ u → u ≤ 8 → done (.releaseCage p v) ((s.setQuadOut u 0xF).led (ledKey 2 u) true)) ∧ (u = 0 ∨ 8 < u → bad (.releaseCage p v)))
    ∧ (asks 4 → (1 ≤ u → u ≤ 8 → (s.port u).refused = false → done (.returnCage p v) ((s.setQuadOut u 0).led (ledKey 2 u) false))
        ∧ (1 ≤ u → u ≤ 8 → (s.port u).refused = true → exec (.returnCage p v) s = .next (((((s.setQuadOut u 0).led (ledKey 2 u) false).odSet 0x6040 2 stUnitOffline).odBump 0x6200 1 1).odReply p stUnitOffline))
        ∧ (u = 0 ∨ 8 < u → bad (.returnCage p v)))
    ∧ (asks 5 → (u = 0 → done (.prepareModule p v) s.prepareModule ∧ (s.lk.peers = [] → s.prepareModule.lk.stopped = true ∧ s.prepareModule.ng.leds.getD (ledKey 3 0) false = true))
        ∧ (u ≠ 0 → bad (.prepareModule p v)))
    ∧ (asks 6 → (∀ slot, u < 128 → s.slotOf (u / 8) (u % 8) = some slot → Gives (.spareCore p v) s (fun t => ∃ x : State, t = x.odHold p
            ∧ x.ng.svc = (s.setDrain slot true).ng.svc ++ [SvcWait.core p u] ∧ ({ work := .testCore slot false, part := (s.setDrain slot true).clPart (u / 8) } : Maint) ∈ x.pt.maint))
        ∧ (128 ≤ u → bad (.spareCore p v))
        ∧ (u < 128 → s.slotOf (u / 8) (u % 8) = none → exec (.spareCore p v) s = .next (((s.odSet 0x6040 2 stUnitOffline).odBump 0x6200 1 1).odReply p stUnitOffline)))
    ∧ (∀ inputW n, s.ng.svc.findSome? (fun (w : SvcWait) => match w with | .brick _ n => some n | _ => none) = some n →
        let mine (w : SvcWait) : Bool := match w with | .brick _ m => m = n | _ => false
        (3 ≤ s.bricksOn → inputW ≤ s.moduleLimit → exec (.brickReleaseEnd inputW) s = .next ((({ s with pw := { s.pw with bricks := s.pw.bricks.upd n {} (fun b => { b with delivering := false, released := true }) } }).led (ledKey 0 n) true).svcAnswer mine stOk))
        ∧ (s.bricksOn < 3 ∨ s.moduleLimit < inputW → exec (.brickReleaseEnd inputW) s = .next (s.svcAnswer mine stTimeout)))

/-- Observation (17 R652, R655, R656, R662 to R664, R669 to R672): a context takes a plan whose fields are in range; a block that is drained advances the reel's head,
and one that cannot be written is lost and stops the reel; a step without progress hangs; a sheet that is written is HELD until it is released. What DB_RHEAD counts is
the model's reading (log 34). -/
def Obligations.Observation : Prop :=
  ∀ (s : State) (p : Path) (n : Nat) (v : W32),
    (∀ data, TakesItem s p 0x7100 2 →
        (planBytesOk data = true → (s.ctx (s.odGet 0x7100 1)).st = .live → exec (.profilePlanWrite p data) s = .next (({ s with obs := { s.obs with plans := s.obs.plans.put (s.odGet 0x7100 1) data } }).odReply p stOk))
        ∧ (planBytesOk data = false ∨ (s.ctx (s.odGet 0x7100 1)).st ≠ .live → exec (.profilePlanWrite p data) s = .next ((s.odBump 0x6200 1 1).odReply p stBadDesc)))
    ∧ (n < 17 → Privileged s p (dbR n 0x100) →
        exec (.reelFlush p n v) s = .next (s.rctrlWrite n v.toNat) ∧ exec (.reelDisable p n v) s = .next (s.rctrlWrite n v.toNat)
        ∧ (s.rctrlWrite n v.toNat).rf (dbR n 0x100) 31 31 = bits v.toNat 31 31)
    ∧ (∀ c, 1 ≤ n → n < 17 → p = .engine c → bit v.toNat 30 = false → exec (.reelFlush p n v) s = .next s.discardRwp ∧ exec (.reelDisable p n v) s = .next s.discardRwp)
    ∧ ((s.reelOf n).waiting = none → ∀ ok, exec (.reelDrainDone n ok) s = .next s)
    ∧ (∀ l, (s.reelOf n).waiting = some l →
        let lost := (((s.bump (dbR n 0x118) l.length).odBump 0x6210 3 l.length).setRf (dbR n 0x100) 31 31 0)
        Gives (.reelDrainDone n false) s (fun t => t = lost.modReel n (fun r => Reel.turn { r with waiting := none } (reelHalf n))
          ∧ t.reg (dbR n 0x118) = (s.reg (dbR n 0x118) + l.length) % 2 ^ 64 ∧ t.rf (dbR n 0x100) 31 31 = 0 ∧ t.reg (dbR n 0x110) = s.reg (dbR n 0x110) ∧ SameBytes s t)
        ∧ (let d := s.reg (dbR n 0x108)
           let r := s.reelPut (bit d 63) (bits d 56 15 * 2 ^ 15 + s.reg (dbR n 0x110) / reelHalf n % 2 ^ bits d 3 0 * (reelHalf n * 32)) (slice (l.flatMap recBytes) 0 (reelHalf n * 32))
           ∀ x, r = (some x, false) → exec (.reelDrainDone n true) s = .next ((x.bump (dbR n 0x110) (reelHalf n)).modReel n (fun r => Reel.turn { r with waiting := none } (reelHalf n)))))
    ∧ (∀ r, s.stepOf n = some r → r.st = .running ∨ r.st = .yielding → s.frozen r.ctx = false → r.watch ≠ 0 →
        (s.now < r.lastProgress + r.watch * 100000 → exec (.progressWatchdog n) s = .next s)
        ∧ (r.lastProgress + r.watch * 100000 ≤ s.now → exec (.progressWatchdog n) s = .next (s.hang n 2)
            ∧ (s.obs.sheet = none → bit (s.reg (dbR 0 0x10)) 31 = false → (s.hang n 2).obs.sheet = some { queue := n, ctx := r.ctx, part := r.part, cause := 2, tFreeze := s.now, sb := (s.cores.filter (fun e => e.2.ctx = some r.ctx)).map (fun e => (e.1, e.2.sb)) })))
    ∧ (s.obs.sheet = none → exec .contactSheetDone s = .next s)
    ∧ (∀ x, s.obs.sheet = some x → let t := { s.writeSheet x with obs := { (s.writeSheet x).obs with sheet := none } }
        exec .contactSheetDone s = .next (((t.setRf (dbR 0 0x10) 31 0 (2 ^ 31 + x.cause * 2 ^ 24 + x.ctx)).odBump 0x6210 1 1).teardown x.ctx (some (x.queue, stTimeout)) false false))
    ∧ (Privileged s p (dbR 0 0x18) → s.obs.sheet = none → bit v.toNat 0 = true →
        Gives (.contactSheetRelease p true v) s (fun t => t.rf (dbR 0 0x10) 31 31 = 0 ∧ t.rf (dbR 0 0x10) 63 32 = 0 ∧ (∀ o, o ≠ dbR 0 0x10 → t.reg o = s.reg o) ∧ t = { s with regs := t.regs }))
    ∧ (TakesItem s p 0x7300 2 → (v.toNat = 1 → exec (.contactSheetRelease p false v) s = .next (s.sheetRelease.odReply p stOk))
        ∧ (v.toNat ≠ 1 → exec (.contactSheetRelease p false v) s = .next ((s.odBump 0x6200 1 1).odReply p stBadDesc)))

/-- Power, bricks and fans (18 R673, R675 to R686): power comes up with three bricks and goes in order, a restart waits for the hold-off, a brick or fan that is lost is
reported, too few end the module's power, and too hot a module stops. -/
def Obligations.PowerAndCooling : Prop :=
  ∀ (s : State) (n : Nat),
    let b := s.pw.bricks.getD n {}
    let f := s.pw.fans.getD n {}
    let on : Prop := s.pw.phase = .on
    let off (c : Instr) (ph : PwrPhase) : Prop := exec c s = .next (s.powerLost ph true) ∧ (s.powerLost ph true).pw.phase = ph ∧ (s.powerLost ph true).mem = [] ∧ (s.powerLost ph true).obj = {}
      ∧ (s.powerLost ph true).regs = [] ∧ (s.powerLost ph true).pending = s.pending
    (∀ pins, s.pw.pwrEn = true → exec (.powerUp pins) s = .next s)
    ∧ (∀ pins, s.pw.pwrEn = false → let t : State := { s with pw := { s.pw with pwrEn := true, pins := pins } }
        (s.pw.phase = .off → s.pw.holdoff = false → exec (.powerUp pins) s = .next t.powerGo
          ∧ (3 ≤ (s.pw.bricks.filter (fun e => e.2.present && e.2.genuine && !e.2.failed)).length → t.powerGo.pw.phase = .on ∧ t.powerGo.mg.stage = .rom ∧ t.powerGo.now = 0 ∧ t.powerGo.clk.osc = !pins.j2Ok)
          ∧ ((s.pw.bricks.filter (fun e => e.2.present && e.2.genuine && !e.2.failed)).length < 3 → t.powerGo.pw.phase = .held true))
        ∧ (s.pw.phase ≠ .off ∨ s.pw.holdoff = true → exec (.powerUp pins) s = .next t))
    ∧ (s.pw.pwrEn = true → on → Gives .pwrEnFall s (fun t => t.pw.phase = .off ∧ t.pw.pwrEn = false ∧ t.pw.holdoff = true ∧ t.mem = [] ∧ t.regs = [] ∧ t.obj = {}))
    ∧ (s.pw.pwrEn = false → exec .pwrEnFall s = .next s)
    ∧ (∀ pins, s.pw.phase = .off → s.pw.holdoff = true → (s.pw.pwrEn = true → exec (.restartHoldoff pins) s = .next ({ s with pw := { s.pw with pins := pins } }).powerGo)
        ∧ (s.pw.pwrEn = false → exec (.restartHoldoff pins) s = .next { s with pw := { s.pw with holdoff := false } }))
    ∧ (∀ pins, s.pw.phase ≠ .off ∨ s.pw.holdoff = false → exec (.restartHoldoff pins) s = .next s)
    ∧ (on → exec .inputDip s = .next (s.odBump 0x6220 3 1) ∧ off .undervoltage .off ∧ off .overvoltage (.held true) ∧ off .brickOverload .off
        ∧ exec .hwThermalTrip s = .next s.thermalStop ∧ s.thermalStop.pw.phase = .held false
        ∧ (∀ t : Int, 105 ≤ t → exec (.thermalShutdown t) s = .next s.thermalStop) ∧ (∀ t : Int, t < 105 → exec (.thermalShutdown t) s = .next s))
    ∧ (¬on → exec .inputDip s = .next s ∧ exec .overvoltage s = .next s ∧ exec .brickOverload s = .next s ∧ exec .hwThermalTrip s = .next s)
    ∧ (∀ genuine, n < 6 → b.present = false → on → Gives (.brickInsert n genuine) s (fun t => t.pw.bricks.getD n {} = { present := true, genuine := genuine, delivering := genuine }
        ∧ (∀ k, k ≠ n → t.pw.bricks.getD k {} = s.pw.bricks.getD k {}) ∧ t.ng.leds.getD (ledKey 0 n) false = !genuine ∧ t.pw.phase = .on ∧ SameBytes s t))
    ∧ (∀ genuine, 6 ≤ n ∨ b.present = true → exec (.brickInsert n genuine) s = .next s)
    ∧ (b.present = false → exec (.brickLost n) s = .next s)
    ∧ (b.present = true → b.delivering = false → on → Gives (.brickLost n) s (fun t => t.pw.bricks.getD n {} = {} ∧ t.ng.leds.getD (ledKey 0 n) false = false ∧ t.pw.phase = .on ∧ SameBytes s t))
    ∧ (b.present = true → b.delivering = true → on → s.ng.svc = [] →
        let x : State := { s with pw := { s.pw with bricks := s.pw.bricks.set n {} { b with delivering := false, failed := true } } }
        (3 ≤ x.bricksOn → Gives (.brickLost n) s (fun t => t.pw = x.pw ∧ bit (t.reg (mgR 0x18)) 4 = true ∧ bit (t.reg (ngR 0x18)) 3 = true ∧ SameBytes s t))
        ∧ (x.bricksOn < 3 → Gives (.brickLost n) s (fun t => t.pw.phase = .held true ∧ t.pw.holdoff = true ∧ (t.pw.bricks.getD n {}).delivering = false ∧ t.mem = [] ∧ t.obj = {})))
    ∧ (s.ac = true → n < 6 → f.fitted = false → on → Gives (.fanInsert n) s (fun t => t.pw.fans.getD n {} = { fitted := true, running := true } ∧ t.ng.leds.getD (ledKey 1 n) false = false ∧ SameBytes s t))
    ∧ (s.ac = false ∨ 6 ≤ n ∨ f.fitted = true → exec (.fanInsert n) s = .next s)
    ∧ (s.ac = false ∨ f.fitted = false → exec (.fanLost n) s = .next s)
    ∧ (s.ac = true → f.fitted = true → f.running = false → on → Gives (.fanLost n) s (fun t => t.pw.fans.getD n {} = {} ∧ t.ng.leds.getD (ledKey 1 n) false = false ∧ t.pw.phase = .on ∧ SameBytes s t))
    ∧ (s.ac = true → f.fitted = true → f.running = true → on → Gives (.fanLost n) s (fun t => t.pw.phase = .held false ∨ (t.pw.phase = .on ∧ (t.pw.fans.getD n {}) = { f with running := false } ∧ bit (t.reg (mgR 0x18)) 4 = true)))

/-! ### Management, security and start-up (16_management_and_startup.md) -/

/-- Dictionary items (16 R612 to R619, R623): a read gives an entry's value and a description its type, in the data buffer of the BAR4 window; a write is checked
before it changes anything, is answered with its status, and what follows its reply comes after it. -/
def Obligations.DictionaryItems : Prop :=
  ∀ (s : State) (p : Path) (idx sub off : Nat) (d : List Byte),
    let shows (c : Instr) (bs : List Byte) : Prop := Gives c s (fun t => (∀ i b, bs[i]? = some b → t.buf4.getD i 0 = b)
      ∧ t.rf (b4R 0x10008) 31 31 = 0 ∧ t.rf (b4R 0x10008) 23 16 = stOk ∧ t.rf (b4R 0x10008) 12 0 = bs.length ∧ SameBytes s t ∧ t.od = s.od)
    (s.fnServes 0 = true → s.odBusy .pf = false → s.earlyStage = false →
        (s.odStageOk idx sub false = true →
          (∀ v, s.odValue idx sub = some v → shows (.odRead .pf idx sub off) ((if odBlobEntry idx sub = true then v.drop (4096 * off) else v).take 4096))
          ∧ (∀ v, odDescription idx sub = some v → shows (.odDescribe .pf idx sub) (v.take 4096))
          ∧ (s.odValue idx sub = none → exec (.odRead .pf idx sub off) s = .next (s.odStat stBadDesc 0))
          ∧ (odDescription idx sub = none → exec (.odDescribe .pf idx sub) s = .next (s.odStat stBadDesc 0)))
        ∧ (s.odStageOk idx sub false = false → exec (.odRead .pf idx sub off) s = .next (s.odStat stUnitOffline 0) ∧ exec (.odDescribe .pf idx sub) s = .next (s.odStat stUnitOffline 0)))
    ∧ (s.fnServes 0 = true → s.odBusy .pf = true → exec (.odRead .pf idx sub off) s = .next (s.setRf (b4R 0x10008) 30 30 1))
    ∧ (TakesItem s p idx sub →
        let r := s.odWriteAct p idx sub d
        (∀ st, r.2 = some st → st ≠ stOk → exec (.odWrite p idx sub d) s = .next ((r.1.odBump 0x6200 1 1).odReply p st))
        ∧ (r.2 = some stOk → exec (.odWrite p idx sub d) s = .next ((r.1.odReply p stOk).afterWrite idx sub (leNat d)))
        ∧ (r.2 = none → exec (.odWrite p idx sub d) s = .next (r.1.odHold p)))
    ∧ (∀ r, odRow idx sub = some r → r.acc = .ro ∨ r.acc = .const → s.odWriteAct p idx sub d = (s.discardRo, some stBadDesc))
    ∧ (∀ r, odRow idx sub = some r → r.acc ≠ .ro → r.acc ≠ .const → odTypeOk r.ty d = false → s.odWriteAct p idx sub d = (s, some stBadDesc))
    ∧ (TakesItem s p 0x4250 1 → d.length = 2 →
        (leNat d ≤ 4096 → Gives (.odWrite p 0x4250 1 d) s (fun t => t.odGet 0x4250 1 = leNat d ∧ SameBytes s t))
        ∧ (4096 < leNat d → exec (.odWrite p 0x4250 1 d) s = .next ((s.odBump 0x6200 1 1).odReply p stBadDesc)))

/-- Frames of Tuinias and its sessions (16 R620 to R627, R629): an unsealed frame of a type that may be unsealed, and a sealed one of an open session, act; others are dropped
and counted; four sessions are held; a session opens for an owner's key alone. Which number a session takes is a free value (log 35), keys and signatures opaque (log 14). -/
def Obligations.TuiniasSessions : Prop :=
  ∀ (s : State) (h : TuiHead),
    let heard : Prop := s.pw.phase = .on ∧ s.mg.inReset = false
    let plain (len : Nat) : Prop := heard ∧ headOk h len = true ∧ h.sealed = false ∧ h.session = 0 ∧ h.seq = 0
    let sealed_ (i len : Nat) : Prop := heard ∧ s.openSessions.find? (fun i => (s.mg.sessions.getD i {}).id = h.session) = some i ∧ headOk h len = true ∧ h.sealed = true
      ∧ h.tagOk = true ∧ (s.mg.sessions.getD i {}).takes h.seq = true ∧ h.seq < 2 ^ 32
    let at_ (i : Nat) : State := { s with mg := { s.mg with sessions := s.mg.sessions.set i {} { s.mg.sessions.getD i {} with rxSeq := Nat.max (s.mg.sessions.getD i {}).rxSeq h.seq, seen := (h.seq :: (s.mg.sessions.getD i {}).seen).filter (fun q => Nat.max (s.mg.sessions.getD i {}).rxSeq h.seq < q + 65), tLast := s.now } } }
    (plain 0 → exec (.discover h) s = .next s.announce)
    ∧ (∀ msg : List Byte, plain msg.length → exec (.spdm h msg) s = .next (({ s with free := s.free + 1 }).tuiPlain 0x40 h.req 0 (Config.spdmAnswer s.free s.measurements msg)))
    ∧ (heard → h.sealed = true ∨ h.session ≠ 0 ∨ h.seq ≠ 0 → exec (.discover h) s = .next s.tuiDrop ∧ ∀ msg, exec (.spdm h msg) s = .next s.tuiDrop)
    ∧ (∀ a b c : List Byte, plain 226 → a.length = 97 → b.length = 97 → c.length = 32 →
        (∀ i, (List.range 4).find? (fun i => (s.mg.sessions.find i).isNone) = some i → Gives (.sessionInit h a b c) s (fun t =>
            let x := t.mg.sessions.getD i {}
            x.opened = false ∧ x.hostKey = a ∧ 0 < x.id ∧ x.id < 2 ^ 32 ∧ x.tOpen = s.now ∧ (∀ k, k ≠ i → t.mg.sessions.getD k {} = s.mg.sessions.getD k {}) ∧ t.free = s.free + 1 ∧ SameBytes s t))
        ∧ ((∀ i, i < 4 → (s.mg.sessions.find i).isSome = true) → exec (.sessionInit h a b c) s = .next (s.sessionReject h.req stQuota)))
    ∧ (∀ (sig : List Byte) i, plain 96 → sig.length = 96 → s.halfOpen = some i →
        let x := s.mg.sessions.getD i {}
        (∀ n, (List.range 4).find? (fun n => decide (s.mg.owners.find n = some (Config.sha384 x.hostKey)) && !bit s.mg.ownerRevoked n) = some n →
          (Config.ecdsaVerify x.hostKey x.script sig = true → Gives (.sessionFinish h sig) s (fun t => t = { s with mg := { s.mg with sessions := t.mg.sessions } }
              ∧ t.mg.sessions.getD i {} = { x with opened := true, owner := n, script := [], tLast := s.now, tOpen := s.now } ∧ ∀ k, k ≠ i → t.mg.sessions.getD k {} = s.mg.sessions.getD k {}))
          ∧ (Config.ecdsaVerify x.hostKey x.script sig = false → exec (.sessionFinish h sig) s = .next ((s.closeSession i).sessionReject h.req stBadDesc)))
        ∧ ((∀ n, n < 4 → s.mg.owners.find n = some (Config.sha384 x.hostKey) → bit s.mg.ownerRevoked n = true) → exec (.sessionFinish h sig) s = .next ((s.closeSession i).sessionReject h.req stBadDesc)))
    ∧ (∀ i, sealed_ i 0 → exec (.sessionClose h) s = .next ((at_ i).closeSession i)
        ∧ Gives (.eventAck h) s (fun t => ∀ e, e ∈ (t.mg.sessions.getD i {}).events ↔ e ∈ (s.mg.sessions.getD i {}).events ∧ e.req ≠ h.req))
    ∧ (heard → h.tagOk = false → exec (.sessionClose h) s = .next s.tuiDrop ∧ exec (.eventAck h) s = .next s.tuiDrop)
    ∧ (∀ i x, s.mg.sessions.find i = some x →
        (x.tLast + 6000000000 ≤ s.now ∨ x.tOpen + 8640000000000 ≤ s.now → exec (.sessionTimeout i) s = .next (s.closeSession i))
        ∧ (s.now < x.tLast + 6000000000 → s.now < x.tOpen + 8640000000000 → exec (.sessionTimeout i) s = .next s))
    ∧ (∀ i, (s.mg.sessions.getD i {}).opened = true → exec (.eventRepeat i) s = .next (s.each (s.mg.sessions.getD i {}).events (fun t e => t.eventAgain i e))
        ∧ ((∀ e ∈ (s.mg.sessions.getD i {}).events, s.now < e.tLast + 100000000) → exec (.eventRepeat i) s = .next s))
    ∧ (∀ items : List OdItem, itemsOk items = true →
        (∀ i, sealed_ i (sumNat (items.map OdItem.size)) →
          let k := i + 4 * (((List.range ((at_ i).mg.reqs.length + 1)).find? (fun k => ((at_ i).mg.reqs.find (i + 4 * (k + 1))).isNone)).getD 0 + 1)
          exec (.odRequest h items) s = .next (State.reqEnd ((at_ i).runItems (.session k) true [] [] items) k h.req))
        ∧ (plain (sumNat (items.map OdItem.size)) → let r := s.runItems .firmware false [] [] items
            exec (.odRequest h items) s = .next (r.st.tuiPlain 0x21 h.req 0 r.out)))
    ∧ (∀ items : List OdItem, s.pw.phase = .on → itemsOk items = false → exec (.odRequest h items) s = .next s.tuiDrop)

/-- The loader and start-up (16 R630 to R632, R635 to R637): an image comes by offer or from the host, a read without data is repeated ten times, an image that fails is
dropped with its cause shown, one that passes starts the firmware, and the restore ends by command or after its window. -/
def Obligations.LoaderAndStart : Prop :=
  ∀ (s : State) (h : TuiHead) (p : Path) (n : Nat),
    let l := s.mg.loader
    let plain (len : Nat) : Prop := s.pw.phase = .on ∧ s.mg.inReset = false ∧ headOk h len = true ∧ h.sealed = false ∧ h.session = 0 ∧ h.seq = 0
    (s.pw.phase = .on → s.mg.stage = .waitImage → exec .imageRequest s = .next (s.tuiPlain 0x50 0 0 []))
    ∧ (plain 4 → (s.mg.stage = .waitImage → n ≤ 0x4000000 → exec (.imageOffer h n) s = .next ((s.fetchStart 2 n 0).imageReads 8) ∧ (s.fetchStart 2 n 0).mg.stage = .verify ∧ (s.fetchStart 2 n 0).mg.held = false)
        ∧ (s.mg.stage = .waitImage → 0x4000000 < n → exec (.imageOffer h n) s = .next (s.loaderFail 2))
        ∧ (s.mg.stage = .verify ∨ s.mg.stage = .start ∨ s.mg.stage = .ready → exec (.imageOffer h n) s = .next s.tuiDrop))
    ∧ (∀ data : List Byte, plain (8 + data.length) → s.mg.stage = .verify → l.source = 2 →
        ((l.reads.find n).isSome = true → data.length = Nat.min 1400 (l.size - n) →
          exec (.imageData h n data) s = .next (({ s with mg := { s.mg with image := s.mg.image.put n data, imageSize := s.mg.imageSize + data.length, loader := { l with reads := l.reads.del n } } }).imageReads 1))
        ∧ (l.reads.find n = none ∨ data.length ≠ Nat.min 1400 (l.size - n) → exec (.imageData h n data) s = .next s.tuiDrop))
    ∧ (∀ k, s.mg.stage = .verify → l.source = 2 → l.reads.find n = some k →
        (10 ≤ k → exec (.imageReadTimeout n) s = .next (s.loaderFail 1))
        ∧ (k < 10 → exec (.imageReadTimeout n) s = .next (({ s with mg := { s.mg with loader := { l with reads := l.reads.put n (k + 1) } } }).tuiPlain 0x52 0 0 (leBytes 4 n ++ leBytes 4 (Nat.min 1400 (l.size - n))))))
    ∧ (∀ v : W32, let w := setBits v.toNat 31 31 1
        let t := s.setRf (b4R 0x12008) 26 0 (bits w 26 0)
        let a := t.reg (b4R 0x12000)
        s.fnServes 0 = true → s.mg.stage = .waitImage → l.busy = false →
          (0x4000000 < bits w 26 0 → exec (.loaderGo .pf v) s = .next (t.loaderFail 2))
          ∧ (bits w 26 0 ≤ 0x4000000 → let u := t.fetchStart 1 (bits w 26 0) a
              (∀ bs, u.hostRead a (bits w 26 0) = some bs → exec (.loaderGo .pf v) s = .next { u with mg := { u.mg with image := [(0, bs)], imageSize := bs.length } })
              ∧ (u.hostRead a (bits w 26 0) = none → exec (.loaderGo .pf v) s = .next (u.hostReadFailed.loaderFail 1))))
    ∧ (s.pw.phase = .on → s.mg.stage = .verify → l.source ≠ 2 ∨ (l.reads = [] ∧ l.size ≤ l.next) →
        (∀ c, s.imageVerdict = .error c → exec .imageCheck s = .next (s.loaderFail c)) ∧ (∀ k, s.imageVerdict = .ok k → exec .imageCheck s = .next (s.fwStart k)))
    ∧ (∀ c, c < 256 → (s.loaderFail c).mg.stage = .waitImage ∧ (s.loaderFail c).mg.held = false ∧ (s.loaderFail c).rf (mgR 0x10) 15 8 = c ∧ bit ((s.loaderFail c).reg (mgR 0x18)) 6 = true)
    ∧ (TakesItem s p 0x9000 3 → exec (.restoreDone p 1) s = .next (s.restoreEnd.odReply p stOk)
        ∧ ∀ v : Byte, v ≠ 1 → exec (.restoreDone p v) s = .next ((s.odBump 0x6200 1 1).odReply p stBadDesc))
    ∧ (s.mg.stage = .start → s.mg.restoreDone = false →
        (s.mg.tRestore + 3000000000 ≤ s.now → exec .restoreWindowExpiry s = .next (s.setRf (mgR 0x10) 30 30 1).restoreEnd)
        ∧ (s.now < s.mg.tRestore + 3000000000 → exec .restoreWindowExpiry s = .next s))

/-- Warm resets, the watchdog and fuses (16 R633, R634, R639 to R641, R647): a warm reset follows its reply, the third expiry within an hour gives up the image, and a
fuse command blows exactly what it names, or nothing. -/
def Obligations.ResetsAndFuses : Prop :=
  ∀ (s : State) (p : Path) (v : Byte) (w : W32) (data : List Byte),
    let k := v.toNat
    let fuses (t : State) : Nat × SMap (List Byte) × Nat × Nat × Nat := (t.mg.keyRevoked, t.mg.owners, t.mg.ownerRevoked, t.mg.floor, t.mg.raisesLeft)
    (TakesItem s p 0x9010 1 →
        (bits w.toNat 23 0 = 0 → exec (.warm p w) s = .next (s.odReply p stOk).warmReset
          ∧ exec (.warmReload p w) s = .next { (s.odReply p stOk).warmReset with mg := { (s.odReply p stOk).warmReset.mg with held := false } })
        ∧ (bits w.toNat 23 0 ≠ 0 → exec (.warm p w) s = .next ((s.odBump 0x6200 1 1).odReply p stBadDesc)))
    ∧ (s.mg.stage = .start ∨ s.mg.stage = .ready →
        let times := s.now :: s.mg.wdTimes.filter (fun t => s.now < t + 360000000000)
        let t := (((({ s with mg := { s.mg with wdTimes := times } }).bumpSat (mgR 0x28) 0 16 1).alert 5).logEvent 0x0003 2 0 0).warmReset
        exec .watchdog s = .next (if 3 ≤ times.length then t.loaderFail 7 else t))
    ∧ (s.mg.stage ≠ .start → s.mg.stage ≠ .ready → exec .watchdog s = .next s)
    ∧ (TakesItem s p 0x8020 1 →
        (k < 4 → k ≠ s.mg.runSlot → (∃ n, n < 4 ∧ n ≠ k ∧ bit s.mg.keyRevoked n = false) → Gives (.revokeKeySlot p v) s (fun t => fuses t = (s.mg.keyRevoked ||| 2 ^ k, (fuses s).2) ∧ SameBytes s t))
        ∧ (4 ≤ k ∨ k = s.mg.runSlot → Gives (.revokeKeySlot p v) s (fun t => fuses t = fuses s ∧ SameBytes s t)))
    ∧ (TakesItem s p 0x8020 3 → k = 1 →
        (s.mg.floor < s.mg.runArb → s.mg.raisesLeft ≠ 0 → Gives (.raiseRollbackFloor p v) s (fun t => fuses t = (s.mg.keyRevoked, s.mg.owners, s.mg.ownerRevoked, s.mg.runArb, s.mg.raisesLeft - 1) ∧ SameBytes s t))
        ∧ (s.mg.runArb ≤ s.mg.floor ∨ s.mg.raisesLeft = 0 → Gives (.raiseRollbackFloor p v) s (fun t => fuses t = fuses s ∧ SameBytes s t)))
    ∧ (TakesItem s p 0x8010 5 → let n := sliceNat data 0 1
        (data.length = 49 → n < 4 → s.mg.owners.find n = none → Gives (.programOwnerSlot p data) s (fun t => fuses t = (s.mg.keyRevoked, s.mg.owners.put n (data.drop 1), s.mg.ownerRevoked, s.mg.floor, s.mg.raisesLeft) ∧ SameBytes s t))
        ∧ (data.length ≠ 49 ∨ 4 ≤ n ∨ (s.mg.owners.find n).isSome = true → Gives (.programOwnerSlot p data) s (fun t => fuses t = fuses s ∧ SameBytes s t)))
    ∧ (TakesItem s p 0x8010 6 →
        (k < 4 → Gives (.revokeOwnerSlot p v) s (fun t => fuses t = (s.mg.keyRevoked, s.mg.owners, s.mg.ownerRevoked ||| 2 ^ k, s.mg.floor, s.mg.raisesLeft) ∧ SameBytes s t
            ∧ ∀ i, i < 4 → (t.mg.sessions.getD i {}).opened = true → (t.mg.sessions.getD i {}).owner ≠ k))
        ∧ (4 ≤ k → Gives (.revokeOwnerSlot p v) s (fun t => fuses t = fuses s ∧ SameBytes s t)))

/-! ### The whole machine -/

/-- A step runs the command at the front of the queue, with the queue's rest. -/
def Obligations.StepRunsFront : Prop :=
  ∀ (s : State) (c : Instr) (rest : List Instr), s.pending = c :: rest → step s = exec c { s with pending := rest }

/-- No command stops the block, and no command changes the queue of those that wait or the variant; on an empty queue time passes by one period while power holds,
and memory stays (01 R34; that time passes then is the model's choice, log 3). -/
def Obligations.StepGoesOn : Prop :=
  (∀ s : State, goesOn s) ∧ (∀ (c : Instr) (s t : State), exec c s = .next t → t.pending = s.pending ∧ t.ac = s.ac)
  ∧ ∀ s : State, s.pending = [] → ∃ t : State, step s = .next t ∧ t.pending = [] ∧ (s.mg.reqs = [] →
      t.now = (if s.pw.phase = .on then s.now + 1 else s.now) ∧ SameBytes s t ∧ (s.mg.stage ≠ .rom → s.mg.stage ≠ .warm → t.regs = s.regs ∧ t.mg = s.mg ∧ t.cores = s.cores))

/-- After reset (01 R34, R39; 02 R86; 03 R130; 05 R210; 12 R462; 13 R497; 14 R559; 16 R635): no command waits, the time stamp is zero, ROOT stands at point 5, the stage is ROM,
each register and dictionary entry holds its table's reset value, engines are OFF, and no queue, partition, session or peer is there. A dictionary entry that the spec
gives no default holds the model's choice (log 12). -/
def Obligations.ResetValues : Prop :=
  let s := State.reset
  s.pending = [] ∧ s.now = 0 ∧ s.clk.rootMHz = 2400 ∧ s.mg.stage = .rom ∧ (∀ o, s.reg o = resetOf o s.ac % 2 ^ 64) ∧ (∀ i j, s.odGet i j = odDefault i j s.ac % 2 ^ 64)
    ∧ (∀ n, (s.core n).te = .off ∧ (s.mx n).state = .off ∧ (s.seq n).state = .off ∧ (s.queue n).st = .none ∧ (s.sync n).st = .free ∧ (s.ctx n).st = .free
        ∧ (s.memObj n).st = .free ∧ (s.part n).st = .absent ∧ (s.peer n).st = .closed ∧ (s.mg.sessions.getD n {}).opened = false ∧ s.kernel n = none ∧ s.stepOf n = none)

/-- Memory stands in canonical form after reset (the form is the model's, log 5). -/
def Obligations.ResetMemoryCanonical : Prop := Memory.wf State.reset = true

/-- Every step keeps the canonical form of memory, from every state that has it: the state of every run can be compared and written out (the form is the model's,
log 5). -/
def Obligations.MemoryStaysCanonical : Prop := ∀ s t : State, Memory.wf s = true → step s = .next t → Memory.wf t = true

/-- Fuses only blow (16 R633, R634): from every state, after every step, a revoked key-hash or owner slot is still revoked, an owner slot keeps what it was programmed with, the
rollback floor has not fallen, no raise is given back, and a key-hash slot is left where one was. -/
def Obligations.FusesNeverCleared : Prop :=
  ∀ s t : State, step s = .next t →
    (∀ n, bit s.mg.keyRevoked n = true → bit t.mg.keyRevoked n = true) ∧ (∀ n, bit s.mg.ownerRevoked n = true → bit t.mg.ownerRevoked n = true)
    ∧ (∀ n k, s.mg.owners.find n = some k → t.mg.owners.find n = some k) ∧ s.mg.floor ≤ t.mg.floor ∧ t.mg.raisesLeft ≤ s.mg.raisesLeft
    ∧ ((∃ n, n < 4 ∧ bit s.mg.keyRevoked n = false) → ∃ n, n < 4 ∧ bit t.mg.keyRevoked n = false)

/-- Which paths are privileged (00 R13), and what others do not do: the PF, the firmware and an authenticated session are privileged, a virtual function and a context are not; a
context's writes of registers that privileged paths set are discarded and counted, and neither reaches the dictionary. -/
def Obligations.PrivilegedPaths : Prop :=
  ∀ (s : State) (n k : Nat) (v : W32) (on : Bool),
    (s.privileged .pf = true ∧ s.privileged .firmware = true ∧ (∀ i, s.privileged (.session i) = (s.mg.sessions.getD (i % 4) {}).opened)
      ∧ s.privileged (.vf k) = false ∧ s.privileged (.engine k) = false)
    ∧ (let p := Path.engine k
       let lost (c : Instr) : Prop := exec c s = .next s.discardRwp
       (lost (.teDrainWrite p n on) ∧ lost (.teEnableWrite p n on) ∧ lost (.mxEnableWrite p n on) ∧ lost (.sqEnableWrite p n on) ∧ lost (.uuEnableWrite p n on)
         ∧ lost (.ccWayPowerDown p n k) ∧ lost (.ccWayPowerUp p n k) ∧ lost (.tkRetire p n v) ∧ lost (.tgGo p on n v) ∧ lost (.tgStop p on n v) ∧ lost (.contactSheetRelease p true v))
       ∧ (1 ≤ n → n ≤ 8 → lost (.qctrlOut p n v) ∧ lost (.quadRetrain p n v) ∧ lost (.prbsGo p n v) ∧ lost (.prbsStop p n v)))
    ∧ (s.discardRwp.rf (mgR 0x20) 63 32 = Nat.min (s.rf (mgR 0x20) 63 32 + 1) (2 ^ 32 - 1) ∧ s.discardRwp.rf (mgR 0x20) 31 0 = s.rf (mgR 0x20) 31 0
        ∧ (∀ o, o ≠ mgR 0x20 → s.discardRwp.reg o = s.reg o) ∧ s.discardRwp = { s with regs := s.discardRwp.regs })
    ∧ (∀ p, p = .vf k ∨ p = .engine k → ∀ idx sub d, exec (.odWrite p idx sub d) s = .next s ∧ exec (.drain p v) s = .next s ∧ exec (.apply p v) s = .next s ∧ exec (.warm p v) s = .next s)

/-- Accesses that reach no register (00 R9, R10): one of a bad size or alignment reads all ones and is discarded, and a host's is answered with Unsupported Request; where no
register stands a read returns zero and a write is discarded. -/
def Obligations.NoRegisterReached : Prop :=
  ∀ (s : State) (off size : Nat) (val : W64), off < 0x4000000 →
    (accessOk off size = false →
      (s.regLoad off size).1 = 2 ^ (8 * size) - 1 ∧ exec (.regWrite .firmware off size val) s = .next s ∧ (∀ c, exec (.regWrite (.engine c) off size val) s = .next s)
      ∧ exec (.regWrite .pf off size val) s = .next (s.urAnswer 0) ∧ Gives (.badSizeAccess .pf false off size val) s (fun t => t.host.reply = [.unsupported])
      ∧ (∀ k o, State.reached (.vf k) o = some off → o < cfgBase → exec (.badSizeAccess (.vf k) true o size val) s = .next (s.urAnswer k)
        ∧ Gives (.badSizeAccess (.vf k) false o size val) s (fun t => t.host.reply = [.unsupported] ∧ t.regs = s.regs))
      ∧ (s.pw.phase = .on → (s.urAnswer 0).host.aer = .unsupportedRequest 0 :: s.host.aer ∧ (s.urAnswer 0).regs = s.regs))
    ∧ (accessOk off size = true → inBuf4 off = false → findReg off = none →
      (size = 4 → (s.regLoad off size).1 = 0) ∧ (size = 8 → findReg (off + 4) = none → (s.regLoad off size).1 = 0)
      ∧ exec (.regWrite .firmware off size val) s = .next s ∧ (∀ c, exec (.regWrite (.engine c) off size val) s = .next s)
      ∧ (s.fnServes 0 = true → s.mg.stage = .ready → exec (.regWrite .pf off size val) s = .next s))

/-- A STEP whose CLUSTERS exceeds the number of clusters the partition holds is refused with QUOTA (12 R472), where its entry and its step object pass the checks that come
before. -/
def Obligations.StepOverQuota : Prop :=
  ∀ (s : State) (q : Nat),
    let x := s.queue q
    let size := if x.fmt = 1 then 64 else 128
    let r := s.frontRead x.ctx (x.ring + x.head % 2 ^ x.sizeLog * size) size
    let e := (if x.fmt = 1 then entryV1 r.data else entryV2 r.data)
    let u := r.st
    let g := (u.queue q).headGen
    let o := u.frontRead x.ctx e.e.obj 64
    x.st = .active → x.held = none → x.head ≠ x.tail → s.mg.stage = .ready → s.mg.down = false → r.wait = false → r.stat = stOk →
    (u.queue q).fmt = x.fmt → entryKnown x.fmt r.data = true → e.bad = false → (∀ w ∈ e.e.waits, u.fenceOk x.ctx w.1 g false = true) →
    (∀ w ∈ e.e.sigs, u.sigOk q x.ctx g w.1 = true) → (∀ m ∈ e.e.mems, u.memOk x.ctx m g = true) → e.e.kind = 1 → o.wait = false → o.stat = stOk → stepObjBad o.data = false →
    (o.st.partCls (u.ctxPart x.ctx)).length < bits (sliceNat o.data 0x18 4) 4 0 →
      Gives (.entryAccept q) s (fun t => ∃ h, (t.queue q).held = some h ∧ h.phase = .done stQuota ∧ h.refused = true ∧ (t.queue q).head = ((o.st.queue q).head + 1) % 2 ^ 32
        ∧ t.stepOf q = o.st.stepOf q)

end
end

