-- ==== Sys2Proof/Laws/Keeps.lean ====
section
/-! SUPPORT. What a step protects: the commands that wait, device and host memory, poison marks and fuses. `Closed I` says once what a
command can do to them; a file `Keeps<File>` then says of each operation of `Machine/<File>.lean` that it keeps every such `I`. -/

namespace Sys2Proof.Machine

/-- The protected part of a state. -/
structure Prot where
  pending : List Instr
  ac : Bool
  mem : SMap Byte
  hostMem : SMap Byte
  poison : SMap Bool
  keyRevoked : Nat
  owners : SMap (List Byte)
  ownerRevoked : Nat
  floor : Nat
  raisesLeft : Nat

/-- The protected part of a state. -/
def State.prot (s : State) : Prot :=
  { pending := s.pending, ac := s.ac, mem := s.mem, hostMem := s.hostMem, poison := s.ext.poison, keyRevoked := s.mg.keyRevoked,
    owners := s.mg.owners, ownerRevoked := s.mg.ownerRevoked, floor := s.mg.floor, raisesLeft := s.mg.raisesLeft }

/-- A property of the protected part holds of a state. -/
def Holds (I : Prot → Prop) (s : State) : Prop := I s.prot

/-- What commands do to the protected part, one thing at a time: bytes and poison marks are written or forgotten, a fuse is blown as
R633 and R634 of 16_management_and_startup.md allow. -/
structure Closed (I : Prot → Prop) : Prop where
  memSet : ∀ p a v, I p → I { p with mem := p.mem.set a 0 v }
  memFilter : ∀ p f, I p → I { p with mem := p.mem.filter f }
  hostSet : ∀ p a v, I p → I { p with hostMem := p.hostMem.set a 0 v }
  poisonSet : ∀ p a b, I p → I { p with poison := p.poison.set a false b }
  poisonFilter : ∀ p f, I p → I { p with poison := p.poison.filter f }
  keyRevoke : ∀ p v, v < 4 → (List.range 4).filter (fun n => !bit p.keyRevoked n) ≠ [v] → I p →
    I { p with keyRevoked := p.keyRevoked ||| 2 ^ v }
  ownerRevoke : ∀ p v, v < 4 → I p → I { p with ownerRevoked := p.ownerRevoked ||| 2 ^ v }
  ownerPut : ∀ p n d, (p.owners.find n).isSome = false → I p → I { p with owners := p.owners.put n d }
  floorRaise : ∀ p r, p.floor < r → p.raisesLeft ≠ 0 → I p → I { p with floor := r, raisesLeft := p.raisesLeft - 1 }

variable {I : Prot → Prop}

theorem holds_congr {s t : State} (e : t.prot = s.prot) (h : Holds I s) : Holds I t := by
  unfold Holds; rw [e]; exact h

/-- A record update that leaves the protected fields as they are. -/
@[simp] theorem holds_mk {s : State} (h : Holds I s) {fr now regs al b4 od ob hf ck co se ext xl up ho obj pt lk ng mg obs pw}
    (he : ext.poison = s.ext.poison) (hk : mg.keyRevoked = s.mg.keyRevoked) (hw : mg.owners = s.mg.owners)
    (hr : mg.ownerRevoked = s.mg.ownerRevoked) (hfl : mg.floor = s.mg.floor) (hl : mg.raisesLeft = s.mg.raisesLeft) :
    Holds I ⟨s.pending, fr, now, s.ac, regs, al, b4, od, ob, s.mem, s.hostMem, hf, ck, co, se, ext, xl, up, ho, obj, pt, lk, ng, mg, obs, pw⟩ :=
  holds_congr (s := s) (by simp [State.prot, he, hk, hw, hr, hfl, hl]) h

@[simp] theorem holds_ite {c : Prop} [Decidable c] {a b : State} (ha : c → Holds I a) (hb : ¬c → Holds I b) : Holds I (if c then a else b) := by
  split
  · exact ha ‹_›
  · exact hb ‹_›

@[simp] theorem holds_foldl {α : Type} {f : State → α → State} {l : List α} {s : State} (h : Holds I s)
    (hf : ∀ t x, Holds I t → Holds I (f t x)) : Holds I (l.foldl f s) := by
  induction l generalizing s with
  | nil => exact h
  | cons x l ih => exact ih (hf s x h)

/-- As `holds_foldl`, for an accumulator that holds a state. -/
theorem holds_foldl_of {α β : Type} {f : β → α → β} {l : List α} (p : β → State) {r : β} (h : Holds I (p r))
    (hf : ∀ r x, Holds I (p r) → Holds I (p (f r x))) : Holds I (p (l.foldl f r)) := by
  induction l generalizing r with
  | nil => exact h
  | cons x l ih => exact ih (hf r x h)

@[simp] theorem holds_foldl_fst {α β : Type} {f : State × β → α → State × β} {l : List α} {r : State × β} (h : Holds I r.1)
    (hf : ∀ (r : State × β) x, Holds I r.1 → Holds I (f r x).1) : Holds I (l.foldl f r).1 := holds_foldl_of (fun r : State × β => r.1) h hf

@[simp] theorem holds_foldl_snd {α β : Type} {f : β × State → α → β × State} {l : List α} {r : β × State} (h : Holds I r.2)
    (hf : ∀ (r : β × State) x, Holds I r.2 → Holds I (f r x).2) : Holds I (l.foldl f r).2 := holds_foldl_of (fun r : β × State => r.2) h hf

@[simp] theorem holds_ite_fst {β : Type} {c : Prop} [Decidable c] {a b : State × β} (ha : c → Holds I a.1) (hb : ¬c → Holds I b.1) :
    Holds I (if c then a else b).1 := by split; exact ha ‹_›; exact hb ‹_›

@[simp] theorem holds_ite_snd {β : Type} {c : Prop} [Decidable c] {a b : β × State} (ha : c → Holds I a.2) (hb : ¬c → Holds I b.2) :
    Holds I (if c then a else b).2 := by split; exact ha ‹_›; exact hb ‹_›

/-- Every next state that an outcome answers keeps `I`. -/
def HoldsOut (I : Prot → Prop) (o : Host.Outcome State Fault Refusal) : Prop := ∀ t, o = .next t → Holds I t

theorem out_next {t : State} (h : Holds I t) : HoldsOut I (.next t) := by intro u e; cases e; exact h

theorem out_ite {c : Prop} [Decidable c] {a b : Host.Outcome State Fault Refusal} (ha : c → HoldsOut I a) (hb : ¬c → HoldsOut I b) :
    HoldsOut I (if c then a else b) := by split; exact ha ‹_›; exact hb ‹_›

/-- A pair taken apart. -/
theorem holds_of_fst {β : Type} {p : State × β} {a : State} {b : β} (e : p = (a, b)) (h : Holds I p.1) : Holds I a := by rw [e] at h; exact h

theorem holds_of_snd {β : Type} {p : β × State} {a : State} {b : β} (e : p = (b, a)) (h : Holds I p.2) : Holds I a := by rw [e] at h; exact h

/-- A fact carried over an equation, as when a match takes a result apart. -/
theorem holds_of {α : Type} {p : α → State} {x y : α} (e : x = y) (h : Holds I (p x)) : Holds I (p y) := e ▸ h

/-- Every state that an optional result answers keeps `I`. -/
def HoldsSome (I : Prot → Prop) {α : Type} (p : α → State) (o : Option α) : Prop := ∀ t, o = some t → Holds I (p t)

theorem some_none {α : Type} {p : α → State} : HoldsSome I p none := by intro t e; cases e

theorem some_some {α : Type} {p : α → State} {x : α} (h : Holds I (p x)) : HoldsSome I p (some x) := by intro t e; cases e; exact h

theorem some_of {α : Type} {p : α → State} {o : Option α} {x : α} (e : o = some x) (h : HoldsSome I p o) : Holds I (p x) := h x e

theorem holds_getD {α : Type} {p : α → State} {o : Option α} {d : α} (h : HoldsSome I p o) (hd : Holds I (p d)) : Holds I (p (o.getD d)) := by
  cases o with
  | none => exact hd
  | some x => exact h x rfl

theorem Closed.memSets (H : Closed I) {α : Type} (k : α → Nat) (v : α → Byte) (l : List α) {p : Prot} (h : I p) :
    I { p with mem := l.foldl (fun m e => m.set (k e) 0 (v e)) p.mem } := by
  induction l generalizing p with
  | nil => exact h
  | cons x l ih => exact ih (H.memSet p (k x) (v x) h)

theorem Closed.hostSets (H : Closed I) {α : Type} (k : α → Nat) (v : α → Byte) (l : List α) {p : Prot} (h : I p) :
    I { p with hostMem := l.foldl (fun m e => m.set (k e) 0 (v e)) p.hostMem } := by
  induction l generalizing p with
  | nil => exact h
  | cons x l ih => exact ih (H.hostSet p (k x) (v x) h)

theorem Closed.memClear (H : Closed I) {p : Prot} (h : I p) : I { p with mem := [] } := by
  have e : p.mem.filter (fun _ => false) = [] := by simp
  rw [← e]; exact H.memFilter p (fun _ => false) h

theorem Closed.poisonClear (H : Closed I) {p : Prot} (h : I p) : I { p with poison := [] } := by
  have e : p.poison.filter (fun _ => false) = [] := by simp
  rw [← e]; exact H.poisonFilter p (fun _ => false) h

end Sys2Proof.Machine
end

