-- ==== Sys2Proof/Laws/KeepsOps.lean ====
section
/-! SUPPORT. What the operations of Machine/Ops.lean protect. -/

namespace Sys2Proof.Machine

set_option linter.all false

variable {I : Prot → Prop}

@[simp] theorem State.setReg_keeps (H : Closed I) {s : State} {off v : Nat} (h0 : Holds I s) : Holds I (State.setReg s off v) := by
  unfold State.setReg
  exact holds_mk h0 rfl rfl rfl rfl rfl rfl

@[simp] theorem State.setRf_keeps (H : Closed I) {s : State} {off hi lo v : Nat} (h0 : Holds I s) : Holds I (State.setRf s off hi lo v) := by
  unfold State.setRf
  exact (State.setReg_keeps H h0)

@[simp] theorem State.bump_keeps (H : Closed I) {s : State} {off n : Nat} (h0 : Holds I s) : Holds I (State.bump s off n) := by
  unfold State.bump
  exact (State.setReg_keeps H h0)

@[simp] theorem State.bumpSat_keeps (H : Closed I) {s : State} {off lo w n : Nat} (h0 : Holds I s) : Holds I (State.bumpSat s off lo w n) := by
  unfold State.bumpSat
  exact (State.setRf_keeps H h0)

@[simp] theorem State.odSet_keeps (H : Closed I) {s : State} {idx sub v : Nat} (h0 : Holds I s) : Holds I (State.odSet s idx sub v) := by
  unfold State.odSet
  exact holds_mk h0 rfl rfl rfl rfl rfl rfl

@[simp] theorem State.odBump_keeps (H : Closed I) {s : State} {idx sub n : Nat} (h0 : Holds I s) : Holds I (State.odBump s idx sub n) := by
  unfold State.odBump
  exact (State.odSet_keeps H h0)

@[simp] theorem State.odBumpSat_keeps (H : Closed I) {s : State} {idx sub w n : Nat} (h0 : Holds I s) : Holds I (State.odBumpSat s idx sub w n) := by
  unfold State.odBumpSat
  exact (State.odSet_keeps H h0)

@[simp] theorem State.setBlob_keeps (H : Closed I) {s : State} {idx sub : Nat} {v : List Byte} (h0 : Holds I s) : Holds I (State.setBlob s idx sub v) := by
  unfold State.setBlob
  exact holds_mk h0 rfl rfl rfl rfl rfl rfl

@[simp] theorem State.draw_keeps (H : Closed I) {s : State} (h0 : Holds I s) : Holds I ((State.draw s).2) := by
  unfold State.draw
  exact holds_mk h0 rfl rfl rfl rfl rfl rfl

@[simp] theorem State.setCore_keeps (H : Closed I) {s : State} {slot : Nat} {c : Core} (h0 : Holds I s) : Holds I (State.setCore s slot c) := by
  unfold State.setCore
  exact holds_mk h0 rfl rfl rfl rfl rfl rfl

@[simp] theorem State.modCore_keeps (H : Closed I) {s : State} {slot : Nat} {f : Core → Core} (h0 : Holds I s) : Holds I (State.modCore s slot f) := by
  unfold State.modCore
  exact (State.setCore_keeps H h0)

@[simp] theorem State.modMx_keeps (H : Closed I) {s : State} {slot : Nat} {f : Mx → Mx} (h0 : Holds I s) : Holds I (State.modMx s slot f) := by
  unfold State.modMx
  exact (State.modCore_keeps H h0)

@[simp] theorem State.setSeq_keeps (H : Closed I) {s : State} {cl : Nat} {q : Seq} (h0 : Holds I s) : Holds I (State.setSeq s cl q) := by
  unfold State.setSeq
  exact holds_mk h0 rfl rfl rfl rfl rfl rfl

@[simp] theorem State.modSeq_keeps (H : Closed I) {s : State} {cl : Nat} {f : Seq → Seq} (h0 : Holds I s) : Holds I (State.modSeq s cl f) := by
  unfold State.modSeq
  exact (State.setSeq_keeps H h0)

@[simp] theorem State.setCtx_keeps (H : Closed I) {s : State} {c : Nat} {v : CtxObj} (h0 : Holds I s) : Holds I (State.setCtx s c v) := by
  unfold State.setCtx
  exact holds_mk h0 rfl rfl rfl rfl rfl rfl

@[simp] theorem State.modCtx_keeps (H : Closed I) {s : State} {c : Nat} {f : CtxObj → CtxObj} (h0 : Holds I s) : Holds I (State.modCtx s c f) := by
  unfold State.modCtx
  exact (State.setCtx_keeps H h0)

@[simp] theorem State.setQueue_keeps (H : Closed I) {s : State} {q : Nat} {v : Queue} (h0 : Holds I s) : Holds I (State.setQueue s q v) := by
  unfold State.setQueue
  exact holds_mk h0 rfl rfl rfl rfl rfl rfl

@[simp] theorem State.modQueue_keeps (H : Closed I) {s : State} {q : Nat} {f : Queue → Queue} (h0 : Holds I s) : Holds I (State.modQueue s q f) := by
  unfold State.modQueue
  exact (State.setQueue_keeps H h0)

@[simp] theorem State.setSync_keeps (H : Closed I) {s : State} {h : Nat} {v : SyncObj} (h0 : Holds I s) : Holds I (State.setSync s h v) := by
  unfold State.setSync
  exact holds_mk h0 rfl rfl rfl rfl rfl rfl

@[simp] theorem State.modSync_keeps (H : Closed I) {s : State} {h : Nat} {f : SyncObj → SyncObj} (h0 : Holds I s) : Holds I (State.modSync s h f) := by
  unfold State.modSync
  exact (State.setSync_keeps H h0)

@[simp] theorem State.setMemObj_keeps (H : Closed I) {s : State} {h : Nat} {v : MemObj} (h0 : Holds I s) : Holds I (State.setMemObj s h v) := by
  unfold State.setMemObj
  exact holds_mk h0 rfl rfl rfl rfl rfl rfl

@[simp] theorem State.setPart_keeps (H : Closed I) {s : State} {p : Nat} {v : Partn} (h0 : Holds I s) : Holds I (State.setPart s p v) := by
  unfold State.setPart
  exact holds_mk h0 rfl rfl rfl rfl rfl rfl

@[simp] theorem State.modPart_keeps (H : Closed I) {s : State} {p : Nat} {f : Partn → Partn} (h0 : Holds I s) : Holds I (State.modPart s p f) := by
  unfold State.modPart
  exact (State.setPart_keeps H h0)

@[simp] theorem State.setStep_keeps (H : Closed I) {s : State} {q : Nat} {v : StepRec} (h0 : Holds I s) : Holds I (State.setStep s q v) := by
  unfold State.setStep
  exact holds_mk h0 rfl rfl rfl rfl rfl rfl

@[simp] theorem State.delStep_keeps (H : Closed I) {s : State} {q : Nat} (h0 : Holds I s) : Holds I (State.delStep s q) := by
  unfold State.delStep
  exact holds_mk h0 rfl rfl rfl rfl rfl rfl

@[simp] theorem State.modStep_keeps (H : Closed I) {s : State} {q : Nat} {f : StepRec → StepRec} (h0 : Holds I s) : Holds I (State.modStep s q f) := by
  unfold State.modStep
  split
  · exact (State.setStep_keeps H h0)
  · exact h0

@[simp] theorem State.setKernel_keeps (H : Closed I) {s : State} {k : Nat} {v : Kernel} (h0 : Holds I s) : Holds I (State.setKernel s k v) := by
  unfold State.setKernel
  exact holds_mk h0 rfl rfl rfl rfl rfl rfl

@[simp] theorem State.delKernel_keeps (H : Closed I) {s : State} {k : Nat} (h0 : Holds I s) : Holds I (State.delKernel s k) := by
  unfold State.delKernel
  extract_lets +onlyGivenNames -merge -useContext a20
  have h21 : Holds I a20 := by
    unfold a20
    split
    · refine iteInduction (motive := fun r => Holds I r) (fun _ => ?_) (fun _ => ?_)
      · exact (State.modPart_keeps H h0)
      · exact h0
    · exact h0
  try clear_value a20
  exact holds_mk h21 rfl rfl rfl rfl rfl rfl

@[simp] theorem State.setUnit_keeps (H : Closed I) {s : State} {u : UnitId} {v : MemUnit} (h0 : Holds I s) : Holds I (State.setUnit s u v) := by
  unfold State.setUnit
  refine iteInduction (motive := fun r => Holds I r) (fun _ => ?_) (fun _ => ?_)
  · exact holds_mk h0 rfl rfl rfl rfl rfl rfl
  · refine iteInduction (motive := fun r => Holds I r) (fun _ => ?_) (fun _ => ?_)
    · exact holds_mk h0 rfl rfl rfl rfl rfl rfl
    · exact holds_mk h0 rfl rfl rfl rfl rfl rfl

@[simp] theorem State.modUnit_keeps (H : Closed I) {s : State} {u : UnitId} {f : MemUnit → MemUnit} (h0 : Holds I s) : Holds I (State.modUnit s u f) := by
  unfold State.modUnit
  exact (State.setUnit_keeps H h0)

@[simp] theorem State.setDie_keeps (H : Closed I) {s : State} {d : Nat} {v : Die} (h0 : Holds I s) : Holds I (State.setDie s d v) := by
  unfold State.setDie
  refine iteInduction (motive := fun r => Holds I r) (fun _ => ?_) (fun _ => ?_)
  · exact holds_mk h0 rfl rfl rfl rfl rfl rfl
  · exact holds_mk h0 rfl rfl rfl rfl rfl rfl

@[simp] theorem State.modDie_keeps (H : Closed I) {s : State} {d : Nat} {f : Die → Die} (h0 : Holds I s) : Holds I (State.modDie s d f) := by
  unfold State.modDie
  exact (State.setDie_keeps H h0)

@[simp] theorem State.modUu_keeps (H : Closed I) {s : State} {u : Nat} {f : Uu → Uu} (h0 : Holds I s) : Holds I (State.modUu s u f) := by
  unfold State.modUu
  exact holds_mk h0 rfl rfl rfl rfl rfl rfl

@[simp] theorem State.modFn_keeps (H : Closed I) {s : State} {f : Nat} {g : Fn → Fn} (h0 : Holds I s) : Holds I (State.modFn s f g) := by
  unfold State.modFn
  exact holds_mk h0 rfl rfl rfl rfl rfl rfl

@[simp] theorem State.modPeer_keeps (H : Closed I) {s : State} {n : Nat} {f : Peer → Peer} (h0 : Holds I s) : Holds I (State.modPeer s n f) := by
  unfold State.modPeer
  exact holds_mk h0 rfl rfl rfl rfl rfl rfl

@[simp] theorem State.modPort_keeps (H : Closed I) {s : State} {n : Nat} {f : Port → Port} (h0 : Holds I s) : Holds I (State.modPort s n f) := by
  unfold State.modPort
  exact holds_mk h0 rfl rfl rfl rfl rfl rfl

@[simp] theorem State.discardRwp_keeps (H : Closed I) {s : State} (h0 : Holds I s) : Holds I (State.discardRwp s) := by
  unfold State.discardRwp
  exact (State.bumpSat_keeps H h0)

@[simp] theorem State.discardRo_keeps (H : Closed I) {s : State} (h0 : Holds I s) : Holds I (State.discardRo s) := by
  unfold State.discardRo
  exact (State.bumpSat_keeps H h0)

@[simp] theorem State.alert_keeps (H : Closed I) {s : State} {b : Nat} (h0 : Holds I s) : Holds I (State.alert s b) := by
  unfold State.alert
  exact (State.setReg_keeps H h0)

@[simp] theorem State.closeSession_keeps (H : Closed I) {s : State} {i : Nat} (h0 : Holds I s) : Holds I (State.closeSession s i) := by
  unfold State.closeSession
  exact holds_mk h0 rfl rfl rfl rfl rfl rfl

@[simp] theorem State.tuiSend_keeps (H : Closed I) {s : State} {i type req status : Nat} {body : List Byte} (h0 : Holds I s) : Holds I (State.tuiSend s i type req status body) := by
  unfold State.tuiSend
  extract_lets +onlyGivenNames -merge -useContext a20
  refine iteInduction (motive := fun r => Holds I r) (fun _ => ?_) (fun _ => ?_)
  · exact h0
  · extract_lets +onlyGivenNames -merge -useContext a21 a22
    have h23 : Holds I a22 := by
      unfold a22
      exact holds_mk h0 rfl rfl rfl rfl rfl rfl
    try clear_value a22
    refine iteInduction (motive := fun r => Holds I r) (fun _ => ?_) (fun _ => ?_)
    · exact (State.closeSession_keeps H h23)
    · exact h23

@[simp] theorem State.sendEvent_keeps (H : Closed I) {s : State} {i : Nat} {body : List Byte} (h0 : Holds I s) : Holds I (State.sendEvent s i body) := by
  unfold State.sendEvent
  extract_lets +onlyGivenNames -merge -useContext a20 a21
  try clear_value a20
  have h22 : Holds I a21 := (State.tuiSend_keeps H h0)
  try clear_value a21
  refine iteInduction (motive := fun r => Holds I r) (fun _ => ?_) (fun _ => ?_)
  · exact holds_mk h22 rfl rfl rfl rfl rfl rfl
  · exact h22

@[simp] theorem State.logEvent_keeps (H : Closed I) {s : State} {code sev unit data : Nat} (h0 : Holds I s) : Holds I (State.logEvent s code sev unit data) := by
  unfold State.logEvent
  extract_lets +onlyGivenNames -merge -useContext a20 a21 a22 a23
  try clear_value a20
  have h24 : Holds I a23 := by
    unfold a23
    exact holds_mk h0 rfl rfl rfl rfl rfl rfl
  try clear_value a23
  refine holds_foldl_of (fun (r : State) => r) ?_ ?_
  · exact h24
  · intro _ _ h25
    exact (State.sendEvent_keeps H h25)

@[simp] theorem State.msix_keeps (H : Closed I) {s : State} {f v : Nat} (h0 : Holds I s) : Holds I (State.msix s f v) := by
  unfold State.msix
  extract_lets +onlyGivenNames -merge -useContext a20
  refine iteInduction (motive := fun r => Holds I r) (fun _ => ?_) (fun _ => ?_)
  · exact (State.odBump_keeps H h0)
  · refine iteInduction (motive := fun r => Holds I r) (fun _ => ?_) (fun _ => ?_)
    · exact h0
    · refine iteInduction (motive := fun r => Holds I r) (fun _ => ?_) (fun _ => ?_)
      · exact (State.modFn_keeps H h0)
      · exact holds_mk h0 rfl rfl rfl rfl rfl rfl

@[simp] theorem State.aer_keeps (H : Closed I) {s : State} {e : AerErr} (h0 : Holds I s) : Holds I (State.aer s e) := by
  unfold State.aer
  exact holds_mk h0 rfl rfl rfl rfl rfl rfl

@[simp] theorem State.internalError_keeps (H : Closed I) {s : State} (h0 : Holds I s) : Holds I (State.internalError s) := by
  unfold State.internalError
  extract_lets +onlyGivenNames -merge -useContext a20
  have h21 : Holds I a20 := (State.alert_keeps H (State.logEvent_keeps H (State.aer_keeps H h0)))
  try clear_value a20
  exact holds_mk h21 rfl rfl rfl rfl rfl rfl

@[simp] theorem State.errVec_keeps (H : Closed I) {s : State} {p b : Nat} (h0 : Holds I s) : Holds I (State.errVec s p b) := by
  unfold State.errVec
  extract_lets +onlyGivenNames -merge -useContext a20
  try clear_value a20
  refine iteInduction (motive := fun r => Holds I r) (fun _ => ?_) (fun _ => ?_)
  · exact h0
  · extract_lets +onlyGivenNames -merge -useContext a21
    have h22 : Holds I a21 := (State.setReg_keeps H h0)
    try clear_value a21
    refine iteInduction (motive := fun r => Holds I r) (fun _ => ?_) (fun _ => ?_)
    · exact (State.msix_keeps H h22)
    · exact h22

@[simp] theorem State.ngEvent_keeps (H : Closed I) {s : State} {b : Nat} (h0 : Holds I s) : Holds I (State.ngEvent s b) := by
  unfold State.ngEvent
  refine iteInduction (motive := fun r => Holds I r) (fun _ => ?_) (fun _ => ?_)
  · exact h0
  · extract_lets +onlyGivenNames -merge -useContext a20
    have h21 : Holds I a20 := (State.setReg_keeps H h0)
    try clear_value a20
    refine iteInduction (motive := fun r => Holds I r) (fun _ => ?_) (fun _ => ?_)
    · exact (State.msix_keeps H h21)
    · exact h21

@[simp] theorem State.errRecord_keeps (H : Closed I) {s : State} {off v : Nat} {f : State → State} (h0 : Holds I s) (h3 : ∀ y0, Holds I (y0) → Holds I (f y0)) : Holds I (State.errRecord s off v f) := by
  unfold State.errRecord
  refine iteInduction (motive := fun r => Holds I r) (fun _ => ?_) (fun _ => ?_)
  · exact (State.bumpSat_keeps H h0)
  · exact (h3 _ (State.setReg_keeps H h0))

@[simp] theorem State.each_keeps (H : Closed I) {α : Type} {s : State} {l : List α} {f : State → α → State} (h1 : Holds I s) (h3 : ∀ y0 y1, Holds I (y0) → Holds I (f y0 y1)) : Holds I (State.each s l f) := by
  unfold State.each
  simp (maxDischargeDepth := 60) +contextual [*] -- foldl-eta

end Sys2Proof.Machine
end

