-- ==== Sys2Proof/Laws/KeepsMem.lean ====
section
/-! SUPPORT. What the operations of Machine/Mem.lean protect. -/

namespace Sys2Proof.Machine

set_option linter.all false

variable {I : Prot → Prop}

@[simp] theorem State.wrBytes_keeps (H : Closed I) {s : State} {pa : Nat} {bs : List Byte} (h0 : Holds I s) : Holds I (State.wrBytes s pa bs) := H.memSets (fun e : Nat × Byte => pa + e.1) (fun e => e.2) _ h0

@[simp] theorem State.setPoison_keeps (H : Closed I) {s : State} {sec : Nat} {b : Bool} (h0 : Holds I s) : Holds I (State.setPoison s sec b) := H.poisonSet _ _ _ h0

@[simp] theorem State.keepTier_keeps (H : Closed I) {s : State} {sec : Nat} (h0 : Holds I s) : Holds I (State.keepTier s sec) := by
  unfold State.keepTier
  split
  · exact h0
  · exact holds_mk h0 rfl rfl rfl rfl rfl rfl

@[simp] theorem State.clean_keeps (H : Closed I) {s : State} {sec : Nat} (h0 : Holds I s) : Holds I (State.clean s sec) := by
  unfold State.clean
  exact holds_mk h0 rfl rfl rfl rfl rfl rfl

@[simp] theorem State.dropDirty_keeps (H : Closed I) {s : State} {sec : Nat} (h0 : Holds I s) : Holds I (State.dropDirty s sec) := by
  unfold State.dropDirty
  split
  · exact h0
  · exact (State.clean_keeps H (State.setPoison_keeps H (State.wrBytes_keeps H h0)))

@[simp] theorem State.countLine_keeps (H : Closed I) {s : State} {u : UnitId} {write : Bool} (h0 : Holds I s) : Holds I (State.countLine s u write) := by
  unfold State.countLine
  extract_lets +onlyGivenNames -merge -useContext a20
  try clear_value a20
  refine iteInduction (motive := fun r => Holds I r) (fun _ => ?_) (fun _ => ?_)
  · exact (State.bump_keeps H h0)
  · refine iteInduction (motive := fun r => Holds I r) (fun _ => ?_) (fun _ => ?_)
    · exact (State.bump_keeps H h0)
    · exact (State.bump_keeps H h0)

@[simp] theorem State.charge_keeps (H : Closed I) {s : State} {w : Who} {kind : Nat} (h0 : Holds I s) : Holds I (State.charge s w kind) := by
  unfold State.charge
  split
  · exact h0
  · refine iteInduction (motive := fun r => Holds I r) (fun _ => ?_) (fun _ => ?_)
    · exact h0
    · exact holds_mk h0 rfl rfl rfl rfl rfl rfl

@[simp] theorem State.setTkSet_keeps (H : Closed I) {s : State} {pa : Nat} {l : List TkLine} (h0 : Holds I s) : Holds I (State.setTkSet s pa l) := by
  unfold State.setTkSet
  exact (State.modDie_keeps H h0)

@[simp] theorem State.tkMod_keeps (H : Closed I) {s : State} {pa : Nat} {f : TkLine → TkLine} (h0 : Holds I s) : Holds I (State.tkMod s pa f) := by
  unfold State.tkMod
  exact (State.setTkSet_keeps H h0)

@[simp] theorem State.tkTouch_keeps (H : Closed I) {s : State} {pa : Nat} (h0 : Holds I s) : Holds I (State.tkTouch s pa) := by
  unfold State.tkTouch
  split
  · exact (State.setTkSet_keeps H h0)
  · exact h0

@[simp] theorem State.tkDrop_keeps (H : Closed I) {s : State} {pa : Nat} (h0 : Holds I s) : Holds I (State.tkDrop s pa) := by
  unfold State.tkDrop
  exact (State.setTkSet_keeps H h0)

@[simp] theorem State.writeBack_keeps (H : Closed I) {s : State} {w : Who} {pa mask : Nat} (h0 : Holds I s) : Holds I (State.writeBack s w pa mask) := by
  unfold State.writeBack
  refine iteInduction (motive := fun r => Holds I r) (fun _ => ?_) (fun _ => ?_)
  · exact h0
  · split
    · refine State.each_keeps H h0 ?_
      · intro _ _ h20
        exact (State.dropDirty_keeps H h20)
    · split
      · refine State.charge_keeps H ?_
        · refine State.countLine_keeps H ?_
          · refine State.each_keeps H h0 ?_
            · intro _ _ h21
              exact (State.clean_keeps H h21)
      · refine State.charge_keeps H ?_
        · refine State.countLine_keeps H ?_
          · refine State.each_keeps H h0 ?_
            · intro _ _ h22
              exact (State.clean_keeps H h22)
      · refine State.odBump_keeps H ?_
        · refine State.each_keeps H h0 ?_
          · intro _ _ h23
            exact (State.dropDirty_keeps H h23)

@[simp] theorem State.tkEvict_keeps (H : Closed I) {s : State} {t : TkLine} (h0 : Holds I s) : Holds I (State.tkEvict s t) := by
  unfold State.tkEvict
  exact (State.tkDrop_keeps H (State.writeBack_keeps H h0))

@[simp] theorem State.tkKeep_keeps (H : Closed I) {s : State} {p pa : Nat} (h0 : Holds I s) : Holds I (State.tkKeep s p pa) := by
  unfold State.tkKeep
  extract_lets +onlyGivenNames -merge -useContext a20 a21 a22
  try clear_value a20 a21
  have h23 : Holds I a22 := by
    unfold a22
    refine iteInduction (motive := fun r => Holds I r) (fun _ => ?_) (fun _ => ?_)
    · exact h0
    · split
      · exact (State.setTkSet_keeps H h0)
      · exact h0
  try clear_value a22
  refine iteInduction (motive := fun r => Holds I r) (fun _ => ?_) (fun _ => ?_)
  · exact h0
  · exact (State.tkMod_keeps H h23)

theorem State.tkAlloc_keeps (H : Closed I) {s : State} {w : Who} {pa : Nat} {l : TkLine} (h0 : Holds I s) : ∀ t', State.tkAlloc s w pa l = some t' → Holds I (t') := by
  show HoldsSome I (fun t => t) _
  unfold State.tkAlloc
  split
  · exact some_none
  · extract_lets +onlyGivenNames -merge -useContext a20
    try clear_value a20
    refine iteInduction (motive := fun r => HoldsSome I (fun t => t) r) (fun _ => ?_) (fun _ => ?_)
    · exact some_none
    · extract_lets +onlyGivenNames -merge -useContext a21
      try clear_value a21
      split
      · exact (some_some (State.setTkSet_keeps H h0))
      · extract_lets +onlyGivenNames -merge -useContext a22
        try clear_value a22
        split
        · extract_lets +onlyGivenNames -merge -useContext a23
          have h24 : Holds I a23 := (State.tkEvict_keeps H h0)
          try clear_value a23
          exact (some_some (State.setTkSet_keeps H h24))
        · exact some_none

@[simp] theorem State.setCc_keeps (H : Closed I) {s : State} {cl : Nat} {l : List CcLine} (h0 : Holds I s) : Holds I (State.setCc s cl l) := by
  unfold State.setCc
  exact holds_mk h0 rfl rfl rfl rfl rfl rfl

@[simp] theorem State.setDirSet_keeps (H : Closed I) {s : State} {pa : Nat} {l : List DirEnt} (h0 : Holds I s) : Holds I (State.setDirSet s pa l) := by
  unfold State.setDirSet
  exact (State.modDie_keeps H h0)

@[simp] theorem State.dropL1_keeps (H : Closed I) {s : State} {cl pa : Nat} {but : Option Nat} (h0 : Holds I s) : Holds I (State.dropL1 s cl pa but) := by
  unfold State.dropL1
  refine State.each_keeps H h0 ?_
  · intro _ _ h20
    refine iteInduction (motive := fun r => Holds I r) (fun _ => ?_) (fun _ => ?_)
    · exact h20
    · refine iteInduction (motive := fun r => Holds I r) (fun _ => ?_) (fun _ => ?_)
      · exact (State.modCore_keeps H h20)
      · exact h20

@[simp] theorem State.ccForget_keeps (H : Closed I) {s : State} {cl pa : Nat} (h0 : Holds I s) : Holds I (State.ccForget s cl pa) := by
  unfold State.ccForget
  extract_lets +onlyGivenNames -merge -useContext a20
  have h21 : Holds I a20 := (State.dropL1_keeps H (State.setCc_keeps H h0))
  try clear_value a20
  exact (State.setDirSet_keeps H h21)

@[simp] theorem State.tkTakeDirty_keeps (H : Closed I) {s : State} {w : Who} {pa mask : Nat} {noalloc : Bool} (h0 : Holds I s) : Holds I (State.tkTakeDirty s w pa mask noalloc) := by
  unfold State.tkTakeDirty
  refine iteInduction (motive := fun r => Holds I r) (fun _ => ?_) (fun _ => ?_)
  · exact h0
  · split
    · exact (State.tkMod_keeps H h0)
    · refine iteInduction (motive := fun r => Holds I r) (fun _ => ?_) (fun _ => ?_)
      · refine State.each_keeps H h0 ?_
        · intro _ _ h20
          exact (State.clean_keeps H h20)
      · refine iteInduction (motive := fun r => Holds I r) (fun _ => ?_) (fun _ => ?_)
        · exact (State.writeBack_keeps H h0)
        · split
          · rename_i e21
            have h22 := some_of (I := I) (p := fun t => t) e21 (State.tkAlloc_keeps H h0)
            exact h22
          · exact (State.writeBack_keeps H h0)

@[simp] theorem State.ccRecall_keeps (H : Closed I) {s : State} {cl pa : Nat} (h0 : Holds I s) : Holds I (State.ccRecall s cl pa) := by
  unfold State.ccRecall
  split
  · exact h0
  · exact (State.ccForget_keeps H (State.tkTakeDirty_keeps H h0))

@[simp] theorem State.tkOfferClean_keeps (H : Closed I) {s : State} {w : Who} {pa : Nat} {l : CcLine} (h0 : Holds I s) : Holds I (State.tkOfferClean s w pa l) := by
  unfold State.tkOfferClean
  split
  · exact (State.tkTouch_keeps H h0)
  · refine iteInduction (motive := fun r => Holds I r) (fun _ => ?_) (fun _ => ?_)
    · exact h0
    · extract_lets +onlyGivenNames -merge -useContext a20
      have h21 : Holds I a20 := (State.bump_keeps H h0)
      try clear_value a20
      split
      · exact h21
      · extract_lets +onlyGivenNames -merge -useContext a22 a23
        try clear_value a22 a23
        refine iteInduction (motive := fun r => Holds I r) (fun _ => ?_) (fun _ => ?_)
        · exact h21
        · split
          · exact (State.setTkSet_keeps H h0)
          · split
            · exact (State.setTkSet_keeps H h0)
            · exact h21

@[simp] theorem State.ccEvict_keeps (H : Closed I) {s : State} {cl pa : Nat} (h0 : Holds I s) : Holds I (State.ccEvict s cl pa) := by
  unfold State.ccEvict
  split
  · exact h0
  · extract_lets +onlyGivenNames -merge -useContext a20 a21
    have h22 : Holds I a21 := by
      unfold a21
      refine iteInduction (motive := fun r => Holds I r) (fun _ => ?_) (fun _ => ?_)
      · exact (State.bump_keeps H (State.tkTakeDirty_keeps H h0))
      · exact (State.tkOfferClean_keeps H h0)
    try clear_value a21
    exact (State.ccForget_keeps H h22)

@[simp] theorem State.dirEnter_keeps (H : Closed I) {s : State} {pa : Nat} {f : DirEnt → DirEnt} (h0 : Holds I s) : Holds I (State.dirEnter s pa f) := by
  unfold State.dirEnter
  extract_lets +onlyGivenNames -merge -useContext a20
  try clear_value a20
  split
  · exact (State.setDirSet_keeps H h0)
  · extract_lets +onlyGivenNames -merge -useContext a21
    have h22 : Holds I a21 := by
      unfold a21
      refine iteInduction (motive := fun r => Holds I r) (fun _ => ?_) (fun _ => ?_)
      · exact h0
      · split
        · refine State.bump_keeps H ?_
          · refine holds_foldl_of (fun (r : State) => r) ?_ ?_
            · exact h0
            · intro _ _ h23
              exact (State.ccRecall_keeps H h23)
        · exact h0
    try clear_value a21
    exact (State.setDirSet_keeps H h22)

@[simp] theorem State.ccInsert_keeps (H : Closed I) {s : State} {cl pa : Nat} {l : CcLine} (h0 : Holds I s) : Holds I (State.ccInsert s cl pa l) := by
  unfold State.ccInsert
  extract_lets +onlyGivenNames -merge -useContext a20 a21 a22
  try clear_value a20 a21
  have h23 : ∀ y0 y1, Holds I y0 → Holds I (a22 y0 y1) := by
    intro _ _ h24
    unfold a22
    refine iteInduction (motive := fun r => Holds I r) (fun _ => ?_) (fun _ => ?_)
    · exact (State.setCc_keeps H h24)
    · exact (State.setCc_keeps H h24)
  try clear_value a22
  split
  · exact (h23 _ _ h0)
  · split
    · exact (h23 _ _ (State.ccEvict_keeps H h0))
    · exact h0

@[simp] theorem State.quarantineAdd_keeps (H : Closed I) {s : State} {line : Nat} (h0 : Holds I s) : Holds I (State.quarantineAdd s line) := by
  unfold State.quarantineAdd
  refine iteInduction (motive := fun r => Holds I r) (fun _ => ?_) (fun _ => ?_)
  · exact h0
  · extract_lets +onlyGivenNames -merge -useContext a20 a21
    have h22 : Holds I a21 := by
      unfold a21
      exact holds_mk h0 rfl rfl rfl rfl rfl rfl
    try clear_value a21
    exact (State.odSet_keeps H h22)

@[simp] theorem State.fillFrom_keeps (H : Closed I) {s : State} {w : Who} {pa : Nat} (h0 : Holds I s) : Holds I (State.fillFrom s w pa) := by
  unfold State.fillFrom
  extract_lets +onlyGivenNames -merge -useContext a20
  try clear_value a20
  split
  · exact h0
  · extract_lets +onlyGivenNames -merge -useContext a21
    have h22 : Holds I a21 := (State.charge_keeps H (State.countLine_keeps H h0))
    try clear_value a21
    extract_lets +onlyGivenNames -merge -useContext a23
    try clear_value a23
    refine iteInduction (motive := fun r => Holds I r) (fun _ => ?_) (fun _ => ?_)
    · exact h22
    · split
      · refine iteInduction (motive := fun r => Holds I r) (fun _ => ?_) (fun _ => ?_)
        · refine State.odBump_keeps H ?_
          · refine State.each_keeps H h22 ?_
            · intro _ _ h24
              exact (State.setPoison_keeps H (State.wrBytes_keeps H h24))
        · exact (State.quarantineAdd_keeps H h22)
      · exact (State.quarantineAdd_keeps H h22)

@[simp] theorem State.tkRead_keeps (H : Closed I) {s : State} {w : Who} {h pa : Nat} (h0 : Holds I s) : Holds I (State.tkRead s w h pa) := by
  unfold State.tkRead
  extract_lets +onlyGivenNames -merge -useContext a20
  try clear_value a20
  refine iteInduction (motive := fun r => Holds I r) (fun _ => ?_) (fun _ => ?_)
  · exact (State.bump_keeps H h0)
  · refine iteInduction (motive := fun r => Holds I r) (fun _ => ?_) (fun _ => ?_)
    · exact (State.fillFrom_keeps H h0)
    · extract_lets +onlyGivenNames -merge -useContext a21
      try clear_value a21
      split
      · extract_lets +onlyGivenNames -merge -useContext a22
        have h23 : Holds I a22 := by
          unfold a22
          refine iteInduction (motive := fun r => Holds I r) (fun _ => ?_) (fun _ => ?_)
          · exact (State.bump_keeps H h0)
          · exact (State.tkMod_keeps H (State.fillFrom_keeps H (State.bump_keeps H h0)))
        try clear_value a22
        refine iteInduction (motive := fun r => Holds I r) (fun _ => ?_) (fun _ => ?_)
        · exact h23
        · extract_lets +onlyGivenNames -merge -useContext a24
          have h25 : Holds I a24 := (State.tkTouch_keeps H h23)
          try clear_value a24
          refine iteInduction (motive := fun r => Holds I r) (fun _ => ?_) (fun _ => ?_)
          · split
            · exact (State.tkKeep_keeps H h25)
            · exact h25
          · exact h25
      · extract_lets +onlyGivenNames -merge -useContext a26
        have h27 : Holds I a26 := (State.fillFrom_keeps H (State.bump_keeps H h0))
        try clear_value a26
        refine iteInduction (motive := fun r => Holds I r) (fun _ => ?_) (fun _ => ?_)
        · exact h27
        · split
          · rename_i e28
            have h29 := some_of (I := I) (p := fun t => t) e28 (State.tkAlloc_keeps H h27)
            refine iteInduction (motive := fun r => Holds I r) (fun _ => ?_) (fun _ => ?_)
            · split
              · exact (State.tkKeep_keeps H h29)
              · exact h29
            · exact h29
          · exact h27

@[simp] theorem State.lastDrop_keeps (H : Closed I) {s : State} {pa : Nat} (h0 : Holds I s) : Holds I (State.lastDrop s pa) := by
  unfold State.lastDrop
  extract_lets +onlyGivenNames -merge -useContext a20
  have h21 : Holds I a20 := by
    unfold a20
    refine holds_foldl_of (fun (r : State) => r) ?_ ?_
    · exact h0
    · intro _ _ h22
      exact (State.ccForget_keeps H h22)
  try clear_value a20
  extract_lets +onlyGivenNames -merge -useContext a23
  have h24 : Holds I a23 := (State.tkDrop_keeps H h21)
  try clear_value a23
  refine State.bump_keeps H ?_
  · refine State.each_keeps H h24 ?_
    · intro _ _ h25
      exact (State.dropDirty_keeps H h25)

@[simp] theorem State.lineRead_keeps (H : Closed I) {s : State} {w : Who} {h pa : Nat} (h0 : Holds I s) : Holds I (State.lineRead s w h pa) := by
  unfold State.lineRead; (repeat' first | with_reducible assumption | (simp (maxDischargeDepth := 60) +contextual only [*, holds_mk, holds_ite, State.tkRead_keeps, State.ccRecall_keeps, State.setCc_keeps, State.bump_keeps, State.ccInsert_keeps, State.dirEnter_keeps, State.modCore_keeps]; done) | with_reducible refine State.tkRead_keeps H ?_ | with_reducible refine State.ccRecall_keeps H ?_ | with_reducible refine State.setCc_keeps H ?_ | with_reducible refine State.bump_keeps H ?_ | with_reducible refine State.ccInsert_keeps H ?_ | with_reducible refine State.dirEnter_keeps H ?_ | with_reducible refine State.modCore_keeps H ?_ | with_reducible refine holds_foldl ?_ ?_ | with_reducible refine State.each_keeps H ?_ ?_ | with_reducible refine holds_ite ?_ ?_ | with_reducible refine holds_ite_fst ?_ ?_ | with_reducible refine holds_ite_snd ?_ ?_ | with_reducible refine holds_foldl_fst ?_ ?_ | with_reducible refine holds_foldl_snd ?_ ?_ | with_reducible refine holds_of_fst (by assumption) ?_ | with_reducible refine holds_of_snd (by assumption) ?_ | intro _ | split | dsimp only)

@[simp] theorem State.tkWrite_keeps (H : Closed I) {s : State} {w : Who} {h pa any full : Nat} (h0 : Holds I s) : Holds I (State.tkWrite s w h pa any full) := by
  unfold State.tkWrite
  extract_lets +onlyGivenNames d secs
  refine holds_ite (fun _ => State.bump_keeps H h0) (fun _ => ?_)
  extract_lets +onlyGivenNames region through h' toTier
  have ht : ∀ t, Holds I t → Holds I (toTier t) := by
    intro t h; unfold toTier; split
    · simp (maxDischargeDepth := 60) +contextual [*]
    · exact h
  have hk : ∀ t, Holds I t → Holds I (if h' = 2 then (match w.part with | some p => t.tkKeep p pa | none => t) else t) := by
    intro t h; refine holds_ite (fun _ => ?_) (fun _ => h); split
    · exact State.tkKeep_keeps H h
    · exact h
  clear_value toTier h' through
  split
  · extract_lets +onlyGivenNames t1 t2 t3
    have h1 : Holds I t1 := by simp only [t1]; simp [*]
    have h2 : Holds I t2 := hk _ h1
    have h3 : Holds I t3 := holds_ite (fun _ => by simp [*]) (fun _ => h2)
    clear_value t3
    exact holds_ite (fun _ => ht _ (by simp [*])) (fun _ => by simp (maxDischargeDepth := 60) +contextual [*])
  · extract_lets +onlyGivenNames pt s1
    have h1 : Holds I s1 := holds_ite (fun _ => by simp [*]) (fun _ => h0)
    clear_value s1
    refine holds_ite (fun _ => ht _ h1) (fun _ => ?_)
    split
    · exact ht _ h1
    · rename_i t e
      have h2 := State.tkAlloc_keeps H h1 _ e
      extract_lets +onlyGivenNames t2
      have h3 : Holds I t2 := hk _ h2
      clear_value t2
      exact holds_ite (fun _ => ht _ h3) (fun _ => by simp (maxDischargeDepth := 60) +contextual [*])

@[simp] theorem State.invalidateCopies_keeps (H : Closed I) {s : State} {pa : Nat} {but : Option Nat} (h0 : Holds I s) : Holds I (State.invalidateCopies s pa but) := by
  unfold State.invalidateCopies
  refine holds_foldl h0 (fun t x ht => ?_)
  split
  · exact ht
  · split
    · exact State.ccRecall_keeps H ht
    · exact ht

@[simp] theorem State.bankWrite_keeps (H : Closed I) {s : State} {w : Who} {h pa any full : Nat} (h0 : Holds I s) : Holds I (State.bankWrite s w h pa any full) := by
  unfold State.bankWrite
  exact (State.tkWrite_keeps H (State.invalidateCopies_keeps H h0))

@[simp] theorem State.ownedWrite_keeps (H : Closed I) {s : State} {w : Who} {cl h pa any full : Nat} (h0 : Holds I s) : Holds I (State.ownedWrite s w cl h pa any full) := by
  unfold State.ownedWrite
  extract_lets +onlyGivenNames -merge -useContext a20 a21
  try clear_value a20 a21
  refine iteInduction (motive := fun r => Holds I r) (fun _ => ?_) (fun _ => ?_)
  · exact (State.bankWrite_keeps H h0)
  · extract_lets +onlyGivenNames -merge -useContext a22
    have h23 : Holds I a22 := (State.invalidateCopies_keeps H h0)
    try clear_value a22
    extract_lets +onlyGivenNames -merge -useContext a24
    have h25 : Holds I a24 := (State.dropL1_keeps H h23)
    try clear_value a24
    extract_lets +onlyGivenNames -merge -useContext a26 a27 a28 a29 a30
    try clear_value a26 a27 a28 a29
    have h31 : Holds I a30 := by
      unfold a30
      refine iteInduction (motive := fun r => Holds I r) (fun _ => ?_) (fun _ => ?_)
      · exact (State.fillFrom_keeps H h25)
      · exact h25
    try clear_value a30
    extract_lets +onlyGivenNames -merge -useContext a32 a33 a34
    try clear_value a32 a33
    have h35 : Holds I a34 := (State.tkDrop_keeps H h31)
    try clear_value a34
    extract_lets +onlyGivenNames -merge -useContext a36
    have h37 : Holds I a36 := by
      unfold a36
      refine State.each_keeps H h35 ?_
      · intro _ _ h38
        exact (State.keepTier_keeps H h38)
    try clear_value a36
    extract_lets +onlyGivenNames -merge -useContext a39 a40 a41
    try clear_value a39
    have h42 : Holds I a41 := by
      unfold a41
      split
      · exact (State.setCc_keeps H h37)
      · exact (State.ccInsert_keeps H h37)
    try clear_value a41
    exact (State.dirEnter_keeps H h42)

@[simp] theorem State.readPiece_keeps (H : Closed I) {w : Who} {h : Nat} {r : MemRes} {pc : Nat × Nat} (h2 : Holds I (r).st) : Holds I (State.readPiece w h r pc).st := by
  unfold State.readPiece; (repeat' first | with_reducible assumption | (simp (maxDischargeDepth := 60) +contextual only [*, holds_mk, holds_ite, State.lineRead_keeps, State.fillFrom_keeps, State.lastDrop_keeps]; done) | with_reducible refine State.lineRead_keeps H ?_ | with_reducible refine State.fillFrom_keeps H ?_ | with_reducible refine State.lastDrop_keeps H ?_ | with_reducible refine holds_foldl ?_ ?_ | with_reducible refine State.each_keeps H ?_ ?_ | with_reducible refine holds_ite ?_ ?_ | with_reducible refine holds_ite_fst ?_ ?_ | with_reducible refine holds_ite_snd ?_ ?_ | with_reducible refine holds_foldl_fst ?_ ?_ | with_reducible refine holds_foldl_snd ?_ ?_ | with_reducible refine holds_of_fst (by assumption) ?_ | with_reducible refine holds_of_snd (by assumption) ?_ | with_reducible refine holds_foldl_of (fun r : MemRes => r.st) ?_ ?_ | with_reducible refine holds_foldl_of (fun r : LineServe => r.st) ?_ ?_ | intro _ | split | dsimp only)

@[simp] theorem State.readMem_keeps (H : Closed I) {s : State} {w : Who} {h pa n : Nat} (h0 : Holds I s) : Holds I (State.readMem s w h pa n).st := by
  unfold State.readMem
  extract_lets +onlyGivenNames -merge -useContext a20
  have h21 : Holds I a20.st := by
    unfold a20
    refine holds_foldl_of (fun (r : MemRes) => r.st) ?_ ?_
    · exact h0
    · intro _ _ h22
      exact State.readPiece_keeps H h22
  try clear_value a20
  refine iteInduction (motive := fun (r : MemRes) => Holds I r.st) (fun _ => ?_) (fun _ => ?_)
  · exact h0
  · exact h21

@[simp] theorem State.poisonWrite_keeps (H : Closed I) {s : State} {pa any full : Nat} {p : Bool} (h0 : Holds I s) : Holds I (State.poisonWrite s pa any full p) := by
  unfold State.poisonWrite
  extract_lets +onlyGivenNames -merge -useContext a20
  have h21 : Holds I a20 := by
    unfold a20
    refine State.each_keeps H h0 ?_
    · intro _ _ h22
      exact (State.setPoison_keeps H h22)
  try clear_value a20
  refine iteInduction (motive := fun r => Holds I r) (fun _ => ?_) (fun _ => ?_)
  · refine State.each_keeps H h21 ?_
    · intro _ _ h23
      exact (State.setPoison_keeps H h23)
  · exact h21

@[simp] theorem State.quarantineWrite_keeps (H : Closed I) {s : State} {pa full : Nat} (h0 : Holds I s) : Holds I (State.quarantineWrite s pa full) := by
  unfold State.quarantineWrite
  extract_lets +onlyGivenNames -merge -useContext a20
  try clear_value a20
  refine iteInduction (motive := fun r => Holds I r) (fun _ => ?_) (fun _ => ?_)
  · extract_lets +onlyGivenNames -merge -useContext a21
    try clear_value a21
    refine iteInduction (motive := fun r => Holds I r) (fun _ => ?_) (fun _ => ?_)
    · extract_lets +onlyGivenNames -merge -useContext a22 a23
      have h24 : Holds I a23 := by
        unfold a23
        exact holds_mk h0 rfl rfl rfl rfl rfl rfl
      try clear_value a23
      exact (State.odSet_keeps H h24)
    · exact holds_mk h0 rfl rfl rfl rfl rfl rfl
  · exact h0

@[simp] theorem State.mirrorWrite_keeps (H : Closed I) {s : State} {pa : Nat} (h0 : Holds I s) : Holds I (State.mirrorWrite s pa) := by
  unfold State.mirrorWrite
  split
  · refine iteInduction (motive := fun r => Holds I r) (fun _ => ?_) (fun _ => ?_)
    · extract_lets +onlyGivenNames -merge -useContext a20
      have h21 : Holds I a20 := (State.wrBytes_keeps H h0)
      try clear_value a20
      extract_lets +onlyGivenNames -merge -useContext a22
      have h23 : Holds I a22 := by
        unfold a22
        refine State.each_keeps H h21 ?_
        · intro _ _ h24
          exact (State.setPoison_keeps H h24)
      try clear_value a22
      split
      · exact (State.countLine_keeps H h23)
      · exact h23
    · exact h0
  · exact h0

@[simp] theorem State.writePiece_keeps (H : Closed I) {w : Who} {h : Nat} {at_ : WriteAt} {p : Bool} {r : MemRes} {pc : Nat × Nat} (h4 : Holds I (r).st) : Holds I (State.writePiece w h at_ p r pc).st := by
  unfold State.writePiece
  extract_lets +onlyGivenNames -merge -useContext a20 a21 a22 a23
  try clear_value a20 a21 a22 a23
  split
  · split
    · exact h4
    · exact h4
    · exact h4
    · split
      · exact (State.poisonWrite_keeps H (State.wrBytes_keeps H h4))
      · refine iteInduction (motive := fun (r : MemRes) => Holds I r.st) (fun _ => ?_) (fun _ => ?_)
        · exact h4
        · extract_lets +onlyGivenNames -merge -useContext a24
          have h25 : Holds I a24 := by
            unfold a24
            split
            · exact (State.bankWrite_keeps H h4)
            · exact (State.ownedWrite_keeps H h4)
          try clear_value a24
          exact (State.poisonWrite_keeps H (State.wrBytes_keeps H h25))
      · extract_lets +onlyGivenNames -merge -useContext a26
        have h27 : Holds I a26 := by
          unfold a26
          split
          · exact (State.bankWrite_keeps H h4)
          · exact (State.ownedWrite_keeps H h4)
        try clear_value a26
        extract_lets +onlyGivenNames -merge -useContext a28
        have h29 : Holds I a28 := (State.quarantineWrite_keeps H (State.poisonWrite_keeps H (State.wrBytes_keeps H h27)))
        try clear_value a28
        exact (State.mirrorWrite_keeps H h29)

@[simp] theorem State.writeMem_keeps (H : Closed I) {s : State} {w : Who} {h : Nat} {at_ : WriteAt} {pa : Nat} {bs : List Byte} {p : Bool} (h0 : Holds I s) : Holds I (State.writeMem s w h at_ pa bs p).st := by
  unfold State.writeMem
  extract_lets +onlyGivenNames -merge -useContext a20
  have h21 : Holds I a20.st := by
    unfold a20
    refine holds_foldl_of (fun (r : MemRes) => r.st) ?_ ?_
    · exact h0
    · intro _ _ h22
      exact State.writePiece_keeps H h22
  try clear_value a20
  refine iteInduction (motive := fun (r : MemRes) => Holds I r.st) (fun _ => ?_) (fun _ => ?_)
  · exact h0
  · exact h21

@[simp] theorem State.hostReadFailed_keeps (H : Closed I) {s : State} (h0 : Holds I s) : Holds I (State.hostReadFailed s) := by
  unfold State.hostReadFailed
  exact (State.odBump_keeps H (State.aer_keeps H h0))

@[simp] theorem State.hostWrite_keeps (H : Closed I) {s : State} {a : Nat} {bs : List Byte} (h0 : Holds I s) : Holds I (State.hostWrite s a bs) := H.hostSets (fun e : Nat × Byte => a + e.1) (fun e => e.2) _ h0

@[simp] theorem State.ownWrite_keeps (H : Closed I) {s : State} {pa : Nat} {bs : List Byte} (h0 : Holds I s) : Holds I (State.ownWrite s pa bs) := by
  unfold State.ownWrite
  extract_lets +onlyGivenNames -merge -useContext a20
  have h21 : Holds I a20.st := (State.writeMem_keeps H h0)
  try clear_value a20
  split
  · exact (State.odBump_keeps H h21)
  · exact h21

@[simp] theorem State.ownRead_keeps (H : Closed I) {s : State} {pa n : Nat} (h0 : Holds I s) : Holds I (((State.ownRead s pa n).2).2) := by
  unfold State.ownRead
  extract_lets +onlyGivenNames -merge -useContext a20
  have h21 : Holds I a20.st := (State.readMem_keeps H h0)
  try clear_value a20
  exact h21

end Sys2Proof.Machine
end

