-- ==== Sys2Proof/Laws/KeepsObsOps.lean ====
section
/-! SUPPORT. What the operations of Machine/ObsOps.lean protect. -/

namespace Sys2Proof.Machine

set_option linter.all false

variable {I : Prot → Prop}

@[simp] theorem State.coreEvent_keeps (H : Closed I) {s : State} {slot code n : Nat} (h0 : Holds I s) : Holds I (State.coreEvent s slot code n) := by
  unfold State.coreEvent
  extract_lets +onlyGivenNames -merge -useContext a20
  have h21 : Holds I a20 := by
    unfold a20
    refine iteInduction (motive := fun r => Holds I r) (fun _ => ?_) (fun _ => ?_)
    · exact (State.bump_keeps H h0)
    · refine iteInduction (motive := fun r => Holds I r) (fun _ => ?_) (fun _ => ?_)
      · exact (State.bump_keeps H h0)
      · exact h0
  try clear_value a20
  extract_lets +onlyGivenNames -merge -useContext a22 a23
  try clear_value a22 a23
  refine State.each_keeps H h21 ?_
  · intro _ _ h24
    extract_lets +onlyGivenNames -merge -useContext a25
    try clear_value a25
    refine iteInduction (motive := fun r => Holds I r) (fun _ => ?_) (fun _ => ?_)
    · exact (State.bump_keeps H h24)
    · exact h24

@[simp] theorem State.modReel_keeps (H : Closed I) {s : State} {unit : Nat} {f : Reel → Reel} (h0 : Holds I s) : Holds I (State.modReel s unit f) := by
  unfold State.modReel
  exact holds_mk h0 rfl rfl rfl rfl rfl rfl

@[simp] theorem State.reel_keeps (H : Closed I) {s : State} {unit cls ty src ctx a b c : Nat} (h0 : Holds I s) : Holds I (State.reel s unit cls ty src ctx a b c) := by
  unfold State.reel
  extract_lets +onlyGivenNames -merge -useContext a20
  try clear_value a20
  refine iteInduction (motive := fun r => Holds I r) (fun _ => ?_) (fun _ => ?_)
  · exact h0
  · extract_lets +onlyGivenNames -merge -useContext a21
    refine iteInduction (motive := fun r => Holds I r) (fun _ => ?_) (fun _ => ?_)
    · exact (State.odBump_keeps H (State.bump_keeps H h0))
    · extract_lets +onlyGivenNames -merge -useContext a22
      try clear_value a22
      exact (State.modReel_keeps H h0)

@[simp] theorem State.reelCl_keeps (H : Closed I) {s : State} {cl cls ty ctx a b c : Nat} (h0 : Holds I s) : Holds I (State.reelCl s cl cls ty ctx a b c) := by
  unfold State.reelCl
  exact (State.reel_keeps H h0)

end Sys2Proof.Machine
end

