-- ==== Sys2Proof/Laws/KeepsXlat.lean ====
section
/-! SUPPORT. What the operations of Machine/Xlat.lean protect. -/

namespace Sys2Proof.Machine

set_option linter.all false

variable {I : Prot → Prop}

@[simp] theorem State.readEntry_keeps (H : Closed I) {s : State} {p pa : Nat} {f : XFault} (h0 : Holds I s) : Holds I (State.readEntry s p pa f).st := by
  unfold State.readEntry
  extract_lets +onlyGivenNames -merge -useContext a20
  have h21 : Holds I a20.st := (State.readMem_keeps H h0)
  try clear_value a20
  extract_lets +onlyGivenNames -merge -useContext a22
  have h23 : Holds I a22 := (State.bump_keeps H h21)
  try clear_value a22
  refine iteInduction (motive := fun (r : WalkRes Nat) => Holds I r.st) (fun _ => ?_) (fun _ => ?_)
  · exact h0
  · refine iteInduction (motive := fun (r : WalkRes Nat) => Holds I r.st) (fun _ => ?_) (fun _ => ?_)
    · exact h23
    · refine iteInduction (motive := fun (r : WalkRes Nat) => Holds I r.st) (fun _ => ?_) (fun _ => ?_)
      · exact h23
      · extract_lets +onlyGivenNames -merge -useContext a24 a25
        try clear_value a24 a25
        split
        · exact (State.hostReadFailed_keeps H h23)
        · extract_lets +onlyGivenNames -merge -useContext a26 a27
          try clear_value a26
          have h28 : Holds I a27 := by
            unfold a27
            refine State.each_keeps H h23 ?_
            · intro _ _ h29
              exact (State.writeMem_keeps H h29)
          try clear_value a27
          extract_lets +onlyGivenNames -merge -useContext a30
          have h31 : Holds I a30 := (State.odBump_keeps H (State.bump_keeps H h28))
          try clear_value a30
          exact h31

@[simp] theorem State.wcPut_keeps (H : Closed I) {s : State} {e : WcEnt} (h0 : Holds I s) : Holds I (State.wcPut s e) := by
  unfold State.wcPut
  exact holds_mk h0 rfl rfl rfl rfl rfl rfl

@[simp] theorem State.s2Walk_keeps (H : Closed I) {x0 : Nat} {x1 : State} {x2 x3 x4 x5 : Nat} (h1 : Holds I (x1)) : Holds I (State.s2Walk x0 x1 x2 x3 x4 x5).st := by
  induction x0 generalizing x1 x4 x5 with
  | zero => exact h1
  | succ n ih =>
    unfold State.s2Walk
    (repeat' first | with_reducible assumption | (simp (maxDischargeDepth := 60) +contextual only [*, holds_mk, holds_ite, State.readEntry_keeps, State.wcPut_keeps]; done) | with_reducible refine ih ?_ | with_reducible refine State.readEntry_keeps H ?_ | with_reducible refine State.wcPut_keeps H ?_ | with_reducible refine holds_foldl ?_ ?_ | with_reducible refine State.each_keeps H ?_ ?_ | with_reducible refine holds_ite ?_ ?_ | with_reducible refine holds_ite_fst ?_ ?_ | with_reducible refine holds_ite_snd ?_ ?_ | with_reducible refine holds_foldl_fst ?_ ?_ | with_reducible refine holds_foldl_snd ?_ ?_ | with_reducible refine holds_of_fst (by assumption) ?_ | with_reducible refine holds_of_snd (by assumption) ?_ | intro _ | split | dsimp only)

@[simp] theorem State.s2Xlate_keeps (H : Closed I) {s : State} {p ipa : Nat} (h0 : Holds I s) : Holds I (State.s2Xlate s p ipa).st := by
  unfold State.s2Xlate
  split
  · exact holds_mk h0 rfl rfl rfl rfl rfl rfl
  · extract_lets +onlyGivenNames -merge -useContext a20
    try clear_value a20
    refine iteInduction (motive := fun (r : WalkRes Xent) => Holds I r.st) (fun _ => ?_) (fun _ => ?_)
    · exact h0
    · extract_lets +onlyGivenNames -merge -useContext a21
      have h22 : Holds I a21.st := (State.s2Walk_keeps H h0)
      try clear_value a21
      split
      · extract_lets +onlyGivenNames -merge -useContext a23
        have h24 : Holds I a23 := h22
        try clear_value a23
        exact holds_mk h24 rfl rfl rfl rfl rfl rfl
      · exact h22

@[simp] theorem State.ctxEntry_keeps (H : Closed I) {s : State} {c : Nat} (h0 : Holds I s) : Holds I (State.ctxEntry s c).st := by
  unfold State.ctxEntry
  extract_lets +onlyGivenNames -merge -useContext a20 a21
  try clear_value a20
  have h22 : Holds I a21.st := (State.readMem_keeps H h0)
  try clear_value a21
  refine iteInduction (motive := fun (r : WalkRes CtxEnt) => Holds I r.st) (fun _ => ?_) (fun _ => ?_)
  · exact h0
  · refine iteInduction (motive := fun (r : WalkRes CtxEnt) => Holds I r.st) (fun _ => ?_) (fun _ => ?_)
    · exact h22
    · refine iteInduction (motive := fun (r : WalkRes CtxEnt) => Holds I r.st) (fun _ => ?_) (fun _ => ?_)
      · exact h22
      · extract_lets +onlyGivenNames -merge -useContext a23 a24
        try clear_value a23 a24
        refine iteInduction (motive := fun (r : WalkRes CtxEnt) => Holds I r.st) (fun _ => ?_) (fun _ => ?_)
        · exact h22
        · exact h22

@[simp] theorem State.s1Walk_keeps (H : Closed I) {x0 : Nat} {x1 : State} {x2 : Nat} {x3 : CtxEnt} {x4 x5 x6 : Nat} (h1 : Holds I (x1)) : Holds I (State.s1Walk x0 x1 x2 x3 x4 x5 x6).st := by
  induction x0 generalizing x1 x5 x6 with
  | zero => exact h1
  | succ n ih =>
    unfold State.s1Walk
    (repeat' first | with_reducible assumption | (simp (maxDischargeDepth := 60) +contextual only [*, holds_mk, holds_ite, State.readEntry_keeps, State.wcPut_keeps, State.s2Xlate_keeps]; done) | with_reducible refine ih ?_ | with_reducible refine State.readEntry_keeps H ?_ | with_reducible refine State.wcPut_keeps H ?_ | with_reducible refine State.s2Xlate_keeps H ?_ | with_reducible refine holds_foldl ?_ ?_ | with_reducible refine State.each_keeps H ?_ ?_ | with_reducible refine holds_ite ?_ ?_ | with_reducible refine holds_ite_fst ?_ ?_ | with_reducible refine holds_ite_snd ?_ ?_ | with_reducible refine holds_foldl_fst ?_ ?_ | with_reducible refine holds_foldl_snd ?_ ?_ | with_reducible refine holds_of_fst (by assumption) ?_ | with_reducible refine holds_of_snd (by assumption) ?_ | intro _ | split | dsimp only)

@[simp] theorem State.walkXlate_keeps (H : Closed I) {s : State} {c va acc : Nat} (h0 : Holds I s) : Holds I (State.walkXlate s c va acc).st := by
  unfold State.walkXlate
  extract_lets +onlyGivenNames -merge -useContext a20 a21
  try clear_value a20
  have h22 : Holds I a21 := (State.odBump_keeps H (State.bump_keeps H h0))
  try clear_value a21
  extract_lets +onlyGivenNames -merge -useContext a23
  have h24 : Holds I a23.st := (State.ctxEntry_keeps H h22)
  try clear_value a23
  extract_lets +onlyGivenNames -merge -useContext a25
  try clear_value a25
  refine iteInduction (motive := fun (r : WalkRes Xent) => Holds I r.st) (fun _ => ?_) (fun _ => ?_)
  · exact h22
  · split
    · exact h24
    · extract_lets +onlyGivenNames -merge -useContext a26
      have h27 : Holds I a26.st := (State.s1Walk_keeps H h24)
      try clear_value a26
      refine iteInduction (motive := fun (r : WalkRes Xent) => Holds I r.st) (fun _ => ?_) (fun _ => ?_)
      · exact h22
      · split
        · exact h27
        · refine iteInduction (motive := fun (r : WalkRes Xent) => Holds I r.st) (fun _ => ?_) (fun _ => ?_)
          · refine iteInduction (motive := fun (r : WalkRes Xent) => Holds I r.st) (fun _ => ?_) (fun _ => ?_)
            · exact h27
            · refine iteInduction (motive := fun (r : WalkRes Xent) => Holds I r.st) (fun _ => ?_) (fun _ => ?_)
              · exact h27
              · exact h27
          · refine iteInduction (motive := fun (r : WalkRes Xent) => Holds I r.st) (fun _ => ?_) (fun _ => ?_)
            · exact h27
            · extract_lets +onlyGivenNames -merge -useContext a28 a29
              try clear_value a28
              have h30 : Holds I a29.st := (State.s2Xlate_keeps H h27)
              try clear_value a29
              refine iteInduction (motive := fun (r : WalkRes Xent) => Holds I r.st) (fun _ => ?_) (fun _ => ?_)
              · exact h22
              · split
                · exact h30
                · refine iteInduction (motive := fun (r : WalkRes Xent) => Holds I r.st) (fun _ => ?_) (fun _ => ?_)
                  · exact h30
                  · extract_lets +onlyGivenNames -merge -useContext a31 a32
                    try clear_value a31 a32
                    exact h30

@[simp] theorem State.setDieTlb_keeps (H : Closed I) {s : State} {d : Nat} {l : List Xent} (h0 : Holds I s) : Holds I (State.setDieTlb s d l) := by
  unfold State.setDieTlb
  refine iteInduction (motive := fun r => Holds I r) (fun _ => ?_) (fun _ => ?_)
  · exact holds_mk h0 rfl rfl rfl rfl rfl rfl
  · exact holds_mk h0 rfl rfl rfl rfl rfl rfl

@[simp] theorem State.setMicro_keeps (H : Closed I) {s : State} {a : Agent} {l : List Xent} (h0 : Holds I s) : Holds I (State.setMicro s a l) := by
  unfold State.setMicro
  split
  · exact (State.modCore_keeps H h0)
  · exact (State.modCore_keeps H h0)
  · exact (State.modSeq_keeps H h0)

@[simp] theorem State.xlLookup_keeps (H : Closed I) {s : State} {a : Agent} {c va acc : Nat} (h0 : Holds I s) : Holds I ((State.xlLookup s a c va acc).2) := by
  unfold State.xlLookup
  extract_lets +onlyGivenNames -merge -useContext a20
  try clear_value a20
  split
  · exact (State.setMicro_keeps H h0)
  · extract_lets +onlyGivenNames -merge -useContext a21 a22
    try clear_value a21
    have h23 : Holds I a22 := (State.bump_keeps H h0)
    try clear_value a22
    split
    · extract_lets +onlyGivenNames -merge -useContext a24
      have h25 : Holds I a24 := (State.bump_keeps H (State.setDieTlb_keeps H h23))
      try clear_value a24
      exact (State.setMicro_keeps H h25)
    · exact (State.bump_keeps H h23)

@[simp] theorem State.xlFill_keeps (H : Closed I) {s : State} {a : Agent} {e : Xent} (h0 : Holds I s) : Holds I (State.xlFill s a e) := by
  unfold State.xlFill
  extract_lets +onlyGivenNames -merge -useContext a20
  have h21 : Holds I a20 := by
    unfold a20
    refine iteInduction (motive := fun r => Holds I r) (fun _ => ?_) (fun _ => ?_)
    · exact h0
    · exact (State.setDieTlb_keeps H h0)
  try clear_value a20
  exact (State.setMicro_keeps H h21)

@[simp] theorem State.startWalk_keeps (H : Closed I) {s : State} {a : Agent} {c va acc pc : Nat} {desc : Bool} (h0 : Holds I s) : Holds I (State.startWalk s a c va acc pc desc) := by
  unfold State.startWalk
  extract_lets +onlyGivenNames -merge -useContext a20
  try clear_value a20
  refine iteInduction (motive := fun r => Holds I r) (fun _ => ?_) (fun _ => ?_)
  · exact holds_mk h0 rfl rfl rfl rfl rfl rfl
  · exact holds_mk h0 rfl rfl rfl rfl rfl rfl

@[simp] theorem State.fqWrite_keeps (H : Closed I) {s : State} {p : Nat} {mk : Nat → List Byte} (h0 : Holds I s) : Holds I (State.fqWrite s p mk) := by
  unfold State.fqWrite
  extract_lets +onlyGivenNames -merge -useContext a20 a21 a22
  try clear_value a20 a21
  have h23 : Holds I a22.st := (State.writeMem_keeps H h0)
  try clear_value a22
  extract_lets +onlyGivenNames -merge -useContext a24
  have h25 : Holds I a24 := by
    unfold a24
    refine iteInduction (motive := fun r => Holds I r) (fun _ => ?_) (fun _ => ?_)
    · exact (State.odBump_keeps H (State.odBump_keeps H h23))
    · exact h23
  try clear_value a24
  extract_lets +onlyGivenNames -merge -useContext a26
  have h27 : Holds I a26 := (State.odBump_keeps H (State.setReg_keeps H h25))
  try clear_value a26
  refine iteInduction (motive := fun r => Holds I r) (fun _ => ?_) (fun _ => ?_)
  · exact (State.msix_keeps H h27)
  · exact h27

@[simp] theorem State.quietRecord_keeps (H : Closed I) {s : State} {kind p ctx : Nat} {f : XFault} {cores seqs : List Nat} {other : Nat} (h0 : Holds I s) : Holds I (State.quietRecord s kind p ctx f cores seqs other) := by
  unfold State.quietRecord
  refine iteInduction (motive := fun r => Holds I r) (fun _ => ?_) (fun _ => ?_)
  · exact (State.odBump_keeps H (State.setReg_keeps H h0))
  · extract_lets +onlyGivenNames -merge -useContext a20
    have h21 : Holds I a20 := (State.fqWrite_keeps H h0)
    try clear_value a20
    refine iteInduction (motive := fun r => Holds I r) (fun _ => ?_) (fun _ => ?_)
    · exact h21
    · exact (State.reel_keeps H h21)

@[simp] theorem State.poisonRecord_keeps (H : Closed I) {s : State} {p ctx : Nat} {x : Nat × Nat} {acc pc : Nat} {cores seqs : List Nat} {other : Nat} (h0 : Holds I s) : Holds I (State.poisonRecord s p ctx x acc pc cores seqs other) := by
  unfold State.poisonRecord
  exact (State.quietRecord_keeps H h0)

@[simp] theorem State.recordFault_keeps (H : Closed I) {s : State} {o : OpenFault} (h0 : Holds I s) : Holds I (State.recordFault s o) := by
  unfold State.recordFault
  extract_lets +onlyGivenNames -merge -useContext a20
  have h21 : ∀ y0 y1, Holds I y0 → Holds I (a20 y0 y1) := by
    intro _ _ h22
    unfold a20
    exact holds_mk h22 rfl rfl rfl rfl rfl rfl
  try clear_value a20
  refine iteInduction (motive := fun r => Holds I r) (fun _ => ?_) (fun _ => ?_)
  · extract_lets +onlyGivenNames -merge -useContext a23
    have h24 : Holds I a23 := by
      unfold a23
      refine iteInduction (motive := fun r => Holds I r) (fun _ => ?_) (fun _ => ?_)
      · exact h0
      · exact (State.setRf_keeps H (State.setReg_keeps H h0))
    try clear_value a23
    exact (h21 _ _ h24)
  · extract_lets +onlyGivenNames -merge -useContext a25 a26
    try clear_value a25
    have h27 : Holds I a26 := (State.fqWrite_keeps H h0)
    try clear_value a26
    extract_lets +onlyGivenNames -merge -useContext a28
    have h29 : Holds I a28 := by
      unfold a28
      refine State.reel_keeps H ?_
      · refine iteInduction (motive := fun r => Holds I r) (fun _ => ?_) (fun _ => ?_)
        · exact (State.setRf_keeps H h27)
        · exact h27
    try clear_value a28
    exact (h21 _ _ h29)

@[simp] theorem State.raiseFault_keeps (H : Closed I) {s : State} {a : Agent} {c p : Nat} {f : XFault} {desc : Bool} (h0 : Holds I s) : Holds I (State.raiseFault s a c p f desc) := by
  unfold State.raiseFault
  extract_lets +onlyGivenNames -merge -useContext a20 a21
  try clear_value a20 a21
  split
  · extract_lets +onlyGivenNames -merge -useContext a22
    refine State.odBump_keeps H ?_
    · exact holds_mk h0 rfl rfl rfl rfl rfl rfl
  · refine iteInduction (motive := fun r => Holds I r) (fun _ => ?_) (fun _ => ?_)
    · exact holds_mk h0 rfl rfl rfl rfl rfl rfl
    · exact holds_mk h0 rfl rfl rfl rfl rfl rfl

@[simp] theorem State.admitWaiting_keeps (H : Closed I) {x0 : Nat} {x1 : State} (h1 : Holds I (x1)) : Holds I (State.admitWaiting x0 x1) := by
  induction x0 generalizing x1 with
  | zero => exact h1
  | succ n ih =>
    unfold State.admitWaiting
    (repeat' first | with_reducible assumption | (simp (maxDischargeDepth := 60) +contextual only [*, holds_mk, holds_ite, State.raiseFault_keeps]; done) | with_reducible refine ih ?_ | with_reducible refine State.raiseFault_keeps H ?_ | with_reducible refine holds_foldl ?_ ?_ | with_reducible refine State.each_keeps H ?_ ?_ | with_reducible refine holds_ite ?_ ?_ | with_reducible refine holds_ite_fst ?_ ?_ | with_reducible refine holds_ite_snd ?_ ?_ | with_reducible refine holds_foldl_fst ?_ ?_ | with_reducible refine holds_foldl_snd ?_ ?_ | with_reducible refine holds_of_fst (by assumption) ?_ | with_reducible refine holds_of_snd (by assumption) ?_ | intro _ | split | dsimp only)

@[simp] theorem State.closeFault_keeps (H : Closed I) {s : State} {o : OpenFault} (h0 : Holds I s) : Holds I (State.closeFault s o) := by
  unfold State.closeFault
  extract_lets +onlyGivenNames -merge -useContext a20
  have h21 : Holds I a20 := by
    unfold a20
    refine iteInduction (motive := fun r => Holds I r) (fun _ => ?_) (fun _ => ?_)
    · exact (State.setRf_keeps H h0)
    · exact h0
  try clear_value a20
  extract_lets +onlyGivenNames -merge -useContext a22 a23
  have h24 : Holds I a23 := by
    unfold a23
    exact holds_mk h21 rfl rfl rfl rfl rfl rfl
  try clear_value a23
  exact (State.admitWaiting_keeps H h24)

@[simp] theorem State.wake_keeps (H : Closed I) {s : State} {a : Agent} (h0 : Holds I s) : Holds I (State.wake s a) := by
  unfold State.wake
  split
  · exact (State.modCore_keeps H h0)
  · exact h0
  · exact h0

@[simp] theorem State.abortFaults_keeps (H : Closed I) {s : State} {c : Nat} (h0 : Holds I s) : Holds I (State.abortFaults s c) := by
  unfold State.abortFaults
  extract_lets +onlyGivenNames -merge -useContext a20
  have h21 : Holds I a20 := by
    unfold a20
    refine State.each_keeps H h0 ?_
    · intro _ _ h22
      exact (State.setRf_keeps H h22)
  try clear_value a20
  extract_lets +onlyGivenNames -merge -useContext a23 a24
  have h25 : Holds I a24 := by
    unfold a24
    exact holds_mk h21 rfl rfl rfl rfl rfl rfl
  try clear_value a24
  exact (State.admitWaiting_keeps H h25)

@[simp] theorem State.dropAgents_keeps (H : Closed I) {s : State} {p : Agent → Bool} (h0 : Holds I s) : Holds I (State.dropAgents s p) := by
  unfold State.dropAgents
  extract_lets +onlyGivenNames -merge -useContext a20 a21 a22
  try clear_value a20 a21
  have h23 : Holds I a22 := by
    unfold a22
    refine State.each_keeps H h0 ?_
    · intro _ _ h24
      exact (State.setRf_keeps H h24)
  try clear_value a22
  extract_lets +onlyGivenNames -merge -useContext a25 a26
  have h27 : Holds I a26 := by
    unfold a26
    exact holds_mk h23 rfl rfl rfl rfl rfl rfl
  try clear_value a26
  exact (State.admitWaiting_keeps H h27)

@[simp] theorem State.hubReadPage_keeps (H : Closed I) {c acc : Nat} {r : VaRes} {pc : Nat × Nat} (h2 : Holds I (r).st) : Holds I (State.hubReadPage c acc r pc).st := by
  unfold State.hubReadPage
  refine iteInduction (motive := fun (r : VaRes) => Holds I r.st) (fun _ => ?_) (fun _ => ?_)
  · exact h2
  · extract_lets +onlyGivenNames -merge -useContext a20
    have h21 : Holds I a20.st := (State.walkXlate_keeps H h2)
    try clear_value a20
    refine iteInduction (motive := fun (r : VaRes) => Holds I r.st) (fun _ => ?_) (fun _ => ?_)
    · exact h2
    · split
      · exact h21
      · extract_lets +onlyGivenNames -merge -useContext a22
        try clear_value a22
        refine iteInduction (motive := fun (r : VaRes) => Holds I r.st) (fun _ => ?_) (fun _ => ?_)
        · split
          · exact h21
          · exact (State.hostReadFailed_keeps H h21)
        · extract_lets +onlyGivenNames -merge -useContext a23
          have h24 : Holds I a23.st := (State.readMem_keeps H h21)
          try clear_value a23
          refine iteInduction (motive := fun (r : VaRes) => Holds I r.st) (fun _ => ?_) (fun _ => ?_)
          · exact h2
          · exact h24

@[simp] theorem State.hubRead_keeps (H : Closed I) {s : State} {c va n acc : Nat} (h0 : Holds I s) : Holds I (State.hubRead s c va n acc).st := by
  unfold State.hubRead
  extract_lets +onlyGivenNames -merge -useContext a20
  have h21 : Holds I a20.st := by
    unfold a20
    refine holds_foldl_of (fun (r : VaRes) => r.st) ?_ ?_
    · exact h0
    · intro _ _ h22
      exact State.hubReadPage_keeps H h22
  try clear_value a20
  refine iteInduction (motive := fun (r : VaRes) => Holds I r.st) (fun _ => ?_) (fun _ => ?_)
  · exact h0
  · exact h21

@[simp] theorem State.hubWritePage_keeps (H : Closed I) {c : Nat} {r : VaRes} {pc : Nat × Nat} (h1 : Holds I (r).st) : Holds I (State.hubWritePage c r pc).st := by
  unfold State.hubWritePage
  refine iteInduction (motive := fun (r : VaRes) => Holds I r.st) (fun _ => ?_) (fun _ => ?_)
  · exact h1
  · extract_lets +onlyGivenNames -merge -useContext a20
    have h21 : Holds I a20.st := (State.walkXlate_keeps H h1)
    try clear_value a20
    refine iteInduction (motive := fun (r : VaRes) => Holds I r.st) (fun _ => ?_) (fun _ => ?_)
    · exact h1
    · split
      · exact h21
      · extract_lets +onlyGivenNames -merge -useContext a22 a23 a24
        try clear_value a22 a23 a24
        refine iteInduction (motive := fun (r : VaRes) => Holds I r.st) (fun _ => ?_) (fun _ => ?_)
        · exact (State.hostWrite_keeps H h21)
        · extract_lets +onlyGivenNames -merge -useContext a25
          have h26 : Holds I a25.st := (State.writeMem_keeps H h21)
          try clear_value a25
          refine iteInduction (motive := fun (r : VaRes) => Holds I r.st) (fun _ => ?_) (fun _ => ?_)
          · exact h1
          · exact h26

@[simp] theorem State.hubWrite_keeps (H : Closed I) {s : State} {c va : Nat} {bs : List Byte} (h0 : Holds I s) : Holds I (State.hubWrite s c va bs).st := by
  unfold State.hubWrite
  extract_lets +onlyGivenNames -merge -useContext a20
  have h21 : Holds I a20.st := by
    unfold a20
    refine holds_foldl_of (fun (r : VaRes) => r.st) ?_ ?_
    · exact h0
    · intro _ _ h22
      exact State.hubWritePage_keeps H h22
  try clear_value a20
  refine iteInduction (motive := fun (r : VaRes) => Holds I r.st) (fun _ => ?_) (fun _ => ?_)
  · exact h0
  · exact h21

@[simp] theorem State.xlFilter_keeps (H : Closed I) {s : State} {keep : Xent → Bool} {keepWc : WcEnt → Bool} {keepS2 : Xent → Bool} (h0 : Holds I s) : Holds I (State.xlFilter s keep keepWc keepS2) := by
  unfold State.xlFilter
  extract_lets +onlyGivenNames -merge -useContext a20 a21
  have h22 : Holds I a21 := by
    unfold a21
    exact holds_mk h0 rfl rfl rfl rfl rfl rfl
  try clear_value a21
  exact holds_mk h22 rfl rfl rfl rfl rfl rfl

@[simp] theorem State.invApply_keeps (H : Closed I) {s : State} {p : Nat} {c : InvCmd} (h0 : Holds I s) : Holds I (State.invApply s p c) := by
  unfold State.invApply
  extract_lets +onlyGivenNames -merge -useContext a20 a21
  try clear_value a20 a21
  refine iteInduction (motive := fun r => Holds I r) (fun _ => ?_) (fun _ => ?_)
  · exact (State.xlFilter_keeps H h0)
  · refine iteInduction (motive := fun r => Holds I r) (fun _ => ?_) (fun _ => ?_)
    · exact (State.xlFilter_keeps H h0)
    · refine iteInduction (motive := fun r => Holds I r) (fun _ => ?_) (fun _ => ?_)
      · exact (State.xlFilter_keeps H h0)
      · refine iteInduction (motive := fun r => Holds I r) (fun _ => ?_) (fun _ => ?_)
        · exact (State.xlFilter_keeps H h0)
        · exact h0

@[simp] theorem State.xlEmptyPart_keeps (H : Closed I) {s : State} {p : Nat} (h0 : Holds I s) : Holds I (State.xlEmptyPart s p) := by
  unfold State.xlEmptyPart
  exact (State.invApply_keeps H h0)

end Sys2Proof.Machine
end

