-- ==== Sys2Proof/Laws/KeepsLkOps.lean ====
section
/-! SUPPORT. What the operations of Machine/LkOps.lean protect. -/

namespace Sys2Proof.Machine

set_option linter.all false

variable {I : Prot → Prop}

@[simp] theorem State.lkTrace_keeps (H : Closed I) {s : State} {ty node psn type plane c : Nat} (h0 : Holds I s) : Holds I (State.lkTrace s ty node psn type plane c) := by
  unfold State.lkTrace
  extract_lets +onlyGivenNames -merge -useContext a20
  try clear_value a20
  refine iteInduction (motive := fun r => Holds I r) (fun _ => ?_) (fun _ => ?_)
  · exact (State.reel_keeps H h0)
  · exact h0

@[simp] theorem State.lkEmit_keeps (H : Closed I) {s : State} {node plane psn : Nat} {k : LkPkt} (h0 : Holds I s) : Holds I (State.lkEmit s node plane psn k) := by
  unfold State.lkEmit
  extract_lets +onlyGivenNames -merge -useContext a20 a21 a22
  have h23 : Holds I a22 := by
    unfold a22
    exact holds_mk h0 rfl rfl rfl rfl rfl rfl
  try clear_value a22
  exact (State.lkTrace_keeps H (State.odBump_keeps H (State.bump_keeps H h23)))

@[simp] theorem State.lkPlain_keeps (H : Closed I) {s : State} {node : Nat} {k : LkPkt} (h0 : Holds I s) : Holds I (State.lkPlain s node k) := by
  unfold State.lkPlain
  split
  · exact (State.lkEmit_keeps H h0)
  · exact h0

@[simp] theorem State.sendHello_keeps (H : Closed I) {s : State} {node : Nat} (h0 : Holds I s) : Holds I (State.sendHello s node) := by
  unfold State.sendHello
  exact (State.lkPlain_keeps H h0)

@[simp] theorem State.helloAll_keeps (H : Closed I) {s : State} {node : Nat} (h0 : Holds I s) : Holds I (State.helloAll s node) := by
  unfold State.helloAll
  refine State.each_keeps H h0 ?_
  · intro _ _ h20
    exact (State.lkEmit_keeps H h20)

@[simp] theorem State.peerOpen_keeps (H : Closed I) {s : State} {n : Nat} (h0 : Holds I s) : Holds I (State.peerOpen s n) := by
  unfold State.peerOpen
  exact (State.helloAll_keeps H (State.modPeer_keeps H h0))

@[simp] theorem State.peerUp_keeps (H : Closed I) {s : State} {n : Nat} (h0 : Holds I s) : Holds I (State.peerUp s n) := by
  unfold State.peerUp
  exact (State.modPeer_keeps H h0)

@[simp] theorem State.lkPush_keeps (H : Closed I) {s : State} {n : Nat} (h0 : Holds I s) : Holds I (State.lkPush s n) := by
  unfold State.lkPush
  extract_lets +onlyGivenNames -merge -useContext a20
  split
  · exact h0
  · refine iteInduction (motive := fun r => Holds I r) (fun _ => ?_) (fun _ => ?_)
    · split
      · extract_lets +onlyGivenNames -merge -useContext a21
        have h22 : Holds I a21 := (State.modPeer_keeps H h0)
        try clear_value a21
        exact (State.lkEmit_keeps H h22)
      · exact h0
    · exact h0

@[simp] theorem State.lkFlush_keeps (H : Closed I) {s : State} {n : Nat} (h0 : Holds I s) : Holds I (State.lkFlush s n) := by
  unfold State.lkFlush
  refine holds_foldl_of (fun (r : State) => r) ?_ ?_
  · exact h0
  · intro _ _ h20
    exact (State.lkPush_keeps H h20)

@[simp] theorem State.lkSend_keeps (H : Closed I) {s : State} {node : Nat} {k : LkPkt} (h0 : Holds I s) : Holds I (State.lkSend s node k) := by
  unfold State.lkSend
  refine iteInduction (motive := fun r => Holds I r) (fun _ => ?_) (fun _ => ?_)
  · refine iteInduction (motive := fun r => Holds I r) (fun _ => ?_) (fun _ => ?_)
    · exact (State.odBump_keeps H h0)
    · exact h0
  · extract_lets +onlyGivenNames -merge -useContext a20
    have h21 : Holds I a20 := (State.modPeer_keeps H h0)
    try clear_value a20
    split
    · refine iteInduction (motive := fun r => Holds I r) (fun _ => ?_) (fun _ => ?_)
      · exact (State.peerOpen_keeps H h21)
      · exact h21
    · exact (State.lkFlush_keeps H h21)
    · exact h21

@[simp] theorem State.fabricStart_keeps (H : Closed I) {s : State} (h0 : Holds I s) : Holds I (State.fabricStart s) := by
  unfold State.fabricStart
  split
  · rename_i e20
    have h21 := holds_of (I := I) (p := fun t => t.2) e20 (State.draw_keeps H h0)
    extract_lets +onlyGivenNames -merge -useContext a22
    try clear_value a22
    exact holds_mk h21 rfl rfl rfl rfl rfl rfl

@[simp] theorem State.ipaReadPage_keeps (H : Closed I) {p : Nat} {r : VaRes} {pc : Nat × Nat} (h1 : Holds I (r).st) : Holds I (State.ipaReadPage p r pc).st := by
  unfold State.ipaReadPage
  refine iteInduction (motive := fun (r : VaRes) => Holds I r.st) (fun _ => ?_) (fun _ => ?_)
  · exact h1
  · extract_lets +onlyGivenNames -merge -useContext a20
    have h21 : Holds I a20.st := (State.s2Xlate_keeps H h1)
    try clear_value a20
    refine iteInduction (motive := fun (r : VaRes) => Holds I r.st) (fun _ => ?_) (fun _ => ?_)
    · exact h1
    · split
      · exact h21
      · refine iteInduction (motive := fun (r : VaRes) => Holds I r.st) (fun _ => ?_) (fun _ => ?_)
        · exact h21
        · extract_lets +onlyGivenNames -merge -useContext a22
          have h23 : Holds I a22.st := (State.readMem_keeps H h21)
          try clear_value a22
          refine iteInduction (motive := fun (r : VaRes) => Holds I r.st) (fun _ => ?_) (fun _ => ?_)
          · exact h1
          · exact h23

@[simp] theorem State.ipaRead_keeps (H : Closed I) {s : State} {p ipa n : Nat} (h0 : Holds I s) : Holds I (State.ipaRead s p ipa n).st := by
  unfold State.ipaRead
  extract_lets +onlyGivenNames -merge -useContext a20
  have h21 : Holds I a20.st := by
    unfold a20
    refine holds_foldl_of (fun (r : VaRes) => r.st) ?_ ?_
    · exact h0
    · intro _ _ h22
      exact State.ipaReadPage_keeps H h22
  try clear_value a20
  refine iteInduction (motive := fun (r : VaRes) => Holds I r.st) (fun _ => ?_) (fun _ => ?_)
  · exact h0
  · exact h21

@[simp] theorem State.ipaWritePage_keeps (H : Closed I) {p : Nat} {bad : List Nat} {base : Nat} {r : VaRes} {pc : Nat × Nat} (h3 : Holds I (r).st) : Holds I (State.ipaWritePage p bad base r pc).st := by
  unfold State.ipaWritePage
  refine iteInduction (motive := fun (r : VaRes) => Holds I r.st) (fun _ => ?_) (fun _ => ?_)
  · exact h3
  · extract_lets +onlyGivenNames -merge -useContext a20
    have h21 : Holds I a20.st := (State.s2Xlate_keeps H h3)
    try clear_value a20
    refine iteInduction (motive := fun (r : VaRes) => Holds I r.st) (fun _ => ?_) (fun _ => ?_)
    · exact h3
    · split
      · exact h21
      · refine iteInduction (motive := fun (r : VaRes) => Holds I r.st) (fun _ => ?_) (fun _ => ?_)
        · exact h21
        · extract_lets +onlyGivenNames -merge -useContext a22 a23
          try clear_value a22
          have h24 : Holds I a23.st := (State.writeMem_keeps H h21)
          try clear_value a23
          refine iteInduction (motive := fun (r : VaRes) => Holds I r.st) (fun _ => ?_) (fun _ => ?_)
          · exact h3
          · extract_lets +onlyGivenNames -merge -useContext a25 a26
            try clear_value a25
            have h27 : Holds I a26 := by
              unfold a26
              refine State.each_keeps H h24 ?_
              · intro _ _ h28
                exact (State.setPoison_keeps H h28)
            try clear_value a26
            exact h27

@[simp] theorem State.ipaWriteMem_keeps (H : Closed I) {s : State} {p ipa : Nat} {bs : List Byte} {bad : List Nat} (h0 : Holds I s) : Holds I (State.ipaWriteMem s p ipa bs bad).st := by
  unfold State.ipaWriteMem
  extract_lets +onlyGivenNames -merge -useContext a20
  have h21 : Holds I a20.st := by
    unfold a20
    refine holds_foldl_of (fun (r : VaRes) => r.st) ?_ ?_
    · exact h0
    · intro _ _ h22
      exact State.ipaWritePage_keeps H h22
  try clear_value a20
  refine iteInduction (motive := fun (r : VaRes) => Holds I r.st) (fun _ => ?_) (fun _ => ?_)
  · exact h0
  · exact h21

end Sys2Proof.Machine
end

