-- ==== Sys2Proof/Laws/KeepsGate.lean ====
section
/-! SUPPORT. What the operations of Machine/Gate.lean protect. -/

namespace Sys2Proof.Machine

set_option linter.all false

variable {I : Prot → Prop}

@[simp] theorem State.urAnswer_keeps (H : Closed I) {s : State} {f : Nat} (h0 : Holds I s) : Holds I (State.urAnswer s f) := by
  unfold State.urAnswer
  refine iteInduction (motive := fun r => Holds I r) (fun _ => ?_) (fun _ => ?_)
  · exact (State.odBump_keeps H (State.aer_keeps H h0))
  · exact h0

@[simp] theorem State.hostGate_keeps (H : Closed I) {s : State} {f off : Nat} {act : State → State} (h0 : Holds I s) (h3 : ∀ y0, Holds I (y0) → Holds I (act y0)) : Holds I (State.hostGate s f off act) := by
  unfold State.hostGate
  refine iteInduction (motive := fun r => Holds I r) (fun _ => ?_) (fun _ => ?_)
  · exact (State.urAnswer_keeps H h0)
  · refine iteInduction (motive := fun r => Holds I r) (fun _ => ?_) (fun _ => ?_)
    · exact (State.discardRo_keeps H h0)
    · exact (h3 _ h0)

@[simp] theorem State.regGate_keeps (H : Closed I) {s : State} {p : Path} {off : Nat} {vf : Option Nat} {act : State → State} (h0 : Holds I s) (h4 : ∀ y0, Holds I (y0) → Holds I (act y0)) : Holds I (State.regGate s p off vf act) := by
  unfold State.regGate
  split
  · exact (State.hostGate_keeps H h0 h4)
  · refine iteInduction (motive := fun r => Holds I r) (fun _ => ?_) (fun _ => ?_)
    · exact (State.hostGate_keeps H h0 h4)
    · refine iteInduction (motive := fun r => Holds I r) (fun _ => ?_) (fun _ => ?_)
      · exact h0
      · exact (State.urAnswer_keeps H h0)
  · exact (h4 _ h0)
  · exact h0
  · exact (h4 _ h0)

@[simp] theorem State.regGateP_keeps (H : Closed I) {s : State} {p : Path} {off : Nat} {act : State → State} (h0 : Holds I s) (h3 : ∀ y0, Holds I (y0) → Holds I (act y0)) : Holds I (State.regGateP s p off act) := by
  unfold State.regGateP
  refine State.regGate_keeps H h0 ?_
  · intro _ h20
    refine iteInduction (motive := fun r => Holds I r) (fun _ => ?_) (fun _ => ?_)
    · exact (h3 _ h20)
    · exact (State.discardRwp_keeps H h20)

end Sys2Proof.Machine
end

