-- ==== Sys2Proof/Laws/KeepsOdOps.lean ====
section
/-! SUPPORT. What the operations of Machine/OdOps.lean protect. -/

namespace Sys2Proof.Machine

set_option linter.all false

variable {I : Prot → Prop}

@[simp] theorem State.odStat_keeps (H : Closed I) {s : State} {st len : Nat} (h0 : Holds I s) : Holds I (State.odStat s st len) := by
  unfold State.odStat
  exact (State.setRf_keeps H (State.setRf_keeps H (State.setRf_keeps H h0)))

@[simp] theorem State.odReply_keeps (H : Closed I) {s : State} {p : Path} {st : Nat} (h0 : Holds I s) : Holds I (State.odReply s p st) := by
  unfold State.odReply
  split
  · exact (State.odStat_keeps H h0)
  · refine iteInduction (motive := fun r => Holds I r) (fun _ => ?_) (fun _ => ?_)
    · exact (State.tuiSend_keeps H h0)
    · exact h0
  · exact h0

@[simp] theorem State.odHold_keeps (H : Closed I) {s : State} {p : Path} (h0 : Holds I s) : Holds I (State.odHold s p) := by
  unfold State.odHold
  split
  · exact (State.setRf_keeps H h0)
  · exact h0

@[simp] theorem State.odAnswer_keeps (H : Closed I) {s : State} {p : Path} {st : Nat} (h0 : Holds I s) : Holds I (State.odAnswer s p st) := by
  unfold State.odAnswer
  split
  · split
    · exact holds_mk h0 rfl rfl rfl rfl rfl rfl
    · exact (State.odReply_keeps H h0)
  · exact (State.odReply_keeps H h0)

@[simp] theorem State.noteS_keeps (H : Closed I) {s : State} {p : Path} {idx sub : Nat} (h0 : Holds I s) : Holds I (State.noteS s p idx sub) := by
  unfold State.noteS
  extract_lets +onlyGivenNames -merge -useContext a20
  have h21 : Holds I a20 := (State.odBump_keeps H h0)
  try clear_value a20
  extract_lets +onlyGivenNames -merge -useContext a22 a23
  have h24 : Holds I a23 := by
    unfold a23
    exact holds_mk h21 rfl rfl rfl rfl rfl rfl
  try clear_value a23
  refine State.each_keeps H h24 ?_
  · intro _ _ h25
    exact (State.sendEvent_keeps H h25)

@[simp] theorem State.odCmd_keeps (H : Closed I) {s : State} {p : Path} {idx sub : Nat} {act : State → State × Option Nat} (h0 : Holds I s) (h4 : ∀ y0, Holds I (y0) → Holds I ((act y0).1)) : Holds I (State.odCmd s p idx sub act) := by
  unfold State.odCmd
  refine iteInduction (motive := fun r => Holds I r) (fun _ => ?_) (fun _ => ?_)
  · refine iteInduction (motive := fun r => Holds I r) (fun _ => ?_) (fun _ => ?_)
    · exact (State.urAnswer_keeps H h0)
    · exact h0
  · refine iteInduction (motive := fun r => Holds I r) (fun _ => ?_) (fun _ => ?_)
    · exact (State.setRf_keeps H h0)
    · refine iteInduction (motive := fun r => Holds I r) (fun _ => ?_) (fun _ => ?_)
      · exact (State.odReply_keeps H (State.odBump_keeps H h0))
      · extract_lets +onlyGivenNames -merge -useContext a20
        have h21 : Holds I a20.1 := (h4 _ h0)
        try clear_value a20
        split
        · refine State.odReply_keeps H ?_
          · refine iteInduction (motive := fun r => Holds I r) (fun _ => ?_) (fun _ => ?_)
            · exact h21
            · exact (State.odBump_keeps H h21)
        · exact (State.odHold_keeps H h21)

@[simp] theorem State.odCmdS_keeps (H : Closed I) {s : State} {p : Path} {idx sub : Nat} {act : State → State × Option Nat} (h0 : Holds I s) (h4 : ∀ y0, Holds I (y0) → Holds I ((act y0).1)) : Holds I (State.odCmdS s p idx sub act) := by
  unfold State.odCmdS
  refine State.odCmd_keeps H h0 ?_
  · intro _ h20
    extract_lets +onlyGivenNames -merge -useContext a21
    have h22 : Holds I a21.1 := (h4 _ h20)
    try clear_value a21
    refine iteInduction (motive := fun (r : State × Option Nat) => Holds I r.1) (fun _ => ?_) (fun _ => ?_)
    · exact (State.noteS_keeps H h22)
    · exact h22

end Sys2Proof.Machine
end

