-- ==== Sys2Proof/Laws/KeepsBoot.lean ====
section
/-! SUPPORT. What the operations of Machine/Boot.lean protect. -/

namespace Sys2Proof.Machine

set_option linter.all false

variable {I : Prot → Prop}

@[simp] theorem State.tuiPlain_keeps (H : Closed I) {s : State} {type req status : Nat} {body : List Byte} (h0 : Holds I s) : Holds I (State.tuiPlain s type req status body) := by
  unfold State.tuiPlain
  refine iteInduction (motive := fun r => Holds I r) (fun _ => ?_) (fun _ => ?_)
  · exact h0
  · exact holds_mk h0 rfl rfl rfl rfl rfl rfl

@[simp] theorem State.announce_keeps (H : Closed I) {s : State} (h0 : Holds I s) : Holds I (State.announce s) := by
  unfold State.announce
  exact (State.tuiPlain_keeps H h0)

@[simp] theorem State.setStage_keeps (H : Closed I) {s : State} {g : Stage} (h0 : Holds I s) : Holds I (State.setStage s g) := by
  unfold State.setStage
  extract_lets +onlyGivenNames -merge -useContext a20 a21
  have h22 : Holds I a21 := by
    unfold a21
    exact holds_mk h0 rfl rfl rfl rfl rfl rfl
  try clear_value a21
  extract_lets +onlyGivenNames -merge -useContext a23
  have h24 : Holds I a23 := (State.setRf_keeps H (State.setRf_keeps H h22))
  try clear_value a23
  exact (State.announce_keeps H (State.odSet_keeps H h24))

@[simp] theorem State.fwReady_keeps (H : Closed I) {s : State} (h0 : Holds I s) : Holds I (State.fwReady s) := by
  unfold State.fwReady
  extract_lets +onlyGivenNames -merge -useContext a20
  have h21 : Holds I a20 := by
    unfold a20
    refine iteInduction (motive := fun r => Holds I r) (fun _ => ?_) (fun _ => ?_)
    · exact (State.fabricStart_keeps H h0)
    · exact h0
  try clear_value a20
  refine State.setStage_keeps H ?_
  · exact holds_mk h21 rfl rfl rfl rfl rfl rfl

end Sys2Proof.Machine
end

