-- ==== Sys2Proof/Laws/KeepsPlans.lean ====
section
/-! SUPPORT. What the operations of Machine/Plans.lean protect. -/

namespace Sys2Proof.Machine

set_option linter.all false

variable {I : Prot → Prop}

@[simp] theorem State.modPlan_keeps (H : Closed I) {s : State} {p : Nat} {f : Plan → Plan} (h0 : Holds I s) : Holds I (State.modPlan s p f) := by
  unfold State.modPlan
  exact holds_mk h0 rfl rfl rfl rfl rfl rfl

@[simp] theorem State.planOff_keeps (H : Closed I) {s : State} {p : Nat} (h0 : Holds I s) : Holds I (State.planOff s p) := by
  unfold State.planOff
  exact (State.odSet_keeps H (State.modPlan_keeps H h0))

@[simp] theorem State.plansOff_keeps (H : Closed I) {s : State} {sub v : Nat} (h0 : Holds I s) : Holds I (State.plansOff s sub v) := by
  unfold State.plansOff
  refine State.each_keeps H h0 ?_
  · intro _ _ h20
    exact (State.planOff_keeps H h20)

@[simp] theorem State.planFailure_keeps (H : Closed I) {s : State} {p : Nat} {node : Option Nat} (h0 : Holds I s) : Holds I (State.planFailure s p node) := by
  unfold State.planFailure
  extract_lets +onlyGivenNames -merge -useContext a20 a21
  try clear_value a21
  refine iteInduction (motive := fun r => Holds I r) (fun _ => ?_) (fun _ => ?_)
  · exact h0
  · extract_lets +onlyGivenNames -merge -useContext a22 a23
    try clear_value a23
    exact (State.odBump_keeps H (State.modPlan_keeps H h0))

@[simp] theorem State.planLost_keeps (H : Closed I) {s : State} {n : Nat} (h0 : Holds I s) : Holds I (State.planLost s n) := by
  unfold State.planLost
  refine State.each_keeps H h0 ?_
  · intro _ _ h20
    exact (State.planFailure_keeps H h20)

@[simp] theorem State.planFault_keeps (H : Closed I) {s : State} {c : Nat} (h0 : Holds I s) : Holds I (State.planFault s c) := by
  unfold State.planFault
  refine State.each_keeps H h0 ?_
  · intro _ _ h20
    exact (State.planFailure_keeps H h20)

@[simp] theorem State.negDone_keeps (H : Closed I) {s : State} {p : Nat} (h0 : Holds I s) : Holds I (State.negDone s p) := by
  unfold State.negDone
  extract_lets +onlyGivenNames -merge -useContext a20
  have h21 : Holds I a20 := (State.modPlan_keeps H h0)
  try clear_value a20
  exact (State.ngEvent_keeps H (State.odBump_keeps H h21))

@[simp] theorem State.negFail_keeps (H : Closed I) {s : State} {p : Nat} (h0 : Holds I s) : Holds I (State.negFail s p) := by
  unfold State.negFail
  extract_lets +onlyGivenNames -merge -useContext a20
  have h21 : Holds I a20 := (State.modPlan_keeps H h0)
  try clear_value a20
  exact (State.ngEvent_keeps H (State.odBump_keeps H h21))

end Sys2Proof.Machine
end

