-- ==== Sys2Proof/Laws/KeepsObjs.lean ====
section
/-! SUPPORT. What the operations of Machine/Objs.lean protect. -/

namespace Sys2Proof.Machine

set_option linter.all false

variable {I : Prot → Prop}

@[simp] theorem State.setRefs_keeps (H : Closed I) {s : State} {kind h n : Nat} (h0 : Holds I s) : Holds I (State.setRefs s kind h n) := by
  unfold State.setRefs
  extract_lets +onlyGivenNames -merge -useContext a20 a21
  try clear_value a20 a21
  refine iteInduction (motive := fun r => Holds I r) (fun _ => ?_) (fun _ => ?_)
  · exact (State.modCtx_keeps H h0)
  · refine iteInduction (motive := fun r => Holds I r) (fun _ => ?_) (fun _ => ?_)
    · exact (State.modQueue_keeps H h0)
    · refine iteInduction (motive := fun r => Holds I r) (fun _ => ?_) (fun _ => ?_)
      · exact (State.setMemObj_keeps H h0)
      · exact (State.modSync_keeps H h0)

@[simp] theorem State.addRef_keeps (H : Closed I) {s : State} {kind h : Nat} (h0 : Holds I s) : Holds I (State.addRef s kind h) := by
  unfold State.addRef
  exact (State.setRefs_keeps H h0)

@[simp] theorem State.dropRef_keeps (H : Closed I) {s : State} {kind h : Nat} (h0 : Holds I s) : Holds I (State.dropRef s kind h) := by
  unfold State.dropRef
  exact (State.setRefs_keeps H h0)

@[simp] theorem State.kill_keeps (H : Closed I) {s : State} {kind h : Nat} (h0 : Holds I s) : Holds I (State.kill s kind h) := by
  unfold State.kill
  extract_lets +onlyGivenNames -merge -useContext a20 a21
  have h22 : Holds I a21 := by
    unfold a21
    refine iteInduction (motive := fun r => Holds I r) (fun _ => ?_) (fun _ => ?_)
    · exact (State.modCtx_keeps H h0)
    · refine iteInduction (motive := fun r => Holds I r) (fun _ => ?_) (fun _ => ?_)
      · exact (State.modQueue_keeps H h0)
      · refine iteInduction (motive := fun r => Holds I r) (fun _ => ?_) (fun _ => ?_)
        · exact (State.setMemObj_keeps H h0)
        · exact (State.modSync_keeps H h0)
  try clear_value a21
  exact (State.dropRef_keeps H h22)

@[simp] theorem State.releaseHolds_keeps (H : Closed I) {s : State} {c : Nat} (h0 : Holds I s) : Holds I (State.releaseHolds s c) := by
  unfold State.releaseHolds
  extract_lets +onlyGivenNames -merge -useContext a20
  have h21 : Holds I a20 := by
    unfold a20
    refine State.each_keeps H h0 ?_
    · intro _ _ h22
      extract_lets +onlyGivenNames -merge -useContext a23
      split
      · refine iteInduction (motive := fun r => Holds I r) (fun _ => ?_) (fun _ => ?_)
        · exact (State.dropRef_keeps H (State.setMemObj_keeps H h22))
        · exact h22
      · exact h22
  try clear_value a20
  refine State.each_keeps H h21 ?_
  · intro _ _ h24
    extract_lets +onlyGivenNames -merge -useContext a25
    split
    · refine iteInduction (motive := fun r => Holds I r) (fun _ => ?_) (fun _ => ?_)
      · exact (State.dropRef_keeps H (State.setSync_keeps H h24))
      · exact h24
    · exact h24

@[simp] theorem State.setHead_keeps (H : Closed I) {s : State} {q head : Nat} (h0 : Holds I s) : Holds I (State.setHead s q head) := by
  unfold State.setHead
  extract_lets +onlyGivenNames -merge -useContext a20
  have h21 : Holds I a20 := (State.modQueue_keeps H h0)
  try clear_value a20
  exact (State.releaseHolds_keeps H h21)

@[simp] theorem State.writeShadow_keeps (H : Closed I) {s : State} {h : Nat} (h0 : Holds I s) : Holds I (State.writeShadow s h) := by
  unfold State.writeShadow
  extract_lets +onlyGivenNames -merge -useContext a20
  refine iteInduction (motive := fun r => Holds I r) (fun _ => ?_) (fun _ => ?_)
  · exact h0
  · extract_lets +onlyGivenNames -merge -useContext a21
    have h22 : Holds I a21.st := (State.hubWrite_keeps H h0)
    try clear_value a21
    extract_lets +onlyGivenNames -merge -useContext a23
    have h24 : Holds I a23.st := (State.hubWrite_keeps H h22)
    try clear_value a23
    split
    · exact (State.quietRecord_keeps H h24)
    · exact h24

@[simp] theorem State.fenceChanged_keeps (H : Closed I) {s : State} {h : Nat} (h0 : Holds I s) : Holds I (State.fenceChanged s h) := by
  unfold State.fenceChanged
  extract_lets +onlyGivenNames -merge -useContext a20
  have h21 : Holds I a20 := (State.writeShadow_keeps H h0)
  try clear_value a20
  extract_lets +onlyGivenNames -merge -useContext a22
  refine State.each_keeps H h21 ?_
  · intro _ _ h23
    exact (State.lkSend_keeps H h23)

@[simp] theorem State.negCheck_keeps (H : Closed I) {s : State} {p : Nat} (h0 : Holds I s) : Holds I (State.negCheck s p) := by
  unfold State.negCheck
  extract_lets +onlyGivenNames -merge -useContext a20 a21
  try clear_value a21
  refine iteInduction (motive := fun r => Holds I r) (fun _ => ?_) (fun _ => ?_)
  · exact h0
  · refine iteInduction (motive := fun r => Holds I r) (fun _ => ?_) (fun _ => ?_)
    · exact (State.negFail_keeps H h0)
    · refine iteInduction (motive := fun r => Holds I r) (fun _ => ?_) (fun _ => ?_)
      · exact (State.negDone_keeps H h0)
      · exact h0

@[simp] theorem State.planWatch_keeps (H : Closed I) {s : State} {h : Nat} (h0 : Holds I s) : Holds I (State.planWatch s h) := by
  unfold State.planWatch
  refine State.each_keeps H h0 ?_
  · intro _ _ h20
    extract_lets +onlyGivenNames -merge -useContext a21
    refine iteInduction (motive := fun r => Holds I r) (fun _ => ?_) (fun _ => ?_)
    · exact h20
    · refine iteInduction (motive := fun r => Holds I r) (fun _ => ?_) (fun _ => ?_)
      · exact (State.negCheck_keeps H (State.modPlan_keeps H h20))
      · exact (State.negCheck_keeps H h20)

@[simp] theorem State.signalLocal_keeps (H : Closed I) {s : State} {h v : Nat} {err : Bool} (h0 : Holds I s) : Holds I (State.signalLocal s h v err) := by
  unfold State.signalLocal
  extract_lets +onlyGivenNames -merge -useContext a20
  refine iteInduction (motive := fun r => Holds I r) (fun _ => ?_) (fun _ => ?_)
  · exact h0
  · exact (State.planWatch_keeps H (State.fenceChanged_keeps H (State.setSync_keeps H h0)))

@[simp] theorem State.signal_keeps (H : Closed I) {s : State} {h v : Nat} {err : Bool} (h0 : Holds I s) : Holds I (State.signal s h v err) := by
  unfold State.signal
  extract_lets +onlyGivenNames -merge -useContext a20
  refine iteInduction (motive := fun r => Holds I r) (fun _ => ?_) (fun _ => ?_)
  · exact (State.lkSend_keeps H h0)
  · exact (State.signalLocal_keeps H h0)

@[simp] theorem State.signalEvent_keeps (H : Closed I) {s : State} {h : Nat} (h0 : Holds I s) : Holds I (State.signalEvent s h) := by
  unfold State.signalEvent
  exact (State.modSync_keeps H h0)

@[simp] theorem State.errorFences_keeps (H : Closed I) {s : State} {c : Nat} {outside remoteOnly : Bool} (h0 : Holds I s) : Holds I (State.errorFences s c outside remoteOnly) := by
  unfold State.errorFences
  refine State.each_keeps H h0 ?_
  · intro _ _ h20
    extract_lets +onlyGivenNames -merge -useContext a21 a22
    try clear_value a22
    refine iteInduction (motive := fun r => Holds I r) (fun _ => ?_) (fun _ => ?_)
    · exact h20
    · exact (State.fenceChanged_keeps H (State.odBump_keeps H (State.setSync_keeps H h20)))

@[simp] theorem State.entrySignals_keeps (H : Closed I) {s : State} {e : Entry} {status : Nat} (h0 : Holds I s) : Holds I (State.entrySignals s e status) := by
  unfold State.entrySignals
  refine iteInduction (motive := fun r => Holds I r) (fun _ => ?_) (fun _ => ?_)
  · exact h0
  · refine State.each_keeps H h0 ?_
    · intro _ _ h20
      exact (State.signal_keeps H h20)

@[simp] theorem State.frontWrite_keeps (H : Closed I) {s : State} {c va : Nat} {bs : List Byte} (h0 : Holds I s) : Holds I ((State.frontWrite s c va bs).1) := by
  unfold State.frontWrite
  extract_lets +onlyGivenNames -merge -useContext a20
  have h21 : Holds I a20.st := (State.hubWrite_keeps H h0)
  try clear_value a20
  split
  · exact (State.quietRecord_keeps H h21)
  · exact h21

@[simp] theorem State.fetchNext_keeps (H : Closed I) {s : State} {q : Nat} (h0 : Holds I s) : Holds I (State.fetchNext s q) := by
  unfold State.fetchNext
  exact (State.modQueue_keeps H h0)

@[simp] theorem State.dropUpd_keeps (H : Closed I) {s : State} {q : Nat} (h0 : Holds I s) : Holds I (State.dropUpd s q) := by
  unfold State.dropUpd
  exact holds_mk h0 rfl rfl rfl rfl rfl rfl

@[simp] theorem State.completeEntry_keeps (H : Closed I) {s : State} {q status : Nat} (h0 : Holds I s) : Holds I (State.completeEntry s q status) := by
  unfold State.completeEntry
  split
  · exact h0
  · rename_i h _
    extract_lets +onlyGivenNames c e s1 seq bad s2 x
    have h1 : Holds I s1 := by simp [s1, *]
    have h2 : Holds I s2 := by simp [s2, *]
    clear_value s2
    split
    rename_i s3 f1 e3
    have h3 : Holds I s3 := holds_of_fst e3 (holds_ite_fst (fun _ => h2) (fun _ => State.frontWrite_keeps H h2))
    clear e3
    split
    rename_i s4 f2 e4
    have h4 : Holds I s4 := holds_of_fst e4 (holds_ite_fst (fun _ => h3) (fun _ => State.frontWrite_keeps H (State.frontWrite_keeps H h3)))
    clear e4
    extract_lets s5 s6 s7 s8
    have h5 : Holds I s5 := by simp [s5, *]
    have h6 : Holds I s6 := holds_ite (fun _ => h5) (fun _ => State.each_keeps H h5 (fun t r h => State.dropRef_keeps H h))
    have h7 : Holds I s7 := State.odBump_keeps H (holds_ite (fun _ => State.modCtx_keeps H h6) (fun _ => h6))
    exact State.fetchNext_keeps H (State.dropUpd_keeps H (State.delStep_keeps H (State.modQueue_keeps H h7)))

@[simp] theorem State.endHeld_keeps (H : Closed I) {s : State} {q status : Nat} {quiet : Bool} (h0 : Holds I s) : Holds I (State.endHeld s q status quiet) := by
  unfold State.endHeld
  exact (State.modQueue_keeps H h0)

end Sys2Proof.Machine
end

