-- ==== Sys2Proof/Laws/KeepsLkRuns.lean ====
section
/-! SUPPORT. What the operations of Machine/LkRuns.lean protect. -/

namespace Sys2Proof.Machine

set_option linter.all false

variable {I : Prot → Prop}

/-- A step of a run keeps what its state keeps. -/
def RunStep.Keeps (I : Prot → Prop) (r : RunStep) : Prop :=
  match r with
  | .went t => Holds I t
  | .fail t _ => Holds I t
  | _ => True

theorem RunStep.keeps_idle : RunStep.Keeps I .idle := trivial
theorem RunStep.keeps_wait : RunStep.Keeps I .wait := trivial
theorem RunStep.keeps_went {t : State} (h : Holds I t) : RunStep.Keeps I (.went t) := h
theorem RunStep.keeps_fail {t : State} {c : Nat} (h : Holds I t) : RunStep.Keeps I (.fail t c) := h
theorem RunStep.keeps_ite {c : Prop} [Decidable c] {a b : RunStep} (ha : c → RunStep.Keeps I a) (hb : ¬c → RunStep.Keeps I b) :
    RunStep.Keeps I (if c then a else b) := by split; exact ha ‹_›; exact hb ‹_›

@[simp] theorem State.modRun_keeps (H : Closed I) {s : State} {o : Nat} {f : Run → Run} (h0 : Holds I s) : Holds I (State.modRun s o f) := by
  unfold State.modRun
  exact holds_mk h0 rfl rfl rfl rfl rfl rfl

@[simp] theorem State.runEnd_keeps (H : Closed I) {s : State} {o st : Nat} (h0 : Holds I s) : Holds I (State.runEnd s o st) := by
  unfold State.runEnd
  extract_lets +onlyGivenNames -merge -useContext a20 a21
  have h22 : Holds I a21 := (State.odBump_keeps H (State.modRun_keeps H h0))
  try clear_value a21
  exact (State.signal_keeps H h22)

@[simp] theorem State.runFail_keeps (H : Closed I) {s : State} {o st : Nat} (h0 : Holds I s) : Holds I (State.runFail s o st) := by
  unfold State.runFail
  refine iteInduction (motive := fun r => Holds I r) (fun _ => ?_) (fun _ => ?_)
  · exact h0
  · extract_lets +onlyGivenNames -merge -useContext a20 a21 a22
    try clear_value a21
    have h23 : Holds I a22 := by
      unfold a22
      refine State.each_keeps H h0 ?_
      · intro _ _ h24
        exact (State.modPeer_keeps H h24)
    try clear_value a22
    extract_lets +onlyGivenNames -merge -useContext a25
    have h26 : Holds I a25 := by
      unfold a25
      refine State.each_keeps H h23 ?_
      · intro _ _ h27
        exact (State.lkSend_keeps H h27)
    try clear_value a25
    exact (State.runEnd_keeps H h26)

@[simp] theorem State.runAbort_keeps (H : Closed I) {s : State} {o : Nat} (h0 : Holds I s) : Holds I (State.runAbort s o) := by
  unfold State.runAbort
  refine iteInduction (motive := fun r => Holds I r) (fun _ => ?_) (fun _ => ?_)
  · exact (State.runEnd_keeps H h0)
  · exact h0

@[simp] theorem State.opClear_keeps (H : Closed I) {s : State} {o : Nat} (h0 : Holds I s) : Holds I (State.opClear s o) := by
  unfold State.opClear
  extract_lets +onlyGivenNames -merge -useContext a20
  have h21 : Holds I a20 := (State.runAbort_keeps H h0)
  try clear_value a20
  exact holds_mk h21 rfl rfl rfl rfl rfl rfl

@[simp] theorem State.groupClear_keeps (H : Closed I) {s : State} {g : Nat} (h0 : Holds I s) : Holds I (State.groupClear s g) := by
  unfold State.groupClear
  extract_lets +onlyGivenNames -merge -useContext a20
  have h21 : Holds I a20 := by
    unfold a20
    refine State.each_keeps H h0 ?_
    · intro _ _ h22
      exact (State.opClear_keeps H h22)
  try clear_value a20
  refine State.plansOff_keeps H ?_
  · exact holds_mk h21 rfl rfl rfl rfl rfl rfl

@[simp] theorem State.ctxGroupsClear_keeps (H : Closed I) {s : State} {c : Nat} (h0 : Holds I s) : Holds I (State.ctxGroupsClear s c) := by
  unfold State.ctxGroupsClear
  refine State.each_keeps H (State.plansOff_keeps H h0) ?_
  · intro _ _ h20
    exact (State.groupClear_keeps H h20)

@[simp] theorem State.lkRead_keeps (H : Closed I) {s : State} {v : OpView} {kind a n : Nat} (h0 : Holds I s) : Holds I (State.lkRead s v kind a n).st := by
  unfold State.lkRead
  refine iteInduction (motive := fun (r : VaRes) => Holds I r.st) (fun _ => ?_) (fun _ => ?_)
  · exact (State.hubRead_keeps H h0)
  · exact (State.ipaRead_keeps H h0)

@[simp] theorem State.lkFault_keeps (H : Closed I) {s : State} {v : OpView} {x : XFault} (h0 : Holds I s) : Holds I (State.lkFault s v x) := by
  unfold State.lkFault
  exact (State.quietRecord_keeps H h0)

@[simp] theorem State.sendPiece_keeps (H : Closed I) {v : OpView} {node run kind src dst : Nat} {r : SendRes} {p : Nat × Nat} (h6 : Holds I (r).st) : Holds I (State.sendPiece v node run kind src dst r p).st := by
  unfold State.sendPiece
  refine iteInduction (motive := fun (r : SendRes) => Holds I r.st) (fun _ => ?_) (fun _ => ?_)
  · exact h6
  · extract_lets +onlyGivenNames -merge -useContext a20
    have h21 : Holds I a20.st := (State.lkRead_keeps H h6)
    try clear_value a20
    refine iteInduction (motive := fun (r : SendRes) => Holds I r.st) (fun _ => ?_) (fun _ => ?_)
    · exact h6
    · split
      · exact (State.lkFault_keeps H h21)
      · extract_lets +onlyGivenNames -merge -useContext a22 a23
        try clear_value a22
        split
        · refine iteInduction (motive := fun (r : SendRes) => Holds I r.st) (fun _ => ?_) (fun _ => ?_)
          · exact h21
          · exact (State.lkSend_keeps H h21)
        · exact (State.lkSend_keeps H h21)

@[simp] theorem State.sendRange_keeps (H : Closed I) {s : State} {v : OpView} {rank run kind src dst n : Nat} (h0 : Holds I s) : Holds I (State.sendRange s v rank run kind src dst n).st := by
  unfold State.sendRange
  extract_lets +onlyGivenNames -merge -useContext a20
  try clear_value a20
  refine iteInduction (motive := fun (r : SendRes) => Holds I r.st) (fun _ => ?_) (fun _ => ?_)
  · exact h0
  · refine holds_foldl_of (fun (r : SendRes) => r.st) ?_ ?_
    · exact h0
    · intro _ _ h21
      exact State.sendPiece_keeps H h21

@[simp] theorem State.sendBytes_keeps (H : Closed I) {s : State} {v : OpView} {rank run dst : Nat} {bs : List Byte} (h0 : Holds I s) : Holds I (State.sendBytes s v rank run dst bs).st := by
  unfold State.sendBytes
  extract_lets +onlyGivenNames -merge -useContext a20
  try clear_value a20
  refine iteInduction (motive := fun (r : SendRes) => Holds I r.st) (fun _ => ?_) (fun _ => ?_)
  · exact h0
  · refine State.each_keeps H h0 ?_
    · intro _ _ h21
      exact (State.lkSend_keeps H h21)

@[simp] theorem State.combined_keeps (H : Closed I) {s : State} {n : Nat} (h0 : Holds I s) : Holds I (State.combined s n) := by
  unfold State.combined
  exact holds_mk h0 rfl rfl rfl rfl rfl rfl

@[simp] theorem State.gatherOne_keeps (H : Closed I) {v : OpView} {n : Nat} {r : GatherRes} {x : Nat × Nat} (h2 : Holds I (r).st) : Holds I (State.gatherOne v n r x).st := by
  unfold State.gatherOne
  refine iteInduction (motive := fun (r : GatherRes) => Holds I r.st) (fun _ => ?_) (fun _ => ?_)
  · exact h2
  · extract_lets +onlyGivenNames -merge -useContext a20
    have h21 : Holds I a20.st := (State.lkRead_keeps H h2)
    try clear_value a20
    refine iteInduction (motive := fun (r : GatherRes) => Holds I r.st) (fun _ => ?_) (fun _ => ?_)
    · exact h2
    · split
      · exact (State.lkFault_keeps H h21)
      · split
        · exact h21
        · refine iteInduction (motive := fun (r : GatherRes) => Holds I r.st) (fun _ => ?_) (fun _ => ?_)
          · exact h21
          · refine State.each_keeps H h21 ?_
            · intro _ _ h22
              exact (State.poisonRecord_keeps H h22)

@[simp] theorem State.lkWrite_keeps (H : Closed I) {s : State} {v : OpView} {ipa : Nat} {bs : List Byte} (h0 : Holds I s) : Holds I (State.lkWrite s v ipa bs).st := by
  unfold State.lkWrite
  extract_lets +onlyGivenNames -merge -useContext a20
  have h21 : Holds I a20.st := (State.ipaWriteMem_keeps H h0)
  try clear_value a20
  refine iteInduction (motive := fun (r : SendRes) => Holds I r.st) (fun _ => ?_) (fun _ => ?_)
  · exact h0
  · split
    · exact (State.lkFault_keeps H h21)
    · exact h21

@[simp] theorem SendRes.toStep_keeps (H : Closed I) {r : SendRes} {f : State → State} (h0 : Holds I (r).st) (h1 : ∀ y0, Holds I (y0) → Holds I (f y0)) : RunStep.Keeps I (SendRes.toStep r f) := by
  unfold SendRes.toStep
  refine iteInduction (motive := fun r => RunStep.Keeps I r) (fun _ => ?_) (fun _ => ?_)
  · exact RunStep.keeps_wait
  · split
    · refine RunStep.keeps_fail ?_
      exact h0
    · refine RunStep.keeps_went ?_
      exact (h1 _ h0)

@[simp] theorem State.directScratch_keeps (H : Closed I) {s : State} {v : OpView} (h0 : Holds I s) : RunStep.Keeps I (State.directScratch s v) := by
  unfold State.directScratch
  extract_lets +onlyGivenNames -merge -useContext a20
  split
  · exact RunStep.keeps_idle
  · extract_lets +onlyGivenNames -merge -useContext a21
    try clear_value a21
    refine SendRes.toStep_keeps H (State.sendRange_keeps H h0) ?_
    · intro _ h22
      exact (State.modRun_keeps H h22)

@[simp] theorem State.directReduce_keeps (H : Closed I) {s : State} {v : OpView} (h0 : Holds I s) : RunStep.Keeps I (State.directReduce s v) := by
  unfold State.directReduce
  extract_lets +onlyGivenNames -merge -useContext a20
  refine iteInduction (motive := fun r => RunStep.Keeps I r) (fun _ => ?_) (fun _ => ?_)
  · exact RunStep.keeps_idle
  · extract_lets +onlyGivenNames -merge -useContext a21
    have h22 : Holds I a21.st := by
      unfold a21
      refine holds_foldl_of (fun (r : GatherRes) => r.st) ?_ ?_
      · exact h0
      · intro _ _ h23
        exact State.gatherOne_keeps H h23
    try clear_value a21
    refine iteInduction (motive := fun r => RunStep.Keeps I r) (fun _ => ?_) (fun _ => ?_)
    · exact RunStep.keeps_wait
    · split
      · refine RunStep.keeps_fail ?_
        exact h22
      · extract_lets +onlyGivenNames -merge -useContext a24
        try clear_value a24
        refine SendRes.toStep_keeps H (State.lkWrite_keeps H (State.combined_keeps H h22)) ?_
        · intro _ h25
          refine State.modRun_keeps H ?_
          · refine State.each_keeps H h25 ?_
            · intro _ _ h26
              exact (State.lkSend_keeps H h26)

@[simp] theorem State.directGather_keeps (H : Closed I) {s : State} {v : OpView} (h0 : Holds I s) : RunStep.Keeps I (State.directGather s v) := by
  unfold State.directGather
  extract_lets +onlyGivenNames -merge -useContext a20 a21 a22 a23
  try clear_value a21 a22 a23
  refine iteInduction (motive := fun r => RunStep.Keeps I r) (fun _ => ?_) (fun _ => ?_)
  · exact RunStep.keeps_idle
  · split
    · exact RunStep.keeps_idle
    · extract_lets +onlyGivenNames -merge -useContext a24 a25
      try clear_value a24 a25
      refine SendRes.toStep_keeps H (State.sendRange_keeps H h0) ?_
      · intro _ h26
        exact (State.modRun_keeps H h26)

@[simp] theorem State.ownCopy_keeps (H : Closed I) {s : State} {v : OpView} (h0 : Holds I s) : RunStep.Keeps I (State.ownCopy s v) := by
  unfold State.ownCopy
  extract_lets +onlyGivenNames -merge -useContext a20 a21
  try clear_value a21
  refine iteInduction (motive := fun r => RunStep.Keeps I r) (fun _ => ?_) (fun _ => ?_)
  · exact RunStep.keeps_idle
  · extract_lets +onlyGivenNames -merge -useContext a22 a23
    try clear_value a22
    have h24 : Holds I a23.st := (State.lkRead_keeps H h0)
    try clear_value a23
    refine iteInduction (motive := fun r => RunStep.Keeps I r) (fun _ => ?_) (fun _ => ?_)
    · exact RunStep.keeps_wait
    · split
      · refine RunStep.keeps_fail ?_
        exact (State.lkFault_keeps H h24)
      · extract_lets +onlyGivenNames -merge -useContext a25
        have h26 : Holds I a25.st := (State.ipaWriteMem_keeps H h24)
        try clear_value a25
        refine iteInduction (motive := fun r => RunStep.Keeps I r) (fun _ => ?_) (fun _ => ?_)
        · exact RunStep.keeps_wait
        · split
          · refine RunStep.keeps_fail ?_
            exact (State.lkFault_keeps H h26)
          · refine RunStep.keeps_fail ?_
            exact h26
          · refine RunStep.keeps_went ?_
            exact (State.modRun_keeps H h26)

@[simp] theorem State.ringStart_keeps (H : Closed I) {s : State} {v : OpView} (h0 : Holds I s) : RunStep.Keeps I (State.ringStart s v) := by
  unfold State.ringStart
  extract_lets +onlyGivenNames -merge -useContext a20
  refine iteInduction (motive := fun r => RunStep.Keeps I r) (fun _ => ?_) (fun _ => ?_)
  · exact RunStep.keeps_idle
  · refine SendRes.toStep_keeps H (State.sendRange_keeps H h0) ?_
    · intro _ h21
      exact (State.modRun_keeps H h21)

@[simp] theorem State.ringReduce_keeps (H : Closed I) {s : State} {v : OpView} (h0 : Holds I s) : RunStep.Keeps I (State.ringReduce s v) := by
  unfold State.ringReduce
  extract_lets +onlyGivenNames -merge -useContext a20 a21 a22
  try clear_value a21 a22
  refine iteInduction (motive := fun r => RunStep.Keeps I r) (fun _ => ?_) (fun _ => ?_)
  · exact RunStep.keeps_idle
  · extract_lets +onlyGivenNames -merge -useContext a23 a24
    try clear_value a23
    have h25 : Holds I a24.st := by
      unfold a24
      refine holds_foldl_of (fun (r : GatherRes) => r.st) ?_ ?_
      · exact h0
      · intro _ _ h26
        exact State.gatherOne_keeps H h26
    try clear_value a24
    refine iteInduction (motive := fun r => RunStep.Keeps I r) (fun _ => ?_) (fun _ => ?_)
    · exact RunStep.keeps_wait
    · split
      · refine RunStep.keeps_fail ?_
        exact h25
      · extract_lets +onlyGivenNames -merge -useContext a27 a28
        have h28 : Holds I a28 := State.combined_keeps H h25
        try clear_value a27 a28
        refine iteInduction (motive := fun r => RunStep.Keeps I r) (fun _ => ?_) (fun _ => ?_)
        · refine SendRes.toStep_keeps H (State.sendBytes_keeps H h28) ?_
          · intro _ h30
            exact (State.modRun_keeps H h30)
        · refine SendRes.toStep_keeps H (State.lkWrite_keeps H h28) ?_
          · intro _ h29
            exact (State.modRun_keeps H (State.lkSend_keeps H h29))

@[simp] theorem State.ringForward_keeps (H : Closed I) {s : State} {v : OpView} (h0 : Holds I s) : RunStep.Keeps I (State.ringForward s v) := by
  unfold State.ringForward
  extract_lets +onlyGivenNames -merge -useContext a20 a21 a22
  try clear_value a21 a22
  refine iteInduction (motive := fun r => RunStep.Keeps I r) (fun _ => ?_) (fun _ => ?_)
  · exact RunStep.keeps_idle
  · refine iteInduction (motive := fun r => RunStep.Keeps I r) (fun _ => ?_) (fun _ => ?_)
    · split
      · exact RunStep.keeps_idle
      · refine SendRes.toStep_keeps H (State.sendRange_keeps H h0) ?_
        · intro _ h23
          exact (State.modRun_keeps H h23)
    · refine iteInduction (motive := fun r => RunStep.Keeps I r) (fun _ => ?_) (fun _ => ?_)
      · extract_lets +onlyGivenNames -merge -useContext a24
        try clear_value a24
        refine iteInduction (motive := fun r => RunStep.Keeps I r) (fun _ => ?_) (fun _ => ?_)
        · exact RunStep.keeps_idle
        · extract_lets +onlyGivenNames -merge -useContext a25
          try clear_value a25
          refine SendRes.toStep_keeps H (State.sendRange_keeps H h0) ?_
          · intro _ h26
            exact (State.modRun_keeps H h26)
      · exact RunStep.keeps_idle

@[simp] theorem State.runStep_keeps (H : Closed I) {s : State} {v : OpView} (h0 : Holds I s) : RunStep.Keeps I (State.runStep s v) := by
  unfold State.runStep
  extract_lets +onlyGivenNames orElse
  have hs (a b : RunStep) (ha : RunStep.Keeps I a) (hb : RunStep.Keeps I b) : RunStep.Keeps I (orElse a b) := by
    unfold orElse
    cases a
    · exact hb
    · exact ha
    · exact trivial
    · exact ha
  clear_value orElse
  refine RunStep.keeps_ite (fun _ => hs _ _ (State.ringStart_keeps H h0) (hs _ _ (State.ringReduce_keeps H h0) (hs _ _ (State.ownCopy_keeps H h0) (State.ringForward_keeps H h0)))) (fun _ => ?_)
  refine hs _ _ (RunStep.keeps_ite (fun _ => State.directScratch_keeps H h0) (fun _ => RunStep.keeps_idle)) (hs _ _ (RunStep.keeps_ite (fun _ => State.directReduce_keeps H h0) (fun _ => RunStep.keeps_idle)) (hs _ _ (State.ownCopy_keeps H h0) (State.directGather_keeps H h0)))

@[simp] theorem State.runGo_keeps (H : Closed I) {x0 : Nat} {x1 : State} {x2 : OpView} (h1 : Holds I (x1)) : Holds I (State.runGo x0 x1 x2) := by
  induction x0 generalizing x1 with
  | zero => exact h1
  | succ n ih =>
    unfold State.runGo
    have hs := State.runStep_keeps H (v := x2) h1
    split
    · exact h1
    · exact h1
    · rename_i t e; rw [e] at hs; exact ih hs
    · rename_i t c e; rw [e] at hs; exact State.runFail_keeps H hs

@[simp] theorem State.opAdvance_keeps (H : Closed I) {s : State} {o : Nat} (h0 : Holds I s) : Holds I (State.opAdvance s o) := by
  unfold State.opAdvance
  refine iteInduction (motive := fun r => Holds I r) (fun _ => ?_) (fun _ => ?_)
  · extract_lets +onlyGivenNames -merge -useContext a20
    exact (State.runGo_keeps H h0)
  · exact h0

@[simp] theorem State.peerLost_keeps (H : Closed I) {s : State} {n : Nat} (h0 : Holds I s) : Holds I (State.peerLost s n) := by
  unfold State.peerLost
  extract_lets +onlyGivenNames -merge -useContext a20
  refine iteInduction (motive := fun r => Holds I r) (fun _ => ?_) (fun _ => ?_)
  · exact h0
  · extract_lets +onlyGivenNames -merge -useContext a21 a22
    try clear_value a21
    have h23 : Holds I a22 := (State.planLost_keeps H (State.odBump_keeps H (State.bump_keeps H (State.modPeer_keeps H h0))))
    try clear_value a22
    extract_lets +onlyGivenNames -merge -useContext a24
    have h25 : Holds I a24 := by
      unfold a24
      refine State.each_keeps H h23 ?_
      · intro _ _ h26
        exact (State.modSync_keeps H h26)
    try clear_value a24
    extract_lets +onlyGivenNames -merge -useContext a27
    have h28 : Holds I a27 := by
      unfold a27
      refine State.each_keeps H h25 ?_
      · intro _ _ h29
        extract_lets +onlyGivenNames -merge -useContext a30
        try clear_value a30
        refine iteInduction (motive := fun r => Holds I r) (fun _ => ?_) (fun _ => ?_)
        · exact h29
        · refine State.each_keeps H h29 ?_
          · intro _ _ h31
            exact (State.dropRef_keeps H (State.modSync_keeps H h31))
    try clear_value a27
    extract_lets +onlyGivenNames -merge -useContext a32
    have h33 : Holds I a32 := by
      unfold a32
      refine State.each_keeps H h28 ?_
      · intro _ _ h34
        exact (State.runFail_keeps H h34)
    try clear_value a32
    split
    · refine iteInduction (motive := fun r => Holds I r) (fun _ => ?_) (fun _ => ?_)
      · exact (State.peerOpen_keeps H h33)
      · exact h33
    · exact h33

end Sys2Proof.Machine
end

