-- ==== Sys2Proof/Laws/KeepsMeterOps.lean ====
section
/-! SUPPORT. What the operations of Machine/MeterOps.lean protect. -/

namespace Sys2Proof.Machine

set_option linter.all false

variable {I : Prot → Prop}

@[simp] theorem State.learnedPut_keeps (H : Closed I) {s : State} {l : Learned} (h0 : Holds I s) : Holds I (State.learnedPut s l) := by
  unfold State.learnedPut
  extract_lets +onlyGivenNames -merge -useContext a20
  split
  · exact holds_mk h0 rfl rfl rfl rfl rfl rfl
  · extract_lets +onlyGivenNames -merge -useContext a21 a22 a23 a24
    try clear_value a21 a22 a23 a24
    exact holds_mk h0 rfl rfl rfl rfl rfl rfl

@[simp] theorem State.observe_keeps (H : Closed I) {s : State} {kind p cls : Nat} {e d : Rat} (h0 : Holds I s) : Holds I (State.observe s kind p cls e d) := by
  unfold State.observe
  extract_lets +onlyGivenNames -merge -useContext a20 a21
  try clear_value a20 a21
  split
  · exact (State.learnedPut_keeps H h0)
  · extract_lets +onlyGivenNames -merge -useContext a22 a23
    try clear_value a22 a23
    exact (State.learnedPut_keeps H h0)

@[simp] theorem State.setDuty_keeps (H : Closed I) {s : State} {cl n : Nat} (h0 : Holds I s) : Holds I (State.setDuty s cl n) := by
  unfold State.setDuty
  extract_lets +onlyGivenNames -merge -useContext a20
  have h21 : Holds I a20 := (State.setRf_keeps H h0)
  try clear_value a20
  refine iteInduction (motive := fun r => Holds I r) (fun _ => ?_) (fun _ => ?_)
  · exact holds_mk h21 rfl rfl rfl rfl rfl rfl
  · exact h21

@[simp] theorem State.stepTime_keeps (H : Closed I) {s : State} {q : Nat} (h0 : Holds I s) : Holds I (State.stepTime s q) := by
  unfold State.stepTime
  split
  · exact h0
  · exact (State.setStep_keeps H h0)

@[simp] theorem State.kernelTime_keeps (H : Closed I) {s : State} {k : Nat} (h0 : Holds I s) : Holds I (State.kernelTime s k) := by
  unfold State.kernelTime
  split
  · exact h0
  · refine iteInduction (motive := fun r => Holds I r) (fun _ => ?_) (fun _ => ?_)
    · exact (State.setKernel_keeps H h0)
    · exact h0

@[simp] theorem State.modeRequest_keeps (H : Closed I) {s : State} {r : ModeReq} (h0 : Holds I s) : Holds I (State.modeRequest s r) := by
  unfold State.modeRequest
  extract_lets +onlyGivenNames -merge -useContext a20 a21 a22
  try clear_value a21 a22
  exact holds_mk h0 rfl rfl rfl rfl rfl rfl

@[simp] theorem State.askCompat_keeps (H : Closed I) {s : State} {p : Nat} (h0 : Holds I s) : Holds I (State.askCompat s p) := by
  unfold State.askCompat
  extract_lets +onlyGivenNames -merge -useContext a20 a21
  try clear_value a21
  refine iteInduction (motive := fun r => Holds I r) (fun _ => ?_) (fun _ => ?_)
  · exact h0
  · exact (State.modeRequest_keeps H h0)

end Sys2Proof.Machine
end

