-- ==== Sys2Proof/Laws/KeepsTeardown.lean ====
section
/-! SUPPORT. What the operations of Machine/Teardown.lean protect. -/

namespace Sys2Proof.Machine

set_option linter.all false

variable {I : Prot → Prop}

@[simp] theorem State.stepStatus_keeps (H : Closed I) {s : State} {q status : Nat} (h0 : Holds I s) : Holds I (State.stepStatus s q status) := by
  unfold State.stepStatus
  exact (State.modStep_keeps H h0)

theorem State.drainSb_keeps (H : Closed I) {s : State} {slot idx : Nat} (h0 : Holds I s) : ∀ t', State.drainSb s slot idx = some t' → Holds I (t') := by
  show HoldsSome I (fun t => t) _
  unfold State.drainSb
  split
  · exact some_none
  · extract_lets +onlyGivenNames -merge -useContext a20
    have h21 : ∀ y0, Holds I y0 → Holds I (a20 y0) := by
      intro _ h22
      unfold a20
      exact (State.modCore_keeps H h22)
    try clear_value a20
    refine iteInduction (motive := fun r => HoldsSome I (fun t => t) r) (fun _ => ?_) (fun _ => ?_)
    · refine some_some ?_
      refine h21 _ ?_
      · refine State.each_keeps H h0 ?_
        · intro _ _ h23
          split
          · exact (State.hostWrite_keeps H h23)
          · exact h23
    · extract_lets +onlyGivenNames -merge -useContext a24 a25 a26 a27 a28
      try clear_value a24 a26 a27 a28
      split
      · exact some_none
      · exact (some_some (h21 _ h0))
      · extract_lets +onlyGivenNames -merge -useContext a29
        have h30 : Holds I a29 := (h21 _ h0)
        try clear_value a29
        refine some_some ?_
        split
        · exact (State.stepStatus_keeps H h30)
        · exact h30
      · extract_lets +onlyGivenNames -merge -useContext a31
        have h32 : Holds I a31 := (State.ownedWrite_keeps H h0)
        try clear_value a31
        extract_lets +onlyGivenNames -merge -useContext a33
        have h34 : Holds I a33 := by
          unfold a33
          refine State.each_keeps H h32 ?_
          · intro _ _ h35
            split
            · exact (State.wrBytes_keeps H h35)
            · exact h35
        try clear_value a33
        extract_lets +onlyGivenNames -merge -useContext a36
        have h37 : Holds I a36 := (State.mirrorWrite_keeps H (State.quarantineWrite_keeps H (State.poisonWrite_keeps H h34)))
        try clear_value a36
        exact (some_some (h21 _ h37))

@[simp] theorem State.drainAll_keeps (H : Closed I) {x0 : Nat} {x1 : State} {x2 x3 : Nat} (h1 : Holds I (x1)) : Holds I (State.drainAll x0 x1 x2 x3) := by
  induction x0 generalizing x1 x3 with
  | zero => exact h1
  | succ n ih =>
    unfold State.drainAll
    refine holds_ite (fun _ => h1) (fun _ => ?_)
    split
    · exact ih (State.drainSb_keeps H h1 _ ‹_›)
    · exact ih h1

@[simp] theorem State.drainCore_keeps (H : Closed I) {s : State} {slot : Nat} (h0 : Holds I s) : Holds I (State.drainCore s slot) := by
  unfold State.drainCore
  exact (State.drainAll_keeps H h0)

@[simp] theorem State.discardSb_keeps (H : Closed I) {s : State} {slot : Nat} (h0 : Holds I s) : Holds I (State.discardSb s slot) := by
  unfold State.discardSb
  extract_lets +onlyGivenNames -merge -useContext a20 a21
  try clear_value a20
  have h22 : Holds I a21 := (State.setRf_keeps H (State.modCore_keeps H h0))
  try clear_value a21
  exact (State.odBump_keeps H h22)

@[simp] theorem State.clearLocal_keeps (H : Closed I) {s : State} {slot : Nat} (h0 : Holds I s) : Holds I (State.clearLocal s slot) := H.poisonFilter _ _ (H.memFilter _ _ h0)

@[simp] theorem State.clearCore_keeps (H : Closed I) {s : State} {slot : Nat} (h0 : Holds I s) : Holds I (State.clearCore s slot) := by
  unfold State.clearCore
  extract_lets +onlyGivenNames -merge -useContext a20
  have h21 : Holds I a20 := (State.modCore_keeps H (State.clearLocal_keeps H h0))
  try clear_value a20
  exact (State.setReg_keeps H (State.setReg_keeps H (State.setReg_keeps H h21)))

@[simp] theorem State.enterClearing_keeps (H : Closed I) {s : State} {slot : Nat} (h0 : Holds I s) : Holds I (State.enterClearing s slot) := by
  unfold State.enterClearing
  exact (State.modCore_keeps H (State.clearCore_keeps H h0))

@[simp] theorem State.seqIdle_keeps (H : Closed I) {s : State} {cl : Nat} (h0 : Holds I s) : Holds I (State.seqIdle s cl) := by
  unfold State.seqIdle
  extract_lets +onlyGivenNames -merge -useContext a20
  try clear_value a20
  exact (State.modSeq_keeps H h0)

@[simp] theorem State.accountRt_keeps (H : Closed I) {s : State} {q : Nat} (h0 : Holds I s) : Holds I (State.accountRt s q) := by
  unfold State.accountRt
  split
  · exact h0
  · extract_lets +onlyGivenNames -merge -useContext a20
    have h21 : Holds I a20 := (State.setStep_keeps H h0)
    try clear_value a20
    refine iteInduction (motive := fun r => Holds I r) (fun _ => ?_) (fun _ => ?_)
    · exact (State.modPart_keeps H h21)
    · exact h21

@[simp] theorem State.stepLeave_keeps (H : Closed I) {s : State} {q : Nat} (h0 : Holds I s) : Holds I (State.stepLeave s q) := by
  unfold State.stepLeave
  split
  · exact h0
  · extract_lets +onlyGivenNames -merge -useContext a20
    have h21 : Holds I a20 := (State.stepTime_keeps H (State.accountRt_keeps H h0))
    try clear_value a20
    extract_lets +onlyGivenNames -merge -useContext a22 a23
    try clear_value a22
    have h24 : Holds I a23 := (State.modQueue_keeps H h21)
    try clear_value a23
    extract_lets +onlyGivenNames -merge -useContext a25 a26
    have h27 : Holds I a26 := by
      unfold a26
      exact holds_mk h24 rfl rfl rfl rfl rfl rfl
    try clear_value a26
    extract_lets +onlyGivenNames -merge -useContext a28
    have h29 : Holds I a28 := by
      unfold a28
      refine iteInduction (motive := fun r => Holds I r) (fun _ => ?_) (fun _ => ?_)
      · exact (State.modPart_keeps H h27)
      · exact h27
    try clear_value a28
    exact (State.modStep_keeps H h29)

@[simp] theorem State.freeSlot_keeps (H : Closed I) {s : State} {q : Nat} (h0 : Holds I s) : Holds I (State.freeSlot s q) := by
  unfold State.freeSlot
  exact (State.modStep_keeps H h0)

@[simp] theorem State.stopCore_keeps (H : Closed I) {s : State} {slot : Nat} {discard : Bool} (h0 : Holds I s) : Holds I (State.stopCore s slot discard) := by
  unfold State.stopCore
  extract_lets +onlyGivenNames -merge -useContext a20
  have h21 : Holds I a20 := (State.modCore_keeps H h0)
  try clear_value a20
  extract_lets +onlyGivenNames -merge -useContext a22
  have h23 : Holds I a22 := by
    unfold a22
    refine iteInduction (motive := fun r => Holds I r) (fun _ => ?_) (fun _ => ?_)
    · exact (State.discardSb_keeps H h21)
    · exact (State.drainCore_keeps H h21)
  try clear_value a22
  refine iteInduction (motive := fun r => Holds I r) (fun _ => ?_) (fun _ => ?_)
  · exact h23
  · refine iteInduction (motive := fun r => Holds I r) (fun _ => ?_) (fun _ => ?_)
    · exact (State.enterClearing_keeps H h23)
    · exact (State.modCore_keeps H h23)

@[simp] theorem State.stopUpdates_keeps (H : Closed I) {s : State} {c status : Nat} (h0 : Holds I s) : Holds I (State.stopUpdates s c status) := by
  unfold State.stopUpdates
  exact holds_mk h0 rfl rfl rfl rfl rfl rfl

@[simp] theorem State.stopStep_keeps (H : Closed I) {s : State} {q : Nat} {discard : Bool} (h0 : Holds I s) : Holds I (State.stopStep s q discard) := by
  unfold State.stopStep
  extract_lets +onlyGivenNames -merge -useContext a20 a21 a22 a23 a24 a25
  try clear_value a20 a21 a22 a23 a24
  have h26 : Holds I a25 := (State.dropAgents_keeps H h0)
  try clear_value a25
  extract_lets +onlyGivenNames -merge -useContext a27
  have h28 : Holds I a27 := by
    unfold a27
    refine State.each_keeps H h26 ?_
    · intro _ _ h29
      exact (State.stopCore_keeps H h29)
  try clear_value a27
  extract_lets +onlyGivenNames -merge -useContext a30
  have h31 : Holds I a30 := by
    unfold a30
    refine State.each_keeps H h28 ?_
    · intro _ _ h32
      exact (State.delKernel_keeps H h32)
  try clear_value a30
  extract_lets +onlyGivenNames -merge -useContext a33
  have h34 : Holds I a33 := by
    unfold a33
    refine State.each_keeps H h31 ?_
    · intro _ _ h35
      exact (State.seqIdle_keeps H h35)
  try clear_value a33
  exact (State.freeSlot_keeps H (State.stepLeave_keeps H h34))

@[simp] theorem State.teardown_keeps (H : Closed I) {s : State} {c : Nat} {cause : Option (Nat × Nat)} {discard quiet : Bool} (h0 : Holds I s) : Holds I (State.teardown s c cause discard quiet) := by
  unfold State.teardown
  extract_lets +onlyGivenNames -merge -useContext a20 a21
  try clear_value a20
  have h22 : Holds I a21 := (State.abortFaults_keeps H h0)
  try clear_value a21
  extract_lets +onlyGivenNames -merge -useContext a23
  have h24 : Holds I a23 := by
    unfold a23
    refine State.each_keeps H h22 ?_
    · intro _ _ h25
      exact (State.stopStep_keeps H h25)
  try clear_value a23
  extract_lets +onlyGivenNames -merge -useContext a26
  have h27 : Holds I a26 := (State.odBump_keeps H (State.stopUpdates_keeps H h24))
  try clear_value a26
  extract_lets +onlyGivenNames -merge -useContext a28
  have h29 : Holds I a28 := by
    unfold a28
    split
    · refine iteInduction (motive := fun r => Holds I r) (fun _ => ?_) (fun _ => ?_)
      · exact h27
      · exact (State.planFault_keeps H h27)
    · exact h27
  try clear_value a28
  refine State.each_keeps H h29 ?_
  · intro _ _ h30
    extract_lets +onlyGivenNames -merge -useContext a31 a32 a33
    try clear_value a31 a32 a33
    exact (State.endHeld_keeps H (State.modStep_keeps H h30))

@[simp] theorem State.tearStep_keeps (H : Closed I) {s : State} {q : Nat} (h0 : Holds I s) : Holds I (State.tearStep s q) := by
  unfold State.tearStep
  exact (State.endHeld_keeps H (State.stopStep_keeps H h0))

@[simp] theorem State.dropObjects_keeps (H : Closed I) {s : State} {c : Nat} (h0 : Holds I s) : Holds I (State.dropObjects s c) := by
  unfold State.dropObjects
  extract_lets +onlyGivenNames -merge -useContext a20
  have h21 : Holds I a20 := (State.releaseHolds_keeps H h0)
  try clear_value a20
  extract_lets +onlyGivenNames -merge -useContext a22
  have h23 : Holds I a22 := by
    unfold a22
    refine State.each_keeps H h21 ?_
    · intro _ _ h24
      refine iteInduction (motive := fun r => Holds I r) (fun _ => ?_) (fun _ => ?_)
      · exact (State.modQueue_keeps H (State.kill_keeps H h24))
      · exact h24
  try clear_value a22
  extract_lets +onlyGivenNames -merge -useContext a25
  have h26 : Holds I a25 := by
    unfold a25
    refine State.each_keeps H h23 ?_
    · intro _ _ h27
      refine iteInduction (motive := fun r => Holds I r) (fun _ => ?_) (fun _ => ?_)
      · exact (State.kill_keeps H h27)
      · exact h27
  try clear_value a25
  extract_lets +onlyGivenNames -merge -useContext a28
  have h29 : Holds I a28 := by
    unfold a28
    refine State.each_keeps H h26 ?_
    · intro _ _ h30
      refine iteInduction (motive := fun r => Holds I r) (fun _ => ?_) (fun _ => ?_)
      · exact (State.kill_keeps H h30)
      · exact h30
  try clear_value a28
  refine iteInduction (motive := fun r => Holds I r) (fun _ => ?_) (fun _ => ?_)
  · exact (State.ctxGroupsClear_keeps H (State.kill_keeps H h29))
  · exact h29

@[simp] theorem State.killNow_keeps (H : Closed I) {s : State} {c : Nat} {outside remoteOnly discard : Bool} (h0 : Holds I s) : Holds I (State.killNow s c outside remoteOnly discard) := by
  unfold State.killNow
  extract_lets +onlyGivenNames -merge -useContext a20
  have h21 : Holds I a20 := (State.teardown_keeps H h0)
  try clear_value a20
  extract_lets +onlyGivenNames -merge -useContext a22
  have h23 : Holds I a22 := (State.stopUpdates_keeps H h21)
  try clear_value a22
  extract_lets +onlyGivenNames -merge -useContext a24
  have h25 : Holds I a24 := by
    unfold a24
    refine State.each_keeps H h23 ?_
    · intro _ _ h26
      extract_lets +onlyGivenNames -merge -useContext a27
      have h28 : Holds I a27 := (State.completeEntry_keeps H (State.endHeld_keeps H h26))
      try clear_value a27
      extract_lets +onlyGivenNames -merge -useContext a29
      have h30 : Holds I a29 := (State.setHead_keeps H h28)
      try clear_value a29
      exact (State.delStep_keeps H (State.modQueue_keeps H h30))
  try clear_value a24
  exact (State.dropObjects_keeps H (State.errorFences_keeps H h25))

end Sys2Proof.Machine
end

