-- ==== Sys2Proof/Laws/KeepsUpdateOps.lean ====
section
/-! SUPPORT. What the operations of Machine/UpdateOps.lean protect. -/

namespace Sys2Proof.Machine

set_option linter.all false

variable {I : Prot → Prop}

@[simp] theorem State.modReq_keeps (H : Closed I) {s : State} {q : Nat} {f : UpdReq → UpdReq} (h0 : Holds I s) : Holds I (State.modReq s q f) := by
  unfold State.modReq
  split
  · exact holds_mk h0 rfl rfl rfl rfl rfl rfl
  · exact h0

@[simp] theorem State.modPartOf_keeps (H : Closed I) {s : State} {q u : Nat} {f : Part → Part} (h0 : Holds I s) : Holds I (State.modPartOf s q u f) := by
  unfold State.modPartOf
  exact (State.modReq_keeps H h0)

@[simp] theorem State.resultWrite_keeps (H : Closed I) {s : State} {r : UpdReq} {off other : Nat} {bs : List Byte} (h0 : Holds I s) : Holds I (State.resultWrite s r off other bs) := by
  unfold State.resultWrite
  extract_lets +onlyGivenNames -merge -useContext a20
  have h21 : Holds I a20.st := (State.hubWrite_keeps H h0)
  try clear_value a20
  split
  · exact (State.quietRecord_keeps H h21)
  · exact h21

@[simp] theorem State.endPart_keeps (H : Closed I) {s : State} {q u st : Nat} {torn : Bool} {failShard failElem wva : Nat} (h0 : Holds I s) : Holds I (State.endPart s q u st torn failShard failElem wva) := by
  unfold State.endPart
  split
  · exact h0
  · split
    · exact h0
    · refine iteInduction (motive := fun r => Holds I r) (fun _ => ?_) (fun _ => ?_)
      · exact h0
      · extract_lets +onlyGivenNames -merge -useContext a20 a21
        have h22 : Holds I a21 := (State.modPartOf_keeps H h0)
        try clear_value a21
        extract_lets +onlyGivenNames -merge -useContext a23
        have h24 : Holds I a23 := by
          unfold a23
          refine iteInduction (motive := fun r => Holds I r) (fun _ => ?_) (fun _ => ?_)
          · exact h22
          · refine State.odBump_keeps H ?_
            · refine State.errRecord_keeps H h22 ?_
              · intro _ h25
                exact (State.setReg_keeps H h25)
        try clear_value a23
        extract_lets +onlyGivenNames -merge -useContext a26
        have h27 : Holds I a26 := by
          unfold a26
          refine iteInduction (motive := fun r => Holds I r) (fun _ => ?_) (fun _ => ?_)
          · exact (State.planFault_keeps H h24)
          · exact h24
        try clear_value a26
        exact (State.resultWrite_keeps H h27)

@[simp] theorem State.countPart_keeps (H : Closed I) {s : State} {q u app skip nf : Nat} (h0 : Holds I s) : Holds I (State.countPart s q u app skip nf) := by
  unfold State.countPart
  exact (State.modPartOf_keeps H h0)

@[simp] theorem State.uuRead_keeps (H : Closed I) {s : State} {r : UpdReq} {va n : Nat} (h0 : Holds I s) : Holds I (State.uuRead s r va n).st := by
  unfold State.uuRead
  extract_lets +onlyGivenNames -merge -useContext a20
  have h21 : Holds I a20.st := (State.hubRead_keeps H h0)
  try clear_value a20
  extract_lets +onlyGivenNames -merge -useContext a22
  have h23 : Holds I a22 := by
    unfold a22
    split
    · exact (State.quietRecord_keeps H h21)
    · refine iteInduction (motive := fun r => Holds I r) (fun _ => ?_) (fun _ => ?_)
      · exact h21
      · refine State.each_keeps H h21 ?_
        · intro _ _ h24
          exact (State.poisonRecord_keeps H h24)
  try clear_value a22
  exact h23

@[simp] theorem State.uuCheck_keeps (H : Closed I) {s : State} {r : UpdReq} {va n acc : Nat} {dom : Option Nat} (h0 : Holds I s) : Holds I (State.uuCheck s r va n acc dom).st := by
  unfold State.uuCheck
  refine holds_foldl_of (fun (r : VaRes) => r.st) ?_ ?_
  · exact h0
  · intro _ _ h20
    refine iteInduction (motive := fun (r : VaRes) => Holds I r.st) (fun _ => ?_) (fun _ => ?_)
    · exact h20
    · extract_lets +onlyGivenNames -merge -useContext a21
      have h22 : Holds I a21.st := (State.walkXlate_keeps H h20)
      try clear_value a21
      refine iteInduction (motive := fun (r : VaRes) => Holds I r.st) (fun _ => ?_) (fun _ => ?_)
      · exact h20
      · split
        · exact (State.quietRecord_keeps H h22)
        · extract_lets +onlyGivenNames -merge -useContext a23
          try clear_value a23
          split
          · refine iteInduction (motive := fun (r : VaRes) => Holds I r.st) (fun _ => ?_) (fun _ => ?_)
            · exact h22
            · exact h22
          · refine iteInduction (motive := fun (r : VaRes) => Holds I r.st) (fun _ => ?_) (fun _ => ?_)
            · exact h22
            · split
              · exact h20
              · exact (State.quietRecord_keeps H h22)
              · exact h22
              · exact h22

@[simp] theorem State.uuWrite_keeps (H : Closed I) {s : State} {r : UpdReq} {va : Nat} {bs : List Byte} (h0 : Holds I s) : Holds I (State.uuWrite s r va bs).st := by
  unfold State.uuWrite
  exact (State.hubWrite_keeps H h0)

end Sys2Proof.Machine
end

