-- ==== Sys2Proof/Laws/KeepsUpdate.lean ====
section
/-! SUPPORT. What the operations of Machine/Update.lean protect. -/

namespace Sys2Proof.Machine

set_option linter.all false

variable {I : Prot → Prop}

@[simp] theorem ShardRun.stop_keeps (H : Closed I) {k : ShardRun} {s : State} {st elem wva : Nat} (h0 : Holds I (k).st) (h1 : Holds I s) : Holds I (ShardRun.stop k s st elem wva).st := by
  unfold ShardRun.stop
  exact h1

@[simp] theorem pass1Block_keeps (H : Closed I) {q u : Nat} {r : UpdReq} {b : List Byte} {k : ShardRun} {n : Nat} (h4 : Holds I (k).st) : Holds I (pass1Block q u r b k n).st := by
  unfold pass1Block
  refine iteInduction (motive := fun (r : ShardRun) => Holds I r.st) (fun _ => ?_) (fun _ => ?_)
  · exact h4
  · extract_lets +onlyGivenNames -merge -useContext a20
    split
    · extract_lets +onlyGivenNames -merge -useContext a21 a22
      try clear_value a21
      have h23 : Holds I a22.st := (State.uuRead_keeps H h4)
      try clear_value a22
      refine iteInduction (motive := fun (r : ShardRun) => Holds I r.st) (fun _ => ?_) (fun _ => ?_)
      · exact h4
      · refine iteInduction (motive := fun (r : ShardRun) => Holds I r.st) (fun _ => ?_) (fun _ => ?_)
        · exact (ShardRun.stop_keeps H h4 h23)
        · extract_lets +onlyGivenNames -merge -useContext a24 a25 a26 a27
          try clear_value a24 a25 a26
          have h28 : Holds I a27 := (State.modPartOf_keeps H h23)
          try clear_value a27
          exact (State.odBump_keeps H (State.bump_keeps H h28))

theorem allOk_keeps {s : State} {l : List (State → VaRes)} (h0 : Holds I s) (hf : ∀ f ∈ l, ∀ t, Holds I t → Holds I (f t).st) :
    Holds I (allOk s l).st := by
  unfold allOk
  generalize hr : ({ st := s } : VaRes) = r
  have h : Holds I r.st := by rw [← hr]; exact h0
  clear hr
  induction l generalizing r with
  | nil => exact h
  | cons f l ih =>
    refine ih (fun g hg => hf g (List.mem_cons_of_mem _ hg)) _ ?_
    dsimp only
    split
    · exact h
    · exact hf f (List.mem_cons_self ..) _ h

@[simp] theorem applyBlock_keeps (H : Closed I) {q u : Nat} {r : UpdReq} {b : List Byte} {k : ShardRun} {n : Nat} {s : State} {a : BlockAt} (h4 : Holds I (k).st) (h6 : Holds I s) : Holds I (applyBlock q u r b k n s a).st := by
  unfold applyBlock
  extract_lets +onlyGivenNames hh rule
  split
  extract_lets +onlyGivenNames ws ms vs gs dom
  have hd : Holds I dom.st := by simp [dom, *]
  clear_value dom
  split
  · exact h4
  · split
    · exact ShardRun.stop_keeps H h4 hd
    · extract_lets +onlyGivenNames rd cs m
      have hrd (va n : Nat) (t : State) (ht : Holds I t) : Holds I (rd va n t).st := by
        simp only [rd]; split
        · exact ht
        · exact State.uuRead_keeps H ht
      have hm : Holds I m.st := by
        refine allOk_keeps hd (fun f hf t ht => ?_)
        simp only [List.mem_cons, List.not_mem_nil, or_false] at hf
        rcases hf with rfl | rfl | rfl | rfl | rfl <;> exact hrd _ _ _ ht
      clear_value m
      split
      · exact h4
      · split
        · exact ShardRun.stop_keeps H h4 hm
        · extract_lets +onlyGivenNames wr c
          have hwr (va n : Nat) (t : State) (ht : Holds I t) : Holds I (wr va n t).st := by
            simp only [wr]; split
            · exact ht
            · exact State.uuCheck_keeps H ht
          have hc : Holds I c.st := by
            refine allOk_keeps hm (fun f hf t ht => ?_)
            simp only [List.mem_cons, List.not_mem_nil, or_false] at hf
            rcases hf with rfl | rfl | rfl | rfl | rfl <;> exact hwr _ _ _ ht
          clear_value c
          split
          · exact h4
          · split
            · exact ShardRun.stop_keeps H h4 hc
            · extract_lets +onlyGivenNames cnt t args seed out put step s1 s2 s3 s4 s5
              have hp (va : Nat) (bs : List Byte) (t : State) (ht : Holds I t) : Holds I (put va bs t) := by
                simp only [put]; split
                · exact ht
                · exact State.uuWrite_keeps H ht
              have e1 : Holds I s1 := hp _ _ _ hc
              have e2 : Holds I s2 := hp _ _ _ (hp _ _ _ (hp _ _ _ e1))
              have e3 : Holds I s3 := by simp only [s3]; split; exact hp _ _ _ e2; exact e2
              have e4 : Holds I s4 := hp _ _ _ e3
              have e5 : Holds I s5 := State.modUu_keeps H (State.countPart_keeps H e4)
              exact State.odBump_keeps H (State.bump_keeps H e5)

@[simp] theorem pass2Block_keeps (H : Closed I) {q u : Nat} {r : UpdReq} {b : List Byte} {k : ShardRun} {n : Nat} (h4 : Holds I (k).st) : Holds I (pass2Block q u r b k n).st := by
  unfold pass2Block
  refine iteInduction (motive := fun (r : ShardRun) => Holds I r.st) (fun _ => ?_) (fun _ => ?_)
  · exact h4
  · extract_lets +onlyGivenNames -merge -useContext a20 a21
    have h22 : Holds I a21.st := by
      unfold a21
      refine iteInduction (motive := fun (r : VaRes) => Holds I r.st) (fun _ => ?_) (fun _ => ?_)
      · exact (State.uuRead_keeps H h4)
      · exact h4
    try clear_value a21
    extract_lets +onlyGivenNames -merge -useContext a23 a24
    try clear_value a23
    refine iteInduction (motive := fun (r : ShardRun) => Holds I r.st) (fun _ => ?_) (fun _ => ?_)
    · exact h4
    · refine iteInduction (motive := fun (r : ShardRun) => Holds I r.st) (fun _ => ?_) (fun _ => ?_)
      · exact (ShardRun.stop_keeps H h4 h22)
      · refine iteInduction (motive := fun (r : ShardRun) => Holds I r.st) (fun _ => ?_) (fun _ => ?_)
        · exact (ShardRun.stop_keeps H h4 h22)
        · extract_lets +onlyGivenNames -merge -useContext a25
          have h26 : Holds I a25.st := (State.uuRead_keeps H h22)
          try clear_value a25
          extract_lets +onlyGivenNames -merge -useContext a27
          try clear_value a27
          refine iteInduction (motive := fun (r : ShardRun) => Holds I r.st) (fun _ => ?_) (fun _ => ?_)
          · exact h4
          · refine iteInduction (motive := fun (r : ShardRun) => Holds I r.st) (fun _ => ?_) (fun _ => ?_)
            · exact (ShardRun.stop_keeps H h4 h26)
            · refine iteInduction (motive := fun (r : ShardRun) => Holds I r.st) (fun _ => ?_) (fun _ => ?_)
              · extract_lets +onlyGivenNames -merge -useContext a28
                have h29 : Holds I a28.st := (ShardRun.stop_keeps H h4 (State.odBump_keeps H (State.bump_keeps H h26)))
                try clear_value a28
                exact h29
              · refine iteInduction (motive := fun (r : ShardRun) => Holds I r.st) (fun _ => ?_) (fun _ => ?_)
                · exact (State.odBump_keeps H (State.bump_keeps H (State.countPart_keeps H h26)))
                · exact (applyBlock_keeps H h4 h26)

@[simp] theorem pass1Run_keeps (H : Closed I) {q u : Nat} {r : UpdReq} {b : List Byte} {s : State} (h4 : Holds I s) : Holds I (pass1Run q u r b s).st := by
  unfold pass1Run
  refine holds_foldl_of (fun (r : ShardRun) => r.st) ?_ ?_
  · exact h4
  · intro _ _ h20
    exact pass1Block_keeps H h20

@[simp] theorem pass2Run_keeps (H : Closed I) {q u : Nat} {r : UpdReq} {b : List Byte} {s : State} (h4 : Holds I s) : Holds I (pass2Run q u r b s).st := by
  unfold pass2Run
  extract_lets +onlyGivenNames -merge -useContext a20
  refine iteInduction (motive := fun (r : ShardRun) => Holds I r.st) (fun _ => ?_) (fun _ => ?_)
  · extract_lets +onlyGivenNames -merge -useContext a21
    try clear_value a21
    exact (State.odBump_keeps H (State.countPart_keeps H h4))
  · refine holds_foldl_of (fun (r : ShardRun) => r.st) ?_ ?_
    · exact h4
    · intro _ _ h22
      exact pass2Block_keeps H h22

@[simp] theorem State.popJob_keeps (H : Closed I) {s : State} {u : Nat} (h0 : Holds I s) : Holds I (State.popJob s u) := by
  unfold State.popJob
  exact (State.modUu_keeps H h0)

@[simp] theorem State.shardDone_keeps (H : Closed I) {s : State} {q u : Nat} (h0 : Holds I s) : Holds I (State.shardDone s q u) := by
  unfold State.shardDone
  extract_lets +onlyGivenNames -merge -useContext a20
  have h21 : Holds I a20 := (State.modPartOf_keeps H h0)
  try clear_value a20
  split
  · refine iteInduction (motive := fun r => Holds I r) (fun _ => ?_) (fun _ => ?_)
    · exact (State.endPart_keeps H h21)
    · exact h21
  · exact h21

@[simp] theorem State.runFront_keeps (H : Closed I) {s : State} {u pass : Nat} {run : Nat → Nat → UpdReq → List Byte → State → ShardRun} (h0 : Holds I s) (h3 : ∀ y0 y1 y2 y3 y4, Holds I (y4) → Holds I (run y0 y1 y2 y3 y4).st) : Holds I (State.runFront s u pass run) := by
  unfold State.runFront
  split
  · exact h0
  · split
    · exact (State.popJob_keeps H h0)
    · refine iteInduction (motive := fun r => Holds I r) (fun _ => ?_) (fun _ => ?_)
      · exact h0
      · extract_lets +onlyGivenNames -merge -useContext a20 a21
        try clear_value a20
        have h22 : Holds I a21 := (State.modUu_keeps H h0)
        try clear_value a21
        split
        · exact (State.popJob_keeps H h22)
        · refine iteInduction (motive := fun r => Holds I r) (fun _ => ?_) (fun _ => ?_)
          · exact (State.popJob_keeps H h22)
          · split
            · exact (State.endPart_keeps H (State.popJob_keeps H h22))
            · refine iteInduction (motive := fun r => Holds I r) (fun _ => ?_) (fun _ => ?_)
              · exact (State.endPart_keeps H (State.popJob_keeps H h22))
              · extract_lets +onlyGivenNames -merge -useContext a23
                have h24 : Holds I a23.st := (h3 _ _ _ _ _ h22)
                try clear_value a23
                refine iteInduction (motive := fun r => Holds I r) (fun _ => ?_) (fun _ => ?_)
                · exact h22
                · split
                  · exact (State.endPart_keeps H (State.popJob_keeps H h24))
                  · exact (State.shardDone_keeps H (State.popJob_keeps H h24))

theorem execPass1Shard_keeps (H : Closed I) {unit : Nat} {s : State} (h1 : Holds I s) : ∀ t', execPass1Shard unit s = Host.Outcome.next t' → Holds I t' := by
  show HoldsOut I _
  unfold execPass1Shard
  refine out_next ?_
  refine State.runFront_keeps H h1 ?_
  · simp (maxDischargeDepth := 60) +contextual [*] -- fn

theorem execPass2Shard_keeps (H : Closed I) {unit : Nat} {s : State} (h1 : Holds I s) : ∀ t', execPass2Shard unit s = Host.Outcome.next t' → Holds I t' := by
  show HoldsOut I _
  unfold execPass2Shard
  refine out_next ?_
  refine State.runFront_keeps H h1 ?_
  · simp (maxDischargeDepth := 60) +contextual [*] -- fn

theorem execShardHandout_keeps (H : Closed I) {queue : Nat} {s : State} (h1 : Holds I s) : ∀ t', execShardHandout queue s = Host.Outcome.next t' → Holds I t' := by
  show HoldsOut I _
  unfold execShardHandout
  split
  · exact (out_next h1)
  · split
    · exact (out_next h1)
    · extract_lets +onlyGivenNames -merge -useContext a20 a21 a22
      try clear_value a20 a21
      have h23 : ∀ y0, Holds I y0 → Holds I (a22 y0) := by
        intro _ h24
        unfold a22
        exact (State.modReq_keeps H h24)
      try clear_value a22
      refine iteInduction (motive := fun r => HoldsOut I r) (fun _ => ?_) (fun _ => ?_)
      · exact (out_next (h23 _ h1))
      · split
        · exact (out_next (h23 _ (State.endPart_keeps H h1)))
        · refine iteInduction (motive := fun r => HoldsOut I r) (fun _ => ?_) (fun _ => ?_)
          · exact (out_next (h23 _ (State.endPart_keeps H h1)))
          · refine iteInduction (motive := fun r => HoldsOut I r) (fun _ => ?_) (fun _ => ?_)
            · exact (out_next (h23 _ (State.modUu_keeps H h1)))
            · exact (out_next h1)

@[simp] theorem State.endStopped_keeps (H : Closed I) {s : State} {q : Nat} {r : UpdReq} (h0 : Holds I s) : Holds I (State.endStopped s q r) := by
  unfold State.endStopped
  split
  · exact h0
  · refine State.each_keeps H h0 ?_
    · intro _ _ h20
      extract_lets +onlyGivenNames -merge -useContext a21
      try clear_value a21
      exact (State.endPart_keeps H h20)

@[simp] theorem State.resultHeader_keeps (H : Closed I) {s : State} {r : UpdReq} (h0 : Holds I s) : Holds I (State.resultHeader s r) := by
  unfold State.resultHeader
  extract_lets +onlyGivenNames -merge -useContext a20 a21 a22 a23 a24
  try clear_value a20 a21 a22 a23
  have h25 : Holds I a24 := by
    unfold a24
    refine State.each_keeps H h0 ?_
    · intro _ _ h26
      exact (State.resultWrite_keeps H h26)
  try clear_value a24
  extract_lets +onlyGivenNames -merge -useContext a27
  have h28 : Holds I a27 := (State.resultWrite_keeps H h25)
  try clear_value a27
  exact (State.resultWrite_keeps H h28)

theorem execUpdateComplete_keeps (H : Closed I) {queue : Nat} {s : State} (h1 : Holds I s) : ∀ t', execUpdateComplete queue s = Host.Outcome.next t' → Holds I t' := by
  show HoldsOut I _
  unfold execUpdateComplete
  split
  · exact (out_next h1)
  · extract_lets +onlyGivenNames -merge -useContext a20
    have h21 : Holds I a20 := (State.endStopped_keeps H h1)
    try clear_value a20
    split
    · exact (out_next h21)
    · refine iteInduction (motive := fun r => HoldsOut I r) (fun _ => ?_) (fun _ => ?_)
      · extract_lets +onlyGivenNames -merge -useContext a22
        try clear_value a22
        exact (out_next (State.endHeld_keeps H (State.odBump_keeps H (State.resultHeader_keeps H h21))))
      · exact (out_next h21)

@[simp] theorem State.ruleAct_keeps (H : Closed I) {t : State} {p : Path} {part rule : Nat} {data : List Byte} (h0 : Holds I t) : Holds I ((State.ruleAct t p part rule data).1) := by
  unfold State.ruleAct
  refine iteInduction (motive := fun (r : State × Option Nat) => Holds I r.1) (fun _ => ?_) (fun _ => ?_)
  · exact h0
  · exact holds_mk h0 rfl rfl rfl rfl rfl rfl

theorem execRuleWrite_keeps (H : Closed I) {p : Path} {part rule : Nat} {data : List Byte} {s : State} (h4 : Holds I s) : ∀ t', execRuleWrite p part rule data s = Host.Outcome.next t' → Holds I t' := by
  show HoldsOut I _
  unfold execRuleWrite
  refine out_next ?_
  refine State.odCmd_keeps H h4 ?_
  · intro _ h20
    exact (State.ruleAct_keeps H h20)

theorem execRuleApplied_keeps (H : Closed I) {part rule : Nat} {s : State} (h2 : Holds I s) : ∀ t', execRuleApplied part rule s = Host.Outcome.next t' → Holds I t' := by
  show HoldsOut I _
  unfold execRuleApplied
  split
  · exact (out_next h2)
  · refine iteInduction (motive := fun r => HoldsOut I r) (fun _ => ?_) (fun _ => ?_)
    · extract_lets +onlyGivenNames -merge -useContext a20 a21
      have h22 : Holds I a21 := by
        unfold a21
        exact holds_mk h2 rfl rfl rfl rfl rfl rfl
      try clear_value a21
      exact (out_next (State.odAnswer_keeps H (State.setBlob_keeps H h22)))
    · exact (out_next h2)

@[simp] theorem State.uuEnable_keeps (H : Closed I) {s : State} {u : Nat} {on : Bool} (h0 : Holds I s) : Holds I (State.uuEnable s u on) := by
  unfold State.uuEnable
  extract_lets +onlyGivenNames -merge -useContext a20
  have h21 : Holds I a20 := (State.setRf_keeps H h0)
  try clear_value a20
  refine iteInduction (motive := fun r => Holds I r) (fun _ => ?_) (fun _ => ?_)
  · exact (State.modUu_keeps H h21)
  · extract_lets +onlyGivenNames -merge -useContext a22
    try clear_value a22
    refine iteInduction (motive := fun r => Holds I r) (fun _ => ?_) (fun _ => ?_)
    · exact (State.modUu_keeps H h21)
    · extract_lets +onlyGivenNames -merge -useContext a23
      have h24 : Holds I a23 := (State.modUu_keeps H h21)
      try clear_value a23
      refine State.each_keeps H h24 ?_
      · intro _ _ h25
        exact (State.endPart_keeps H h25)

theorem execUuEnableWrite_keeps (H : Closed I) {p : Path} {unit : Nat} {on : Bool} {s : State} (h3 : Holds I s) : ∀ t', execUuEnableWrite p unit on s = Host.Outcome.next t' → Holds I t' := by
  show HoldsOut I _
  unfold execUuEnableWrite
  refine out_next ?_
  refine State.regGateP_keeps H h3 ?_
  · intro _ h20
    exact (State.uuEnable_keeps H h20)

end Sys2Proof.Machine
end

