-- ==== Sys2Proof/Laws/KeepsObjOps.lean ====
section
/-! SUPPORT. What the operations of Machine/ObjOps.lean protect. -/

namespace Sys2Proof.Machine

set_option linter.all false

variable {I : Prot → Prop}

@[simp] theorem State.hqAnswer_keeps (H : Closed I) {s : State} {p st res : Nat} (h0 : Holds I s) : Holds I (State.hqAnswer s p st res) := by
  unfold State.hqAnswer
  extract_lets +onlyGivenNames -merge -useContext a20
  have h21 : Holds I a20 := (State.setReg_keeps H h0)
  try clear_value a20
  exact (State.setReg_keeps H h21)

@[simp] theorem hqNo_keeps (H : Closed I) {s : State} {st : Nat} (h0 : Holds I s) : Holds I (hqNo s st).st := by
  unfold hqNo
  exact h0

@[simp] theorem hqOk_keeps (H : Closed I) {s : State} {res : Nat} (h0 : Holds I s) : Holds I (hqOk s res).st := by
  unfold hqOk
  exact h0

@[simp] theorem State.hqRun_keeps (H : Closed I) {s : State} {p : Path} {part : Nat} {priv : Bool} {act : State → HqRes} (h0 : Holds I s) (h4 : ∀ y0, Holds I (y0) → Holds I (act y0).st) : Holds I (State.hqRun s p part priv act) := by
  unfold State.hqRun
  refine iteInduction (motive := fun r => Holds I r) (fun _ => ?_) (fun _ => ?_)
  · exact h0
  · refine iteInduction (motive := fun r => Holds I r) (fun _ => ?_) (fun _ => ?_)
    · exact (State.odBump_keeps H (State.setRf_keeps H h0))
    · refine iteInduction (motive := fun r => Holds I r) (fun _ => ?_) (fun _ => ?_)
      · exact (State.hqAnswer_keeps H h0)
      · extract_lets +onlyGivenNames -merge -useContext a20
        have h21 : Holds I a20.st := (h4 _ h0)
        try clear_value a20
        split
        · exact (State.hqAnswer_keeps H h21)
        · exact (State.setRf_keeps H h21)

@[simp] theorem State.hqCmd_keeps (H : Closed I) {s : State} {p : Path} {part : Nat} {priv : Bool} {act : State → HqRes} (h0 : Holds I s) (h4 : ∀ y0, Holds I (y0) → Holds I (act y0).st) : Holds I (State.hqCmd s p part priv act) := by
  unfold State.hqCmd
  refine State.regGate_keeps H h0 ?_
  · intro _ h20
    exact (State.hqRun_keeps H h20 h4)

@[simp] theorem State.handleTaken_keeps (H : Closed I) {s : State} (h0 : Holds I s) : Holds I (State.handleTaken s) := by
  unfold State.handleTaken
  exact holds_mk h0 rfl rfl rfl rfl rfl rfl

@[simp] theorem State.newSync_keeps (H : Closed I) {s : State} {c : Nat} {x : SyncObj} (h0 : Holds I s) : Holds I (State.newSync s c x).st := by
  unfold State.newSync
  split
  · exact (hqNo_keeps H h0)
  · refine iteInduction (motive := fun (r : HqRes) => Holds I r.st) (fun _ => ?_) (fun _ => ?_)
    · exact (hqOk_keeps H (State.addRef_keeps H (State.setSync_keeps H (State.handleTaken_keeps H h0))))
    · exact (hqNo_keeps H h0)

@[simp] theorem State.pageOwned_keeps (H : Closed I) {s : State} {p ipa : Nat} (h0 : Holds I s) : Holds I (State.pageOwned s p ipa).st := by
  unfold State.pageOwned
  extract_lets +onlyGivenNames -merge -useContext a20
  have h21 : Holds I a20.st := (State.s2Xlate_keeps H h0)
  try clear_value a20
  split
  · exact h21
  · extract_lets +onlyGivenNames -merge -useContext a22
    try clear_value a22
    exact h21

@[simp] theorem State.rangeOwned_keeps (H : Closed I) {x0 : Nat} {x1 : State} {x2 x3 : Nat} (h1 : Holds I (x1)) : Holds I ((State.rangeOwned x0 x1 x2 x3).2) := by
  induction x0 generalizing x1 x3 with
  | zero => exact h1
  | succ n ih =>
    have hp := State.pageOwned_keeps H (p := x2) (ipa := x3) h1
    unfold State.rangeOwned
    refine holds_ite_snd (fun _ => h1) (fun _ => ?_)
    split
    · exact ih hp
    · exact hp

@[simp] theorem State.skipEntries_keeps (H : Closed I) {s : State} {q : Nat} (h0 : Holds I s) : Holds I (State.skipEntries s q) := by
  unfold State.skipEntries
  extract_lets +onlyGivenNames -merge -useContext a20 a21 a22
  try clear_value a21
  have h23 : Holds I a22 := by
    unfold a22
    refine iteInduction (motive := fun r => Holds I r) (fun _ => ?_) (fun _ => ?_)
    · exact (State.modCtx_keeps H h0)
    · exact h0
  try clear_value a22
  exact (State.setHead_keeps H h23)

@[simp] theorem State.endUpdate_keeps (H : Closed I) {s : State} {q st : Nat} (h0 : Holds I s) : Holds I (State.endUpdate s q st) := by
  unfold State.endUpdate
  split
  · exact h0
  · have h1 := State.modReq_keeps H (q := q) (f := fun r => { r with stop := some (r.stop.getD st) }) h0
    dsimp only
    split
    · exact execUpdateComplete_keeps H h1 _ ‹_›
    · exact h1

@[simp] theorem State.endIdle_keeps (H : Closed I) {s : State} {q st : Nat} (h0 : Holds I s) : Holds I (State.endIdle s q st) := by
  unfold State.endIdle
  split
  · exact h0
  · split
    · exact h0
    · refine iteInduction (motive := fun r => Holds I r) (fun _ => ?_) (fun _ => ?_)
      · exact h0
      · extract_lets +onlyGivenNames -merge -useContext a20
        try clear_value a20
        refine State.endHeld_keeps H ?_
        · refine iteInduction (motive := fun r => Holds I r) (fun _ => ?_) (fun _ => ?_)
          · exact (State.stopStep_keeps H h0)
          · exact h0

@[simp] theorem State.killFinish_keeps (H : Closed I) {s : State} {c : Nat} (h0 : Holds I s) : Holds I (State.killFinish s c) := by
  unfold State.killFinish
  refine iteInduction (motive := fun r => Holds I r) (fun _ => ?_) (fun _ => ?_)
  · exact (State.dropObjects_keeps H (State.errorFences_keeps H h0))
  · exact h0

@[simp] theorem State.ctxKill_keeps (H : Closed I) {s : State} {c : Nat} (h0 : Holds I s) : Holds I (State.ctxKill s c) := by
  unfold State.ctxKill
  extract_lets +onlyGivenNames -merge -useContext a20
  have h21 : Holds I a20 := (State.modCtx_keeps H h0)
  try clear_value a20
  extract_lets +onlyGivenNames -merge -useContext a22
  have h23 : Holds I a22 := by
    unfold a22
    refine State.each_keeps H h21 ?_
    · intro _ _ h24
      refine iteInduction (motive := fun r => Holds I r) (fun _ => ?_) (fun _ => ?_)
      · exact h24
      · extract_lets +onlyGivenNames -merge -useContext a25
        have h26 : Holds I a25 := (State.skipEntries_keeps H (State.endIdle_keeps H h24))
        try clear_value a25
        exact (State.modQueue_keeps H h26)
  try clear_value a22
  exact (State.killFinish_keeps H (State.releaseHolds_keeps H h23))

@[simp] theorem State.qReset_keeps (H : Closed I) {s : State} {q : Nat} (h0 : Holds I s) : Holds I (State.qReset s q) := by
  unfold State.qReset
  extract_lets +onlyGivenNames -merge -useContext a20
  have h21 : Holds I a20 := by
    unfold a20
    split
    · refine iteInduction (motive := fun r => Holds I r) (fun _ => ?_) (fun _ => ?_)
      · exact (State.endHeld_keeps H (State.stopStep_keeps H h0))
      · refine iteInduction (motive := fun r => Holds I r) (fun _ => ?_) (fun _ => ?_)
        · exact (State.tearStep_keeps H h0)
        · exact (State.endIdle_keeps H h0)
    · exact (State.endIdle_keeps H (State.endUpdate_keeps H h0))
  try clear_value a20
  extract_lets +onlyGivenNames -merge -useContext a22
  have h23 : Holds I a22 := by
    unfold a22
    split
    · split
      · exact (State.completeEntry_keeps H h21)
      · exact h21
    · exact h21
  try clear_value a22
  extract_lets +onlyGivenNames -merge -useContext a24 a25 a26
  try clear_value a25
  have h27 : Holds I a26 := (State.skipEntries_keeps H h23)
  try clear_value a26
  exact (State.killFinish_keeps H (State.modQueue_keeps H h27))

@[simp] theorem State.syncGone_keeps (H : Closed I) {s : State} {h : Nat} {f : SyncObj} (h0 : Holds I s) : Holds I (State.syncGone s h f) := by
  unfold State.syncGone
  extract_lets +onlyGivenNames -merge -useContext a20
  have h21 : Holds I a20 := by
    unfold a20
    split
    · exact (State.dropRef_keeps H h0)
    · exact h0
  try clear_value a20
  refine iteInduction (motive := fun r => Holds I r) (fun _ => ?_) (fun _ => ?_)
  · exact h21
  · refine iteInduction (motive := fun r => Holds I r) (fun _ => ?_) (fun _ => ?_)
    · refine iteInduction (motive := fun r => Holds I r) (fun _ => ?_) (fun _ => ?_)
      · exact h21
      · exact (State.lkSend_keeps H h21)
    · exact (State.dropRef_keeps H h21)

@[simp] theorem State.reclaim_keeps (H : Closed I) {s : State} (h0 : Holds I s) : Holds I (State.reclaim s) := by
  unfold State.reclaim
  extract_lets +onlyGivenNames -merge -useContext a20
  have h21 : Holds I a20 := by
    unfold a20
    refine State.each_keeps H h0 ?_
    · intro _ _ h22
      extract_lets +onlyGivenNames -merge -useContext a23
      have h24 : Holds I a23 := (State.odBump_keeps H (State.dropRef_keeps H (State.setMemObj_keeps H h22)))
      try clear_value a23
      split
      · refine iteInduction (motive := fun r => Holds I r) (fun _ => ?_) (fun _ => ?_)
        · exact (State.signal_keeps H h24)
        · exact h24
      · exact h24
  try clear_value a20
  extract_lets +onlyGivenNames -merge -useContext a25
  have h26 : Holds I a25 := by
    unfold a25
    refine State.each_keeps H h21 ?_
    · intro _ _ h27
      exact (State.syncGone_keeps H (State.odBump_keeps H (State.dropRef_keeps H (State.setSync_keeps H h27))))
  try clear_value a25
  extract_lets +onlyGivenNames -merge -useContext a28
  have h29 : Holds I a28 := by
    unfold a28
    refine State.each_keeps H h26 ?_
    · intro _ _ h30
      exact (State.odBump_keeps H (State.dropRef_keeps H (State.setQueue_keeps H h30)))
  try clear_value a28
  refine State.each_keeps H h29 ?_
  · intro _ _ h31
    extract_lets +onlyGivenNames -merge -useContext a32
    have h33 : Holds I a32 := (State.odBump_keeps H (State.setCtx_keeps H h31))
    try clear_value a32
    exact holds_mk h33 rfl rfl rfl rfl rfl rfl

end Sys2Proof.Machine
end

