-- ==== Sys2Proof/Laws/KeepsObjects.lean ====
section
/-! SUPPORT. What the operations of Machine/Objects.lean protect. -/

namespace Sys2Proof.Machine

set_option linter.all false

variable {I : Prot → Prop}

@[simp] theorem State.doCtxCreate_keeps (H : Closed I) {s : State} {p : Nat} (h0 : Holds I s) : Holds I (State.doCtxCreate s p).st := by
  unfold State.doCtxCreate
  extract_lets +onlyGivenNames -merge -useContext a20 a21 a22 a23
  try clear_value a20 a21 a22 a23
  refine iteInduction (motive := fun (r : HqRes) => Holds I r.st) (fun _ => ?_) (fun _ => ?_)
  · exact (hqNo_keeps H h0)
  · extract_lets +onlyGivenNames -merge -useContext a24
    have h25 : Holds I a24.st := (State.ctxEntry_keeps H h0)
    try clear_value a24
    split
    · exact (hqNo_keeps H h0)
    · refine iteInduction (motive := fun (r : HqRes) => Holds I r.st) (fun _ => ?_) (fun _ => ?_)
      · exact (hqNo_keeps H h0)
      · extract_lets +onlyGivenNames -merge -useContext a26
        try clear_value a26
        exact (hqOk_keeps H (State.setCtx_keeps H h25))

theorem execCtxCreate_keeps (H : Closed I) {p : Path} {part : Nat} {s : State} (h2 : Holds I s) : ∀ t', execCtxCreate p part s = Host.Outcome.next t' → Holds I t' := by
  show HoldsOut I _
  unfold execCtxCreate
  refine out_next ?_
  refine State.hqCmd_keeps H h2 ?_
  · intro _ h20
    exact (State.doCtxCreate_keeps H h20)

@[simp] theorem State.doCtxKill_keeps (H : Closed I) {s : State} {p : Nat} (h0 : Holds I s) : Holds I (State.doCtxKill s p).st := by
  unfold State.doCtxKill
  extract_lets +onlyGivenNames -merge -useContext a20
  try clear_value a20
  refine iteInduction (motive := fun (r : HqRes) => Holds I r.st) (fun _ => ?_) (fun _ => ?_)
  · exact (hqNo_keeps H h0)
  · exact (hqOk_keeps H (State.ctxKill_keeps H h0))

theorem execCtxKill_keeps (H : Closed I) {p : Path} {part : Nat} {s : State} (h2 : Holds I s) : ∀ t', execCtxKill p part s = Host.Outcome.next t' → Holds I t' := by
  show HoldsOut I _
  unfold execCtxKill
  refine out_next ?_
  refine State.hqCmd_keeps H h2 ?_
  · intro _ h20
    exact (State.doCtxKill_keeps H h20)

@[simp] theorem State.doObjQuery_keeps (H : Closed I) {s : State} {p : Nat} (h0 : Holds I s) : Holds I (State.doObjQuery s p).st := by
  unfold State.doObjQuery
  extract_lets +onlyGivenNames -merge -useContext a20 a21 a22
  try clear_value a20 a21 a22
  refine iteInduction (motive := fun (r : HqRes) => Holds I r.st) (fun _ => ?_) (fun _ => ?_)
  · exact (hqNo_keeps H h0)
  · refine iteInduction (motive := fun (r : HqRes) => Holds I r.st) (fun _ => ?_) (fun _ => ?_)
    · exact (hqOk_keeps H h0)
    · refine iteInduction (motive := fun (r : HqRes) => Holds I r.st) (fun _ => ?_) (fun _ => ?_)
      · exact (hqOk_keeps H h0)
      · exact (hqNo_keeps H h0)

theorem execObjQuery_keeps (H : Closed I) {p : Path} {part : Nat} {s : State} (h2 : Holds I s) : ∀ t', execObjQuery p part s = Host.Outcome.next t' → Holds I t' := by
  show HoldsOut I _
  unfold execObjQuery
  refine out_next ?_
  refine State.hqCmd_keeps H h2 ?_
  · intro _ h20
    exact (State.doObjQuery_keeps H h20)

@[simp] theorem State.doQCreate_keeps (H : Closed I) {s : State} {p : Nat} (h0 : Holds I s) : Holds I (State.doQCreate s p).st := by
  unfold State.doQCreate
  extract_lets +onlyGivenNames -merge -useContext a20 a21 a22 a23 a24 a25 a26 a27 a28
  try clear_value a20 a21 a22 a23 a24 a25 a26 a27 a28
  refine iteInduction (motive := fun (r : HqRes) => Holds I r.st) (fun _ => ?_) (fun _ => ?_)
  · exact (hqNo_keeps H h0)
  · refine iteInduction (motive := fun (r : HqRes) => Holds I r.st) (fun _ => ?_) (fun _ => ?_)
    · exact (hqNo_keeps H h0)
    · extract_lets +onlyGivenNames -merge -useContext a29
      exact (hqOk_keeps H (State.addRef_keeps H (State.setQueue_keeps H h0)))

theorem execQCreate_keeps (H : Closed I) {p : Path} {part : Nat} {s : State} (h2 : Holds I s) : ∀ t', execQCreate p part s = Host.Outcome.next t' → Holds I t' := by
  show HoldsOut I _
  unfold execQCreate
  refine out_next ?_
  refine State.hqCmd_keeps H h2 ?_
  · intro _ h20
    exact (State.doQCreate_keeps H h20)

@[simp] theorem State.onQueue_keeps (H : Closed I) {s : State} {p : Nat} {ok : QSt → Bool} {f : Nat → State → State} (h0 : Holds I s) (h3 : ∀ y0 y1, Holds I (y1) → Holds I (f y0 y1)) : Holds I (State.onQueue s p ok f).st := by
  unfold State.onQueue
  extract_lets +onlyGivenNames -merge -useContext a20
  try clear_value a20
  refine iteInduction (motive := fun (r : HqRes) => Holds I r.st) (fun _ => ?_) (fun _ => ?_)
  · exact (hqNo_keeps H h0)
  · exact (hqOk_keeps H (h3 _ _ h0))

@[simp] theorem State.doQStart_keeps (H : Closed I) {s : State} {p : Nat} (h0 : Holds I s) : Holds I (State.doQStart s p).st := by
  unfold State.doQStart
  refine State.onQueue_keeps H h0 ?_
  · intro _ _ h20
    exact (State.fetchNext_keeps H (State.modQueue_keeps H h20))

theorem execQStart_keeps (H : Closed I) {p : Path} {part : Nat} {s : State} (h2 : Holds I s) : ∀ t', execQStart p part s = Host.Outcome.next t' → Holds I t' := by
  show HoldsOut I _
  unfold execQStart
  refine out_next ?_
  refine State.hqCmd_keeps H h2 ?_
  · intro _ h20
    exact (State.doQStart_keeps H h20)

@[simp] theorem State.doQStop_keeps (H : Closed I) {s : State} {p : Nat} (h0 : Holds I s) : Holds I (State.doQStop s p).st := by
  unfold State.doQStop
  refine State.onQueue_keeps H h0 ?_
  · intro _ _ h20
    exact (State.modQueue_keeps H h20)

theorem execQStop_keeps (H : Closed I) {p : Path} {part : Nat} {s : State} (h2 : Holds I s) : ∀ t', execQStop p part s = Host.Outcome.next t' → Holds I t' := by
  show HoldsOut I _
  unfold execQStop
  refine out_next ?_
  refine State.hqCmd_keeps H h2 ?_
  · intro _ h20
    exact (State.doQStop_keeps H h20)

@[simp] theorem State.doQReset_keeps (H : Closed I) {s : State} {p : Nat} (h0 : Holds I s) : Holds I (State.doQReset s p).st := by
  unfold State.doQReset
  refine State.onQueue_keeps H h0 ?_
  · intro _ _ h20
    exact (State.qReset_keeps H h20)

theorem execQReset_keeps (H : Closed I) {p : Path} {part : Nat} {s : State} (h2 : Holds I s) : ∀ t', execQReset p part s = Host.Outcome.next t' → Holds I t' := by
  show HoldsOut I _
  unfold execQReset
  refine out_next ?_
  refine State.hqCmd_keeps H h2 ?_
  · intro _ h20
    exact (State.doQReset_keeps H h20)

@[simp] theorem State.doQDestroy_keeps (H : Closed I) {s : State} {p : Nat} (h0 : Holds I s) : Holds I (State.doQDestroy s p).st := by
  unfold State.doQDestroy
  refine State.onQueue_keeps H h0 ?_
  · intro _ _ h20
    extract_lets +onlyGivenNames -merge -useContext a21
    have h22 : Holds I a21 := (State.modQueue_keeps H (State.skipEntries_keeps H h20))
    try clear_value a21
    exact (State.releaseHolds_keeps H (State.kill_keeps H h22))

theorem execQDestroy_keeps (H : Closed I) {p : Path} {part : Nat} {s : State} (h2 : Holds I s) : ∀ t', execQDestroy p part s = Host.Outcome.next t' → Holds I t' := by
  show HoldsOut I _
  unfold execQDestroy
  refine out_next ?_
  refine State.hqCmd_keeps H h2 ?_
  · intro _ h20
    exact (State.doQDestroy_keeps H h20)

@[simp] theorem State.doMemCreate_keeps (H : Closed I) {s : State} {p : Nat} (h0 : Holds I s) : Holds I (State.doMemCreate s p).st := by
  unfold State.doMemCreate
  extract_lets +onlyGivenNames -merge -useContext a20 a21 a22
  try clear_value a20 a21 a22
  refine iteInduction (motive := fun (r : HqRes) => Holds I r.st) (fun _ => ?_) (fun _ => ?_)
  · exact (hqNo_keeps H h0)
  · split
    · exact (hqNo_keeps H h0)
    · refine iteInduction (motive := fun (r : HqRes) => Holds I r.st) (fun _ => ?_) (fun _ => ?_)
      · exact (hqNo_keeps H h0)
      · refine iteInduction (motive := fun (r : HqRes) => Holds I r.st) (fun _ => ?_) (fun _ => ?_)
        · exact (hqNo_keeps H h0)
        · split
          · rename_i e23
            have h24 := holds_of (I := I) (p := fun t => t.2) e23 (State.rangeOwned_keeps H h0)
            exact h0
          · rename_i e25
            have h26 := holds_of (I := I) (p := fun t => t.2) e25 (State.rangeOwned_keeps H h0)
            exact (hqNo_keeps H h0)
          · rename_i e27
            have h28 := holds_of (I := I) (p := fun t => t.2) e27 (State.rangeOwned_keeps H h0)
            exact (hqOk_keeps H (State.addRef_keeps H (State.setMemObj_keeps H (State.handleTaken_keeps H h28))))

theorem execMemCreate_keeps (H : Closed I) {p : Path} {part : Nat} {s : State} (h2 : Holds I s) : ∀ t', execMemCreate p part s = Host.Outcome.next t' → Holds I t' := by
  show HoldsOut I _
  unfold execMemCreate
  refine out_next ?_
  refine State.hqCmd_keeps H h2 ?_
  · intro _ h20
    exact (State.doMemCreate_keeps H h20)

@[simp] theorem State.doMemFree_keeps (H : Closed I) {s : State} {p : Nat} (h0 : Holds I s) : Holds I (State.doMemFree s p).st := by
  unfold State.doMemFree
  extract_lets +onlyGivenNames -merge -useContext a20 a21 a22 a23
  try clear_value a20 a21 a22 a23
  refine iteInduction (motive := fun (r : HqRes) => Holds I r.st) (fun _ => ?_) (fun _ => ?_)
  · exact (hqNo_keeps H h0)
  · extract_lets +onlyGivenNames -merge -useContext a24 a25
    exact (hqOk_keeps H (State.releaseHolds_keeps H (State.kill_keeps H (State.addRef_keeps H (State.setMemObj_keeps H h0)))))

theorem execMemFree_keeps (H : Closed I) {p : Path} {part : Nat} {s : State} (h2 : Holds I s) : ∀ t', execMemFree p part s = Host.Outcome.next t' → Holds I t' := by
  show HoldsOut I _
  unfold execMemFree
  refine out_next ?_
  refine State.hqCmd_keeps H h2 ?_
  · intro _ h20
    exact (State.doMemFree_keeps H h20)

@[simp] theorem State.doFenceCreate_keeps (H : Closed I) {s : State} {p : Nat} (h0 : Holds I s) : Holds I (State.doFenceCreate s p).st := by
  unfold State.doFenceCreate
  extract_lets +onlyGivenNames -merge -useContext a20 a21 a22 a23
  try clear_value a20 a21 a22 a23
  refine iteInduction (motive := fun (r : HqRes) => Holds I r.st) (fun _ => ?_) (fun _ => ?_)
  · exact (hqNo_keeps H h0)
  · extract_lets +onlyGivenNames -merge -useContext a24
    have h25 : Holds I a24.st := (State.newSync_keeps H h0)
    try clear_value a24
    split
    · refine iteInduction (motive := fun (r : HqRes) => Holds I r.st) (fun _ => ?_) (fun _ => ?_)
      · exact (hqOk_keeps H (State.addRef_keeps H h25))
      · exact h25
    · exact h25

theorem execFenceCreate_keeps (H : Closed I) {p : Path} {part : Nat} {s : State} (h2 : Holds I s) : ∀ t', execFenceCreate p part s = Host.Outcome.next t' → Holds I t' := by
  show HoldsOut I _
  unfold execFenceCreate
  refine out_next ?_
  refine State.hqCmd_keeps H h2 ?_
  · intro _ h20
    exact (State.doFenceCreate_keeps H h20)

@[simp] theorem State.doEventCreate_keeps (H : Closed I) {s : State} {p : Nat} (h0 : Holds I s) : Holds I (State.doEventCreate s p).st := by
  unfold State.doEventCreate
  extract_lets +onlyGivenNames -merge -useContext a20
  try clear_value a20
  refine iteInduction (motive := fun (r : HqRes) => Holds I r.st) (fun _ => ?_) (fun _ => ?_)
  · exact (hqNo_keeps H h0)
  · exact (State.newSync_keeps H h0)

theorem execEventCreate_keeps (H : Closed I) {p : Path} {part : Nat} {s : State} (h2 : Holds I s) : ∀ t', execEventCreate p part s = Host.Outcome.next t' → Holds I t' := by
  show HoldsOut I _
  unfold execEventCreate
  refine out_next ?_
  refine State.hqCmd_keeps H h2 ?_
  · intro _ h20
    exact (State.doEventCreate_keeps H h20)

@[simp] theorem State.doSyncFree_keeps (H : Closed I) {s : State} {p : Nat} (h0 : Holds I s) : Holds I (State.doSyncFree s p).st := by
  unfold State.doSyncFree
  extract_lets +onlyGivenNames -merge -useContext a20 a21
  try clear_value a20 a21
  refine iteInduction (motive := fun (r : HqRes) => Holds I r.st) (fun _ => ?_) (fun _ => ?_)
  · exact (hqNo_keeps H h0)
  · exact (hqOk_keeps H (State.releaseHolds_keeps H (State.kill_keeps H (State.addRef_keeps H (State.modSync_keeps H h0)))))

theorem execSyncFree_keeps (H : Closed I) {p : Path} {part : Nat} {s : State} (h2 : Holds I s) : ∀ t', execSyncFree p part s = Host.Outcome.next t' → Holds I t' := by
  show HoldsOut I _
  unfold execSyncFree
  refine out_next ?_
  refine State.hqCmd_keeps H h2 ?_
  · intro _ h20
    exact (State.doSyncFree_keeps H h20)

@[simp] theorem State.doFenceSignal_keeps (H : Closed I) {s : State} {p : Nat} (h0 : Holds I s) : Holds I (State.doFenceSignal s p).st := by
  unfold State.doFenceSignal
  extract_lets +onlyGivenNames -merge -useContext a20 a21
  try clear_value a20 a21
  refine iteInduction (motive := fun (r : HqRes) => Holds I r.st) (fun _ => ?_) (fun _ => ?_)
  · exact (hqNo_keeps H h0)
  · exact (hqOk_keeps H (State.signal_keeps H h0))

theorem execFenceSignal_keeps (H : Closed I) {p : Path} {part : Nat} {s : State} (h2 : Holds I s) : ∀ t', execFenceSignal p part s = Host.Outcome.next t' → Holds I t' := by
  show HoldsOut I _
  unfold execFenceSignal
  refine out_next ?_
  refine State.hqCmd_keeps H h2 ?_
  · intro _ h20
    exact (State.doFenceSignal_keeps H h20)

@[simp] theorem State.doEventSignal_keeps (H : Closed I) {s : State} {p : Nat} (h0 : Holds I s) : Holds I (State.doEventSignal s p).st := by
  unfold State.doEventSignal
  extract_lets +onlyGivenNames -merge -useContext a20
  try clear_value a20
  refine iteInduction (motive := fun (r : HqRes) => Holds I r.st) (fun _ => ?_) (fun _ => ?_)
  · exact (hqNo_keeps H h0)
  · exact (hqOk_keeps H (State.signalEvent_keeps H h0))

theorem execEventSignal_keeps (H : Closed I) {p : Path} {part : Nat} {s : State} (h2 : Holds I s) : ∀ t', execEventSignal p part s = Host.Outcome.next t' → Holds I t' := by
  show HoldsOut I _
  unfold execEventSignal
  refine out_next ?_
  refine State.hqCmd_keeps H h2 ?_
  · intro _ h20
    exact (State.doEventSignal_keeps H h20)

@[simp] theorem State.doFenceExport_keeps (H : Closed I) {s : State} {p : Nat} (h0 : Holds I s) : Holds I (State.doFenceExport s p).st := by
  unfold State.doFenceExport
  extract_lets +onlyGivenNames -merge -useContext a20 a21
  try clear_value a20
  refine iteInduction (motive := fun (r : HqRes) => Holds I r.st) (fun _ => ?_) (fun _ => ?_)
  · exact (hqNo_keeps H h0)
  · extract_lets +onlyGivenNames -merge -useContext a22
    try clear_value a22
    refine iteInduction (motive := fun (r : HqRes) => Holds I r.st) (fun _ => ?_) (fun _ => ?_)
    · exact (hqOk_keeps H h0)
    · split
      · rename_i e23
        have h24 := holds_of (I := I) (p := fun t => t.2) e23 (State.draw_keeps H h0)
        exact (hqOk_keeps H (State.modSync_keeps H h24))

theorem execFenceExport_keeps (H : Closed I) {p : Path} {part : Nat} {s : State} (h2 : Holds I s) : ∀ t', execFenceExport p part s = Host.Outcome.next t' → Holds I t' := by
  show HoldsOut I _
  unfold execFenceExport
  refine out_next ?_
  refine State.hqCmd_keeps H h2 ?_
  · intro _ h20
    exact (State.doFenceExport_keeps H h20)

@[simp] theorem State.doFenceImport_keeps (H : Closed I) {s : State} {p : Nat} {priv : Bool} (h0 : Holds I s) : Holds I (State.doFenceImport s p priv).st := by
  unfold State.doFenceImport
  extract_lets +onlyGivenNames -merge -useContext a20 a21 a22
  try clear_value a20 a21 a22
  refine iteInduction (motive := fun (r : HqRes) => Holds I r.st) (fun _ => ?_) (fun _ => ?_)
  · exact (hqNo_keeps H h0)
  · extract_lets +onlyGivenNames -merge -useContext a23
    have h24 : Holds I a23.st := (State.newSync_keeps H h0)
    try clear_value a23
    split
    · refine iteInduction (motive := fun (r : HqRes) => Holds I r.st) (fun _ => ?_) (fun _ => ?_)
      · exact (hqOk_keeps H (State.addRef_keeps H h24))
      · exact h24
    · exact h24

theorem execFenceImport_keeps (H : Closed I) {p : Path} {part : Nat} {s : State} (h2 : Holds I s) : ∀ t', execFenceImport p part s = Host.Outcome.next t' → Holds I t' := by
  show HoldsOut I _
  unfold execFenceImport
  refine out_next ?_
  refine State.hqCmd_keeps H h2 ?_
  · intro _ h20
    exact (State.doFenceImport_keeps H h20)

@[simp] theorem State.doFenceImportRemote_keeps (H : Closed I) {s : State} {p : Nat} (h0 : Holds I s) : Holds I (State.doFenceImportRemote s p).st := by
  unfold State.doFenceImportRemote
  extract_lets +onlyGivenNames -merge -useContext a20 a21 a22
  try clear_value a20 a21 a22
  refine iteInduction (motive := fun (r : HqRes) => Holds I r.st) (fun _ => ?_) (fun _ => ?_)
  · exact (hqNo_keeps H h0)
  · extract_lets +onlyGivenNames -merge -useContext a23
    have h24 : Holds I a23.st := (State.newSync_keeps H h0)
    try clear_value a23
    split
    · refine iteInduction (motive := fun (r : HqRes) => Holds I r.st) (fun _ => ?_) (fun _ => ?_)
      · extract_lets +onlyGivenNames -merge -useContext a25
        have h26 : Holds I a25 := (State.lkSend_keeps H h24)
        try clear_value a25
        exact holds_mk h26 rfl rfl rfl rfl rfl rfl
      · exact h24
    · exact h24

theorem execFenceImportRemote_keeps (H : Closed I) {p : Path} {part : Nat} {s : State} (h2 : Holds I s) : ∀ t', execFenceImportRemote p part s = Host.Outcome.next t' → Holds I t' := by
  show HoldsOut I _
  unfold execFenceImportRemote
  refine out_next ?_
  refine State.hqCmd_keeps H h2 ?_
  · intro _ h20
    exact (State.doFenceImportRemote_keeps H h20)

@[simp] theorem State.importFail_keeps (H : Closed I) {s : State} {x : RemoteImport} {st : Nat} (h0 : Holds I s) : Holds I (State.importFail s x st) := by
  unfold State.importFail
  extract_lets +onlyGivenNames -merge -useContext a20 a21
  have h22 : Holds I a21 := by
    unfold a21
    exact holds_mk h0 rfl rfl rfl rfl rfl rfl
  try clear_value a21
  exact (State.hqAnswer_keeps H (State.dropRef_keeps H (State.setSync_keeps H h22)))

theorem execImportRemoteTimeout_keeps (H : Closed I) {part : Nat} {s : State} (h1 : Holds I s) : ∀ t', execImportRemoteTimeout part s = Host.Outcome.next t' → Holds I t' := by
  show HoldsOut I _
  unfold execImportRemoteTimeout
  split
  · exact (out_next h1)
  · refine out_next ?_
    refine iteInduction (motive := fun r => Holds I r) (fun _ => ?_) (fun _ => ?_)
    · exact (State.importFail_keeps H h1)
    · exact h1

@[simp] theorem State.doRefAdd_keeps (H : Closed I) {s : State} {p : Nat} (h0 : Holds I s) : Holds I (State.doRefAdd s p).st := by
  unfold State.doRefAdd
  extract_lets +onlyGivenNames -merge -useContext a20 a21 a22 a23
  try clear_value a20 a21 a22 a23
  refine iteInduction (motive := fun (r : HqRes) => Holds I r.st) (fun _ => ?_) (fun _ => ?_)
  · exact (hqNo_keeps H h0)
  · exact (hqOk_keeps H (State.setRefs_keeps H h0))

theorem execRefAdd_keeps (H : Closed I) {p : Path} {part : Nat} {s : State} (h2 : Holds I s) : ∀ t', execRefAdd p part s = Host.Outcome.next t' → Holds I t' := by
  show HoldsOut I _
  unfold execRefAdd
  refine out_next ?_
  refine State.hqCmd_keeps H h2 ?_
  · intro _ h20
    exact (State.doRefAdd_keeps H h20)

@[simp] theorem State.hqAct_keeps (H : Closed I) {s : State} {p : Path} {part code : Nat} (h0 : Holds I s) : Holds I (State.hqAct s p part code).st := by
  unfold State.hqAct
  split
  · exact (State.doCtxCreate_keeps H h0)
  · exact (State.doCtxKill_keeps H h0)
  · exact (State.doObjQuery_keeps H h0)
  · exact (State.doQCreate_keeps H h0)
  · exact (State.doQStart_keeps H h0)
  · exact (State.doQStop_keeps H h0)
  · exact (State.doQReset_keeps H h0)
  · exact (State.doQDestroy_keeps H h0)
  · exact (State.doMemCreate_keeps H h0)
  · exact (State.doMemFree_keeps H h0)
  · exact (State.doFenceCreate_keeps H h0)
  · exact (State.doEventCreate_keeps H h0)
  · exact (State.doSyncFree_keeps H h0)
  · exact (State.doFenceSignal_keeps H h0)
  · exact (State.doEventSignal_keeps H h0)
  · exact (State.doFenceExport_keeps H h0)
  · exact (State.doFenceImport_keeps H h0)
  · exact (State.doFenceImportRemote_keeps H h0)
  · exact (State.doRefAdd_keeps H h0)
  · exact (hqNo_keeps H h0)

@[simp] theorem State.hqWrite_keeps (H : Closed I) {s : State} {p : Path} {part code : Nat} (h0 : Holds I s) : Holds I (State.hqWrite s p part code) := by
  unfold State.hqWrite
  refine State.hqRun_keeps H h0 ?_
  · intro _ h20
    exact (State.hqAct_keeps H h20)

theorem execReclaimEpochEnd_keeps (H : Closed I) {s : State} (h0 : Holds I s) : ∀ t', execReclaimEpochEnd s = Host.Outcome.next t' → Holds I t' := by
  show HoldsOut I _
  unfold execReclaimEpochEnd
  refine iteInduction (motive := fun r => HoldsOut I r) (fun _ => ?_) (fun _ => ?_)
  · extract_lets +onlyGivenNames -merge -useContext a20
    have h21 : Holds I a20 := (State.reclaim_keeps H h0)
    try clear_value a20
    refine out_next ?_
    refine State.bump_keeps H ?_
    · exact holds_mk h21 rfl rfl rfl rfl rfl rfl
  · exact (out_next h0)

end Sys2Proof.Machine
end

