-- ==== Sys2Proof/Laws/KeepsSubmit.lean ====
section
/-! SUPPORT. What the operations of Machine/Submit.lean protect. -/

namespace Sys2Proof.Machine

set_option linter.all false

variable {I : Prot → Prop}

@[simp] theorem State.ringDoorbell_keeps (H : Closed I) {s : State} {q t : Nat} (h0 : Holds I s) : Holds I (State.ringDoorbell s q t) := by
  unfold State.ringDoorbell
  extract_lets +onlyGivenNames -merge -useContext a20
  refine iteInduction (motive := fun r => Holds I r) (fun _ => ?_) (fun _ => ?_)
  · exact h0
  · refine iteInduction (motive := fun r => Holds I r) (fun _ => ?_) (fun _ => ?_)
    · exact (State.odBump_keeps H h0)
    · refine iteInduction (motive := fun r => Holds I r) (fun _ => ?_) (fun _ => ?_)
      · exact (State.odBump_keeps H (State.modQueue_keeps H h0))
      · extract_lets +onlyGivenNames -merge -useContext a21 a22
        try clear_value a21
        have h23 : Holds I a22 := (State.modCtx_keeps H h0)
        try clear_value a22
        extract_lets +onlyGivenNames -merge -useContext a24 a25
        try clear_value a24 a25
        exact (State.modQueue_keeps H h23)

@[simp] theorem State.hostDoorbell_keeps (H : Closed I) {s : State} {q t : Nat} (h0 : Holds I s) : Holds I (State.hostDoorbell s q t) := by
  unfold State.hostDoorbell
  refine iteInduction (motive := fun r => Holds I r) (fun _ => ?_) (fun _ => ?_)
  · exact (State.odBump_keeps H h0)
  · exact (State.ringDoorbell_keeps H h0)

theorem execDoorbell_keeps (H : Closed I) {p : Path} {queue : Nat} {tail : W32} {s : State} (h3 : Holds I s) : ∀ t', execDoorbell p queue tail s = Host.Outcome.next t' → Holds I t' := by
  show HoldsOut I _
  unfold execDoorbell
  split
  · refine out_next ?_
    refine State.hostGate_keeps H h3 ?_
    · intro _ h20
      refine iteInduction (motive := fun r => Holds I r) (fun _ => ?_) (fun _ => ?_)
      · exact (State.hostDoorbell_keeps H h20)
      · exact (State.odBump_keeps H h20)
  · refine out_next ?_
    refine State.regGate_keeps H h3 ?_
    · intro _ h21
      exact (State.hostDoorbell_keeps H h21)

@[simp] theorem State.refuse_keeps (H : Closed I) {s : State} {q : Nat} {e : Entry} {st : Nat} {stop : Bool} (h0 : Holds I s) : Holds I (State.refuse s q e st stop) := by
  unfold State.refuse
  extract_lets +onlyGivenNames -merge -useContext a20
  have h21 : Holds I a20 := (State.modQueue_keeps H h0)
  try clear_value a20
  refine State.setHead_keeps H ?_
  · refine iteInduction (motive := fun r => Holds I r) (fun _ => ?_) (fun _ => ?_)
    · exact (State.odBump_keeps H h21)
    · exact h21

@[simp] theorem State.accept_keeps (H : Closed I) {s : State} {q : Nat} {e : Entry} (h0 : Holds I s) : Holds I (State.accept s q e) := by
  unfold State.accept
  extract_lets +onlyGivenNames -merge -useContext a20
  have h21 : Holds I a20 := by
    unfold a20
    refine State.each_keeps H h0 ?_
    · intro _ _ h22
      exact (State.addRef_keeps H h22)
  try clear_value a20
  extract_lets +onlyGivenNames -merge -useContext a23
  have h24 : Holds I a23 := (State.modQueue_keeps H h21)
  try clear_value a23
  exact (State.setHead_keeps H h24)

@[simp] theorem State.frontRead_keeps (H : Closed I) {s : State} {c va n : Nat} (h0 : Holds I s) : Holds I (State.frontRead s c va n).st := by
  unfold State.frontRead
  extract_lets +onlyGivenNames -merge -useContext a20
  have h21 : Holds I a20.st := (State.hubRead_keeps H h0)
  try clear_value a20
  split
  · exact (State.quietRecord_keeps H h21)
  · refine iteInduction (motive := fun (r : VaRes) => Holds I r.st) (fun _ => ?_) (fun _ => ?_)
    · exact h21
    · refine State.each_keeps H h21 ?_
      · intro _ _ h22
        exact (State.poisonRecord_keeps H h22)

@[simp] theorem State.acceptStep_keeps (H : Closed I) {s : State} {q c : Nat} {e : Entry} (h0 : Holds I s) : Holds I (State.acceptStep s q c e) := by
  unfold State.acceptStep
  extract_lets +onlyGivenNames -merge -useContext a20 a21
  try clear_value a20
  have h22 : Holds I a21.st := (State.frontRead_keeps H h0)
  try clear_value a21
  refine iteInduction (motive := fun r => Holds I r) (fun _ => ?_) (fun _ => ?_)
  · exact h0
  · refine iteInduction (motive := fun r => Holds I r) (fun _ => ?_) (fun _ => ?_)
    · exact (State.refuse_keeps H h22)
    · refine iteInduction (motive := fun r => Holds I r) (fun _ => ?_) (fun _ => ?_)
      · exact (State.refuse_keeps H h22)
      · extract_lets +onlyGivenNames -merge -useContext a23
        have h24 : Holds I a23 := h22
        try clear_value a23
        extract_lets +onlyGivenNames -merge -useContext a25
        refine iteInduction (motive := fun r => Holds I r) (fun _ => ?_) (fun _ => ?_)
        · exact (State.refuse_keeps H h24)
        · refine iteInduction (motive := fun r => Holds I r) (fun _ => ?_) (fun _ => ?_)
          · exact (State.refuse_keeps H h24)
          · exact (State.setStep_keeps H (State.accept_keeps H h24))

@[simp] theorem State.acceptUpdate_keeps (H : Closed I) {s : State} {q c : Nat} {e : Entry} (h0 : Holds I s) : Holds I (State.acceptUpdate s q c e) := by
  unfold State.acceptUpdate
  extract_lets +onlyGivenNames -merge -useContext a20 a21
  try clear_value a20
  have h22 : Holds I a21.st := (State.frontRead_keeps H h0)
  try clear_value a21
  refine iteInduction (motive := fun r => Holds I r) (fun _ => ?_) (fun _ => ?_)
  · exact h0
  · refine iteInduction (motive := fun r => Holds I r) (fun _ => ?_) (fun _ => ?_)
    · exact (State.refuse_keeps H h22)
    · refine iteInduction (motive := fun r => Holds I r) (fun _ => ?_) (fun _ => ?_)
      · exact (State.refuse_keeps H h22)
      · extract_lets +onlyGivenNames -merge -useContext a23 a24
        try clear_value a23
        have h25 : Holds I a24.st := (State.frontRead_keeps H h22)
        try clear_value a24
        refine iteInduction (motive := fun r => Holds I r) (fun _ => ?_) (fun _ => ?_)
        · exact h0
        · refine iteInduction (motive := fun r => Holds I r) (fun _ => ?_) (fun _ => ?_)
          · exact (State.refuse_keeps H h25)
          · extract_lets +onlyGivenNames -merge -useContext a26
            try clear_value a26
            refine iteInduction (motive := fun r => Holds I r) (fun _ => ?_) (fun _ => ?_)
            · exact h0
            · refine iteInduction (motive := fun r => Holds I r) (fun _ => ?_) (fun _ => ?_)
              · exact (State.refuse_keeps H h25)
              · refine iteInduction (motive := fun r => Holds I r) (fun _ => ?_) (fun _ => ?_)
                · exact (State.refuse_keeps H h25)
                · extract_lets +onlyGivenNames -merge -useContext a27
                  have h28 : Holds I a27 := (State.accept_keeps H h25)
                  try clear_value a27
                  exact holds_mk h28 rfl rfl rfl rfl rfl rfl

@[simp] theorem State.acceptBytes_keeps (H : Closed I) {s : State} {q c : Nat} {b : List Byte} (h0 : Holds I s) : Holds I (State.acceptBytes s q c b) := by
  unfold State.acceptBytes
  extract_lets +onlyGivenNames -merge -useContext a20
  refine iteInduction (motive := fun r => Holds I r) (fun _ => ?_) (fun _ => ?_)
  · exact (State.refuse_keeps H h0)
  · extract_lets +onlyGivenNames -merge -useContext a21 a22 a23
    try clear_value a22 a23
    refine iteInduction (motive := fun r => Holds I r) (fun _ => ?_) (fun _ => ?_)
    · exact (State.refuse_keeps H h0)
    · extract_lets +onlyGivenNames -merge -useContext a24
      have h25 : Holds I a24 := by
        unfold a24
        refine iteInduction (motive := fun r => Holds I r) (fun _ => ?_) (fun _ => ?_)
        · exact (State.acceptStep_keeps H h0)
        · refine iteInduction (motive := fun r => Holds I r) (fun _ => ?_) (fun _ => ?_)
          · exact (State.acceptUpdate_keeps H h0)
          · refine iteInduction (motive := fun r => Holds I r) (fun _ => ?_) (fun _ => ?_)
            · exact (State.refuse_keeps H h0)
            · exact (State.accept_keeps H h0)
      try clear_value a24
      exact (State.modQueue_keeps H h25)

theorem execEntryAccept_keeps (H : Closed I) {queue : Nat} {s : State} (h1 : Holds I s) : ∀ t', execEntryAccept queue s = Host.Outcome.next t' → Holds I t' := by
  show HoldsOut I _
  unfold execEntryAccept
  extract_lets +onlyGivenNames -merge -useContext a20
  refine iteInduction (motive := fun r => HoldsOut I r) (fun _ => ?_) (fun _ => ?_)
  · extract_lets +onlyGivenNames -merge -useContext a21 a22
    try clear_value a21
    have h23 : Holds I a22.st := (State.frontRead_keeps H h1)
    try clear_value a22
    refine iteInduction (motive := fun r => HoldsOut I r) (fun _ => ?_) (fun _ => ?_)
    · exact (out_next h1)
    · refine iteInduction (motive := fun r => HoldsOut I r) (fun _ => ?_) (fun _ => ?_)
      · exact (out_next (State.refuse_keeps H h23))
      · exact (out_next (State.acceptBytes_keeps H h23))
  · exact (out_next h1)

@[simp] theorem State.stepReady_keeps (H : Closed I) {s : State} {q : Nat} (h0 : Holds I s) : Holds I (State.stepReady s q) := by
  unfold State.stepReady
  split
  · exact h0
  · extract_lets +onlyGivenNames -merge -useContext a20
    have h21 : Holds I a20 := (State.setStep_keeps H h0)
    try clear_value a20
    refine iteInduction (motive := fun r => Holds I r) (fun _ => ?_) (fun _ => ?_)
    · exact h21
    · split
      · exact (State.modQueue_keeps H h21)
      · exact h21

theorem execWaitsMet_keeps (H : Closed I) {queue : Nat} {s : State} (h1 : Holds I s) : ∀ t', execWaitsMet queue s = Host.Outcome.next t' → Holds I t' := by
  show HoldsOut I _
  unfold execWaitsMet
  split
  · exact (out_next h1)
  · refine iteInduction (motive := fun r => HoldsOut I r) (fun _ => ?_) (fun _ => ?_)
    · exact (out_next h1)
    · split
      · exact (out_next h1)
      · refine iteInduction (motive := fun r => HoldsOut I r) (fun _ => ?_) (fun _ => ?_)
        · exact (out_next (State.endHeld_keeps H h1))
        · refine iteInduction (motive := fun r => HoldsOut I r) (fun _ => ?_) (fun _ => ?_)
          · exact (out_next (State.endHeld_keeps H h1))
          · extract_lets +onlyGivenNames -merge -useContext a20
            have h21 : Holds I a20 := (State.modQueue_keeps H h1)
            try clear_value a20
            refine out_next ?_
            refine iteInduction (motive := fun r => Holds I r) (fun _ => ?_) (fun _ => ?_)
            · exact (State.stepReady_keeps H h21)
            · exact h21

theorem execEntryComplete_keeps (H : Closed I) {queue : Nat} {s : State} (h1 : Holds I s) : ∀ t', execEntryComplete queue s = Host.Outcome.next t' → Holds I t' := by
  show HoldsOut I _
  unfold execEntryComplete
  split
  · exact (out_next h1)
  · split
    · exact (out_next (State.killFinish_keeps H (State.completeEntry_keeps H h1)))
    · exact (out_next h1)

@[simp] theorem State.hang_keeps (H : Closed I) {s : State} {q cause : Nat} (h0 : Holds I s) : Holds I (State.hang s q cause) := by
  unfold State.hang
  split
  · exact h0
  · extract_lets +onlyGivenNames -merge -useContext a20
    have h21 : Holds I a20 := (State.modStep_keeps H h0)
    try clear_value a20
    refine iteInduction (motive := fun r => Holds I r) (fun _ => ?_) (fun _ => ?_)
    · exact (State.teardown_keeps H (State.odBump_keeps H (State.bumpSat_keeps H h21)))
    · extract_lets +onlyGivenNames -merge -useContext a22
      try clear_value a22
      exact holds_mk h21 rfl rfl rfl rfl rfl rfl

theorem execQueueTimeout_keeps (H : Closed I) {queue : Nat} {s : State} (h1 : Holds I s) : ∀ t', execQueueTimeout queue s = Host.Outcome.next t' → Holds I t' := by
  show HoldsOut I _
  unfold execQueueTimeout
  extract_lets +onlyGivenNames -merge -useContext a20
  split
  · exact (out_next h1)
  · refine iteInduction (motive := fun r => HoldsOut I r) (fun _ => ?_) (fun _ => ?_)
    · extract_lets +onlyGivenNames -merge -useContext a21
      have h22 : Holds I a21 := (State.odBump_keeps H h1)
      try clear_value a21
      split
      · refine iteInduction (motive := fun r => HoldsOut I r) (fun _ => ?_) (fun _ => ?_)
        · exact (out_next (State.endIdle_keeps H h22))
        · exact (out_next (State.hang_keeps H h22))
      · refine iteInduction (motive := fun r => HoldsOut I r) (fun _ => ?_) (fun _ => ?_)
        · exact (out_next (State.modReq_keeps H h22))
        · exact (out_next (State.endHeld_keeps H h22))
    · exact (out_next h1)

theorem execKillTimeout_keeps (H : Closed I) {queue : Nat} {s : State} (h1 : Holds I s) : ∀ t', execKillTimeout queue s = Host.Outcome.next t' → Holds I t' := by
  show HoldsOut I _
  unfold execKillTimeout
  extract_lets +onlyGivenNames -merge -useContext a20
  split
  · exact (out_next h1)
  · refine iteInduction (motive := fun r => HoldsOut I r) (fun _ => ?_) (fun _ => ?_)
    · split
      · exact (out_next (State.teardown_keeps H h1))
      · exact (out_next (State.modQueue_keeps H (State.endUpdate_keeps H h1)))
    · exact (out_next h1)

end Sys2Proof.Machine
end

