-- ==== Sys2Proof/Laws/KeepsBudget.lean ====
section
/-! SUPPORT. What the operations of Machine/Budget.lean protect. -/

namespace Sys2Proof.Machine

set_option linter.all false

variable {I : Prot → Prop}

@[simp] theorem State.latchPart_keeps (H : Closed I) {s : State} {p : Nat} (h0 : Holds I s) : Holds I (State.latchPart s p) := by
  unfold State.latchPart
  exact (State.modPart_keeps H h0)

@[simp] theorem State.budgets_keeps (H : Closed I) {s : State} (h0 : Holds I s) : Holds I (State.budgets s) := by
  unfold State.budgets
  extract_lets +onlyGivenNames -merge -useContext a20 a21 a22 a23 a24 a25 a26 a27
  try clear_value a21 a22 a23 a24 a25
  have h28 : Holds I a27 := by
    unfold a27
    exact holds_mk h0 rfl rfl rfl rfl rfl rfl
  try clear_value a27
  refine State.each_keeps H h28 ?_
  · intro _ _ h29
    extract_lets +onlyGivenNames -merge -useContext a30 a31 a32
    try clear_value a31 a32
    exact (State.setPart_keeps H h29)

end Sys2Proof.Machine
end

