-- ==== Sys2Proof/Laws/KeepsDens.lean ====
section
/-! SUPPORT. What the operations of Machine/Dens.lean protect. -/

namespace Sys2Proof.Machine

set_option linter.all false

variable {I : Prot → Prop}

@[simp] theorem State.slotEntry_keeps (H : Closed I) {s : State} {p slot : Nat} (h0 : Holds I s) : Holds I ((State.slotEntry s p slot).2) := by
  unfold State.slotEntry
  extract_lets +onlyGivenNames -merge -useContext a20
  have h21 : Holds I a20.2.2 := (State.ownRead_keeps H h0)
  try clear_value a20
  exact h21

@[simp] theorem State.slotRead_keeps (H : Closed I) {s : State} {p slot outFmt : Nat} (h0 : Holds I s) : Holds I (((State.slotRead s p slot outFmt).2).2) := by
  unfold State.slotRead
  split
  · rename_i e20
    have h21 := holds_of (I := I) (p := fun t => t.2) e20 (State.slotEntry_keeps H h0)
    exact h21

@[simp] theorem State.slotAreaClear_keeps (H : Closed I) {s : State} {p : Nat} (h0 : Holds I s) : Holds I (State.slotAreaClear s p) := by
  unfold State.slotAreaClear
  extract_lets +onlyGivenNames -merge -useContext a20 a21
  refine State.each_keeps H (H.poisonFilter _ _ (H.memFilter _ _ h0)) ?_
  intro _ _ h23
  exact (State.wrBytes_keeps H h23)

@[simp] theorem State.densWriteOut_keeps (H : Closed I) {s : State} {core : Nat} {d : DensSet} (h0 : Holds I s) : Holds I (State.densWriteOut s core d) := by
  unfold State.densWriteOut
  extract_lets +onlyGivenNames -merge -useContext a20
  try clear_value a20
  split
  · rename_i e21
    have h22 := holds_of (I := I) (p := fun t => t.2.2) e21 (State.ownRead_keeps H h0)
    extract_lets +onlyGivenNames -merge -useContext a23 a24 a25 a26 a27 a28 a29 a30 a31 a32 a33 a34 a35 a36 a37
    try clear_value a23 a24 a25 a26 a27 a28 a29 a30 a31 a32 a33 a34 a35 a36
    have h38 : Holds I a37 := (State.ownWrite_keeps H h22)
    try clear_value a37
    extract_lets +onlyGivenNames -merge -useContext a39 a40
    have h41 : Holds I a40 := by
      unfold a40
      exact holds_mk h38 rfl rfl rfl rfl rfl rfl
    try clear_value a40
    refine State.each_keeps H h41 ?_
    · intro _ _ h42
      refine iteInduction (motive := fun r => Holds I r) (fun _ => ?_) (fun _ => ?_)
      · split
        · exact (State.setKernel_keeps H h42)
        · exact h42
      · exact (State.modSeq_keeps H h42)

@[simp] theorem State.densFlush_keeps (H : Closed I) {s : State} {core : Nat} (h0 : Holds I s) : Holds I (State.densFlush s core) := by
  unfold State.densFlush
  extract_lets +onlyGivenNames -merge -useContext a20
  try clear_value a20
  refine State.modMx_keeps H ?_
  · refine State.each_keeps H h0 ?_
    · intro _ _ h21
      exact (State.densWriteOut_keeps H h21)

@[simp] theorem State.densTake_keeps (H : Closed I) {s : State} {core slot fmt scale : Nat} {centre : Int} {scaled : Bool} {src : Nat} (h0 : Holds I s) : Holds I (State.densTake s core slot fmt scale centre scaled src) := by
  unfold State.densTake
  extract_lets +onlyGivenNames -merge -useContext a20
  split
  · extract_lets +onlyGivenNames -merge -useContext a21
    exact (State.modMx_keeps H h0)
  · extract_lets +onlyGivenNames -merge -useContext a22
    have h23 : Holds I a22 := by
      unfold a22
      refine iteInduction (motive := fun r => Holds I r) (fun _ => ?_) (fun _ => ?_)
      · exact h0
      · split
        · exact (State.odBump_keeps H (State.bumpSat_keeps H (State.modMx_keeps H (State.densWriteOut_keeps H h0))))
        · exact h0
    try clear_value a22
    extract_lets +onlyGivenNames -merge -useContext a24 a25
    try clear_value a24 a25
    exact (State.modMx_keeps H h23)

@[simp] theorem State.densCount_keeps (H : Closed I) {s : State} {core : Nat} {vals : List (XVal × Conv)} (h0 : Holds I s) : Holds I (State.densCount s core vals) := by
  unfold State.densCount
  exact (State.modMx_keeps H h0)

@[simp] theorem State.steer_keeps (H : Closed I) {s : State} {p slot : Nat} {r : List Byte} (h0 : Holds I s) : Holds I ((State.steer s p slot r).2) := by
  unfold State.steer
  split
  · rename_i e20
    have h21 := holds_of (I := I) (p := fun t => t.2) e20 (State.slotEntry_keeps H h0)
    extract_lets +onlyGivenNames -merge -useContext a22 a23 a24 a25 a26
    try clear_value a22 a23 a24 a25 a26
    refine iteInduction (motive := fun (r : List Byte × State) => Holds I r.2) (fun _ => ?_) (fun _ => ?_)
    · exact h21
    · refine iteInduction (motive := fun (r : List Byte × State) => Holds I r.2) (fun _ => ?_) (fun _ => ?_)
      · exact h21
      · refine iteInduction (motive := fun (r : List Byte × State) => Holds I r.2) (fun _ => ?_) (fun _ => ?_)
        · exact h21
        · refine iteInduction (motive := fun (r : List Byte × State) => Holds I r.2) (fun _ => ?_) (fun _ => ?_)
          · exact (State.odBump_keeps H h21)
          · extract_lets +onlyGivenNames -merge -useContext a27 a28 a29 a30 a31
            try clear_value a27 a28 a29 a30
            have h32 : ∀ y0 y1, Holds I y0 → Holds I (a31 y0 y1) := by
              intro _ _ h33
              unfold a31
              exact (State.ownWrite_keeps H h33)
            try clear_value a31
            refine iteInduction (motive := fun (r : List Byte × State) => Holds I r.2) (fun _ => ?_) (fun _ => ?_)
            · exact (State.odBump_keeps H (State.errVec_keeps H (h32 _ _ h21)))
            · extract_lets +onlyGivenNames -merge -useContext a34
              try clear_value a34
              refine iteInduction (motive := fun (r : List Byte × State) => Holds I r.2) (fun _ => ?_) (fun _ => ?_)
              · exact (h32 _ _ h21)
              · extract_lets +onlyGivenNames -merge -useContext a35 a36 a37 a38 a39 a40 a41
                try clear_value a35 a36 a37 a38 a39 a40 a41
                split
                · exact (h32 _ _ h21)
                · extract_lets +onlyGivenNames -merge -useContext a42
                  try clear_value a42
                  exact (State.odBump_keeps H (h32 _ _ h21))

@[simp] theorem State.closeRecord_keeps (H : Closed I) {s : State} {p slot ctx kdesc flags : Nat} (h0 : Holds I s) : Holds I (State.closeRecord s p slot ctx kdesc flags) := by
  unfold State.closeRecord
  split
  · rename_i e20
    have h21 := holds_of (I := I) (p := fun t => t.2.2) e20 (State.ownRead_keeps H h0)
    refine iteInduction (motive := fun r => Holds I r) (fun _ => ?_) (fun _ => ?_)
    · exact h21
    · extract_lets +onlyGivenNames -merge -useContext a22
      try clear_value a22
      split
      · rename_i e23
        have h24 := holds_of (I := I) (p := fun t => t.2.2) e23 (State.ownRead_keeps H h21)
        extract_lets +onlyGivenNames -merge -useContext a25 a26 a27
        try clear_value a25 a26 a27
        split
        · rename_i e28
          have h29 := holds_of (I := I) (p := fun t => t.2) e28 (State.steer_keeps H h24)
          extract_lets +onlyGivenNames -merge -useContext a30
          have h31 : Holds I a30 := (State.ownWrite_keeps H h29)
          try clear_value a30
          extract_lets +onlyGivenNames -merge -useContext a32
          have h33 : Holds I a32 := (State.ownWrite_keeps H h31)
          try clear_value a32
          extract_lets +onlyGivenNames -merge -useContext a34
          have h35 : Holds I a34 := (State.ownWrite_keeps H h33)
          try clear_value a34
          extract_lets +onlyGivenNames -merge -useContext a36 a37
          have h38 : Holds I a37 := by
            unfold a37
            exact holds_mk h35 rfl rfl rfl rfl rfl rfl
          try clear_value a37
          exact (State.odBump_keeps H h38)

@[simp] theorem State.closeFor_keeps (H : Closed I) {s : State} {cl : Nat} {f : State → State} (h0 : Holds I s) (h2 : ∀ y0, Holds I (y0) → Holds I (f y0)) : Holds I (State.closeFor s cl f) := by
  unfold State.closeFor
  extract_lets +onlyGivenNames -merge -useContext a20
  have h21 : Holds I a20 := (h2 _ h0)
  try clear_value a20
  exact (State.modSeq_keeps H h21)

theorem execDensRecordClose_keeps (H : Closed I) {kernel : Nat} {s : State} (h1 : Holds I s) : ∀ t', execDensRecordClose kernel s = Host.Outcome.next t' → Holds I t' := by
  show HoldsOut I _
  unfold execDensRecordClose
  split
  · exact (out_next h1)
  · refine iteInduction (motive := fun r => HoldsOut I r) (fun _ => ?_) (fun _ => ?_)
    · extract_lets +onlyGivenNames -merge -useContext a20
      have h21 : Holds I a20 := by
        unfold a20
        refine State.closeFor_keeps H h1 ?_
        · intro _ h22
          refine State.each_keeps H h22 ?_
          · intro _ _ h23
            exact (State.closeRecord_keeps H h23)
      try clear_value a20
      exact (out_next (State.setKernel_keeps H h21))
    · exact (out_next h1)

@[simp] theorem State.seqClose_keeps (H : Closed I) {s : State} {cl : Nat} (h0 : Holds I s) : Holds I (State.seqClose s cl) := by
  unfold State.seqClose
  extract_lets +onlyGivenNames -merge -useContext a20 a21
  have h22 : Holds I a21 := by
    unfold a21
    refine State.each_keeps H h0 ?_
    · intro _ _ h23
      exact (State.densFlush_keeps H h23)
  try clear_value a21
  extract_lets +onlyGivenNames -merge -useContext a24
  have h25 : Holds I a24 := by
    unfold a24
    refine State.closeFor_keeps H h22 ?_
    · intro _ h26
      refine State.each_keeps H h26 ?_
      · intro _ _ h27
        exact (State.closeRecord_keeps H h27)
  try clear_value a24
  exact (State.modSeq_keeps H h25)

theorem execSeqRecordClose_keeps (H : Closed I) {cl : Nat} {s : State} (h1 : Holds I s) : ∀ t', execSeqRecordClose cl s = Host.Outcome.next t' → Holds I t' := by
  show HoldsOut I _
  unfold execSeqRecordClose
  extract_lets +onlyGivenNames -merge -useContext a20 a21
  try clear_value a21
  refine out_next ?_
  refine iteInduction (motive := fun r => Holds I r) (fun _ => ?_) (fun _ => ?_)
  · exact (State.seqClose_keeps H h1)
  · exact h1

@[simp] theorem State.slotCommand_keeps (H : Closed I) {s : State} {action v : Nat} (h0 : Holds I s) : Holds I ((State.slotCommand s action v).1) := by
  unfold State.slotCommand
  extract_lets +onlyGivenNames -merge -useContext a20 a21 a22
  try clear_value a20 a21 a22
  refine iteInduction (motive := fun (r : State × Option Nat) => Holds I r.1) (fun _ => ?_) (fun _ => ?_)
  · exact h0
  · split
    · rename_i e23
      have h24 := holds_of (I := I) (p := fun t => t.2) e23 (State.slotEntry_keeps H h0)
      extract_lets +onlyGivenNames -merge -useContext a25
      try clear_value a25
      exact (State.ownWrite_keeps H h24)

theorem execSetScale_keeps (H : Closed I) {p : Path} {v : W64} {s : State} (h2 : Holds I s) : ∀ t', execSetScale p v s = Host.Outcome.next t' → Holds I t' := by
  show HoldsOut I _
  unfold execSetScale
  refine out_next ?_
  refine State.odCmd_keeps H h2 ?_
  · intro _ h20
    exact (State.slotCommand_keeps H h20)

theorem execHold_keeps (H : Closed I) {p : Path} {v : W64} {s : State} (h2 : Holds I s) : ∀ t', execHold p v s = Host.Outcome.next t' → Holds I t' := by
  show HoldsOut I _
  unfold execHold
  refine out_next ?_
  refine State.odCmd_keeps H h2 ?_
  · intro _ h20
    exact (State.slotCommand_keeps H h20)

theorem execSlotRelease_keeps (H : Closed I) {p : Path} {v : W64} {s : State} (h2 : Holds I s) : ∀ t', execSlotRelease p v s = Host.Outcome.next t' → Holds I t' := by
  show HoldsOut I _
  unfold execSlotRelease
  refine out_next ?_
  refine State.odCmd_keeps H h2 ?_
  · intro _ h20
    exact (State.slotCommand_keeps H h20)

theorem execSetCentre_keeps (H : Closed I) {p : Path} {v : W64} {s : State} (h2 : Holds I s) : ∀ t', execSetCentre p v s = Host.Outcome.next t' → Holds I t' := by
  show HoldsOut I _
  unfold execSetCentre
  refine out_next ?_
  refine State.odCmd_keeps H h2 ?_
  · intro _ h20
    exact (State.slotCommand_keeps H h20)

theorem execClearCentre_keeps (H : Closed I) {p : Path} {v : W64} {s : State} (h2 : Holds I s) : ∀ t', execClearCentre p v s = Host.Outcome.next t' → Holds I t' := by
  show HoldsOut I _
  unfold execClearCentre
  refine out_next ?_
  refine State.odCmd_keeps H h2 ?_
  · intro _ h20
    exact (State.slotCommand_keeps H h20)

theorem execSlotReset_keeps (H : Closed I) {p : Path} {v : W64} {s : State} (h2 : Holds I s) : ∀ t', execSlotReset p v s = Host.Outcome.next t' → Holds I t' := by
  show HoldsOut I _
  unfold execSlotReset
  refine out_next ?_
  refine State.odCmd_keeps H h2 ?_
  · intro _ h20
    exact (State.slotCommand_keeps H h20)

end Sys2Proof.Machine
end

