-- ==== Sys2Proof/Laws/KeepsThreadOps.lean ====
section
/-! SUPPORT. What the operations of Machine/ThreadOps.lean protect. -/

namespace Sys2Proof.Machine

set_option linter.all false

variable {I : Prot → Prop}

@[simp] theorem State.modGroup_keeps (H : Closed I) {s : State} {core slot : Nat} {f : Group → Group} (h0 : Holds I s) : Holds I (State.modGroup s core slot f) := by
  unfold State.modGroup
  exact (State.modCore_keeps H h0)

@[simp] theorem State.barrierCheck_keeps (H : Closed I) {s : State} {core linear : Nat} (h0 : Holds I s) : Holds I (State.barrierCheck s core linear) := by
  unfold State.barrierCheck
  extract_lets +onlyGivenNames -merge -useContext a20
  try clear_value a20
  refine iteInduction (motive := fun r => Holds I r) (fun _ => ?_) (fun _ => ?_)
  · refine State.each_keeps H h0 ?_
    · intro _ _ h21
      exact (State.modGroup_keeps H h21)
  · exact h0

@[simp] theorem State.countIssue_keeps (H : Closed I) {s : State} {i : Issue} {g : Group} (h0 : Holds I s) : Holds I (State.countIssue s i g) := by
  unfold State.countIssue
  exact (State.coreEvent_keeps H h0)

@[simp] theorem State.retire_keeps (H : Closed I) {s : State} {i : Issue} (h0 : Holds I s) : Holds I (State.retire s i) := by
  unfold State.retire
  split
  · exact h0
  · exact (State.modGroup_keeps H (State.countIssue_keeps H h0))

@[simp] theorem State.stallGroup_keeps (H : Closed I) {s : State} {i : Issue} {st : Stall} (h0 : Holds I s) : Holds I (State.stallGroup s i st) := by
  unfold State.stallGroup
  exact (State.modGroup_keeps H h0)

@[simp] theorem State.exception_keeps (H : Closed I) {s : State} {i : Issue} {cause : Nat} (h0 : Holds I s) : Holds I (State.exception s i cause) := by
  unfold State.exception
  split
  · exact h0
  · extract_lets +onlyGivenNames -merge -useContext a20 a21
    have h22 : Holds I a21 := (State.modCore_keeps H h0)
    try clear_value a21
    extract_lets +onlyGivenNames -merge -useContext a23
    have h24 : Holds I a23 := (State.drainCore_keeps H h22)
    try clear_value a23
    extract_lets +onlyGivenNames -merge -useContext a25
    have h26 : Holds I a25 := by
      unfold a25
      refine State.odBump_keeps H ?_
      · refine State.errRecord_keeps H h24 ?_
        · intro _ h27
          exact (State.setReg_keeps H (State.setReg_keeps H h27))
    try clear_value a25
    extract_lets +onlyGivenNames -merge -useContext a28
    have h29 : Holds I a28 := by
      unfold a28
      refine iteInduction (motive := fun r => Holds I r) (fun _ => ?_) (fun _ => ?_)
      · exact (State.odBumpSat_keeps H h26)
      · exact h26
    try clear_value a28
    split
    · exact (State.teardown_keeps H h29)
    · exact h29

@[simp] theorem State.issue_keeps (H : Closed I) {s : State} {i : Issue} {wr rd : List (Nat × Nat)} {f : State → Group → PathSt → State} (h0 : Holds I s) (h4 : ∀ y0 y1 y2, Holds I (y0) → Holds I (f y0 y1 y2)) : Holds I (State.issue s i wr rd f) := by
  unfold State.issue
  split
  · exact h0
  · refine iteInduction (motive := fun r => Holds I r) (fun _ => ?_) (fun _ => ?_)
    · exact (State.exception_keeps H h0)
    · refine iteInduction (motive := fun r => Holds I r) (fun _ => ?_) (fun _ => ?_)
      · exact h0
      · exact (h4 _ _ _ h0)

end Sys2Proof.Machine
end

