-- ==== Sys2Proof/Laws/KeepsThread.lean ====
section
/-! SUPPORT. What the operations of Machine/Thread.lean protect. -/

namespace Sys2Proof.Machine

set_option linter.all false

variable {I : Prot → Prop}

@[simp] theorem State.kernelOnCore_keeps (H : Closed I) {s : State} {core kid : Nat} {k : Kernel} (h0 : Holds I s) : Holds I (State.kernelOnCore s core kid k) := by
  unfold State.kernelOnCore
  extract_lets +onlyGivenNames -merge -useContext a20 a21 a22
  try clear_value a21
  have h23 : Holds I a22 := by
    unfold a22
    refine iteInduction (motive := fun r => Holds I r) (fun _ => ?_) (fun _ => ?_)
    · exact (State.clearCore_keeps H h0)
    · exact h0
  try clear_value a22
  extract_lets +onlyGivenNames -merge -useContext a24 a25
  have h26 : Holds I a25 := (State.modCore_keeps H h23)
  try clear_value a25
  extract_lets +onlyGivenNames -merge -useContext a27
  have h28 : Holds I a27 := (State.setReg_keeps H (State.setReg_keeps H (State.setReg_keeps H h26)))
  try clear_value a27
  extract_lets +onlyGivenNames -merge -useContext a29
  have h30 : Holds I a29 := (State.setRf_keeps H (State.setReg_keeps H (State.setReg_keeps H h28)))
  try clear_value a29
  extract_lets +onlyGivenNames -merge -useContext a31 a32 a33
  try clear_value a31 a32
  have h34 : Holds I a33 := by
    unfold a33
    refine State.each_keeps H h30 ?_
    · intro _ _ h35
      exact (State.setReg_keeps H (State.setReg_keeps H h35))
  try clear_value a33
  exact (State.modCore_keeps H h34)

theorem execBlockStart_keeps (H : Closed I) {kernel core : Nat} {s : State} (h2 : Holds I s) : ∀ t', execBlockStart kernel core s = Host.Outcome.next t' → Holds I t' := by
  show HoldsOut I _
  unfold execBlockStart
  split
  · exact (out_next h2)
  · extract_lets +onlyGivenNames -merge -useContext a20 a21 a22
    try clear_value a22
    refine iteInduction (motive := fun r => HoldsOut I r) (fun _ => ?_) (fun _ => ?_)
    · extract_lets +onlyGivenNames -merge -useContext a23
      have h24 : Holds I a23 := by
        unfold a23
        refine iteInduction (motive := fun r => Holds I r) (fun _ => ?_) (fun _ => ?_)
        · exact (State.kernelOnCore_keeps H h2)
        · exact h2
      try clear_value a23
      extract_lets +onlyGivenNames -merge -useContext a25 a26
      try clear_value a25
      have h27 : Holds I a26 := (State.modCore_keeps H h24)
      try clear_value a26
      exact (out_next (State.setKernel_keeps H h27))
    · exact (out_next h2)

@[simp] theorem State.coreIdle_keeps (H : Closed I) {s : State} {core : Nat} (h0 : Holds I s) : Holds I (State.coreIdle s core) := by
  unfold State.coreIdle
  exact (State.modCore_keeps H h0)

@[simp] theorem State.progress_keeps (H : Closed I) {s : State} {q : Nat} (h0 : Holds I s) : Holds I (State.progress s q) := by
  unfold State.progress
  exact (State.modStep_keeps H h0)

theorem execBlockExit_keeps (H : Closed I) {core linear : Nat} {s : State} (h2 : Holds I s) : ∀ t', execBlockExit core linear s = Host.Outcome.next t' → Holds I t' := by
  show HoldsOut I _
  unfold execBlockExit
  extract_lets +onlyGivenNames -merge -useContext a20
  split
  · exact (out_next h2)
  · refine iteInduction (motive := fun r => HoldsOut I r) (fun _ => ?_) (fun _ => ?_)
    · extract_lets +onlyGivenNames -merge -useContext a21
      have h22 : Holds I a21 := (State.modCore_keeps H h2)
      try clear_value a21
      extract_lets +onlyGivenNames -merge -useContext a23
      have h24 : Holds I a23 := by
        unfold a23
        split
        · exact (State.progress_keeps H h22)
        · exact h22
      try clear_value a23
      refine out_next ?_
      refine iteInduction (motive := fun r => Holds I r) (fun _ => ?_) (fun _ => ?_)
      · exact (State.coreIdle_keeps H h24)
      · exact h24
    · exact (out_next h2)

@[simp] theorem State.mxIdle_keeps (H : Closed I) {s : State} {core : Nat} (h0 : Holds I s) : Holds I (State.mxIdle s core) := by
  unfold State.mxIdle
  extract_lets +onlyGivenNames -merge -useContext a20
  try clear_value a20
  exact (State.modMx_keeps H h0)

@[simp] theorem State.kernelOffCore_keeps (H : Closed I) {s : State} {core kid : Nat} {k : Kernel} (h0 : Holds I s) : Holds I (State.kernelOffCore s core kid k) := by
  unfold State.kernelOffCore
  extract_lets +onlyGivenNames -merge -useContext a20
  have h21 : Holds I a20 := (State.densFlush_keeps H h0)
  try clear_value a20
  extract_lets +onlyGivenNames -merge -useContext a22 a23 a24 a25 a26
  try clear_value a24 a25
  have h27 : Holds I a26 := (State.setKernel_keeps H h21)
  try clear_value a26
  exact (State.modCore_keeps H h27)

theorem execKernelCompleteCore_keeps (H : Closed I) {core : Nat} {s : State} (h1 : Holds I s) : ∀ t', execKernelCompleteCore core s = Host.Outcome.next t' → Holds I t' := by
  show HoldsOut I _
  unfold execKernelCompleteCore
  split
  · exact (out_next h1)
  · split
    · exact (out_next h1)
    · refine out_next ?_
      refine iteInduction (motive := fun r => Holds I r) (fun _ => ?_) (fun _ => ?_)
      · exact (State.kernelOffCore_keeps H h1)
      · exact h1

theorem execThreadAluInstruction_keeps (H : Closed I) {i : Issue} {op : AluOp} {rd : Nat} {a b c : Src} {s : State} (h6 : Holds I s) : ∀ t', execThreadAluInstruction i op rd a b c s = Host.Outcome.next t' → Holds I t' := by
  show HoldsOut I _
  unfold execThreadAluInstruction
  extract_lets +onlyGivenNames -merge -useContext a20
  try clear_value a20
  refine out_next ?_
  refine State.issue_keeps H h6 ?_
  · intro _ _ _ h21
    extract_lets +onlyGivenNames -merge -useContext a22 a23
    try clear_value a22
    have h24 : Holds I a23 := (State.modGroup_keeps H h21)
    try clear_value a23
    refine State.retire_keeps H ?_
    · exact holds_mk h24 rfl rfl rfl rfl rfl rfl

theorem execSpecialRegRead_keeps (H : Closed I) {i : Issue} {rd : Nat} {r : SpecialReg} {s : State} (h3 : Holds I s) : ∀ t', execSpecialRegRead i rd r s = Host.Outcome.next t' → Holds I t' := by
  show HoldsOut I _
  unfold execSpecialRegRead
  refine out_next ?_
  refine State.issue_keeps H h3 ?_
  · intro _ _ _ h20
    split
    · exact h20
    · exact (State.retire_keeps H (State.modGroup_keeps H h20))

@[simp] theorem State.jump_keeps (H : Closed I) {s : State} {i : Issue} {target : Nat} (h0 : Holds I s) : Holds I (State.jump s i target) := by
  unfold State.jump
  split
  · exact h0
  · split
    · exact h0
    · extract_lets +onlyGivenNames -merge -useContext a20 a21 a22
      try clear_value a20
      have h23 : Holds I a22 := (State.countIssue_keeps H h0)
      try clear_value a22
      refine iteInduction (motive := fun r => Holds I r) (fun _ => ?_) (fun _ => ?_)
      · split
        · extract_lets +onlyGivenNames -merge -useContext a24
          have h25 : Holds I a24 := (State.modGroup_keeps H h23)
          try clear_value a24
          refine iteInduction (motive := fun r => Holds I r) (fun _ => ?_) (fun _ => ?_)
          · exact (State.coreEvent_keeps H h25)
          · exact h25
      · exact (State.modGroup_keeps H h23)

@[simp] theorem State.split_keeps (H : Closed I) {s : State} {i : Issue} {recon : Nat} {parts : List (Nat × Nat)} (h0 : Holds I s) : Holds I (State.split s i recon parts) := by
  unfold State.split
  split
  · exact h0
  · split
    · exact h0
    · extract_lets +onlyGivenNames -merge -useContext a20
      try clear_value a20
      refine iteInduction (motive := fun r => Holds I r) (fun _ => ?_) (fun _ => ?_)
      · exact (State.exception_keeps H h0)
      · extract_lets +onlyGivenNames -merge -useContext a21 a22 a23
        try clear_value a22
        have h24 : Holds I a23 := (State.coreEvent_keeps H (State.countIssue_keeps H h0))
        try clear_value a23
        exact (State.modGroup_keeps H h24)

theorem execBranch_keeps (H : Closed I) {i : Issue} {recon : Nat} {k : BranchKind} {s : State} (h3 : Holds I s) : ∀ t', execBranch i recon k s = Host.Outcome.next t' → Holds I t' := by
  show HoldsOut I _
  unfold execBranch
  split
  · refine out_next ?_
    refine State.issue_keeps H h3 ?_
    · intro _ _ _ h20
      exact (State.jump_keeps H h20)
  · refine out_next ?_
    refine State.issue_keeps H h3 ?_
    · intro _ _ _ h21
      extract_lets +onlyGivenNames -merge -useContext a22
      try clear_value a22
      refine iteInduction (motive := fun r => Holds I r) (fun _ => ?_) (fun _ => ?_)
      · exact (State.retire_keeps H h21)
      · refine iteInduction (motive := fun r => Holds I r) (fun _ => ?_) (fun _ => ?_)
        · exact (State.jump_keeps H h21)
        · exact (State.split_keeps H h21)
  · refine out_next ?_
    refine State.issue_keeps H h3 ?_
    · intro _ _ _ h23
      extract_lets +onlyGivenNames -merge -useContext a24
      try clear_value a24
      split
      · exact (State.jump_keeps H h23)
      · exact (State.split_keeps H h23)

theorem execBarrier_keeps (H : Closed I) {i : Issue} {s : State} (h1 : Holds I s) : ∀ t', execBarrier i s = Host.Outcome.next t' → Holds I t' := by
  show HoldsOut I _
  unfold execBarrier
  refine out_next ?_
  refine State.issue_keeps H h1 ?_
  · intro _ _ _ h20
    extract_lets +onlyGivenNames -merge -useContext a21
    have h22 : Holds I a21 := (State.modGroup_keeps H (State.countIssue_keeps H h20))
    try clear_value a21
    exact (State.barrierCheck_keeps H h22)

theorem execThreadExit_keeps (H : Closed I) {i : Issue} {lanes : W64} {s : State} (h2 : Holds I s) : ∀ t', execThreadExit i lanes s = Host.Outcome.next t' → Holds I t' := by
  show HoldsOut I _
  unfold execThreadExit
  refine out_next ?_
  refine State.issue_keeps H h2 ?_
  · intro _ _ _ h20
    extract_lets +onlyGivenNames -merge -useContext a21 a22
    try clear_value a21
    have h23 : Holds I a22 := (State.modGroup_keeps H (State.retire_keeps H h20))
    try clear_value a22
    exact (State.barrierCheck_keeps H h23)

theorem execTrap_keeps (H : Closed I) {i : Issue} {s : State} (h1 : Holds I s) : ∀ t', execTrap i s = Host.Outcome.next t' → Holds I t' := by
  show HoldsOut I _
  unfold execTrap
  refine out_next ?_
  refine State.issue_keeps H h1 ?_
  · intro _ _ _ h20
    exact (State.exception_keeps H h20)

@[simp] theorem State.closeGroup_keeps (H : Closed I) {s : State} {core slot : Nat} (h0 : Holds I s) : Holds I (State.closeGroup s core slot) := by
  unfold State.closeGroup
  exact (State.modCore_keeps H h0)

@[simp] theorem State.release_keeps (H : Closed I) {s : State} {i : Issue} {full : Bool} {sc : Scope} (h0 : Holds I s) : Holds I ((State.release s i full sc).1) := by
  unfold State.release
  refine iteInduction (motive := fun (r : State × Bool) => Holds I r.1) (fun _ => ?_) (fun _ => ?_)
  · exact h0
  · extract_lets +onlyGivenNames -merge -useContext a20
    have h21 : Holds I a20 := (State.closeGroup_keeps H h0)
    try clear_value a20
    refine iteInduction (motive := fun (r : State × Bool) => Holds I r.1) (fun _ => ?_) (fun _ => ?_)
    · exact h21
    · exact (State.stallGroup_keeps H h21)

theorem execFence_keeps (H : Closed I) {i : Issue} {k : FenceKind} {sc : Scope} {s : State} (h3 : Holds I s) : ∀ t', execFence i k sc s = Host.Outcome.next t' → Holds I t' := by
  show HoldsOut I _
  unfold execFence
  refine out_next ?_
  refine State.issue_keeps H h3 ?_
  · intro _ _ _ h20
    split
    · exact (State.retire_keeps H h20)
    · extract_lets +onlyGivenNames -merge -useContext a21
      have h22 : Holds I a21 := (State.retire_keeps H h20)
      try clear_value a21
      exact (State.release_keeps H h22)
    · extract_lets +onlyGivenNames -merge -useContext a23
      have h24 : Holds I a23 := (State.retire_keeps H h20)
      try clear_value a23
      exact (State.release_keeps H h24)

theorem execReleaseComplete_keeps (H : Closed I) {core slot : Nat} {s : State} (h2 : Holds I s) : ∀ t', execReleaseComplete core slot s = Host.Outcome.next t' → Holds I t' := by
  show HoldsOut I _
  unfold execReleaseComplete
  split
  · exact (out_next h2)
  · split
    · refine iteInduction (motive := fun r => HoldsOut I r) (fun _ => ?_) (fun _ => ?_)
      · exact (out_next h2)
      · extract_lets +onlyGivenNames -merge -useContext a20
        try clear_value a20
        refine iteInduction (motive := fun r => HoldsOut I r) (fun _ => ?_) (fun _ => ?_)
        · exact (out_next h2)
        · extract_lets +onlyGivenNames -merge -useContext a21
          try clear_value a21
          split
          · rename_i e22
            have h23 := holds_of (I := I) (p := fun t => t.2) e22 (State.draw_keeps H h2)
            extract_lets +onlyGivenNames -merge -useContext a24
            have h25 : Holds I a24 := (State.coreEvent_keeps H (State.bump_keeps H h23))
            try clear_value a24
            extract_lets +onlyGivenNames -merge -useContext a26
            have h27 : Holds I a26 := (State.modGroup_keeps H h25)
            try clear_value a26
            refine iteInduction (motive := fun r => HoldsOut I r) (fun _ => ?_) (fun _ => ?_)
            · exact (out_next h27)
            · extract_lets +onlyGivenNames -merge -useContext a28
              have h29 : Holds I a28 := (State.odBump_keeps H h27)
              try clear_value a28
              refine out_next ?_
              split
              · exact (State.stepStatus_keeps H h29)
              · exact h29
    · exact (out_next h2)

theorem execConvert_keeps (H : Closed I) {i : Issue} {dst src round rd ra : Nat} {s : State} (h6 : Holds I s) : ∀ t', execConvert i dst src round rd ra s = Host.Outcome.next t' → Holds I t' := by
  show HoldsOut I _
  unfold execConvert
  refine out_next ?_
  refine State.issue_keeps H h6 ?_
  · intro _ _ _ h20
    refine iteInduction (motive := fun r => Holds I r) (fun _ => ?_) (fun _ => ?_)
    · exact (State.exception_keeps H h20)
    · extract_lets +onlyGivenNames -merge -useContext a21 a22 a23 a24
      try clear_value a22 a23 a24
      split
      · exact h20
      · split
        · extract_lets +onlyGivenNames -merge -useContext a25
          have h26 : Holds I a25 := (State.modGroup_keeps H h20)
          try clear_value a25
          exact (State.retire_keeps H (State.setReg_keeps H h26))

@[simp] theorem State.setDrain_keeps (H : Closed I) {s : State} {core : Nat} {on : Bool} (h0 : Holds I s) : Holds I (State.setDrain s core on) := by
  unfold State.setDrain
  extract_lets +onlyGivenNames -merge -useContext a20
  have h21 : Holds I a20 := (State.setRf_keeps H h0)
  try clear_value a20
  exact (State.modCore_keeps H h21)

theorem execTeDrainWrite_keeps (H : Closed I) {p : Path} {core : Nat} {on : Bool} {s : State} (h3 : Holds I s) : ∀ t', execTeDrainWrite p core on s = Host.Outcome.next t' → Holds I t' := by
  show HoldsOut I _
  unfold execTeDrainWrite
  refine out_next ?_
  refine State.regGateP_keeps H h3 ?_
  · intro _ h20
    exact (State.setDrain_keeps H h20)

@[simp] theorem State.setTeEnable_keeps (H : Closed I) {s : State} {core : Nat} {on : Bool} (h0 : Holds I s) : Holds I (State.setTeEnable s core on) := by
  unfold State.setTeEnable
  extract_lets +onlyGivenNames -merge -useContext a20
  have h21 : Holds I a20 := (State.setRf_keeps H h0)
  try clear_value a20
  extract_lets +onlyGivenNames -merge -useContext a22
  try clear_value a22
  refine iteInduction (motive := fun r => Holds I r) (fun _ => ?_) (fun _ => ?_)
  · exact (State.enterClearing_keeps H h21)
  · refine iteInduction (motive := fun r => Holds I r) (fun _ => ?_) (fun _ => ?_)
    · exact (State.modCore_keeps H h21)
    · exact h21

theorem execTeEnableWrite_keeps (H : Closed I) {p : Path} {core : Nat} {on : Bool} {s : State} (h3 : Holds I s) : ∀ t', execTeEnableWrite p core on s = Host.Outcome.next t' → Holds I t' := by
  show HoldsOut I _
  unfold execTeEnableWrite
  refine out_next ?_
  refine State.regGateP_keeps H h3 ?_
  · intro _ h20
    exact (State.setTeEnable_keeps H h20)

theorem execCoreClearDone_keeps (H : Closed I) {core : Nat} {s : State} (h1 : Holds I s) : ∀ t', execCoreClearDone core s = Host.Outcome.next t' → Holds I t' := by
  show HoldsOut I _
  unfold execCoreClearDone
  extract_lets +onlyGivenNames -merge -useContext a20
  have h21 : Holds I a20 := by
    unfold a20
    refine iteInduction (motive := fun r => Holds I r) (fun _ => ?_) (fun _ => ?_)
    · exact (State.coreIdle_keeps H h1)
    · exact h1
  try clear_value a20
  extract_lets +onlyGivenNames -merge -useContext a22
  try clear_value a22
  exact (out_next (State.modMx_keeps H h21))

end Sys2Proof.Machine
end

