-- ==== Sys2Proof/Laws/KeepsSeqOps.lean ====
section
/-! SUPPORT. What the operations of Machine/SeqOps.lean protect. -/

namespace Sys2Proof.Machine

set_option linter.all false

variable {I : Prot → Prop}

@[simp] theorem State.seqFault_keeps (H : Closed I) {s : State} {cl cause word status : Nat} (h0 : Holds I s) : Holds I (State.seqFault s cl cause word status) := by
  unfold State.seqFault
  extract_lets +onlyGivenNames -merge -useContext a20 a21
  have h22 : Holds I a21 := (State.modSeq_keeps H h0)
  try clear_value a21
  extract_lets +onlyGivenNames -merge -useContext a23
  have h24 : Holds I a23 := by
    unfold a23
    refine iteInduction (motive := fun r => Holds I r) (fun _ => ?_) (fun _ => ?_)
    · exact h22
    · refine State.odBump_keeps H ?_
      · refine State.errRecord_keeps H h22 ?_
        · intro _ h25
          exact (State.setReg_keeps H (State.setReg_keeps H h25))
  try clear_value a23
  split
  · exact (State.teardown_keeps H h24)
  · exact h24

@[simp] theorem State.seqFail_keeps (H : Closed I) {s : State} {cl word status : Nat} {launch : Bool} (h0 : Holds I s) : Holds I (State.seqFail s cl word status launch) := by
  unfold State.seqFail
  extract_lets +onlyGivenNames -merge -useContext a20 a21
  have h22 : Holds I a21 := by
    unfold a21
    refine State.errRecord_keeps H h0 ?_
    · intro _ h23
      exact (State.setReg_keeps H (State.setReg_keeps H h23))
  try clear_value a21
  extract_lets +onlyGivenNames -merge -useContext a24
  have h25 : Holds I a24 := by
    unfold a24
    refine iteInduction (motive := fun r => Holds I r) (fun _ => ?_) (fun _ => ?_)
    · exact (State.odBump_keeps H h22)
    · exact h22
  try clear_value a24
  split
  · exact h25
  · extract_lets +onlyGivenNames -merge -useContext a26
    have h27 : Holds I a26 := (State.modStep_keeps H h25)
    try clear_value a26
    refine State.each_keeps H h27 ?_
    · intro _ _ h28
      exact (State.modSeq_keeps H h28)

@[simp] theorem State.metPoison_keeps (H : Closed I) {s : State} {a : Agent} {part ctx acc pc : Nat} {q : Option Nat} {va pa : Nat} {r : MemRes} (h0 : Holds I s) (h9 : Holds I (r).st) : Holds I (State.metPoison s a part ctx acc pc q va pa r) := by
  unfold State.metPoison
  split
  · split
    · exact (State.stepStatus_keeps H h0)
    · exact h0
  · refine iteInduction (motive := fun r => Holds I r) (fun _ => ?_) (fun _ => ?_)
    · exact h0
    · extract_lets +onlyGivenNames -merge -useContext a20 a21
      try clear_value a20
      have h22 : Holds I a21 := by
        unfold a21
        refine State.each_keeps H h0 ?_
        · intro _ _ h23
          exact (State.poisonRecord_keeps H h23)
      try clear_value a21
      split
      · exact (State.stepStatus_keeps H h22)
      · exact h22

@[simp] theorem State.xlateD_keeps (H : Closed I) {s : State} {a : Agent} {c va acc pc : Nat} {desc : Bool} (h0 : Holds I s) : Holds I ((State.xlateD s a c va acc pc desc).2) := by
  unfold State.xlateD
  split
  · rename_i e20
    have h21 := holds_of (I := I) (p := fun t => t.2) e20 (State.xlLookup_keeps H h0)
    exact h21
  · rename_i e22
    have h23 := holds_of (I := I) (p := fun t => t.2) e22 (State.xlLookup_keeps H h0)
    exact (State.startWalk_keeps H h23)

@[simp] theorem State.xlateOr_keeps (H : Closed I) {s : State} {a : Agent} {c va acc pc : Nat} (h0 : Holds I s) : Holds I ((State.xlateOr s a c va acc pc).2) := by
  unfold State.xlateOr
  exact (State.xlateD_keeps H h0)

@[simp] theorem State.fetchWord_keeps (H : Closed I) {s : State} {cl : Nat} (h0 : Holds I s) : Holds I ((State.fetchWord s cl).2) := by
  unfold State.fetchWord
  extract_lets +onlyGivenNames -merge -useContext a20 a21
  try clear_value a21
  split
  · exact h0
  · extract_lets +onlyGivenNames -merge -useContext a22
    try clear_value a22
    split
    · rename_i e23
      have h24 := holds_of (I := I) (p := fun t => t.2) e23 (State.xlateOr_keeps H h0)
      exact h24
    · rename_i e25
      have h26 := holds_of (I := I) (p := fun t => t.2) e25 (State.xlateOr_keeps H h0)
      extract_lets +onlyGivenNames -merge -useContext a27
      try clear_value a27
      refine iteInduction (motive := fun (r : Option Nat × State) => Holds I r.2) (fun _ => ?_) (fun _ => ?_)
      · split
        · exact (State.modSeq_keeps H h26)
        · exact (State.seqFault_keeps H (State.hostReadFailed_keeps H h26))
      · extract_lets +onlyGivenNames -merge -useContext a28
        have h29 : Holds I a28.st := (State.readMem_keeps H h26)
        try clear_value a28
        refine iteInduction (motive := fun (r : Option Nat × State) => Holds I r.2) (fun _ => ?_) (fun _ => ?_)
        · exact h26
        · refine iteInduction (motive := fun (r : Option Nat × State) => Holds I r.2) (fun _ => ?_) (fun _ => ?_)
          · exact (State.raiseFault_keeps H h29)
          · refine iteInduction (motive := fun (r : Option Nat × State) => Holds I r.2) (fun _ => ?_) (fun _ => ?_)
            · extract_lets +onlyGivenNames -merge -useContext a30
              have h31 : Holds I a30 := (State.metPoison_keeps H h29 h29)
              try clear_value a30
              exact (State.seqFault_keeps H h31)
            · exact (State.modSeq_keeps H h29)

@[simp] theorem State.stream_keeps (H : Closed I) {s : State} {cl op : Nat} {f : State → Nat → State} (h0 : Holds I s) (h3 : ∀ y0 y1, Holds I (y0) → Holds I (f y0 y1)) : Holds I (State.stream s cl op f) := by
  unfold State.stream
  refine iteInduction (motive := fun r => Holds I r) (fun _ => ?_) (fun _ => ?_)
  · exact h0
  · split
    · rename_i e20
      have h21 := holds_of (I := I) (p := fun t => t.2) e20 (State.fetchWord_keeps H h0)
      exact h21
    · rename_i e22
      have h23 := holds_of (I := I) (p := fun t => t.2) e22 (State.fetchWord_keeps H h0)
      refine iteInduction (motive := fun r => Holds I r) (fun _ => ?_) (fun _ => ?_)
      · exact (State.seqFault_keeps H h23)
      · refine iteInduction (motive := fun r => Holds I r) (fun _ => ?_) (fun _ => ?_)
        · exact h23
        · exact (h3 _ _ h23)

@[simp] theorem State.seqIssued_keeps (H : Closed I) {s : State} {cl : Nat} (h0 : Holds I s) : Holds I (State.seqIssued s cl) := by
  unfold State.seqIssued
  extract_lets +onlyGivenNames -merge -useContext a20
  have h21 : Holds I a20 := (State.bump_keeps H h0)
  try clear_value a20
  split
  · exact (State.progress_keeps H h21)
  · exact h21

@[simp] theorem State.seqDone_keeps (H : Closed I) {s : State} {cl : Nat} {f : Seq → Seq} (h0 : Holds I s) : Holds I (State.seqDone s cl f) := by
  unfold State.seqDone
  exact (State.modSeq_keeps H (State.seqIssued_keeps H h0))

@[simp] theorem State.seqWaitAt_keeps (H : Closed I) {s : State} {cl : Nat} {w : SqWait} (h0 : Holds I s) : Holds I (State.seqWaitAt s cl w) := by
  unfold State.seqWaitAt
  exact (State.modSeq_keeps H h0)

end Sys2Proof.Machine
end

