-- ==== Sys2Proof/Laws/KeepsMatrixOps.lean ====
section
/-! SUPPORT. What the operations of Machine/MatrixOps.lean protect. -/

namespace Sys2Proof.Machine

set_option linter.all false

variable {I : Prot → Prop}

@[simp] theorem State.mxPass_keeps (H : Closed I) {s : State} {core ctx : Nat} (h0 : Holds I s) : Holds I (State.mxPass s core ctx) := by
  unfold State.mxPass
  refine iteInduction (motive := fun r => Holds I r) (fun _ => ?_) (fun _ => ?_)
  · exact h0
  · exact (State.modCore_keeps H (State.clearCore_keeps H h0))

@[simp] theorem State.mxEnter_keeps (H : Closed I) {s : State} {core : Nat} {c : MxCmd} (h0 : Holds I s) : Holds I (State.mxEnter s core c) := by
  unfold State.mxEnter
  exact (State.modMx_keeps H (State.mxPass_keeps H h0))

@[simp] theorem State.mxGroup_keeps (H : Closed I) {s : State} {i : Issue} {op : Nat} {word : W64} (h0 : Holds I s) : Holds I (State.mxGroup s i op word) := by
  unfold State.mxGroup
  extract_lets +onlyGivenNames -merge -useContext a20
  try clear_value a20
  refine iteInduction (motive := fun r => Holds I r) (fun _ => ?_) (fun _ => ?_)
  · exact h0
  · split
    · refine iteInduction (motive := fun r => Holds I r) (fun _ => ?_) (fun _ => ?_)
      · exact (State.exception_keeps H h0)
      · extract_lets +onlyGivenNames -merge -useContext a21
        try clear_value a21
        refine State.issue_keeps H h0 ?_
        · intro _ _ _ h22
          extract_lets +onlyGivenNames -merge -useContext a23 a24 a25
          try clear_value a24 a25
          refine iteInduction (motive := fun r => Holds I r) (fun _ => ?_) (fun _ => ?_)
          · exact h22
          · refine iteInduction (motive := fun r => Holds I r) (fun _ => ?_) (fun _ => ?_)
            · exact (State.retire_keeps H (State.stepStatus_keeps H h22))
            · refine iteInduction (motive := fun r => Holds I r) (fun _ => ?_) (fun _ => ?_)
              · exact (State.stallGroup_keeps H h22)
              · exact (State.retire_keeps H (State.mxEnter_keeps H h22))
    · exact h0

@[simp] theorem State.mxStream_keeps (H : Closed I) {s : State} {cl op : Nat} (h0 : Holds I s) : Holds I (State.mxStream s cl op) := by
  unfold State.mxStream
  refine State.stream_keeps H h0 ?_
  · intro _ _ h20
    refine iteInduction (motive := fun r => Holds I r) (fun _ => ?_) (fun _ => ?_)
    · exact (State.seqFault_keeps H h20)
    · extract_lets +onlyGivenNames -merge -useContext a21 a22 a23
      try clear_value a22 a23
      refine iteInduction (motive := fun r => Holds I r) (fun _ => ?_) (fun _ => ?_)
      · exact (State.seqWaitAt_keeps H h20)
      · extract_lets +onlyGivenNames -merge -useContext a24 a25
        try clear_value a24
        have h26 : Holds I a25 := by
          unfold a25
          refine iteInduction (motive := fun r => Holds I r) (fun _ => ?_) (fun _ => ?_)
          · split
            · rename_i e27
              have h28 := holds_of (I := I) (p := fun t => t.2) e27 (State.draw_keeps H h20)
              exact (State.bump_keeps H h28)
          · exact h20
        try clear_value a25
        extract_lets +onlyGivenNames -merge -useContext a29
        have h30 : Holds I a29 := by
          unfold a29
          split
          · refine iteInduction (motive := fun r => Holds I r) (fun _ => ?_) (fun _ => ?_)
            · exact h26
            · exact (State.stepStatus_keeps H h26)
          · exact h26
        try clear_value a29
        extract_lets +onlyGivenNames -merge -useContext a31
        have h32 : Holds I a31 := by
          unfold a31
          refine State.each_keeps H h30 ?_
          · intro _ _ h33
            exact (State.mxEnter_keeps H h33)
        try clear_value a31
        extract_lets +onlyGivenNames -merge -useContext a34
        try clear_value a34
        exact (State.seqDone_keeps H h32)

@[simp] theorem State.mxFault_keeps (H : Closed I) {s : State} {core : Nat} {m : MxCmd} {cause : Nat} (h0 : Holds I s) : Holds I (State.mxFault s core m cause) := by
  unfold State.mxFault
  extract_lets +onlyGivenNames -merge -useContext a20 a21
  try clear_value a20
  have h22 : Holds I a21 := (State.drainCore_keeps H (State.modMx_keeps H h0))
  try clear_value a21
  extract_lets +onlyGivenNames -merge -useContext a23
  have h24 : Holds I a23 := by
    unfold a23
    refine State.errRecord_keeps H h22 ?_
    · intro _ h25
      exact (State.setReg_keeps H (State.setReg_keeps H h25))
  try clear_value a23
  exact (State.teardown_keeps H (State.odBump_keeps H h24))

@[simp] theorem State.mxPages_keeps (H : Closed I) {s : State} {core : Nat} {m : MxCmd} {acc : Nat} {rs : List (Nat × Nat)} {have_ : List Xent} (h0 : Holds I s) : Holds I ((State.mxPages s core m acc rs have_).2) := by
  unfold State.mxPages
  extract_lets +onlyGivenNames -merge -useContext a20
  try clear_value a20
  refine holds_foldl_of (fun (r : Option (List Xent) × State) => r.2) ?_ ?_
  · exact h0
  · intro _ _ h21
    split
    · exact h21
    · refine iteInduction (motive := fun (r : Option (List Xent) × State) => Holds I r.2) (fun _ => ?_) (fun _ => ?_)
      · exact h21
      · split
        · rename_i e22
          have h23 := holds_of (I := I) (p := fun t => t.2) e22 (State.xlateOr_keeps H h21)
          exact h23
        · rename_i e24
          have h25 := holds_of (I := I) (p := fun t => t.2) e24 (State.xlateOr_keeps H h21)
          exact h25

@[simp] theorem State.mxRead_keeps (H : Closed I) {s : State} {core : Nat} {m : MxCmd} {va n : Nat} (h0 : Holds I s) : Holds I (State.mxRead s core m va n).st := by
  unfold State.mxRead
  refine holds_foldl_of (fun (r : MemRes) => r.st) ?_ ?_
  · exact h0
  · intro _ _ h20
    refine iteInduction (motive := fun (r : MemRes) => Holds I r.st) (fun _ => ?_) (fun _ => ?_)
    · exact h20
    · split
      · exact h20
      · refine iteInduction (motive := fun (r : MemRes) => Holds I r.st) (fun _ => ?_) (fun _ => ?_)
        · split
          · exact h20
          · exact (State.hostReadFailed_keeps H h20)
        · extract_lets +onlyGivenNames -merge -useContext a21
          have h22 : Holds I a21.st := (State.readMem_keeps H h20)
          try clear_value a21
          exact h22

@[simp] theorem State.mxWrite_keeps (H : Closed I) {s : State} {core : Nat} {m : MxCmd} {va : Nat} {bs : List Byte} {p : Bool} (h0 : Holds I s) : Holds I (State.mxWrite s core m va bs p).st := by
  unfold State.mxWrite
  refine holds_foldl_of (fun (r : MemRes) => r.st) ?_ ?_
  · exact h0
  · intro _ _ h20
    refine iteInduction (motive := fun (r : MemRes) => Holds I r.st) (fun _ => ?_) (fun _ => ?_)
    · exact h20
    · split
      · exact h20
      · extract_lets +onlyGivenNames -merge -useContext a21
        have h22 : Holds I a21.st := (State.writeMem_keeps H h20)
        try clear_value a21
        exact h22

@[simp] theorem State.numFlags_keeps (H : Closed I) {s : State} {core f : Nat} (h0 : Holds I s) : Holds I (State.numFlags s core f) := by
  unfold State.numFlags
  refine iteInduction (motive := fun r => Holds I r) (fun _ => ?_) (fun _ => ?_)
  · exact h0
  · exact (State.setReg_keeps H h0)

@[simp] theorem State.drainRowVals_keeps (H : Closed I) {s : State} {core : Nat} {d : DrainSet} {vals : List Nat} {poison : Bool} (h0 : Holds I s) : Holds I ((State.drainRowVals s core d vals poison).2) := by
  unfold State.drainRowVals
  extract_lets +onlyGivenNames -merge -useContext a20 a21 a22 a23
  try clear_value a21 a22
  have h24 : Holds I a23 := (State.modMx_keeps H h0)
  try clear_value a23
  extract_lets +onlyGivenNames -merge -useContext a25
  try clear_value a25
  refine iteInduction (motive := fun (r : List Nat × State) => Holds I r.2) (fun _ => ?_) (fun _ => ?_)
  · exact h24
  · extract_lets +onlyGivenNames -merge -useContext a26 a27
    try clear_value a26 a27
    exact (State.densCount_keeps H (State.numFlags_keeps H h24))

@[simp] theorem MxRun.noteRead_keeps (H : Closed I) {r : MemRes} {core : Nat} {m : MxCmd} (h0 : Holds I (r).st) : Holds I (MxRun.noteRead r core m) := by
  unfold MxRun.noteRead
  extract_lets +onlyGivenNames -merge -useContext a20 a21
  try clear_value a20
  have h22 : Holds I a21 := by
    unfold a21
    refine State.each_keeps H h0 ?_
    · intro _ _ h23
      exact (State.poisonRecord_keeps H h23)
  try clear_value a21
  split
  · exact (State.stepStatus_keeps H h22)
  · exact h22

@[simp] theorem MxRun.put_keeps (H : Closed I) {r : MxRun} {core : Nat} {m : MxCmd} {ctl base stride b i : Nat} {codes : List Nat} {poison : Bool} (h0 : Holds I (r).st) : Holds I (MxRun.put r core m ctl base stride b i codes poison).st := by
  unfold MxRun.put
  refine iteInduction (motive := fun (r : MxRun) => Holds I r.st) (fun _ => ?_) (fun _ => ?_)
  · exact h0
  · extract_lets +onlyGivenNames -merge -useContext a20
    try clear_value a20
    refine iteInduction (motive := fun (r : MxRun) => Holds I r.st) (fun _ => ?_) (fun _ => ?_)
    · extract_lets +onlyGivenNames -merge -useContext a21
      have h22 : Holds I a21 := (State.modGroup_keeps H h0)
      try clear_value a21
      refine iteInduction (motive := fun r => Holds I r) (fun _ => ?_) (fun _ => ?_)
      · split
        · exact (State.stepStatus_keeps H h22)
        · exact h22
      · exact h22
    · extract_lets +onlyGivenNames -merge -useContext a23
      have h24 : Holds I a23.st := (State.mxWrite_keeps H h0)
      try clear_value a23
      refine iteInduction (motive := fun (r : MxRun) => Holds I r.st) (fun _ => ?_) (fun _ => ?_)
      · exact h0
      · split
        · exact (State.stepStatus_keeps H h24)
        · exact h24

@[simp] theorem State.mxDens_keeps (H : Closed I) {s : State} {core : Nat} {m : MxCmd} {ctl : Nat} (h0 : Holds I s) : Holds I (State.mxDens s core m ctl) := by
  unfold State.mxDens
  extract_lets +onlyGivenNames -merge -useContext a20
  try clear_value a20
  exact (State.densTake_keeps H h0)

@[simp] theorem State.runMload_keeps (H : Closed I) {s : State} {core : Nat} {m : MxCmd} (h0 : Holds I s) : Holds I (State.runMload s core m).st := by
  unfold State.runMload
  extract_lets +onlyGivenNames -merge -useContext a20 a21 a22 a23 a24 a25
  try clear_value a20 a21 a22 a23 a24
  have h26 : Holds I a25.2.st := by
    unfold a25
    refine holds_foldl_of (fun (r : List (List Nat) × MemRes) => r.2.st) ?_ ?_
    · exact h0
    · intro _ _ h27
      refine iteInduction (motive := fun (r : List (List Nat) × MemRes) => Holds I r.2.st) (fun _ => ?_) (fun _ => ?_)
      · exact h27
      · extract_lets +onlyGivenNames -merge -useContext a28
        have h29 : Holds I a28.st := (State.mxRead_keeps H h27)
        try clear_value a28
        exact h29
  try clear_value a25
  extract_lets +onlyGivenNames -merge -useContext a30
  have h31 : Holds I a30.st := by
    unfold a30
    refine iteInduction (motive := fun (r : MemRes) => Holds I r.st) (fun _ => ?_) (fun _ => ?_)
    · exact (State.mxRead_keeps H h26)
    · exact h26
  try clear_value a30
  refine iteInduction (motive := fun (r : MxRun) => Holds I r.st) (fun _ => ?_) (fun _ => ?_)
  · exact h0
  · extract_lets +onlyGivenNames -merge -useContext a32 a33
    try clear_value a32
    have h34 : Holds I a33 := by
      unfold a33
      refine MxRun.noteRead_keeps H ?_
      · exact h31
    try clear_value a33
    exact (State.modMx_keeps H h34)

@[simp] theorem State.movingRow_keeps (H : Closed I) {s : State} {core : Nat} {m : MxCmd} {i : Nat} (h0 : Holds I s) : Holds I (State.movingRow s core m i).st := by
  unfold State.movingRow
  extract_lets +onlyGivenNames -merge -useContext a20 a21
  try clear_value a20 a21
  refine iteInduction (motive := fun (r : MemRes) => Holds I r.st) (fun _ => ?_) (fun _ => ?_)
  · exact h0
  · exact (State.mxRead_keeps H h0)

@[simp] theorem State.runMstream_keeps (H : Closed I) {s : State} {core : Nat} {m : MxCmd} (h0 : Holds I s) : Holds I (State.runMstream s core m).st := by
  unfold State.runMstream
  extract_lets +onlyGivenNames -merge -useContext a20 a21 a22 a23 a24 a25 a26 a27 a28 a29 a30 a31 a32
  try clear_value a20 a21 a22 a23 a25 a26 a27 a29
  have h33 : Holds I a32.st := by
    unfold a32
    refine iteInduction (motive := fun (r : MemRes) => Holds I r.st) (fun _ => ?_) (fun _ => ?_)
    · exact (State.mxRead_keeps H h0)
    · exact h0
  try clear_value a32
  extract_lets +onlyGivenNames -merge -useContext a34
  have h35 : Holds I a34 := by
    unfold a34
    refine iteInduction (motive := fun r => Holds I r) (fun _ => ?_) (fun _ => ?_)
    · exact (State.mxDens_keeps H h33)
    · exact h33
  try clear_value a34
  extract_lets +onlyGivenNames -merge -useContext a36
  have h37 : Holds I a36.st := by
    unfold a36
    refine holds_foldl_of (fun (r : MxRun) => r.st) ?_ ?_
    · exact h35
    · intro _ _ h38
      refine iteInduction (motive := fun (r : MxRun) => Holds I r.st) (fun _ => ?_) (fun _ => ?_)
      · exact h38
      · extract_lets +onlyGivenNames -merge -useContext a39
        have h40 : Holds I a39.st := (State.movingRow_keeps H h38)
        try clear_value a39
        refine iteInduction (motive := fun (r : MxRun) => Holds I r.st) (fun _ => ?_) (fun _ => ?_)
        · exact h38
        · extract_lets +onlyGivenNames -merge -useContext a41
          have h42 : Holds I a41 := (MxRun.noteRead_keeps H h40)
          try clear_value a41
          extract_lets +onlyGivenNames -merge -useContext a43 a44 a45 a46
          try clear_value a43 a44 a45
          have h47 : Holds I a46 := by
            unfold a46
            refine iteInduction (motive := fun r => Holds I r) (fun _ => ?_) (fun _ => ?_)
            · exact h42
            · exact (State.numFlags_keeps H h42)
          try clear_value a46
          refine iteInduction (motive := fun (r : MxRun) => Holds I r.st) (fun _ => ?_) (fun _ => ?_)
          · split
            · rename_i e48
              have h49 := holds_of (I := I) (p := fun t => t.2) e48 (State.drainRowVals_keeps H h47)
              refine MxRun.put_keeps H ?_
              · exact h49
          · extract_lets +onlyGivenNames -merge -useContext a50 a51 a52 a53
            try clear_value a50 a52
            have h54 : Holds I a53 := by
              unfold a53
              refine iteInduction (motive := fun r => Holds I r) (fun _ => ?_) (fun _ => ?_)
              · exact h47
              · exact (State.numFlags_keeps H h47)
            try clear_value a53
            exact (State.modMx_keeps H h54)
  try clear_value a36
  refine iteInduction (motive := fun (r : MxRun) => Holds I r.st) (fun _ => ?_) (fun _ => ?_)
  · exact h0
  · refine iteInduction (motive := fun r => Holds I r) (fun _ => ?_) (fun _ => ?_)
    · refine MxRun.noteRead_keeps H ?_
      · exact h37
    · exact h37

@[simp] theorem State.runMdrain_keeps (H : Closed I) {s : State} {core : Nat} {m : MxCmd} (h0 : Holds I s) : Holds I (State.runMdrain s core m).st := by
  unfold State.runMdrain
  extract_lets +onlyGivenNames -merge -useContext a20 a21 a22 a23
  try clear_value a20 a21 a22
  have h24 : Holds I a23.st := by
    unfold a23
    refine holds_foldl_of (fun (r : MxRun) => r.st) ?_ ?_
    · exact (State.mxDens_keeps H h0)
    · intro _ _ h25
      refine iteInduction (motive := fun (r : MxRun) => Holds I r.st) (fun _ => ?_) (fun _ => ?_)
      · exact h25
      · extract_lets +onlyGivenNames -merge -useContext a26 a27
        try clear_value a27
        split
        · rename_i e28
          have h29 := holds_of (I := I) (p := fun t => t.2) e28 (State.drainRowVals_keeps H h25)
          refine MxRun.put_keeps H ?_
          · exact h29
  try clear_value a23
  refine iteInduction (motive := fun (r : MxRun) => Holds I r.st) (fun _ => ?_) (fun _ => ?_)
  · exact h0
  · exact h24

@[simp] theorem State.tileWeights_keeps (H : Closed I) {s : State} {core : Nat} {m : MxCmd} {t : TileDesc} {nb : Nat} (h0 : Holds I s) : Holds I ((State.tileWeights s core m t nb).2).st := by
  unfold State.tileWeights
  extract_lets +onlyGivenNames -merge -useContext a20 a21 a22 a23
  try clear_value a20 a21 a22 a23
  refine holds_foldl_of (fun (r : List (List Nat) × MemRes) => r.2.st) ?_ ?_
  · exact h0
  · intro _ _ h24
    refine iteInduction (motive := fun (r : List (List Nat) × MemRes) => Holds I r.2.st) (fun _ => ?_) (fun _ => ?_)
    · exact h24
    · extract_lets +onlyGivenNames -merge -useContext a25
      have h26 : Holds I a25.st := (State.mxRead_keeps H h24)
      try clear_value a25
      exact h26

@[simp] theorem State.runMtile_keeps (H : Closed I) {s : State} {core : Nat} {m : MxCmd} {t : TileDesc} (h0 : Holds I s) : Holds I (State.runMtile s core m t).st := by
  unfold State.runMtile
  extract_lets +onlyGivenNames -merge -useContext a20 a21 a22 a23 a24 a25 a26 a27 a28 a29 a30 a31 a32
  try clear_value a20 a21 a22 a23 a25 a26 a28 a29 a30 a31
  have h33 : Holds I a32.st := by
    unfold a32
    refine iteInduction (motive := fun (r : MemRes) => Holds I r.st) (fun _ => ?_) (fun _ => ?_)
    · exact (State.mxRead_keeps H h0)
    · exact h0
  try clear_value a32
  extract_lets +onlyGivenNames -merge -useContext a34
  have h35 : Holds I a34.st := by
    unfold a34
    refine iteInduction (motive := fun (r : MemRes) => Holds I r.st) (fun _ => ?_) (fun _ => ?_)
    · exact (State.mxRead_keeps H h33)
    · exact h33
  try clear_value a34
  extract_lets +onlyGivenNames -merge -useContext a36
  have h37 : Holds I a36 := by
    unfold a36
    refine MxRun.noteRead_keeps H ?_
    · exact h35
  try clear_value a36
  extract_lets +onlyGivenNames -merge -useContext a38
  have h39 : Holds I a38.st := by
    unfold a38
    refine holds_foldl_of (fun (r : MxRun) => r.st) ?_ ?_
    · exact (State.mxDens_keeps H h37)
    · intro _ _ h40
      refine iteInduction (motive := fun (r : MxRun) => Holds I r.st) (fun _ => ?_) (fun _ => ?_)
      · exact h40
      · extract_lets +onlyGivenNames -merge -useContext a41 a42
        try clear_value a41
        have h43 : Holds I a42.2.st := (State.tileWeights_keeps H h40)
        try clear_value a42
        refine iteInduction (motive := fun (r : MxRun) => Holds I r.st) (fun _ => ?_) (fun _ => ?_)
        · exact h40
        · extract_lets +onlyGivenNames -merge -useContext a44 a45
          try clear_value a44 a45
          refine holds_foldl_of (fun (r : MxRun) => r.st) ?_ ?_
          · exact (MxRun.noteRead_keeps H h43)
          · intro _ _ h46
            refine iteInduction (motive := fun (r : MxRun) => Holds I r.st) (fun _ => ?_) (fun _ => ?_)
            · exact h46
            · extract_lets +onlyGivenNames -merge -useContext a47
              have h48 : Holds I a47.st := (State.mxRead_keeps H h46)
              try clear_value a47
              refine iteInduction (motive := fun (r : MxRun) => Holds I r.st) (fun _ => ?_) (fun _ => ?_)
              · exact h46
              · extract_lets +onlyGivenNames -merge -useContext a49
                have h50 : Holds I a49 := (MxRun.noteRead_keeps H h48)
                try clear_value a49
                extract_lets +onlyGivenNames -merge -useContext a51 a52 a53
                try clear_value a51 a52
                have h54 : Holds I a53 := by
                  unfold a53
                  refine iteInduction (motive := fun r => Holds I r) (fun _ => ?_) (fun _ => ?_)
                  · exact h50
                  · exact (State.numFlags_keeps H h50)
                try clear_value a53
                extract_lets +onlyGivenNames -merge -useContext a55
                try clear_value a55
                split
                · rename_i e56
                  have h57 := holds_of (I := I) (p := fun t => t.2) e56 (State.drainRowVals_keeps H h54)
                  refine MxRun.put_keeps H ?_
                  · exact h57
  try clear_value a38
  refine iteInduction (motive := fun (r : MxRun) => Holds I r.st) (fun _ => ?_) (fun _ => ?_)
  · exact h0
  · extract_lets +onlyGivenNames -merge -useContext a58
    try clear_value a58
    refine State.modMx_keeps H ?_
    · extract_lets +onlyGivenNames -merge -useContext a59
      have h60 : Holds I a59 := h39
      try clear_value a59
      exact holds_mk h60 rfl rfl rfl rfl rfl rfl

end Sys2Proof.Machine
end

