-- ==== Sys2Proof/Laws/KeepsSeq.lean ====
section
/-! SUPPORT. What the operations of Machine/Seq.lean protect. -/

namespace Sys2Proof.Machine

set_option linter.all false

variable {I : Prot → Prop}

@[simp] theorem State.streamSet_keeps (H : Closed I) {s : State} {cl op : Nat} {f : Seq → Nat → Nat} (h0 : Holds I s) : Holds I (State.streamSet s cl op f) := by
  unfold State.streamSet
  refine State.stream_keeps H h0 ?_
  · intro _ _ h20
    exact (State.seqDone_keeps H h20)

theorem execNop_keeps (H : Closed I) {cl : Nat} {s : State} (h1 : Holds I s) : ∀ t', execNop cl s = Host.Outcome.next t' → Holds I t' := by
  show HoldsOut I _
  unfold execNop
  refine out_next ?_
  refine State.stream_keeps H h1 ?_
  · intro _ _ h20
    exact (State.seqDone_keeps H h20)

theorem execEndStream_keeps (H : Closed I) {cl : Nat} {s : State} (h1 : Holds I s) : ∀ t', execEndStream cl s = Host.Outcome.next t' → Holds I t' := by
  show HoldsOut I _
  unfold execEndStream
  refine out_next ?_
  refine State.stream_keeps H h1 ?_
  · intro _ _ h20
    exact (State.modSeq_keeps H (State.seqIssued_keeps H h20))

theorem execMovi_keeps (H : Closed I) {cl : Nat} {s : State} (h1 : Holds I s) : ∀ t', execMovi cl s = Host.Outcome.next t' → Holds I t' := by
  show HoldsOut I _
  unfold execMovi
  exact (out_next (State.streamSet_keeps H h1))

theorem execMovhi_keeps (H : Closed I) {cl : Nat} {s : State} (h1 : Holds I s) : ∀ t', execMovhi cl s = Host.Outcome.next t' → Holds I t' := by
  show HoldsOut I _
  unfold execMovhi
  exact (out_next (State.streamSet_keeps H h1))

theorem execAdd_keeps (H : Closed I) {cl : Nat} {s : State} (h1 : Holds I s) : ∀ t', execAdd cl s = Host.Outcome.next t' → Holds I t' := by
  show HoldsOut I _
  unfold execAdd
  exact (out_next (State.streamSet_keeps H h1))

theorem execSub_keeps (H : Closed I) {cl : Nat} {s : State} (h1 : Holds I s) : ∀ t', execSub cl s = Host.Outcome.next t' → Holds I t' := by
  show HoldsOut I _
  unfold execSub
  exact (out_next (State.streamSet_keeps H h1))

theorem execMul_keeps (H : Closed I) {cl : Nat} {s : State} (h1 : Holds I s) : ∀ t', execMul cl s = Host.Outcome.next t' → Holds I t' := by
  show HoldsOut I _
  unfold execMul
  exact (out_next (State.streamSet_keeps H h1))

theorem execAnd_keeps (H : Closed I) {cl : Nat} {s : State} (h1 : Holds I s) : ∀ t', execAnd cl s = Host.Outcome.next t' → Holds I t' := by
  show HoldsOut I _
  unfold execAnd
  exact (out_next (State.streamSet_keeps H h1))

theorem execOr_keeps (H : Closed I) {cl : Nat} {s : State} (h1 : Holds I s) : ∀ t', execOr cl s = Host.Outcome.next t' → Holds I t' := by
  show HoldsOut I _
  unfold execOr
  exact (out_next (State.streamSet_keeps H h1))

theorem execXor_keeps (H : Closed I) {cl : Nat} {s : State} (h1 : Holds I s) : ∀ t', execXor cl s = Host.Outcome.next t' → Holds I t' := by
  show HoldsOut I _
  unfold execXor
  exact (out_next (State.streamSet_keeps H h1))

theorem execShl_keeps (H : Closed I) {cl : Nat} {s : State} (h1 : Holds I s) : ∀ t', execShl cl s = Host.Outcome.next t' → Holds I t' := by
  show HoldsOut I _
  unfold execShl
  exact (out_next (State.streamSet_keeps H h1))

theorem execShr_keeps (H : Closed I) {cl : Nat} {s : State} (h1 : Holds I s) : ∀ t', execShr cl s = Host.Outcome.next t' → Holds I t' := by
  show HoldsOut I _
  unfold execShr
  exact (out_next (State.streamSet_keeps H h1))

theorem execAddi_keeps (H : Closed I) {cl : Nat} {s : State} (h1 : Holds I s) : ∀ t', execAddi cl s = Host.Outcome.next t' → Holds I t' := by
  show HoldsOut I _
  unfold execAddi
  exact (out_next (State.streamSet_keeps H h1))

theorem execRdts_keeps (H : Closed I) {cl : Nat} {s : State} (h1 : Holds I s) : ∀ t', execRdts cl s = Host.Outcome.next t' → Holds I t' := by
  show HoldsOut I _
  unfold execRdts
  exact (out_next (State.streamSet_keeps H h1))

@[simp] theorem State.seqBranch_keeps (H : Closed I) {s : State} {cl w : Nat} {taken : Bool} (h0 : Holds I s) : Holds I (State.seqBranch s cl w taken) := by
  unfold State.seqBranch
  refine iteInduction (motive := fun r => Holds I r) (fun _ => ?_) (fun _ => ?_)
  · exact (State.modSeq_keeps H (State.seqIssued_keeps H h0))
  · exact (State.seqDone_keeps H h0)

theorem execBr_keeps (H : Closed I) {cl : Nat} {s : State} (h1 : Holds I s) : ∀ t', execBr cl s = Host.Outcome.next t' → Holds I t' := by
  show HoldsOut I _
  unfold execBr
  refine out_next ?_
  refine State.stream_keeps H h1 ?_
  · intro _ _ h20
    extract_lets +onlyGivenNames -merge -useContext a21
    exact (State.seqBranch_keeps H h20)

theorem execLoop_keeps (H : Closed I) {cl : Nat} {s : State} (h1 : Holds I s) : ∀ t', execLoop cl s = Host.Outcome.next t' → Holds I t' := by
  show HoldsOut I _
  unfold execLoop
  refine out_next ?_
  refine State.stream_keeps H h1 ?_
  · intro _ _ h20
    extract_lets +onlyGivenNames -merge -useContext a21 a22 a23 a24
    try clear_value a22 a23 a24
    refine iteInduction (motive := fun r => Holds I r) (fun _ => ?_) (fun _ => ?_)
    · exact (State.seqFault_keeps H h20)
    · refine iteInduction (motive := fun r => Holds I r) (fun _ => ?_) (fun _ => ?_)
      · exact (State.seqFault_keeps H h20)
      · refine iteInduction (motive := fun r => Holds I r) (fun _ => ?_) (fun _ => ?_)
        · exact (State.seqDone_keeps H h20)
        · exact (State.seqDone_keeps H h20)

theorem execLidx_keeps (H : Closed I) {cl : Nat} {s : State} (h1 : Holds I s) : ∀ t', execLidx cl s = Host.Outcome.next t' → Holds I t' := by
  show HoldsOut I _
  unfold execLidx
  exact (out_next (State.streamSet_keeps H h1))

theorem execCset_keeps (H : Closed I) {cl : Nat} {s : State} (h1 : Holds I s) : ∀ t', execCset cl s = Host.Outcome.next t' → Holds I t' := by
  show HoldsOut I _
  unfold execCset
  refine out_next ?_
  refine State.stream_keeps H h1 ?_
  · intro _ _ h20
    exact (State.seqDone_keeps H h20)

theorem execCinc_keeps (H : Closed I) {cl : Nat} {s : State} (h1 : Holds I s) : ∀ t', execCinc cl s = Host.Outcome.next t' → Holds I t' := by
  show HoldsOut I _
  unfold execCinc
  refine out_next ?_
  refine State.stream_keeps H h1 ?_
  · intro _ _ h20
    exact (State.seqDone_keeps H h20)

theorem execCrd_keeps (H : Closed I) {cl : Nat} {s : State} (h1 : Holds I s) : ∀ t', execCrd cl s = Host.Outcome.next t' → Holds I t' := by
  show HoldsOut I _
  unfold execCrd
  exact (out_next (State.streamSet_keeps H h1))

theorem execKset_keeps (H : Closed I) {cl : Nat} {s : State} (h1 : Holds I s) : ∀ t', execKset cl s = Host.Outcome.next t' → Holds I t' := by
  show HoldsOut I _
  unfold execKset
  refine out_next ?_
  refine State.stream_keeps H h1 ?_
  · intro _ _ h20
    exact (State.seqDone_keeps H h20)

theorem execKwait_keeps (H : Closed I) {cl : Nat} {s : State} (h1 : Holds I s) : ∀ t', execKwait cl s = Host.Outcome.next t' → Holds I t' := by
  show HoldsOut I _
  unfold execKwait
  refine out_next ?_
  refine State.stream_keeps H h1 ?_
  · intro _ _ h20
    extract_lets +onlyGivenNames -merge -useContext a21
    try clear_value a21
    refine iteInduction (motive := fun r => Holds I r) (fun _ => ?_) (fun _ => ?_)
    · exact (State.seqDone_keeps H h20)
    · exact (State.seqWaitAt_keeps H h20)

theorem execKwaitEnd_keeps (H : Closed I) {cl : Nat} {s : State} (h1 : Holds I s) : ∀ t', execKwaitEnd cl s = Host.Outcome.next t' → Holds I t' := by
  show HoldsOut I _
  unfold execKwaitEnd
  split
  · refine out_next ?_
    refine iteInduction (motive := fun r => Holds I r) (fun _ => ?_) (fun _ => ?_)
    · exact (State.seqDone_keeps H h1)
    · exact h1
  · exact (out_next h1)

theorem execKbr_keeps (H : Closed I) {cl : Nat} {s : State} (h1 : Holds I s) : ∀ t', execKbr cl s = Host.Outcome.next t' → Holds I t' := by
  show HoldsOut I _
  unfold execKbr
  refine out_next ?_
  refine State.stream_keeps H h1 ?_
  · intro _ _ h20
    exact (State.seqBranch_keeps H h20)

@[simp] theorem State.seqGet_keeps (H : Closed I) {s : State} {cl va n : Nat} {desc : Bool} (h0 : Holds I s) : Holds I (State.seqGet s cl va n desc).st := by
  unfold State.seqGet
  extract_lets +onlyGivenNames -merge -useContext a20
  split
  · rename_i e21
    have h22 := holds_of (I := I) (p := fun t => t.2) e21 (State.xlateD_keeps H h0)
    exact h22
  · rename_i e23
    have h24 := holds_of (I := I) (p := fun t => t.2) e23 (State.xlateD_keeps H h0)
    extract_lets +onlyGivenNames -merge -useContext a25
    try clear_value a25
    refine iteInduction (motive := fun (r : SeqGet) => Holds I r.st) (fun _ => ?_) (fun _ => ?_)
    · split
      · exact h24
      · exact (State.hostReadFailed_keeps H h24)
    · extract_lets +onlyGivenNames -merge -useContext a26
      have h27 : Holds I a26.st := (State.readMem_keeps H h24)
      try clear_value a26
      refine iteInduction (motive := fun (r : SeqGet) => Holds I r.st) (fun _ => ?_) (fun _ => ?_)
      · exact h24
      · refine iteInduction (motive := fun (r : SeqGet) => Holds I r.st) (fun _ => ?_) (fun _ => ?_)
        · exact (State.raiseFault_keeps H h27)
        · refine iteInduction (motive := fun (r : SeqGet) => Holds I r.st) (fun _ => ?_) (fun _ => ?_)
          · exact h27
          · refine iteInduction (motive := fun (r : SeqGet) => Holds I r.st) (fun _ => ?_) (fun _ => ?_)
            · exact (State.metPoison_keeps H h27 h27)
            · exact h27

@[simp] theorem State.startKernel_keeps (H : Closed I) {s : State} {cl : Nat} {k : Kernel} (h0 : Holds I s) : Holds I (State.startKernel s cl k) := by
  unfold State.startKernel
  extract_lets +onlyGivenNames -merge -useContext a20 a21 a22
  try clear_value a20
  have h23 : Holds I a22 := by
    unfold a22
    exact holds_mk h0 rfl rfl rfl rfl rfl rfl
  try clear_value a22
  extract_lets +onlyGivenNames -merge -useContext a24
  have h25 : Holds I a24 := (State.modSeq_keeps H h23)
  try clear_value a24
  split
  · exact h25
  · extract_lets +onlyGivenNames -merge -useContext a26 a27
    try clear_value a26 a27
    refine iteInduction (motive := fun r => Holds I r) (fun _ => ?_) (fun _ => ?_)
    · exact h25
    · exact (State.setDuty_keeps H h25)

theorem execLaunch_keeps (H : Closed I) {cl : Nat} {s : State} (h1 : Holds I s) : ∀ t', execLaunch cl s = Host.Outcome.next t' → Holds I t' := by
  show HoldsOut I _
  unfold execLaunch
  refine out_next ?_
  refine State.stream_keeps H h1 ?_
  · intro _ _ h20
    extract_lets +onlyGivenNames -merge -useContext a21 a22
    try clear_value a22
    refine iteInduction (motive := fun r => Holds I r) (fun _ => ?_) (fun _ => ?_)
    · exact (State.seqWaitAt_keeps H h20)
    · refine iteInduction (motive := fun r => Holds I r) (fun _ => ?_) (fun _ => ?_)
      · exact (State.seqWaitAt_keeps H h20)
      · refine iteInduction (motive := fun r => Holds I r) (fun _ => ?_) (fun _ => ?_)
        · exact (State.seqFail_keeps H h20)
        · extract_lets +onlyGivenNames -merge -useContext a23
          have h24 : Holds I a23.st := (State.seqGet_keeps H h20)
          try clear_value a23
          split
          · extract_lets +onlyGivenNames -merge -useContext a25
            have h26 : Holds I a25 := h24
            try clear_value a25
            extract_lets +onlyGivenNames -merge -useContext a27 a28
            try clear_value a28
            refine iteInduction (motive := fun r => Holds I r) (fun _ => ?_) (fun _ => ?_)
            · exact (State.seqFail_keeps H h26)
            · refine iteInduction (motive := fun r => Holds I r) (fun _ => ?_) (fun _ => ?_)
              · exact (State.seqWaitAt_keeps H (State.askCompat_keeps H h26))
              · extract_lets +onlyGivenNames -merge -useContext a29 a30 a31
                try clear_value a29
                have h32 : Holds I a31 := (State.reelCl_keeps H (State.startKernel_keeps H h26))
                try clear_value a31
                exact (State.seqDone_keeps H h32)
          · exact (State.seqFail_keeps H h24)
          · exact h24

theorem execLwait_keeps (H : Closed I) {cl : Nat} {s : State} (h1 : Holds I s) : ∀ t', execLwait cl s = Host.Outcome.next t' → Holds I t' := by
  show HoldsOut I _
  unfold execLwait
  refine out_next ?_
  refine State.stream_keeps H h1 ?_
  · intro _ _ h20
    extract_lets +onlyGivenNames -merge -useContext a21
    try clear_value a21
    refine iteInduction (motive := fun r => Holds I r) (fun _ => ?_) (fun _ => ?_)
    · exact (State.seqDone_keeps H h20)
    · exact (State.seqWaitAt_keeps H h20)

theorem execLwaitEnd_keeps (H : Closed I) {cl : Nat} {s : State} (h1 : Holds I s) : ∀ t', execLwaitEnd cl s = Host.Outcome.next t' → Holds I t' := by
  show HoldsOut I _
  unfold execLwaitEnd
  split
  · refine out_next ?_
    refine iteInduction (motive := fun r => Holds I r) (fun _ => ?_) (fun _ => ?_)
    · exact (State.seqDone_keeps H h1)
    · exact h1
  · exact (out_next h1)

theorem execKstat_keeps (H : Closed I) {cl : Nat} {s : State} (h1 : Holds I s) : ∀ t', execKstat cl s = Host.Outcome.next t' → Holds I t' := by
  show HoldsOut I _
  unfold execKstat
  refine out_next ?_
  refine State.stream_keeps H h1 ?_
  · intro _ _ h20
    exact (State.seqDone_keeps H h20)

theorem execMxsel_keeps (H : Closed I) {cl : Nat} {s : State} (h1 : Holds I s) : ∀ t', execMxsel cl s = Host.Outcome.next t' → Holds I t' := by
  show HoldsOut I _
  unfold execMxsel
  refine out_next ?_
  refine State.stream_keeps H h1 ?_
  · intro _ _ h20
    exact (State.seqDone_keeps H h20)

@[simp] theorem State.ipaWrite_keeps (H : Closed I) {s : State} {p ipa : Nat} (h0 : Holds I s) : Holds I ((State.ipaWrite s p ipa).2) := by
  unfold State.ipaWrite
  extract_lets +onlyGivenNames -merge -useContext a20
  have h21 : Holds I a20.st := (State.s2Xlate_keeps H h0)
  try clear_value a20
  split
  · exact h21
  · refine iteInduction (motive := fun (r : Except XFault (Nat × Xent) × State) => Holds I r.2) (fun _ => ?_) (fun _ => ?_)
    · exact h0
    · refine iteInduction (motive := fun (r : Except XFault (Nat × Xent) × State) => Holds I r.2) (fun _ => ?_) (fun _ => ?_)
      · exact h21
      · exact h21

@[simp] theorem State.profDrop_keeps (H : Closed I) {s : State} {ctx : Nat} (h0 : Holds I s) : Holds I (State.profDrop s ctx) := by
  unfold State.profDrop
  extract_lets +onlyGivenNames -merge -useContext a20 a21
  try clear_value a20 a21
  refine State.odBump_keeps H ?_
  · exact holds_mk h0 rfl rfl rfl rfl rfl rfl

@[simp] theorem State.profileRecord_keeps (H : Closed I) {s : State} {k : Kernel} (h0 : Holds I s) : Holds I (State.profileRecord s k) := by
  unfold State.profileRecord
  extract_lets +onlyGivenNames -merge -useContext a20
  try clear_value a20
  refine iteInduction (motive := fun r => Holds I r) (fun _ => ?_) (fun _ => ?_)
  · exact h0
  · extract_lets +onlyGivenNames -merge -useContext a21 a22
    try clear_value a21
    have h23 : ∀ y0 y1, Holds I y0 → Holds I (a22 y0 y1) := by
      intro _ _ h24
      unfold a22
      exact (State.profDrop_keeps H (State.quietRecord_keeps H h24))
    try clear_value a22
    split
    · rename_i e25
      have h26 := holds_of (I := I) (p := fun t => t.2) e25 (State.ipaWrite_keeps H h0)
      exact (h23 _ _ h26)
    · rename_i e27
      have h28 := holds_of (I := I) (p := fun t => t.2) e27 (State.ipaWrite_keeps H h0)
      extract_lets +onlyGivenNames -merge -useContext a29 a30
      have h31 : Holds I a30.st := (State.readMem_keeps H h28)
      try clear_value a30
      extract_lets +onlyGivenNames -merge -useContext a32 a33
      try clear_value a32 a33
      split
      · rename_i e34
        have h35 := holds_of (I := I) (p := fun t => t.2) e34 (State.ipaWrite_keeps H h31)
        exact (h23 _ _ h35)
      · rename_i e36
        have h37 := holds_of (I := I) (p := fun t => t.2) e36 (State.ipaWrite_keeps H h31)
        extract_lets +onlyGivenNames -merge -useContext a38
        have h39 : Holds I a38.st := (State.writeMem_keeps H h37)
        try clear_value a38
        refine iteInduction (motive := fun r => Holds I r) (fun _ => ?_) (fun _ => ?_)
        · exact (State.profDrop_keeps H (State.quietRecord_keeps H h39))
        · exact (State.odBump_keeps H (State.writeMem_keeps H h39))

theorem execKernelComplete_keeps (H : Closed I) {kernel : Nat} {s : State} (h1 : Holds I s) : ∀ t', execKernelComplete kernel s = Host.Outcome.next t' → Holds I t' := by
  show HoldsOut I _
  unfold execKernelComplete
  split
  · exact (out_next h1)
  · refine iteInduction (motive := fun r => HoldsOut I r) (fun _ => ?_) (fun _ => ?_)
    · extract_lets +onlyGivenNames -merge -useContext a20
      have h21 : Holds I a20 := (State.kernelTime_keeps H h1)
      try clear_value a20
      extract_lets +onlyGivenNames -merge -useContext a22 a23
      have h24 : Holds I a23 := (State.observe_keeps H h21)
      try clear_value a23
      extract_lets +onlyGivenNames -merge -useContext a25
      have h26 : Holds I a25 := (State.reelCl_keeps H (State.profileRecord_keeps H h24))
      try clear_value a25
      extract_lets +onlyGivenNames -merge -useContext a27
      have h28 : Holds I a27 := (State.modSeq_keeps H h26)
      try clear_value a27
      extract_lets +onlyGivenNames -merge -useContext a29
      have h30 : Holds I a29 := by
        unfold a29
        refine iteInduction (motive := fun r => Holds I r) (fun _ => ?_) (fun _ => ?_)
        · exact (State.modPart_keeps H h28)
        · exact h28
      try clear_value a29
      exact (out_next (State.delKernel_keeps H h30))
    · exact (out_next h1)

@[simp] theorem State.fsigDo_keeps (H : Closed I) {s : State} {cl w : Nat} (h0 : Holds I s) : Holds I (State.fsigDo s cl w) := by
  unfold State.fsigDo
  extract_lets +onlyGivenNames -merge -useContext a20 a21 a22 a23 a24
  try clear_value a21 a22 a23
  have h25 : Holds I a24 := (State.odBump_keeps H h0)
  try clear_value a24
  extract_lets +onlyGivenNames -merge -useContext a26
  have h27 : Holds I a26 := by
    unfold a26
    refine iteInduction (motive := fun r => Holds I r) (fun _ => ?_) (fun _ => ?_)
    · exact h0
    · split
      · exact (State.stepStatus_keeps H h25)
      · exact h25
  try clear_value a26
  extract_lets +onlyGivenNames -merge -useContext a28
  have h29 : Holds I a28 := (State.reelCl_keeps H (State.signal_keeps H h27))
  try clear_value a28
  exact (State.seqDone_keeps H h29)

theorem execFsig_keeps (H : Closed I) {cl : Nat} {s : State} (h1 : Holds I s) : ∀ t', execFsig cl s = Host.Outcome.next t' → Holds I t' := by
  show HoldsOut I _
  unfold execFsig
  refine out_next ?_
  refine State.stream_keeps H h1 ?_
  · intro _ _ h20
    extract_lets +onlyGivenNames -merge -useContext a21
    refine iteInduction (motive := fun r => Holds I r) (fun _ => ?_) (fun _ => ?_)
    · exact (State.seqFail_keeps H h20)
    · refine iteInduction (motive := fun r => Holds I r) (fun _ => ?_) (fun _ => ?_)
      · exact (State.fsigDo_keeps H h20)
      · exact (State.seqWaitAt_keeps H h20)

theorem execFsigRelease_keeps (H : Closed I) {cl : Nat} {s : State} (h1 : Holds I s) : ∀ t', execFsigRelease cl s = Host.Outcome.next t' → Holds I t' := by
  show HoldsOut I _
  unfold execFsigRelease
  refine iteInduction (motive := fun r => HoldsOut I r) (fun _ => ?_) (fun _ => ?_)
  · exact (out_next h1)
  · split
    · rename_i e20
      have h21 := holds_of (I := I) (p := fun t => t.2) e20 (State.fetchWord_keeps H h1)
      refine out_next ?_
      refine iteInduction (motive := fun r => Holds I r) (fun _ => ?_) (fun _ => ?_)
      · exact (State.fsigDo_keeps H h21)
      · exact h1
    · rename_i e22
      have h23 := holds_of (I := I) (p := fun t => t.2) e22 (State.fetchWord_keeps H h1)
      exact (out_next h23)

@[simp] theorem State.fwaitEnd_keeps (H : Closed I) {s : State} {cl w h st : Nat} (h0 : Holds I s) : Holds I (State.fwaitEnd s cl w h st) := by
  unfold State.fwaitEnd
  extract_lets +onlyGivenNames -merge -useContext a20 a21
  have h22 : Holds I a21 := (State.reelCl_keeps H h0)
  try clear_value a21
  refine iteInduction (motive := fun r => Holds I r) (fun _ => ?_) (fun _ => ?_)
  · exact (State.seqDone_keeps H h22)
  · exact (State.seqFail_keeps H h22)

theorem execFwait_keeps (H : Closed I) {cl : Nat} {s : State} (h1 : Holds I s) : ∀ t', execFwait cl s = Host.Outcome.next t' → Holds I t' := by
  show HoldsOut I _
  unfold execFwait
  refine out_next ?_
  refine State.stream_keeps H h1 ?_
  · intro _ _ h20
    extract_lets +onlyGivenNames -merge -useContext a21 a22 a23
    try clear_value a22 a23
    refine iteInduction (motive := fun r => Holds I r) (fun _ => ?_) (fun _ => ?_)
    · exact (State.seqFail_keeps H h20)
    · extract_lets +onlyGivenNames -merge -useContext a24
      have h25 : Holds I a24 := (State.reelCl_keeps H h20)
      try clear_value a24
      split
      · exact (State.fwaitEnd_keeps H h25)
      · exact (State.seqWaitAt_keeps H h25)

theorem execFwaitEnd_keeps (H : Closed I) {cl : Nat} {s : State} (h1 : Holds I s) : ∀ t', execFwaitEnd cl s = Host.Outcome.next t' → Holds I t' := by
  show HoldsOut I _
  unfold execFwaitEnd
  split
  · refine iteInduction (motive := fun r => HoldsOut I r) (fun _ => ?_) (fun _ => ?_)
    · exact (out_next h1)
    · split
      · split
        · rename_i e20
          have h21 := holds_of (I := I) (p := fun t => t.2) e20 (State.fetchWord_keeps H h1)
          exact (out_next (State.fwaitEnd_keeps H h21))
        · rename_i e22
          have h23 := holds_of (I := I) (p := fun t => t.2) e22 (State.fetchWord_keeps H h1)
          exact (out_next h23)
      · exact (out_next h1)
  · exact (out_next h1)

theorem execEsig_keeps (H : Closed I) {cl : Nat} {s : State} (h1 : Holds I s) : ∀ t', execEsig cl s = Host.Outcome.next t' → Holds I t' := by
  show HoldsOut I _
  unfold execEsig
  refine out_next ?_
  refine State.stream_keeps H h1 ?_
  · intro _ _ h20
    extract_lets +onlyGivenNames -merge -useContext a21 a22
    try clear_value a22
    refine iteInduction (motive := fun r => Holds I r) (fun _ => ?_) (fun _ => ?_)
    · exact (State.seqFail_keeps H h20)
    · exact (State.seqDone_keeps H (State.signalEvent_keeps H h20))

@[simp] theorem State.takeEvent_keeps (H : Closed I) {s : State} {h : Nat} (h0 : Holds I s) : Holds I (State.takeEvent s h) := by
  unfold State.takeEvent
  exact (State.modSync_keeps H h0)

theorem execEwait_keeps (H : Closed I) {cl : Nat} {s : State} (h1 : Holds I s) : ∀ t', execEwait cl s = Host.Outcome.next t' → Holds I t' := by
  show HoldsOut I _
  unfold execEwait
  refine out_next ?_
  refine State.stream_keeps H h1 ?_
  · intro _ _ h20
    extract_lets +onlyGivenNames -merge -useContext a21 a22
    try clear_value a22
    refine iteInduction (motive := fun r => Holds I r) (fun _ => ?_) (fun _ => ?_)
    · exact (State.seqFail_keeps H h20)
    · refine iteInduction (motive := fun r => Holds I r) (fun _ => ?_) (fun _ => ?_)
      · exact (State.seqDone_keeps H (State.takeEvent_keeps H h20))
      · exact (State.seqWaitAt_keeps H h20)

theorem execEwaitEnd_keeps (H : Closed I) {cl : Nat} {s : State} (h1 : Holds I s) : ∀ t', execEwaitEnd cl s = Host.Outcome.next t' → Holds I t' := by
  show HoldsOut I _
  unfold execEwaitEnd
  split
  · extract_lets +onlyGivenNames -merge -useContext a20
    try clear_value a20
    refine out_next ?_
    refine iteInduction (motive := fun r => Holds I r) (fun _ => ?_) (fun _ => ?_)
    · exact (State.seqDone_keeps H (State.takeEvent_keeps H h1))
    · exact h1
  · exact (out_next h1)

theorem execSbar_keeps (H : Closed I) {cl : Nat} {s : State} (h1 : Holds I s) : ∀ t', execSbar cl s = Host.Outcome.next t' → Holds I t' := by
  show HoldsOut I _
  unfold execSbar
  refine out_next ?_
  refine State.stream_keeps H h1 ?_
  · intro _ _ h20
    exact (State.seqWaitAt_keeps H h20)

theorem execSbarLeave_keeps (H : Closed I) {queue : Nat} {s : State} (h1 : Holds I s) : ∀ t', execSbarLeave queue s = Host.Outcome.next t' → Holds I t' := by
  show HoldsOut I _
  unfold execSbarLeave
  extract_lets +onlyGivenNames -merge -useContext a20 a21
  try clear_value a20 a21
  refine iteInduction (motive := fun r => HoldsOut I r) (fun _ => ?_) (fun _ => ?_)
  · refine out_next ?_
    refine State.each_keeps H h1 ?_
    · intro _ _ h22
      exact (State.seqDone_keeps H (State.reelCl_keeps H h22))
  · exact (out_next h1)

theorem execStepStart_keeps (H : Closed I) {cl : Nat} {s : State} (h1 : Holds I s) : ∀ t', execStepStart cl s = Host.Outcome.next t' → Holds I t' := by
  show HoldsOut I _
  unfold execStepStart
  extract_lets +onlyGivenNames -merge -useContext a20
  split
  · refine iteInduction (motive := fun r => HoldsOut I r) (fun _ => ?_) (fun _ => ?_)
    · extract_lets +onlyGivenNames -merge -useContext a21 a22
      try clear_value a21
      have h23 : Holds I a22 := (State.setSeq_keeps H h1)
      try clear_value a22
      extract_lets +onlyGivenNames -merge -useContext a24
      have h25 : Holds I a24 := (State.modStep_keeps H h23)
      try clear_value a24
      exact (out_next (State.reelCl_keeps H h25))
    · exact (out_next h1)
  · exact (out_next h1)

@[simp] theorem State.liftKernel_keeps (H : Closed I) {s : State} {kid : Nat} (h0 : Holds I s) : Holds I (State.liftKernel s kid) := by
  unfold State.liftKernel
  extract_lets +onlyGivenNames -merge -useContext a20
  have h21 : Holds I a20 := by
    unfold a20
    refine State.each_keeps H h0 ?_
    · intro _ _ h22
      exact (State.modCore_keeps H (State.densFlush_keeps H h22))
  try clear_value a20
  split
  · exact (State.setKernel_keeps H h21)
  · exact h21

@[simp] theorem State.stepParked_keeps (H : Closed I) {s : State} {k : Nat} {r : StepRec} (h0 : Holds I s) : Holds I (State.stepParked s k r) := by
  unfold State.stepParked
  extract_lets +onlyGivenNames -merge -useContext a20 a21
  try clear_value a20
  have h22 : Holds I a21 := by
    unfold a21
    refine iteInduction (motive := fun r => Holds I r) (fun _ => ?_) (fun _ => ?_)
    · refine State.each_keeps H h0 ?_
      · intro _ _ h23
        refine iteInduction (motive := fun r => Holds I r) (fun _ => ?_) (fun _ => ?_)
        · exact (State.setDrain_keeps H h23)
        · exact h23
    · exact h0
  try clear_value a21
  extract_lets +onlyGivenNames -merge -useContext a24
  have h25 : Holds I a24 := (State.modStep_keeps H (State.stepLeave_keeps H h22))
  try clear_value a24
  extract_lets +onlyGivenNames -merge -useContext a26
  have h27 : Holds I a26 := by
    unfold a26
    refine iteInduction (motive := fun r => Holds I r) (fun _ => ?_) (fun _ => ?_)
    · exact (State.odBump_keeps H (State.setRf_keeps H h25))
    · exact (State.odBump_keeps H (State.setRf_keeps H h25))
  try clear_value a26
  refine iteInduction (motive := fun r => Holds I r) (fun _ => ?_) (fun _ => ?_)
  · exact (State.endHeld_keeps H (State.stopStep_keeps H h27))
  · split
    · refine iteInduction (motive := fun r => Holds I r) (fun _ => ?_) (fun _ => ?_)
      · exact (State.endHeld_keeps H (State.stopStep_keeps H h27))
      · exact h27
    · exact h27

theorem execSeqPark_keeps (H : Closed I) {cl : Nat} {s : State} (h1 : Holds I s) : ∀ t', execSeqPark cl s = Host.Outcome.next t' → Holds I t' := by
  show HoldsOut I _
  unfold execSeqPark
  extract_lets +onlyGivenNames -merge -useContext a20
  split
  · split
    · exact (out_next h1)
    · refine iteInduction (motive := fun r => HoldsOut I r) (fun _ => ?_) (fun _ => ?_)
      · extract_lets +onlyGivenNames -merge -useContext a21 a22 a23
        try clear_value a21 a22
        have h24 : Holds I a23 := (State.ownWrite_keeps H h1)
        try clear_value a23
        extract_lets +onlyGivenNames -merge -useContext a25
        have h26 : Holds I a25 := by
          unfold a25
          refine State.each_keeps H h24 ?_
          · intro _ _ h27
            exact (State.liftKernel_keeps H h27)
        try clear_value a25
        extract_lets +onlyGivenNames -merge -useContext a28
        have h29 : Holds I a28 := by
          unfold a28
          refine State.each_keeps H h26 ?_
          · intro _ _ h30
            exact (State.densFlush_keeps H h30)
        try clear_value a28
        extract_lets +onlyGivenNames -merge -useContext a31 a32
        try clear_value a31
        have h33 : Holds I a32 := (State.modSeq_keeps H h29)
        try clear_value a32
        extract_lets +onlyGivenNames -merge -useContext a34
        have h35 : Holds I a34 := (State.modStep_keeps H h33)
        try clear_value a34
        split
        · refine out_next ?_
          refine iteInduction (motive := fun r => Holds I r) (fun _ => ?_) (fun _ => ?_)
          · exact (State.stepParked_keeps H h35)
          · exact h35
        · exact (out_next h35)
      · exact (out_next h1)
  · exact (out_next h1)

@[simp] theorem State.relaunch_keeps (H : Closed I) {s : State} {cl : Nat} {b : List Byte} (h0 : Holds I s) : Holds I (State.relaunch s cl b) := by
  unfold State.relaunch
  refine iteInduction (motive := fun r => Holds I r) (fun _ => ?_) (fun _ => ?_)
  · exact h0
  · extract_lets +onlyGivenNames -merge -useContext a20 a21 a22 a23
    try clear_value a21 a22
    have h24 : Holds I a23.st := (State.hubRead_keeps H h0)
    try clear_value a23
    split
    · extract_lets +onlyGivenNames -merge -useContext a25 a26
      have h27 : Holds I a26 := h24
      try clear_value a26
      extract_lets +onlyGivenNames -merge -useContext a28
      try clear_value a28
      refine iteInduction (motive := fun r => Holds I r) (fun _ => ?_) (fun _ => ?_)
      · exact (State.seqFail_keeps H h27)
      · extract_lets +onlyGivenNames -merge -useContext a29
        try clear_value a29
        split
        · extract_lets +onlyGivenNames -merge -useContext a30 a31
          have h32 : Holds I a31 := (State.setKernel_keeps H h27)
          try clear_value a31
          exact (State.modSeq_keeps H h32)
        · exact (State.startKernel_keeps H h27)
    · exact (State.seqFail_keeps H h24)

theorem execSeqResume_keeps (H : Closed I) {cl : Nat} {s : State} (h1 : Holds I s) : ∀ t', execSeqResume cl s = Host.Outcome.next t' → Holds I t' := by
  show HoldsOut I _
  unfold execSeqResume
  extract_lets +onlyGivenNames -merge -useContext a20
  split
  · split
    · exact (out_next h1)
    · refine iteInduction (motive := fun r => HoldsOut I r) (fun _ => ?_) (fun _ => ?_)
      · split
        · rename_i e21
          have h22 := holds_of (I := I) (p := fun t => t.2.2) e21 (State.ownRead_keeps H h1)
          extract_lets +onlyGivenNames -merge -useContext a23
          have h24 : Holds I a23 := (State.setSeq_keeps H h22)
          try clear_value a23
          extract_lets +onlyGivenNames -merge -useContext a25
          have h26 : Holds I a25 := (State.modStep_keeps H h24)
          try clear_value a25
          split
          · exact (out_next (State.seqFail_keeps H h26))
          · refine out_next ?_
            refine State.each_keeps H h26 ?_
            · intro _ _ h27
              exact (State.relaunch_keeps H h27)
      · exact (out_next h1)
  · exact (out_next h1)

theorem execStepEnd_keeps (H : Closed I) {queue : Nat} {s : State} (h1 : Holds I s) : ∀ t', execStepEnd queue s = Host.Outcome.next t' → Holds I t' := by
  show HoldsOut I _
  unfold execStepEnd
  split
  · exact (out_next h1)
  · refine iteInduction (motive := fun r => HoldsOut I r) (fun _ => ?_) (fun _ => ?_)
    · extract_lets +onlyGivenNames -merge -useContext a20
      have h21 : Holds I a20 := by
        unfold a20
        refine State.each_keeps H h1 ?_
        · intro _ _ h22
          exact (State.reelCl_keeps H h22)
      try clear_value a20
      extract_lets +onlyGivenNames -merge -useContext a23
      have h24 : Holds I a23 := by
        unfold a23
        refine State.each_keeps H h21 ?_
        · intro _ _ h25
          exact (State.seqIdle_keeps H h25)
      try clear_value a23
      extract_lets +onlyGivenNames -merge -useContext a26
      have h27 : Holds I a26 := (State.stepLeave_keeps H h24)
      try clear_value a26
      extract_lets +onlyGivenNames -merge -useContext a28 a29
      have h30 : Holds I a29 := by
        unfold a29
        refine iteInduction (motive := fun r => Holds I r) (fun _ => ?_) (fun _ => ?_)
        · exact (State.observe_keeps H h27)
        · exact h27
      try clear_value a29
      extract_lets +onlyGivenNames -merge -useContext a31
      have h32 : Holds I a31 := by
        unfold a31
        refine iteInduction (motive := fun r => Holds I r) (fun _ => ?_) (fun _ => ?_)
        · exact (State.odBump_keeps H (State.bump_keeps H h30))
        · exact h30
      try clear_value a31
      exact (out_next (State.endHeld_keeps H (State.modStep_keeps H h32)))
    · exact (out_next h1)

@[simp] theorem State.setSqEnable_keeps (H : Closed I) {s : State} {cl : Nat} {on : Bool} (h0 : Holds I s) : Holds I (State.setSqEnable s cl on) := by
  unfold State.setSqEnable
  extract_lets +onlyGivenNames -merge -useContext a20
  have h21 : Holds I a20 := (State.setRf_keeps H h0)
  try clear_value a20
  exact (State.modSeq_keeps H h21)

theorem execSqEnableWrite_keeps (H : Closed I) {p : Path} {cl : Nat} {on : Bool} {s : State} (h3 : Holds I s) : ∀ t', execSqEnableWrite p cl on s = Host.Outcome.next t' → Holds I t' := by
  show HoldsOut I _
  unfold execSqEnableWrite
  refine out_next ?_
  refine State.regGateP_keeps H h3 ?_
  · intro _ h20
    exact (State.setSqEnable_keeps H h20)

end Sys2Proof.Machine
end

