-- ==== Sys2Proof/Laws/KeepsLayoutOps.lean ====
section
/-! SUPPORT. What the operations of Machine/LayoutOps.lean protect. -/

namespace Sys2Proof.Machine

set_option linter.all false

variable {I : Prot → Prop}

@[simp] theorem State.layoutPrepare_keeps (H : Closed I) {s : State} {c : LayChange} (h0 : Holds I s) : Holds I (State.layoutPrepare s c) := by
  unfold State.layoutPrepare
  extract_lets +onlyGivenNames -merge -useContext a20 a21
  have h22 : Holds I a21 := by
    unfold a21
    exact holds_mk h0 rfl rfl rfl rfl rfl rfl
  try clear_value a21
  extract_lets +onlyGivenNames -merge -useContext a23
  have h24 : Holds I a23 := by
    unfold a23
    refine State.each_keeps H h22 ?_
    · intro _ _ h25
      exact (State.modPart_keeps H h25)
  try clear_value a23
  extract_lets +onlyGivenNames -merge -useContext a26
  have h27 : Holds I a26 := by
    unfold a26
    refine State.each_keeps H h24 ?_
    · intro _ _ h28
      extract_lets +onlyGivenNames -merge -useContext a29
      try clear_value a29
      exact (State.endHeld_keeps H (State.stopStep_keeps H h28))
  try clear_value a26
  exact holds_mk h27 rfl rfl rfl rfl rfl rfl

@[simp] theorem State.startApply_keeps (H : Closed I) {s : State} {p : Path} (h0 : Holds I s) : Holds I ((State.startApply s p).1) := by
  unfold State.startApply
  refine iteInduction (motive := fun (r : State × Option Nat) => Holds I r.1) (fun _ => ?_) (fun _ => ?_)
  · exact (State.odSet_keeps H h0)
  · refine iteInduction (motive := fun (r : State × Option Nat) => Holds I r.1) (fun _ => ?_) (fun _ => ?_)
    · exact (State.odSet_keeps H h0)
    · exact (State.layoutPrepare_keeps H h0)

@[simp] theorem State.startReset_keeps (H : Closed I) {s : State} {path : Path} {p : Nat} {byRegister : Bool} (h0 : Holds I s) : Holds I ((State.startReset s path p byRegister).1) := by
  unfold State.startReset
  refine iteInduction (motive := fun (r : State × Option Nat) => Holds I r.1) (fun _ => ?_) (fun _ => ?_)
  · exact (State.odSet_keeps H h0)
  · extract_lets +onlyGivenNames -merge -useContext a20
    have h21 : Holds I a20 := by
      unfold a20
      refine State.each_keeps H h0 ?_
      · intro _ _ h22
        exact (State.killNow_keeps H h22)
    try clear_value a20
    extract_lets +onlyGivenNames -merge -useContext a23
    have h24 : Holds I a23 := by
      unfold a23
      refine State.each_keeps H h21 ?_
      · intro _ _ h25
        exact (State.setBlob_keeps H h25)
    try clear_value a23
    extract_lets +onlyGivenNames -merge -useContext a26
    have h27 : Holds I a26 := by
      unfold a26
      refine State.each_keeps H h24 ?_
      · intro _ _ h28
        exact (State.groupClear_keeps H h28)
    try clear_value a26
    extract_lets +onlyGivenNames -merge -useContext a29
    have h30 : Holds I a29 := by
      unfold a29
      refine State.setBlob_keeps H ?_
      · refine State.each_keeps H (State.planOff_keeps H h27) ?_
        · intro _ _ h31
          exact (State.odSet_keeps H h31)
    try clear_value a29
    exact (State.layoutPrepare_keeps H h30)

@[simp] theorem State.layoutEnd_keeps (H : Closed I) {s : State} {c : LayChange} {st : Nat} (h0 : Holds I s) : Holds I (State.layoutEnd s c st) := by
  unfold State.layoutEnd
  extract_lets +onlyGivenNames -merge -useContext a20
  have h21 : Holds I a20 := by
    unfold a20
    refine State.each_keeps H h0 ?_
    · intro _ _ h22
      exact (State.modPart_keeps H h22)
  try clear_value a20
  extract_lets +onlyGivenNames -merge -useContext a23 a24
  have h25 : Holds I a24 := by
    unfold a24
    refine State.odSet_keeps H ?_
    · exact holds_mk h21 rfl rfl rfl rfl rfl rfl
  try clear_value a24
  refine iteInduction (motive := fun r => Holds I r) (fun _ => ?_) (fun _ => ?_)
  · exact h25
  · refine iteInduction (motive := fun r => Holds I r) (fun _ => ?_) (fun _ => ?_)
    · exact (State.fwReady_keeps H h25)
    · exact (State.odAnswer_keeps H h25)

@[simp] theorem State.bootGo_keeps (H : Closed I) {s : State} (h0 : Holds I s) : Holds I (State.bootGo s) := by
  unfold State.bootGo
  refine iteInduction (motive := fun r => Holds I r) (fun _ => ?_) (fun _ => ?_)
  · exact h0
  · refine iteInduction (motive := fun r => Holds I r) (fun _ => ?_) (fun _ => ?_)
    · exact (State.fwReady_keeps H h0)
    · split
      · rename_i e20
        have h21 := holds_of (I := I) (p := fun t => t.1) e20 (State.startApply_keeps H h0)
        exact h21
      · rename_i e22
        have h23 := holds_of (I := I) (p := fun t => t.1) e22 (State.startApply_keeps H h0)
        refine State.fwReady_keeps H ?_
        · refine iteInduction (motive := fun r => Holds I r) (fun _ => ?_) (fun _ => ?_)
          · exact h23
          · exact (State.logEvent_keeps H h23)

@[simp] theorem State.setModes_keeps (H : Closed I) {s : State} {m : ModeCtl} (h0 : Holds I s) : Holds I (State.setModes s m) := by
  unfold State.setModes
  exact holds_mk h0 rfl rfl rfl rfl rfl rfl

@[simp] theorem State.modeAbort_keeps (H : Closed I) {s : State} {st : Nat} (h0 : Holds I s) : Holds I (State.modeAbort s st) := by
  unfold State.modeAbort
  extract_lets +onlyGivenNames -merge -useContext a20 a21
  have h22 : Holds I a21 := (State.odBump_keeps H (State.setRf_keeps H (State.setModes_keeps H h0)))
  try clear_value a21
  extract_lets +onlyGivenNames -merge -useContext a23
  have h24 : Holds I a23 := by
    unfold a23
    refine State.each_keeps H h22 ?_
    · intro _ _ h25
      exact (State.errVec_keeps H h25)
  try clear_value a23
  split
  · refine iteInduction (motive := fun r => Holds I r) (fun _ => ?_) (fun _ => ?_)
    · exact (State.layoutEnd_keeps H h24)
    · exact h24
  · exact h24

@[simp] theorem State.layoutRequest_keeps (H : Closed I) {s : State} (h0 : Holds I s) : Holds I (State.layoutRequest s) := by
  unfold State.layoutRequest
  split
  · refine iteInduction (motive := fun r => Holds I r) (fun _ => ?_) (fun _ => ?_)
    · extract_lets +onlyGivenNames -merge -useContext a20 a21
      have h22 : Holds I a21 := by
        unfold a21
        exact holds_mk h0 rfl rfl rfl rfl rfl rfl
      try clear_value a21
      exact (State.modeRequest_keeps H h22)
    · exact h0
  · exact h0

@[simp] theorem State.ccFlushLine_keeps (H : Closed I) {s : State} {cl : Nat} {l : CcLine} (h0 : Holds I s) : Holds I (State.ccFlushLine s cl l) := by
  unfold State.ccFlushLine
  extract_lets +onlyGivenNames -merge -useContext a20
  have h21 : Holds I a20 := by
    unfold a20
    refine iteInduction (motive := fun r => Holds I r) (fun _ => ?_) (fun _ => ?_)
    · exact (State.bump_keeps H (State.tkTakeDirty_keeps H h0))
    · exact h0
  try clear_value a20
  exact (State.ccForget_keeps H h21)

@[simp] theorem State.ccEmpty_keeps (H : Closed I) {s : State} {cl : Nat} (h0 : Holds I s) : Holds I (State.ccEmpty s cl) := by
  unfold State.ccEmpty
  refine State.each_keeps H h0 ?_
  · intro _ _ h20
    exact (State.ccFlushLine_keeps H h20)

@[simp] theorem State.zeroWay_keeps (H : Closed I) {s : State} {die w : Nat} (h0 : Holds I s) : Holds I (State.zeroWay s die w) := by
  unfold State.zeroWay
  exact H.poisonFilter _ _ (H.memFilter _ _ h0)

@[simp] theorem State.tankWayWork_keeps (H : Closed I) {s : State} {c : LayChange} {die : Nat} (h0 : Holds I s) : Holds I (State.tankWayWork s c die) := by
  unfold State.tankWayWork
  extract_lets +onlyGivenNames -merge -useContext a20 a21
  try clear_value a20
  have h22 : Holds I a21 := by
    unfold a21
    refine State.each_keeps H h0 ?_
    · intro _ _ h23
      exact (State.tkEvict_keeps H h23)
  try clear_value a21
  refine State.each_keeps H h22 ?_
  · intro _ _ h24
    exact (State.zeroWay_keeps H h24)

@[simp] theorem State.walkerWork_keeps (H : Closed I) {s : State} {c : LayChange} (h0 : Holds I s) : Holds I (State.walkerWork s c) := by
  unfold State.walkerWork
  refine State.each_keeps H h0 ?_
  · intro _ _ h20
    refine State.xlEmptyPart_keeps H ?_
    · refine State.each_keeps H h20 ?_
      · intro _ _ h21
        exact (State.abortFaults_keeps H h21)

@[simp] theorem State.layoutApply_keeps (H : Closed I) {s : State} {c : LayChange} (h0 : Holds I s) : Holds I (State.layoutApply s c) := by
  unfold State.layoutApply
  refine State.each_keeps H h0 ?_
  · intro _ _ h20
    extract_lets +onlyGivenNames -merge -useContext a21 a22
    try clear_value a21
    have h23 : Holds I a22 := (State.modPart_keeps H h20)
    try clear_value a22
    extract_lets +onlyGivenNames -merge -useContext a24
    have h25 : Holds I a24 := by
      unfold a24
      refine iteInduction (motive := fun r => Holds I r) (fun _ => ?_) (fun _ => ?_)
      · exact (State.modPart_keeps H (State.latchPart_keeps H h23))
      · exact h23
    try clear_value a24
    refine iteInduction (motive := fun r => Holds I r) (fun _ => ?_) (fun _ => ?_)
    · exact (State.slotAreaClear_keeps H h25)
    · exact h25

@[simp] theorem State.modeFlip_keeps (H : Closed I) {s : State} (h0 : Holds I s) : Holds I (State.modeFlip s) := by
  unfold State.modeFlip
  extract_lets +onlyGivenNames -merge -useContext a20 a21
  refine iteInduction (motive := fun r => Holds I r) (fun _ => ?_) (fun _ => ?_)
  · exact h0
  · refine iteInduction (motive := fun r => Holds I r) (fun _ => ?_) (fun _ => ?_)
    · extract_lets +onlyGivenNames -merge -useContext a22 a23
      try clear_value a22
      have h24 : Holds I a23 := (State.modPart_keeps H h0)
      try clear_value a23
      refine iteInduction (motive := fun r => Holds I r) (fun _ => ?_) (fun _ => ?_)
      · exact (State.errVec_keeps H h24)
      · exact h24
    · refine iteInduction (motive := fun r => Holds I r) (fun _ => ?_) (fun _ => ?_)
      · exact (State.modPart_keeps H h0)
      · exact h0

@[simp] theorem State.commitWork_keeps (H : Closed I) {s : State} {u : ModeUnit} (h0 : Holds I s) : Holds I (State.commitWork s u) := by
  unfold State.commitWork
  split
  · refine iteInduction (motive := fun r => Holds I r) (fun _ => ?_) (fun _ => ?_)
    · exact h0
    · split
      · extract_lets +onlyGivenNames -merge -useContext a20 a21
        try clear_value a20
        have h22 : Holds I a21 := (State.tankWayWork_keeps H h0)
        try clear_value a21
        refine iteInduction (motive := fun r => Holds I r) (fun _ => ?_) (fun _ => ?_)
        · exact h22
        · extract_lets +onlyGivenNames -merge -useContext a23
          have h24 : Holds I a23 := (State.tankWayWork_keeps H h22)
          try clear_value a23
          refine State.each_keeps H h24 ?_
          · intro _ _ h25
            exact (State.modPart_keeps H h25)
      · exact (State.walkerWork_keeps H h0)
      · exact h0
  · exact h0

end Sys2Proof.Machine
end

