-- ==== Sys2Proof/Laws/KeepsCache.lean ====
section
/-! SUPPORT. What the operations of Machine/Cache.lean protect. -/

namespace Sys2Proof.Machine

set_option linter.all false

variable {I : Prot → Prop}

@[simp] theorem State.tearDone_keeps (H : Closed I) {s : State} {core : Nat} (h0 : Holds I s) : Holds I (State.tearDone s core) := by
  unfold State.tearDone
  refine iteInduction (motive := fun r => Holds I r) (fun _ => ?_) (fun _ => ?_)
  · exact (State.enterClearing_keeps H h0)
  · exact h0

theorem execStoreBufferDrain_keeps (H : Closed I) {core idx : Nat} {s : State} (h2 : Holds I s) : ∀ t', execStoreBufferDrain core idx s = Host.Outcome.next t' → Holds I t' := by
  show HoldsOut I _
  unfold execStoreBufferDrain
  split
  · rename_i e20
    have h21 := some_of (I := I) (p := fun t => t) e20 (State.drainSb_keeps H h2)
    exact (out_next (State.tearDone_keeps H h21))
  · exact (out_next h2)

theorem execTeardownDrainLimit_keeps (H : Closed I) {core : Nat} {s : State} (h1 : Holds I s) : ∀ t', execTeardownDrainLimit core s = Host.Outcome.next t' → Holds I t' := by
  show HoldsOut I _
  unfold execTeardownDrainLimit
  refine out_next ?_
  refine iteInduction (motive := fun r => Holds I r) (fun _ => ?_) (fun _ => ?_)
  · exact (State.enterClearing_keeps H (State.discardSb_keeps H h1))
  · exact h1

@[simp] theorem State.askMaint_keeps (H : Closed I) {s : State} {w : MaintWork} {part : Option Nat} (h0 : Holds I s) : Holds I (State.askMaint s w part) := by
  unfold State.askMaint
  refine iteInduction (motive := fun r => Holds I r) (fun _ => ?_) (fun _ => ?_)
  · exact h0
  · exact holds_mk h0 rfl rfl rfl rfl rfl rfl

@[simp] theorem State.ccRecord_keeps (H : Closed I) {s : State} {cl cause way sectors line : Nat} (h0 : Holds I s) : Holds I (State.ccRecord s cl cause way sectors line) := by
  unfold State.ccRecord
  refine State.errRecord_keeps H h0 ?_
  · intro _ h20
    exact (State.setReg_keeps H h20)

@[simp] theorem State.ccCorrected_keeps (H : Closed I) {s : State} {cl : Nat} (h0 : Holds I s) : Holds I (State.ccCorrected s cl) := by
  unfold State.ccCorrected
  exact (State.odBump_keeps H (State.bumpSat_keeps H h0))

@[simp] theorem State.ccError_keeps (H : Closed I) {s : State} {cl : Nat} {e : SectorError} (h0 : Holds I s) : Holds I (State.ccError s cl e) := by
  unfold State.ccError
  split
  · exact (State.ccCorrected_keeps H h0)
  · extract_lets +onlyGivenNames -merge -useContext a20
    try clear_value a20
    split
    · exact h0
    · extract_lets +onlyGivenNames -merge -useContext a21
      have h22 : Holds I a21 := (State.ccRecord_keeps H h0)
      try clear_value a21
      refine iteInduction (motive := fun r => Holds I r) (fun _ => ?_) (fun _ => ?_)
      · exact (State.odBump_keeps H (State.setPoison_keeps H h22))
      · refine iteInduction (motive := fun r => Holds I r) (fun _ => ?_) (fun _ => ?_)
        · exact (State.ccCorrected_keeps H (State.ccForget_keeps H h22))
        · exact (State.ccCorrected_keeps H (State.setCc_keeps H h22))
  · split
    · exact h0
    · exact (State.ccCorrected_keeps H (State.ccRecord_keeps H h0))
  · split
    · exact h0
    · extract_lets +onlyGivenNames -merge -useContext a23
      have h24 : Holds I a23 := (State.odBump_keeps H (State.ccRecord_keeps H h0))
      try clear_value a23
      refine State.ccForget_keeps H ?_
      · refine State.each_keeps H h24 ?_
        · intro _ _ h25
          exact (State.setPoison_keeps H h25)

@[simp] theorem State.tkRecord_keeps (H : Closed I) {s : State} {die cause way sectors line : Nat} (h0 : Holds I s) : Holds I (State.tkRecord s die cause way sectors line) := by
  unfold State.tkRecord
  refine State.errRecord_keeps H h0 ?_
  · intro _ h20
    exact (State.setReg_keeps H h20)

@[simp] theorem State.tkCorrected_keeps (H : Closed I) {s : State} {die : Nat} (h0 : Holds I s) : Holds I (State.tkCorrected s die) := by
  unfold State.tkCorrected
  exact (State.odBump_keeps H (State.bump_keeps H h0))

@[simp] theorem State.tkLost_keeps (H : Closed I) {s : State} {die : Nat} (h0 : Holds I s) : Holds I (State.tkLost s die) := by
  unfold State.tkLost
  exact (State.odBump_keeps H (State.bump_keeps H h0))

@[simp] theorem State.tkShow_keeps (H : Closed I) {s : State} {die result : Nat} (h0 : Holds I s) : Holds I (State.tkShow s die result) := by
  unfold State.tkShow
  extract_lets +onlyGivenNames -merge -useContext a20 a21 a22
  try clear_value a21
  have h23 : Holds I a22 := (State.setRf_keeps H (State.setRf_keeps H (State.setRf_keeps H (State.setRf_keeps H h0))))
  try clear_value a22
  extract_lets +onlyGivenNames -merge -useContext a24
  try clear_value a24
  exact (State.odSet_keeps H (State.odSet_keeps H h23))

@[simp] theorem State.bankDegrade_keeps (H : Closed I) {s : State} {die bank : Nat} (h0 : Holds I s) : Holds I (State.bankDegrade s die bank) := by
  unfold State.bankDegrade
  extract_lets +onlyGivenNames -merge -useContext a20 a21
  try clear_value a20
  have h22 : Holds I a21 := by
    unfold a21
    refine State.each_keeps H h0 ?_
    · intro _ _ h23
      exact (State.tkEvict_keeps H h23)
  try clear_value a21
  extract_lets +onlyGivenNames -merge -useContext a24
  have h25 : Holds I a24 := (State.tkShow_keeps H (State.modDie_keeps H h22))
  try clear_value a24
  refine State.ngEvent_keeps H ?_
  · refine State.each_keeps H h25 ?_
    · intro _ _ h26
      exact (State.errVec_keeps H h26)

@[simp] theorem State.bankRetire_keeps (H : Closed I) {s : State} {die bank : Nat} (h0 : Holds I s) : Holds I (State.bankRetire s die bank) := by
  unfold State.bankRetire
  refine iteInduction (motive := fun r => Holds I r) (fun _ => ?_) (fun _ => ?_)
  · exact h0
  · split
    · exact (State.bankDegrade_keeps H h0)
    · exact (State.setRf_keeps H (State.modDie_keeps H h0))

@[simp] theorem State.tkError_keeps (H : Closed I) {s : State} {die : Nat} {e : SectorError} (h0 : Holds I s) : Holds I (State.tkError s die e) := by
  unfold State.tkError
  split
  · exact (State.tkCorrected_keeps H h0)
  · extract_lets +onlyGivenNames -merge -useContext a20 a21
    try clear_value a20 a21
    refine iteInduction (motive := fun r => Holds I r) (fun _ => ?_) (fun _ => ?_)
    · extract_lets +onlyGivenNames -merge -useContext a22 a23
      try clear_value a22
      have h24 : Holds I a23 := (State.tkLost_keeps H (State.setPoison_keeps H (State.tkRecord_keeps H h0)))
      try clear_value a23
      refine iteInduction (motive := fun r => Holds I r) (fun _ => ?_) (fun _ => ?_)
      · exact (State.askMaint_keeps H h24)
      · exact h24
    · split
      · exact h0
      · extract_lets +onlyGivenNames -merge -useContext a25
        have h26 : Holds I a25 := (State.tkRecord_keeps H h0)
        try clear_value a25
        refine iteInduction (motive := fun r => Holds I r) (fun _ => ?_) (fun _ => ?_)
        · exact (State.tkLost_keeps H (State.setPoison_keeps H h26))
        · refine iteInduction (motive := fun r => Holds I r) (fun _ => ?_) (fun _ => ?_)
          · exact (State.tkCorrected_keeps H (State.tkDrop_keeps H h26))
          · exact (State.tkCorrected_keeps H (State.tkMod_keeps H h26))
  · exact (State.tkCorrected_keeps H (State.tkRecord_keeps H h0))
  · extract_lets +onlyGivenNames -merge -useContext a27 a28
    try clear_value a27
    have h29 : Holds I a28 := (State.tkLost_keeps H (State.tkRecord_keeps H h0))
    try clear_value a28
    extract_lets +onlyGivenNames -merge -useContext a30
    have h31 : Holds I a30 := by
      unfold a30
      refine State.tkDrop_keeps H ?_
      · refine State.each_keeps H h29 ?_
        · intro _ _ h32
          exact (State.setPoison_keeps H h32)
    try clear_value a30
    exact (State.bankRetire_keeps H h31)

theorem execCacheFill_keeps (H : Closed I) {cl line : Nat} {h : Hint} {e : Option SectorError} {s : State} (h4 : Holds I s) : ∀ t', execCacheFill cl line h e s = Host.Outcome.next t' → Holds I t' := by
  show HoldsOut I _
  unfold execCacheFill
  extract_lets +onlyGivenNames -merge -useContext a20 a21 a22
  try clear_value a20
  have h23 : Holds I a22 := by
    unfold a22
    split
    · refine iteInduction (motive := fun r => Holds I r) (fun _ => ?_) (fun _ => ?_)
      · exact h4
      · exact (State.lineRead_keeps H h4)
    · refine iteInduction (motive := fun r => Holds I r) (fun _ => ?_) (fun _ => ?_)
      · exact (State.lineRead_keeps H h4)
      · exact h4
  try clear_value a22
  refine out_next ?_
  split
  · exact (State.ccError_keeps H h23)
  · exact h23

theorem execCcEviction_keeps (H : Closed I) {cl line : Nat} {s : State} (h2 : Holds I s) : ∀ t', execCcEviction cl line s = Host.Outcome.next t' → Holds I t' := by
  show HoldsOut I _
  unfold execCcEviction
  exact (out_next (State.ccEvict_keeps H h2))

@[simp] theorem State.ccWaySet_keeps (H : Closed I) {s : State} {cl way : Nat} {on : Bool} (h0 : Holds I s) : Holds I (State.ccWaySet s cl way on) := by
  unfold State.ccWaySet
  extract_lets +onlyGivenNames -merge -useContext a20
  try clear_value a20
  refine iteInduction (motive := fun r => Holds I r) (fun _ => ?_) (fun _ => ?_)
  · exact h0
  · extract_lets +onlyGivenNames -merge -useContext a21
    have h22 : Holds I a21 := (State.setRf_keeps H h0)
    try clear_value a21
    refine iteInduction (motive := fun r => Holds I r) (fun _ => ?_) (fun _ => ?_)
    · exact (State.setRf_keeps H (State.setRf_keeps H h22))
    · refine iteInduction (motive := fun r => Holds I r) (fun _ => ?_) (fun _ => ?_)
      · exact (State.setRf_keeps H h22)
      · exact h22

theorem execCcWayPowerDown_keeps (H : Closed I) {p : Path} {cl way : Nat} {s : State} (h3 : Holds I s) : ∀ t', execCcWayPowerDown p cl way s = Host.Outcome.next t' → Holds I t' := by
  show HoldsOut I _
  unfold execCcWayPowerDown
  refine out_next ?_
  refine State.regGateP_keeps H h3 ?_
  · intro _ h20
    exact (State.ccWaySet_keeps H h20)

theorem execCcWayPowerUp_keeps (H : Closed I) {p : Path} {cl way : Nat} {s : State} (h3 : Holds I s) : ∀ t', execCcWayPowerUp p cl way s = Host.Outcome.next t' → Holds I t' := by
  show HoldsOut I _
  unfold execCcWayPowerUp
  refine out_next ?_
  refine State.regGateP_keeps H h3 ?_
  · intro _ h20
    exact (State.ccWaySet_keeps H h20)

theorem execCcWayCleanDone_keeps (H : Closed I) {cl way : Nat} {s : State} (h2 : Holds I s) : ∀ t', execCcWayCleanDone cl way s = Host.Outcome.next t' → Holds I t' := by
  show HoldsOut I _
  unfold execCcWayCleanDone
  refine iteInduction (motive := fun r => HoldsOut I r) (fun _ => ?_) (fun _ => ?_)
  · extract_lets +onlyGivenNames -merge -useContext a20
    have h21 : Holds I a20 := by
      unfold a20
      refine State.each_keeps H h2 ?_
      · intro _ _ h22
        exact (State.ccFlushLine_keeps H h22)
    try clear_value a20
    exact (out_next (State.setRf_keeps H (State.setRf_keeps H h21)))
  · exact (out_next h2)

@[simp] theorem State.keepClr_keeps (H : Closed I) {s : State} {die v : Nat} (h0 : Holds I s) : Holds I (State.keepClr s die v) := by
  unfold State.keepClr
  refine iteInduction (motive := fun r => Holds I r) (fun _ => ?_) (fun _ => ?_)
  · exact h0
  · exact (State.setRf_keeps H (State.modDie_keeps H h0))

theorem execTkKeepclr_keeps (H : Closed I) {p : Path} {die : Nat} {v : W32} {s : State} (h3 : Holds I s) : ∀ t', execTkKeepclr p die v s = Host.Outcome.next t' → Holds I t' := by
  show HoldsOut I _
  unfold execTkKeepclr
  refine out_next ?_
  refine State.regGate_keeps H h3 ?_
  · intro _ h20
    exact (State.keepClr_keeps H (State.keepClr_keeps H h20))

theorem execKeepSweepDone_keeps (H : Closed I) {die : Nat} {s : State} (h1 : Holds I s) : ∀ t', execKeepSweepDone die s = Host.Outcome.next t' → Holds I t' := by
  show HoldsOut I _
  unfold execKeepSweepDone
  extract_lets +onlyGivenNames -merge -useContext a20 a21 a22
  try clear_value a20 a21
  have h23 : Holds I a22 := (State.modDie_keeps H h1)
  try clear_value a22
  exact (out_next (State.setRf_keeps H h23))

theorem execTkRetire_keeps (H : Closed I) {p : Path} {die : Nat} {v : W32} {s : State} (h3 : Holds I s) : ∀ t', execTkRetire p die v s = Host.Outcome.next t' → Holds I t' := by
  show HoldsOut I _
  unfold execTkRetire
  refine out_next ?_
  refine State.regGateP_keeps H h3 ?_
  · intro _ h20
    refine iteInduction (motive := fun r => Holds I r) (fun _ => ?_) (fun _ => ?_)
    · exact (State.bankRetire_keeps H h20)
    · exact h20

theorem execBankMoveDone_keeps (H : Closed I) {die : Nat} {s : State} (h1 : Holds I s) : ∀ t', execBankMoveDone die s = Host.Outcome.next t' → Holds I t' := by
  show HoldsOut I _
  unfold execBankMoveDone
  split
  · exact (out_next h1)
  · extract_lets +onlyGivenNames -merge -useContext a20
    have h21 : Holds I a20 := (State.modDie_keeps H h1)
    try clear_value a20
    exact (out_next (State.ngEvent_keeps H (State.tkShow_keeps H (State.setReg_keeps H h21))))

theorem execTankScrubPass_keeps (H : Closed I) {die x1 : Nat} {errs : List SectorError} {s : State} (h3 : Holds I s) : ∀ t', execTankScrubPass die x1 errs s = Host.Outcome.next t' → Holds I t' := by
  show HoldsOut I _
  unfold execTankScrubPass
  refine out_next ?_
  refine State.each_keeps H h3 ?_
  · intro _ _ h20
    exact (State.tkError_keeps H h20)

end Sys2Proof.Machine
end

