-- ==== Sys2Proof/Laws/KeepsExtOps.lean ====
section
/-! SUPPORT. What the operations of Machine/ExtOps.lean protect. -/

namespace Sys2Proof.Machine

set_option linter.all false

variable {I : Prot → Prop}

@[simp] theorem State.unitAnswer_keeps (H : Closed I) {s : State} {st : Nat} (h0 : Holds I s) : Holds I ((State.unitAnswer s st).1) := by
  unfold State.unitAnswer
  exact (State.odSet_keeps H h0)

@[simp] theorem State.unitReply_keeps (H : Closed I) {s : State} {u : UnitId} {st : Nat} (h0 : Holds I s) : Holds I (State.unitReply s u st) := by
  unfold State.unitReply
  split
  · exact h0
  · exact (State.odAnswer_keeps H (State.odSet_keeps H (State.modUnit_keeps H h0)))

@[simp] theorem State.unitCmd_keeps (H : Closed I) {s : State} {p : Path} {v : Nat} {act : State → UnitId → State × Option Nat} (h0 : Holds I s) (h3 : ∀ y0 y1, Holds I (y0) → Holds I ((act y0 y1).1)) : Holds I (State.unitCmd s p v act) := by
  unfold State.unitCmd
  refine State.odCmd_keeps H h0 ?_
  · intro _ h20
    refine iteInduction (motive := fun (r : State × Option Nat) => Holds I r.1) (fun _ => ?_) (fun _ => ?_)
    · exact (h3 _ _ h20)
    · exact (State.unitAnswer_keeps H h20)

@[simp] theorem State.unitFlush_keeps (H : Closed I) {s : State} {u : UnitId} (h0 : Holds I s) : Holds I (State.unitFlush s u) := by
  unfold State.unitFlush
  extract_lets +onlyGivenNames -merge -useContext a20
  have h21 : Holds I a20 := by
    unfold a20
    refine State.each_keeps H h0 ?_
    · intro _ _ h22
      refine State.each_keeps H h22 ?_
      · intro _ _ h23
        exact (State.ccRecall_keeps H h23)
  try clear_value a20
  refine State.each_keeps H h21 ?_
  · intro _ _ h24
    refine State.each_keeps H h24 ?_
    · intro _ _ h25
      exact (State.tkEvict_keeps H h25)

@[simp] theorem State.unitLeaves_keeps (H : Closed I) {s : State} {u : UnitId} (h0 : Holds I s) : Holds I (State.unitLeaves s u) := by
  unfold State.unitLeaves
  extract_lets +onlyGivenNames -merge -useContext a20 a21 a22 a23 a24 a25
  try clear_value a20 a21 a22 a23
  have h26 : Holds I a25 := by
    unfold a25
    exact holds_mk h0 rfl rfl rfl rfl rfl rfl
  try clear_value a25
  exact (State.odSet_keeps H h26)

@[simp] theorem State.unitRecord_keeps (H : Closed I) {s : State} {u : UnitId} {cause part line : Nat} (h0 : Holds I s) : Holds I (State.unitRecord s u cause part line) := by
  unfold State.unitRecord
  extract_lets +onlyGivenNames -merge -useContext a20
  try clear_value a20
  refine State.errRecord_keeps H h0 ?_
  · intro _ h21
    exact (State.setReg_keeps H h21)

@[simp] theorem State.unitFail_keeps (H : Closed I) {s : State} {u : UnitId} {cause : Nat} (h0 : Holds I s) : Holds I (State.unitFail s u cause) := by
  unfold State.unitFail
  extract_lets +onlyGivenNames -merge -useContext a20 a21 a22
  try clear_value a21
  have h23 : Holds I a22 := (State.setUnit_keeps H h0)
  try clear_value a22
  extract_lets +onlyGivenNames -merge -useContext a24
  have h25 : Holds I a24 := (State.unitReply_keeps H (State.logEvent_keeps H h23))
  try clear_value a24
  refine iteInduction (motive := fun r => Holds I r) (fun _ => ?_) (fun _ => ?_)
  · extract_lets +onlyGivenNames -merge -useContext a26
    have h27 : Holds I a26 := (State.unitLeaves_keeps H h25)
    try clear_value a26
    extract_lets +onlyGivenNames -merge -useContext a28 a29
    try clear_value a28
    have h30 : Holds I a29 := by
      unfold a29
      refine State.each_keeps H h27 ?_
      · intro _ _ h31
        exact (State.errVec_keeps H h31)
    try clear_value a29
    refine iteInduction (motive := fun r => Holds I r) (fun _ => ?_) (fun _ => ?_)
    · exact (State.internalError_keeps H h30)
    · exact h30
  · exact h25

@[simp] theorem State.unitZero_keeps (H : Closed I) {s : State} {u : UnitId} (h0 : Holds I s) : Holds I (State.unitZero s u) := by
  unfold State.unitZero
  exact H.poisonFilter _ _ (H.memFilter _ _ h0)

@[simp] theorem State.trainFail_keeps (H : Closed I) {s : State} {u : UnitId} {cause : Nat} (h0 : Holds I s) : Holds I (State.trainFail s u cause) := by
  unfold State.trainFail
  exact (State.unitRecord_keeps H (State.unitFail_keeps H h0))

@[simp] theorem State.mixedCheck_keeps (H : Closed I) {s : State} {ch : Nat} (h0 : Holds I s) : Holds I (State.mixedCheck s ch) := by
  unfold State.mixedCheck
  extract_lets +onlyGivenNames -merge -useContext a20 a21 a22
  try clear_value a22
  refine iteInduction (motive := fun r => Holds I r) (fun _ => ?_) (fun _ => ?_)
  · exact (State.trainFail_keeps H h0)
  · exact h0

@[simp] theorem State.trainEnd_keeps (H : Closed I) {s : State} {u : UnitId} {r : TrainResult} (h0 : Holds I s) : Holds I (State.trainEnd s u r) := by
  unfold State.trainEnd
  extract_lets +onlyGivenNames -merge -useContext a20
  split
  · refine iteInduction (motive := fun r => Holds I r) (fun _ => ?_) (fun _ => ?_)
    · exact (State.setUnit_keeps H h0)
    · extract_lets +onlyGivenNames -merge -useContext a21
      have h22 : Holds I a21 := (State.setUnit_keeps H h0)
      try clear_value a21
      refine iteInduction (motive := fun r => Holds I r) (fun _ => ?_) (fun _ => ?_)
      · exact (State.mixedCheck_keeps H h22)
      · exact h22
  · exact (State.trainFail_keeps H h0)
  · exact (State.trainFail_keeps H h0)
  · exact (State.trainFail_keeps H h0)
  · exact (State.trainFail_keeps H h0)
  · exact (State.setUnit_keeps H h0)

@[simp] theorem State.trainStart_keeps (H : Closed I) {s : State} {u : UnitId} {toService : Bool} (h0 : Holds I s) : Holds I (State.trainStart s u toService) := by
  unfold State.trainStart
  exact (State.modUnit_keeps H h0)

@[simp] theorem State.tgStart_keeps (H : Closed I) {s : State} {u : UnitId} {passes : Nat} (h0 : Holds I s) : Holds I (State.tgStart s u passes) := by
  unfold State.tgStart
  exact (State.setReg_keeps H (State.modUnit_keeps H h0))

@[simp] theorem State.tgStopUnit_keeps (H : Closed I) {s : State} {u : UnitId} (h0 : Holds I s) : Holds I (State.tgStopUnit s u) := by
  unfold State.tgStopUnit
  refine iteInduction (motive := fun r => Holds I r) (fun _ => ?_) (fun _ => ?_)
  · exact (State.setRf_keeps H (State.modUnit_keeps H h0))
  · exact h0

@[simp] theorem State.tgWrite_keeps (H : Closed I) {s : State} {cxl : Bool} {page v : Nat} (h0 : Holds I s) : Holds I (State.tgWrite s cxl page v) := by
  unfold State.tgWrite
  extract_lets +onlyGivenNames -merge -useContext a20 a21 a22 a23
  try clear_value a20 a21 a22
  refine iteInduction (motive := fun r => Holds I r) (fun _ => ?_) (fun _ => ?_)
  · refine iteInduction (motive := fun r => Holds I r) (fun _ => ?_) (fun _ => ?_)
    · exact (State.tgStart_keeps H (State.setReg_keeps H h0))
    · exact h0
  · extract_lets +onlyGivenNames -merge -useContext a24
    have h25 : Holds I a24 := (State.setReg_keeps H h0)
    try clear_value a24
    refine iteInduction (motive := fun r => Holds I r) (fun _ => ?_) (fun _ => ?_)
    · exact (State.tgStopUnit_keeps H h25)
    · exact h25

@[simp] theorem State.rangeSync_keeps (H : Closed I) {s : State} {a n : Nat} (h0 : Holds I s) : Holds I (State.rangeSync s a n) := by
  unfold State.rangeSync
  extract_lets +onlyGivenNames -merge -useContext a20 a21
  try clear_value a20
  have h22 : Holds I a21 := by
    unfold a21
    refine State.each_keeps H h0 ?_
    · intro _ _ h23
      refine State.each_keeps H h23 ?_
      · intro _ _ h24
        exact (State.ccForget_keeps H h24)
  try clear_value a21
  extract_lets +onlyGivenNames -merge -useContext a25 a26
  try clear_value a25 a26
  exact holds_mk h22 rfl rfl rfl rfl rfl rfl

@[simp] theorem State.rangeCopy_keeps (H : Closed I) {s : State} {src dst n : Nat} (h0 : Holds I s) : Holds I (State.rangeCopy s src dst n) := by
  unfold State.rangeCopy
  extract_lets +onlyGivenNames -merge -useContext a20
  have h21 : Holds I a20 := (State.rangeSync_keeps H (State.rangeSync_keeps H h0))
  clear_value a20
  extract_lets +onlyGivenNames -merge -useContext a22 a23 a24 a25
  have h26 : Holds I a25 := by
    unfold a25
    exact H.poisonFilter _ _ (H.memFilter _ _ h21)
  clear_value a25 a22 a23
  extract_lets +onlyGivenNames -merge -useContext a27 a28
  have h29 : Holds I a28 := by
    unfold a28
    exact H.memSets (fun e : Nat × Byte => dst + (e.1 - src)) (fun e => e.2) _ h26
  clear_value a28
  refine State.each_keeps H h29 ?_
  intro _ _ h30
  exact (State.setPoison_keeps H h30)

@[simp] theorem State.countLines_keeps (H : Closed I) {s : State} {u : UnitId} {write : Bool} {n : Nat} (h0 : Holds I s) : Holds I (State.countLines s u write n) := by
  unfold State.countLines
  exact (State.bump_keeps H h0)

end Sys2Proof.Machine
end

