-- ==== Sys2Proof/Laws/KeepsExtMem.lean ====
section
/-! SUPPORT. What the operations of Machine/ExtMem.lean protect. -/

namespace Sys2Proof.Machine

set_option linter.all false

variable {I : Prot → Prop}

@[simp] theorem State.drainAct_keeps (H : Closed I) {t : State} {u : UnitId} (h0 : Holds I t) : Holds I ((State.drainAct t u).1) := by
  unfold State.drainAct
  refine iteInduction (motive := fun (r : State × Option Nat) => Holds I r.1) (fun _ => ?_) (fun _ => ?_)
  · exact (State.unitAnswer_keeps H (State.modUnit_keeps H h0))
  · exact (State.unitAnswer_keeps H h0)

theorem execDrain_keeps (H : Closed I) {p : Path} {v : W32} {s : State} (h2 : Holds I s) : ∀ t', execDrain p v s = Host.Outcome.next t' → Holds I t' := by
  show HoldsOut I _
  unfold execDrain
  refine out_next ?_
  refine State.unitCmd_keeps H h2 ?_
  · intro _ _ h20
    exact (State.drainAct_keeps H h20)

@[simp] theorem State.undrainAct_keeps (H : Closed I) {t : State} {u : UnitId} (h0 : Holds I t) : Holds I ((State.undrainAct t u).1) := by
  unfold State.undrainAct
  refine iteInduction (motive := fun (r : State × Option Nat) => Holds I r.1) (fun _ => ?_) (fun _ => ?_)
  · exact (State.unitAnswer_keeps H (State.modUnit_keeps H h0))
  · exact (State.unitAnswer_keeps H h0)

theorem execUndrain_keeps (H : Closed I) {p : Path} {v : W32} {s : State} (h2 : Holds I s) : ∀ t', execUndrain p v s = Host.Outcome.next t' → Holds I t' := by
  show HoldsOut I _
  unfold execUndrain
  refine out_next ?_
  refine State.unitCmd_keeps H h2 ?_
  · intro _ _ h20
    exact (State.undrainAct_keeps H h20)

@[simp] theorem State.quiesceAct_keeps (H : Closed I) {t : State} {p : Path} {u : UnitId} (h0 : Holds I t) : Holds I ((State.quiesceAct t p u).1) := by
  unfold State.quiesceAct
  extract_lets +onlyGivenNames -merge -useContext a20
  try clear_value a20
  refine iteInduction (motive := fun (r : State × Option Nat) => Holds I r.1) (fun _ => ?_) (fun _ => ?_)
  · exact (State.modUnit_keeps H h0)
  · exact (State.unitAnswer_keeps H h0)

theorem execQuiesce_keeps (H : Closed I) {p : Path} {v : W32} {s : State} (h2 : Holds I s) : ∀ t', execQuiesce p v s = Host.Outcome.next t' → Holds I t' := by
  show HoldsOut I _
  unfold execQuiesce
  refine out_next ?_
  refine State.unitCmd_keeps H h2 ?_
  · intro _ _ h20
    exact (State.quiesceAct_keeps H h20)

theorem execUnitQuiesced_keeps (H : Closed I) {u : UnitId} {s : State} (h1 : Holds I s) : ∀ t', execUnitQuiesced u s = Host.Outcome.next t' → Holds I t' := by
  show HoldsOut I _
  unfold execUnitQuiesced
  refine iteInduction (motive := fun r => HoldsOut I r) (fun _ => ?_) (fun _ => ?_)
  · extract_lets +onlyGivenNames -merge -useContext a20
    have h21 : Holds I a20 := (State.unitFlush_keeps H (State.modUnit_keeps H h1))
    try clear_value a20
    extract_lets +onlyGivenNames -merge -useContext a22
    have h23 : Holds I a22 := (State.modUnit_keeps H h21)
    try clear_value a22
    exact (out_next (State.unitReply_keeps H (State.unitLeaves_keeps H h23)))
  · exact (out_next h1)

@[simp] theorem State.testAct_keeps (H : Closed I) {t : State} {v : W32} {u : UnitId} (h0 : Holds I t) : Holds I ((State.testAct t v u).1) := by
  unfold State.testAct
  refine iteInduction (motive := fun (r : State × Option Nat) => Holds I r.1) (fun _ => ?_) (fun _ => ?_)
  · exact (State.unitAnswer_keeps H (State.tgStart_keeps H h0))
  · exact (State.unitAnswer_keeps H h0)

theorem execTest_keeps (H : Closed I) {p : Path} {v : W32} {s : State} (h2 : Holds I s) : ∀ t', execTest p v s = Host.Outcome.next t' → Holds I t' := by
  show HoldsOut I _
  unfold execTest
  refine out_next ?_
  refine State.unitCmd_keeps H h2 ?_
  · intro _ _ h20
    exact (State.testAct_keeps H h20)

theorem execTestPassEnd_keeps (H : Closed I) {u : UnitId} {failing first : Nat} {s : State} (h3 : Holds I s) : ∀ t', execTestPassEnd u failing first s = Host.Outcome.next t' → Holds I t' := by
  show HoldsOut I _
  unfold execTestPassEnd
  extract_lets +onlyGivenNames -merge -useContext a20
  refine iteInduction (motive := fun r => HoldsOut I r) (fun _ => ?_) (fun _ => ?_)
  · extract_lets +onlyGivenNames -merge -useContext a21 a22 a23
    try clear_value a21 a22
    have h24 : Holds I a23 := (State.bumpSat_keeps H (State.setRf_keeps H h3))
    try clear_value a23
    extract_lets +onlyGivenNames -merge -useContext a25
    have h26 : Holds I a25 := by
      unfold a25
      refine iteInduction (motive := fun r => Holds I r) (fun _ => ?_) (fun _ => ?_)
      · exact (State.setRf_keeps H (State.setReg_keeps H h24))
      · exact h24
    try clear_value a25
    extract_lets +onlyGivenNames -merge -useContext a27
    have h28 : Holds I a27 := (State.modUnit_keeps H h26)
    try clear_value a27
    refine out_next ?_
    refine iteInduction (motive := fun r => Holds I r) (fun _ => ?_) (fun _ => ?_)
    · exact (State.tgStopUnit_keeps H h28)
    · exact h28
  · exact (out_next h3)

@[simp] theorem State.returnAct_keeps (H : Closed I) {t : State} {p : Path} {u : UnitId} (h0 : Holds I t) : Holds I ((State.returnAct t p u).1) := by
  unfold State.returnAct
  extract_lets +onlyGivenNames -merge -useContext a20
  refine iteInduction (motive := fun (r : State × Option Nat) => Holds I r.1) (fun _ => ?_) (fun _ => ?_)
  · exact (State.modUnit_keeps H h0)
  · exact (State.unitAnswer_keeps H h0)

theorem execReturnUnit_keeps (H : Closed I) {p : Path} {v : W32} {s : State} (h2 : Holds I s) : ∀ t', execReturnUnit p v s = Host.Outcome.next t' → Holds I t' := by
  show HoldsOut I _
  unfold execReturnUnit
  refine out_next ?_
  refine State.unitCmd_keeps H h2 ?_
  · intro _ _ h20
    exact (State.returnAct_keeps H h20)

theorem execUnitReturned_keeps (H : Closed I) {u : UnitId} {s : State} (h1 : Holds I s) : ∀ t', execUnitReturned u s = Host.Outcome.next t' → Holds I t' := by
  show HoldsOut I _
  unfold execUnitReturned
  extract_lets +onlyGivenNames -merge -useContext a20
  refine iteInduction (motive := fun r => HoldsOut I r) (fun _ => ?_) (fun _ => ?_)
  · extract_lets +onlyGivenNames -merge -useContext a21
    have h22 : Holds I a21 := by
      unfold a21
      refine iteInduction (motive := fun r => Holds I r) (fun _ => ?_) (fun _ => ?_)
      · exact (State.unitZero_keeps H h1)
      · exact h1
    try clear_value a21
    exact (out_next (State.unitReply_keeps H (State.modUnit_keeps H h22)))
  · exact (out_next h1)

@[simp] theorem State.retrainAct_keeps (H : Closed I) {t : State} {u : UnitId} (h0 : Holds I t) : Holds I ((State.retrainAct t u).1) := by
  unfold State.retrainAct
  extract_lets +onlyGivenNames -merge -useContext a20
  refine iteInduction (motive := fun (r : State × Option Nat) => Holds I r.1) (fun _ => ?_) (fun _ => ?_)
  · extract_lets +onlyGivenNames -merge -useContext a21
    have h22 : Holds I a21 := (State.trainStart_keeps H h0)
    try clear_value a21
    refine State.unitAnswer_keeps H ?_
    · refine iteInduction (motive := fun r => Holds I r) (fun _ => ?_) (fun _ => ?_)
      · exact (State.bump_keeps H h22)
      · exact h22
  · exact (State.unitAnswer_keeps H h0)

theorem execRetrain_keeps (H : Closed I) {p : Path} {v : W32} {s : State} (h2 : Holds I s) : ∀ t', execRetrain p v s = Host.Outcome.next t' → Holds I t' := by
  show HoldsOut I _
  unfold execRetrain
  refine out_next ?_
  refine State.unitCmd_keeps H h2 ?_
  · intro _ _ h20
    exact (State.retrainAct_keeps H h20)

theorem execUnitTrainingEnd_keeps (H : Closed I) {u : UnitId} {r : TrainResult} {s : State} (h2 : Holds I s) : ∀ t', execUnitTrainingEnd u r s = Host.Outcome.next t' → Holds I t' := by
  show HoldsOut I _
  unfold execUnitTrainingEnd
  refine out_next ?_
  refine iteInduction (motive := fun r => Holds I r) (fun _ => ?_) (fun _ => ?_)
  · exact (State.trainEnd_keeps H h2)
  · exact h2

@[simp] theorem State.spareStart_keeps (H : Closed I) {s : State} {p : Path} {pc : Nat} (h0 : Holds I s) : Holds I ((State.spareStart s p pc).1) := by
  unfold State.spareStart
  extract_lets +onlyGivenNames -merge -useContext a20
  try clear_value a20
  refine iteInduction (motive := fun (r : State × Option Nat) => Holds I r.1) (fun _ => ?_) (fun _ => ?_)
  · exact (State.unitAnswer_keeps H h0)
  · refine iteInduction (motive := fun (r : State × Option Nat) => Holds I r.1) (fun _ => ?_) (fun _ => ?_)
    · exact (State.unitAnswer_keeps H h0)
    · refine iteInduction (motive := fun (r : State × Option Nat) => Holds I r.1) (fun _ => ?_) (fun _ => ?_)
      · exact (State.unitAnswer_keeps H h0)
      · exact holds_mk h0 rfl rfl rfl rfl rfl rfl

@[simp] theorem State.sparePcAct_keeps (H : Closed I) {t : State} {p : Path} {n : Nat} (h0 : Holds I t) : Holds I ((State.sparePcAct t p n).1) := by
  unfold State.sparePcAct
  refine iteInduction (motive := fun (r : State × Option Nat) => Holds I r.1) (fun _ => ?_) (fun _ => ?_)
  · exact (State.spareStart_keeps H h0)
  · exact (State.unitAnswer_keeps H h0)

theorem execSparePc_keeps (H : Closed I) {p : Path} {v : W32} {s : State} (h2 : Holds I s) : ∀ t', execSparePc p v s = Host.Outcome.next t' → Holds I t' := by
  show HoldsOut I _
  unfold execSparePc
  extract_lets +onlyGivenNames -merge -useContext a20
  try clear_value a20
  refine out_next ?_
  refine State.odCmd_keeps H h2 ?_
  · intro _ h21
    exact (State.sparePcAct_keeps H h21)

theorem execSparePcDone_keeps (H : Closed I) {pc : Nat} {s : State} (h1 : Holds I s) : ∀ t', execSparePcDone pc s = Host.Outcome.next t' → Holds I t' := by
  show HoldsOut I _
  unfold execSparePcDone
  split
  · exact (out_next h1)
  · extract_lets +onlyGivenNames -merge -useContext a20 a21
    have h22 : Holds I a21 := by
      unfold a21
      exact holds_mk h1 rfl rfl rfl rfl rfl rfl
    try clear_value a21
    extract_lets +onlyGivenNames -merge -useContext a23
    have h24 : Holds I a23 := (State.odBumpSat_keeps H (State.setRf_keeps H h22))
    try clear_value a23
    exact (out_next (State.odAnswer_keeps H (State.odSet_keeps H h24)))

theorem execDimmLatch_keeps (H : Closed I) {ch : Nat} {s : State} (h1 : Holds I s) : ∀ t', execDimmLatch ch s = Host.Outcome.next t' → Holds I t' := by
  show HoldsOut I _
  unfold execDimmLatch
  extract_lets +onlyGivenNames -merge -useContext a20 a21
  have h22 : Holds I a21 := (State.modUnit_keeps H h1)
  try clear_value a21
  split
  · exact (out_next (State.alert_keeps H (State.logEvent_keeps H (State.unitFail_keeps H h22))))
  · exact (out_next (State.alert_keeps H (State.logEvent_keeps H (State.unitFail_keeps H h22))))
  · exact (out_next (State.alert_keeps H (State.logEvent_keeps H (State.unitFail_keeps H h22))))
  · exact (out_next (State.unitReply_keeps H (State.modUnit_keeps H h22)))
  · exact (out_next (State.unitReply_keeps H (State.modUnit_keeps H h22)))
  · exact (out_next h22)

theorem execDimmLatchClose_keeps (H : Closed I) {ch : Nat} {fitted : Bool} {s : State} (h2 : Holds I s) : ∀ t', execDimmLatchClose ch fitted s = Host.Outcome.next t' → Holds I t' := by
  show HoldsOut I _
  unfold execDimmLatchClose
  extract_lets +onlyGivenNames -merge -useContext a20
  exact (out_next (State.modUnit_keeps H h2))

theorem execDimmTrainingStart_keeps (H : Closed I) {ch : Nat} {s : State} (h1 : Holds I s) : ∀ t', execDimmTrainingStart ch s = Host.Outcome.next t' → Holds I t' := by
  show HoldsOut I _
  unfold execDimmTrainingStart
  extract_lets +onlyGivenNames -merge -useContext a20
  split
  · exact (out_next h1)
  · refine out_next ?_
    refine iteInduction (motive := fun r => Holds I r) (fun _ => ?_) (fun _ => ?_)
    · exact (State.trainStart_keeps H h1)
    · exact h1

theorem execDimmThermalRead_keeps (H : Closed I) {ch : Nat} {temp : Int} {s : State} (h2 : Holds I s) : ∀ t', execDimmThermalRead ch temp s = Host.Outcome.next t' → Holds I t' := by
  show HoldsOut I _
  unfold execDimmThermalRead
  exact (out_next (State.modUnit_keeps H h2))

@[simp] theorem State.cxlDown_keeps (H : Closed I) {s : State} {port cause : Nat} (h0 : Holds I s) : Holds I (State.cxlDown s port cause) := by
  unfold State.cxlDown
  extract_lets +onlyGivenNames -merge -useContext a20 a21
  refine iteInduction (motive := fun r => Holds I r) (fun _ => ?_) (fun _ => ?_)
  · exact (State.unitRecord_keeps H (State.setUnit_keeps H h0))
  · exact h0

theorem execCxlLinkDown_keeps (H : Closed I) {port : Nat} {s : State} (h1 : Holds I s) : ∀ t', execCxlLinkDown port s = Host.Outcome.next t' → Holds I t' := by
  show HoldsOut I _
  unfold execCxlLinkDown
  exact (out_next (State.cxlDown_keeps H h1))

theorem execCxlRequestTimeout_keeps (H : Closed I) {port : Nat} {s : State} (h1 : Holds I s) : ∀ t', execCxlRequestTimeout port s = Host.Outcome.next t' → Holds I t' := by
  show HoldsOut I _
  unfold execCxlRequestTimeout
  exact (out_next (State.cxlDown_keeps H h1))

theorem execCxlRetrainEnd_keeps (H : Closed I) {port : Nat} {ok : Bool} {s : State} (h2 : Holds I s) : ∀ t', execCxlRetrainEnd port ok s = Host.Outcome.next t' → Holds I t' := by
  show HoldsOut I _
  unfold execCxlRetrainEnd
  extract_lets +onlyGivenNames -merge -useContext a20 a21
  refine iteInduction (motive := fun r => HoldsOut I r) (fun _ => ?_) (fun _ => ?_)
  · extract_lets +onlyGivenNames -merge -useContext a22
    have h23 : Holds I a22 := (State.bump_keeps H h2)
    try clear_value a22
    refine iteInduction (motive := fun r => HoldsOut I r) (fun _ => ?_) (fun _ => ?_)
    · exact (out_next (State.setUnit_keeps H h23))
    · refine iteInduction (motive := fun r => HoldsOut I r) (fun _ => ?_) (fun _ => ?_)
      · exact (out_next (State.setUnit_keeps H h23))
      · exact (out_next (State.unitFail_keeps H h23))
  · exact (out_next h2)

theorem execCxlReadyTimeout_keeps (H : Closed I) {port : Nat} {linkUp bound : Bool} {s : State} (h3 : Holds I s) : ∀ t', execCxlReadyTimeout port linkUp bound s = Host.Outcome.next t' → Holds I t' := by
  show HoldsOut I _
  unfold execCxlReadyTimeout
  extract_lets +onlyGivenNames -merge -useContext a20
  refine iteInduction (motive := fun r => HoldsOut I r) (fun _ => ?_) (fun _ => ?_)
  · refine out_next ?_
    refine iteInduction (motive := fun r => Holds I r) (fun _ => ?_) (fun _ => ?_)
    · exact (State.trainEnd_keeps H h3)
    · refine iteInduction (motive := fun r => Holds I r) (fun _ => ?_) (fun _ => ?_)
      · exact (State.trainEnd_keeps H h3)
      · exact (State.trainEnd_keeps H h3)
  · exact (out_next h3)

theorem execUnitFailed_keeps (H : Closed I) {u : UnitId} {part : Nat} {s : State} (h2 : Holds I s) : ∀ t', execUnitFailed u part s = Host.Outcome.next t' → Holds I t' := by
  show HoldsOut I _
  unfold execUnitFailed
  refine out_next ?_
  refine iteInduction (motive := fun r => Holds I r) (fun _ => ?_) (fun _ => ?_)
  · exact (State.unitFail_keeps H (State.unitRecord_keeps H h2))
  · exact h2

@[simp] theorem State.bootTrain_keeps (H : Closed I) {s : State} {u : UnitId} {r : TrainResult} (h0 : Holds I s) : Holds I (State.bootTrain s u r) := by
  unfold State.bootTrain
  extract_lets +onlyGivenNames -merge -useContext a20
  have h21 : Holds I a20 := (State.modUnit_keeps H h0)
  try clear_value a20
  exact (State.trainEnd_keeps H (State.unitZero_keeps H h21))

theorem execMemoryTrainingEnd_keeps (H : Closed I) {hbm ddr : List TrainResult} {ms : Nat} {s : State} (h3 : Holds I s) : ∀ t', execMemoryTrainingEnd hbm ddr ms s = Host.Outcome.next t' → Holds I t' := by
  show HoldsOut I _
  unfold execMemoryTrainingEnd
  refine iteInduction (motive := fun r => HoldsOut I r) (fun _ => ?_) (fun _ => ?_)
  · extract_lets +onlyGivenNames -merge -useContext a20
    have h21 : Holds I a20 := by
      unfold a20
      refine State.each_keeps H h3 ?_
      · intro _ _ h22
        exact (State.bootTrain_keeps H h22)
    try clear_value a20
    extract_lets +onlyGivenNames -merge -useContext a23
    have h24 : Holds I a23 := by
      unfold a23
      refine State.each_keeps H h21 ?_
      · intro _ _ h25
        exact (State.bootTrain_keeps H h25)
    try clear_value a23
    extract_lets +onlyGivenNames -merge -useContext a26
    have h27 : Holds I a26 := by
      unfold a26
      refine State.each_keeps H h24 ?_
      · intro _ _ h28
        exact (State.uuEnable_keeps H h28)
    try clear_value a26
    refine out_next ?_
    refine State.bootGo_keeps H ?_
    · refine State.odSet_keeps H ?_
      · exact holds_mk h27 rfl rfl rfl rfl rfl rfl
  · exact (out_next h3)

@[simp] theorem State.moveAnswer_keeps (H : Closed I) {s : State} {st entry : Nat} (h0 : Holds I s) : Holds I ((State.moveAnswer s st entry).1) := by
  unfold State.moveAnswer
  exact (State.odSet_keeps H h0)

@[simp] theorem State.moveStartAct_keeps (H : Closed I) {t : State} {w : Words4} (h0 : Holds I t) : Holds I ((State.moveStartAct t w).1) := by
  unfold State.moveStartAct
  extract_lets +onlyGivenNames -merge -useContext a20 a21 a22 a23
  try clear_value a20 a21 a22 a23
  refine iteInduction (motive := fun (r : State × Option Nat) => Holds I r.1) (fun _ => ?_) (fun _ => ?_)
  · exact (State.moveAnswer_keeps H h0)
  · split
    · refine iteInduction (motive := fun (r : State × Option Nat) => Holds I r.1) (fun _ => ?_) (fun _ => ?_)
      · exact (State.moveAnswer_keeps H h0)
      · split
        · exact (State.moveAnswer_keeps H h0)
        · refine State.moveAnswer_keeps H ?_
          · exact holds_mk h0 rfl rfl rfl rfl rfl rfl
    · exact (State.moveAnswer_keeps H h0)

theorem execMoveStart_keeps (H : Closed I) {p : Path} {w : Words4} {s : State} (h2 : Holds I s) : ∀ t', execMoveStart p w s = Host.Outcome.next t' → Holds I t' := by
  show HoldsOut I _
  unfold execMoveStart
  refine out_next ?_
  refine State.odCmd_keeps H h2 ?_
  · intro _ h20
    exact (State.moveStartAct_keeps H h20)

theorem execMoveCopied_keeps (H : Closed I) {entry : Nat} {s : State} (h1 : Holds I s) : ∀ t', execMoveCopied entry s = Host.Outcome.next t' → Holds I t' := by
  show HoldsOut I _
  unfold execMoveCopied
  extract_lets +onlyGivenNames -merge -useContext a20
  split
  · refine iteInduction (motive := fun r => HoldsOut I r) (fun _ => ?_) (fun _ => ?_)
    · extract_lets +onlyGivenNames -merge -useContext a21 a22
      try clear_value a21
      have h23 : Holds I a22 := (State.countLines_keeps H (State.countLines_keeps H (State.rangeCopy_keeps H h1)))
      try clear_value a22
      refine out_next ?_
      exact holds_mk h23 rfl rfl rfl rfl rfl rfl
    · exact (out_next h1)
  · exact (out_next h1)

@[simp] theorem State.moveReleaseAct_keeps (H : Closed I) {t : State} {w : Words4} (h0 : Holds I t) : Holds I ((State.moveReleaseAct t w).1) := by
  unfold State.moveReleaseAct
  extract_lets +onlyGivenNames -merge -useContext a20 a21
  try clear_value a20
  refine iteInduction (motive := fun (r : State × Option Nat) => Holds I r.1) (fun _ => ?_) (fun _ => ?_)
  · exact (State.moveAnswer_keeps H h0)
  · refine State.moveAnswer_keeps H ?_
    · exact holds_mk h0 rfl rfl rfl rfl rfl rfl

theorem execMoveRelease_keeps (H : Closed I) {p : Path} {w : Words4} {s : State} (h2 : Holds I s) : ∀ t', execMoveRelease p w s = Host.Outcome.next t' → Holds I t' := by
  show HoldsOut I _
  unfold execMoveRelease
  refine out_next ?_
  refine State.odCmd_keeps H h2 ?_
  · intro _ h20
    exact (State.moveReleaseAct_keeps H h20)

theorem execBucketRefill_keeps (H : Closed I) {s : State} (h0 : Holds I s) : ∀ t', execBucketRefill s = Host.Outcome.next t' → Holds I t' := by
  show HoldsOut I _
  unfold execBucketRefill
  refine out_next ?_
  refine State.each_keeps H h0 ?_
  · intro _ _ h20
    exact holds_mk h20 rfl rfl rfl rfl rfl rfl

@[simp] theorem State.patrolError_keeps (H : Closed I) {s : State} {u : UnitId} {e : SectorError} (h0 : Holds I s) : Holds I (State.patrolError s u e) := by
  unfold State.patrolError; (repeat' first | with_reducible assumption | (simp (maxDischargeDepth := 60) +contextual only [*, holds_mk, holds_ite, State.odBump_keeps, State.bump_keeps, State.unitRecord_keeps, State.setPoison_keeps, State.quarantineAdd_keeps]; done) | with_reducible refine State.odBump_keeps H ?_ | with_reducible refine State.bump_keeps H ?_ | with_reducible refine State.unitRecord_keeps H ?_ | with_reducible refine State.setPoison_keeps H ?_ | with_reducible refine State.quarantineAdd_keeps H ?_ | with_reducible refine holds_foldl ?_ ?_ | with_reducible refine State.each_keeps H ?_ ?_ | with_reducible refine holds_ite ?_ ?_ | with_reducible refine holds_ite_fst ?_ ?_ | with_reducible refine holds_ite_snd ?_ ?_ | with_reducible refine holds_foldl_fst ?_ ?_ | with_reducible refine holds_foldl_snd ?_ ?_ | with_reducible refine holds_of_fst (by assumption) ?_ | with_reducible refine holds_of_snd (by assumption) ?_ | intro _ | split | dsimp only)

theorem execPatrolPass_keeps (H : Closed I) {u : UnitId} {errs : List SectorError} {s : State} (h2 : Holds I s) : ∀ t', execPatrolPass u errs s = Host.Outcome.next t' → Holds I t' := by
  show HoldsOut I _
  unfold execPatrolPass
  refine out_next ?_
  refine iteInduction (motive := fun r => Holds I r) (fun _ => ?_) (fun _ => ?_)
  · refine State.each_keeps H h2 ?_
    · intro _ _ h20
      exact (State.patrolError_keeps H h20)
  · exact h2

@[simp] theorem State.rowReport_keeps (H : Closed I) {s : State} {first lines : Nat} (h0 : Holds I s) : Holds I (State.rowReport s first lines) := by
  unfold State.rowReport
  refine State.each_keeps H h0 ?_
  · intro _ _ h20
    exact (State.errVec_keeps H h20)

theorem execRowRepair_keeps (H : Closed I) {u : UnitId} {firstLine lines : Nat} {spareRow : Bool} {s : State} (h4 : Holds I s) : ∀ t', execRowRepair u firstLine lines spareRow s = Host.Outcome.next t' → Holds I t' := by
  show HoldsOut I _
  unfold execRowRepair
  refine iteInduction (motive := fun r => HoldsOut I r) (fun _ => ?_) (fun _ => ?_)
  · refine iteInduction (motive := fun r => HoldsOut I r) (fun _ => ?_) (fun _ => ?_)
    · exact (out_next (State.rowReport_keeps H h4))
    · exact (out_next (State.odBumpSat_keeps H h4))
  · exact (out_next h4)

@[simp] theorem State.mirrorAddAct_keeps (H : Closed I) {t : State} {w : Words4} (h0 : Holds I t) : Holds I ((State.mirrorAddAct t w).1) := by
  unfold State.mirrorAddAct
  extract_lets +onlyGivenNames -merge -useContext a20 a21 a22
  try clear_value a20 a21 a22
  refine iteInduction (motive := fun (r : State × Option Nat) => Holds I r.1) (fun _ => ?_) (fun _ => ?_)
  · exact h0
  · split
    · refine iteInduction (motive := fun (r : State × Option Nat) => Holds I r.1) (fun _ => ?_) (fun _ => ?_)
      · exact h0
      · split
        · exact h0
        · exact holds_mk h0 rfl rfl rfl rfl rfl rfl
    · exact h0

theorem execMirrorAdd_keeps (H : Closed I) {p : Path} {w : Words4} {s : State} (h2 : Holds I s) : ∀ t', execMirrorAdd p w s = Host.Outcome.next t' → Holds I t' := by
  show HoldsOut I _
  unfold execMirrorAdd
  refine out_next ?_
  refine State.odCmd_keeps H h2 ?_
  · intro _ h20
    exact (State.mirrorAddAct_keeps H h20)

@[simp] theorem State.mirrorRemoveAct_keeps (H : Closed I) {t : State} {w : Words4} (h0 : Holds I t) : Holds I ((State.mirrorRemoveAct t w).1) := by
  unfold State.mirrorRemoveAct
  extract_lets +onlyGivenNames -merge -useContext a20
  try clear_value a20
  refine iteInduction (motive := fun (r : State × Option Nat) => Holds I r.1) (fun _ => ?_) (fun _ => ?_)
  · exact h0
  · exact holds_mk h0 rfl rfl rfl rfl rfl rfl

theorem execMirrorRemove_keeps (H : Closed I) {p : Path} {w : Words4} {s : State} (h2 : Holds I s) : ∀ t', execMirrorRemove p w s = Host.Outcome.next t' → Holds I t' := by
  show HoldsOut I _
  unfold execMirrorRemove
  refine out_next ?_
  refine State.odCmd_keeps H h2 ?_
  · intro _ h20
    exact (State.mirrorRemoveAct_keeps H h20)

theorem execTgGo_keeps (H : Closed I) {p : Path} {cxl : Bool} {page : Nat} {v : W32} {s : State} (h4 : Holds I s) : ∀ t', execTgGo p cxl page v s = Host.Outcome.next t' → Holds I t' := by
  show HoldsOut I _
  unfold execTgGo
  refine out_next ?_
  refine State.regGateP_keeps H h4 ?_
  · intro _ h20
    exact (State.tgWrite_keeps H h20)

theorem execTgStop_keeps (H : Closed I) {p : Path} {cxl : Bool} {page : Nat} {v : W32} {s : State} (h4 : Holds I s) : ∀ t', execTgStop p cxl page v s = Host.Outcome.next t' → Holds I t' := by
  show HoldsOut I _
  unfold execTgStop
  refine out_next ?_
  refine State.regGateP_keeps H h4 ?_
  · intro _ h20
    exact (State.tgWrite_keeps H h20)

end Sys2Proof.Machine
end

