-- ==== Sys2Proof/Laws/KeepsResets.lean ====
section
/-! SUPPORT. What the operations of Machine/Resets.lean protect. -/

namespace Sys2Proof.Machine

set_option linter.all false

variable {I : Prot → Prop}

@[simp] theorem State.odReset_keeps (H : Closed I) {s : State} {rules : Bool} (h0 : Holds I s) : Holds I (State.odReset s rules) := by
  unfold State.odReset
  exact holds_mk h0 rfl rfl rfl rfl rfl rfl

@[simp] theorem State.discardAll_keeps (H : Closed I) {s : State} (h0 : Holds I s) : Holds I (State.discardAll s) := by
  unfold State.discardAll
  refine State.each_keeps H h0 ?_
  · intro _ _ h20
    exact (State.discardSb_keeps H h20)

@[simp] theorem State.slotStatus_keeps (H : Closed I) {s : State} (h0 : Holds I s) : Holds I (State.slotStatus s) := by
  unfold State.slotStatus
  exact (State.setRf_keeps H (State.setRf_keeps H h0))

@[simp] theorem State.hardReset_keeps (H : Closed I) {s : State} (h0 : Holds I s) : Holds I (State.hardReset s) := by
  unfold State.hardReset
  extract_lets +onlyGivenNames -merge -useContext a20
  have h21 : Holds I a20 := (State.discardAll_keeps H h0)
  clear_value a20
  extract_lets +onlyGivenNames -merge -useContext a22 a23 a24
  clear_value a22 a23
  extract_lets +onlyGivenNames -merge -useContext a26 a27 a28
  have h29 : Holds I a28 := by
    unfold a28
    exact H.poisonClear (H.memClear h21)
  clear_value a28
  extract_lets +onlyGivenNames -merge -useContext a30
  have h31 : Holds I a30 := (State.slotStatus_keeps H (State.setReg_keeps H h29))
  clear_value a30
  extract_lets +onlyGivenNames -merge -useContext a32
  have h33 : Holds I a32 := by
    unfold a32
    refine State.each_keeps H h31 ?_
    intro _ _ h34
    exact (State.setRf_keeps H h34)
  clear_value a32
  exact (State.setStage_keeps H h33)

@[simp] theorem State.warmEnd_keeps (H : Closed I) {s : State} (h0 : Holds I s) : Holds I (State.warmEnd s) := by
  unfold State.warmEnd
  extract_lets +onlyGivenNames -merge -useContext a20 a21
  try clear_value a20
  have h22 : Holds I a21 := by
    unfold a21
    refine State.each_keeps H h0 ?_
    · intro _ _ h23
      exact (State.teardown_keeps H h23)
  try clear_value a21
  extract_lets +onlyGivenNames -merge -useContext a24
  have h25 : Holds I a24 := by
    unfold a24
    refine State.each_keeps H h22 ?_
    · intro _ _ h26
      exact (State.completeEntry_keeps H (State.endHeld_keeps H h26))
  try clear_value a24
  refine State.each_keeps H h25 ?_
  · intro _ _ h27
    exact (State.errorFences_keeps H h27)

@[simp] theorem State.hubReset_keeps (H : Closed I) {s : State} (h0 : Holds I s) : Holds I (State.hubReset s) := by
  unfold State.hubReset
  extract_lets +onlyGivenNames -merge -useContext a20 a21
  have h21 : Holds I a21 := (State.odBump_keeps H h0)
  clear_value a20 a21
  extract_lets +onlyGivenNames -merge -useContext a22 a23 a24 a25
  have h29 : Holds I a25 := by
    unfold a25
    exact holds_congr (s := a21) rfl h21
  clear_value a25
  refine State.each_keeps H h29 ?_
  intro _ _ h34
  refine holds_ite (fun _ => State.latchPart_keeps H h34) (fun _ => h34)

@[simp] theorem State.warmReset_keeps (H : Closed I) {s : State} (h0 : Holds I s) : Holds I (State.warmReset s) := by
  unfold State.warmReset
  exact (State.logEvent_keeps H (State.odBump_keeps H (State.hubReset_keeps H (State.warmEnd_keeps H (State.setStage_keeps H h0)))))

@[simp] theorem State.flrPart_keeps (H : Closed I) {s : State} {p : Nat} {remoteOnly : Bool} (h0 : Holds I s) : Holds I (State.flrPart s p remoteOnly) := by
  unfold State.flrPart
  refine State.each_keeps H h0 ?_
  · intro _ _ h20
    exact (State.killNow_keeps H h20)

@[simp] theorem State.powerLost_keeps (H : Closed I) {s : State} {phase : PwrPhase} {hold : Bool} (h0 : Holds I s) : Holds I (State.powerLost s phase hold) := by
  unfold State.powerLost
  exact H.poisonClear (H.memClear h0)

@[simp] theorem State.thermalStop_keeps (H : Closed I) {s : State} (h0 : Holds I s) : Holds I (State.thermalStop s) := by
  unfold State.thermalStop
  exact (State.powerLost_keeps H (State.alert_keeps H (State.logEvent_keeps H h0)))

@[simp] theorem State.fanCheck_keeps (H : Closed I) {s : State} (h0 : Holds I s) : Holds I (State.fanCheck s) := by
  unfold State.fanCheck
  refine iteInduction (motive := fun r => Holds I r) (fun _ => ?_) (fun _ => ?_)
  · exact (State.thermalStop_keeps H h0)
  · exact h0

end Sys2Proof.Machine
end

