-- ==== Sys2Proof/Laws/KeepsHostLink.lean ====
section
/-! SUPPORT. What the operations of Machine/HostLink.lean protect. -/

namespace Sys2Proof.Machine

set_option linter.all false

variable {I : Prot → Prop}

@[simp] theorem State.linkEntry_keeps (H : Closed I) {s : State} (h0 : Holds I s) : Holds I (State.linkEntry s) := by
  unfold State.linkEntry
  extract_lets +onlyGivenNames -merge -useContext a20
  exact (State.odSet_keeps H h0)

theorem execLinkTraining_keeps (H : Closed I) {rate width : Nat} {flit : Bool} {s : State} (h3 : Holds I s) : ∀ t', execLinkTraining rate width flit s = Host.Outcome.next t' → Holds I t' := by
  show HoldsOut I _
  unfold execLinkTraining
  refine iteInduction (motive := fun r => HoldsOut I r) (fun _ => ?_) (fun _ => ?_)
  · exact (out_next h3)
  · extract_lets +onlyGivenNames -merge -useContext a20 a21 a22
    try clear_value a20 a21
    have h23 : Holds I a22 := by
      unfold a22
      refine iteInduction (motive := fun r => Holds I r) (fun _ => ?_) (fun _ => ?_)
      · exact (State.odBump_keeps H h3)
      · exact h3
    try clear_value a22
    refine out_next ?_
    refine State.linkEntry_keeps H ?_
    · exact holds_mk h23 rfl rfl rfl rfl rfl rfl

theorem execLaneLossRetrain_keeps (H : Closed I) {width : Nat} {s : State} (h1 : Holds I s) : ∀ t', execLaneLossRetrain width s = Host.Outcome.next t' → Holds I t' := by
  show HoldsOut I _
  unfold execLaneLossRetrain
  refine iteInduction (motive := fun r => HoldsOut I r) (fun _ => ?_) (fun _ => ?_)
  · refine out_next ?_
    refine State.linkEntry_keeps H ?_
    · refine State.odBump_keeps H ?_
      · exact holds_mk h1 rfl rfl rfl rfl rfl rfl
  · exact (out_next h1)

theorem execDlDown_keeps (H : Closed I) {s : State} (h0 : Holds I s) : ∀ t', execDlDown s = Host.Outcome.next t' → Holds I t' := by
  show HoldsOut I _
  unfold execDlDown
  refine iteInduction (motive := fun r => HoldsOut I r) (fun _ => ?_) (fun _ => ?_)
  · refine out_next ?_
    extract_lets +onlyGivenNames -merge -useContext a20
    have h21 : Holds I a20 := (State.hardReset_keeps H h0)
    try clear_value a20
    exact holds_mk h21 rfl rfl rfl rfl rfl rfl
  · exact (out_next h0)

theorem execHotReset_keeps (H : Closed I) {s : State} (h0 : Holds I s) : ∀ t', execHotReset s = Host.Outcome.next t' → Holds I t' := by
  show HoldsOut I _
  unfold execHotReset
  refine iteInduction (motive := fun r => HoldsOut I r) (fun _ => ?_) (fun _ => ?_)
  · refine out_next ?_
    extract_lets +onlyGivenNames -merge -useContext a20
    have h21 : Holds I a20 := (State.hardReset_keeps H h0)
    try clear_value a20
    exact holds_mk h21 rfl rfl rfl rfl rfl rfl
  · exact (out_next h0)

theorem execPerst_keeps (H : Closed I) {s : State} (h0 : Holds I s) : ∀ t', execPerst s = Host.Outcome.next t' → Holds I t' := by
  show HoldsOut I _
  unfold execPerst
  refine iteInduction (motive := fun r => HoldsOut I r) (fun _ => ?_) (fun _ => ?_)
  · extract_lets +onlyGivenNames -merge -useContext a20
    have h21 : Holds I a20 := (State.hardReset_keeps H h0)
    try clear_value a20
    refine out_next ?_
    exact holds_mk h21 rfl rfl rfl rfl rfl rfl
  · exact (out_next h0)

theorem execPerstRelease_keeps (H : Closed I) {s : State} (h0 : Holds I s) : ∀ t', execPerstRelease s = Host.Outcome.next t' → Holds I t' := by
  show HoldsOut I _
  unfold execPerstRelease
  refine iteInduction (motive := fun r => HoldsOut I r) (fun _ => ?_) (fun _ => ?_)
  · refine out_next ?_
    exact holds_mk h0 rfl rfl rfl rfl rfl rfl
  · exact (out_next h0)

@[simp] theorem State.bar2Miss_keeps (H : Closed I) {s : State} {f : Nat} (h0 : Holds I s) : Holds I (State.bar2Miss s f) := by
  unfold State.bar2Miss
  exact (State.modFn_keeps H h0)

@[simp] theorem State.bar2Fault_keeps (H : Closed I) {s : State} {f acc : Nat} {x : XFault} (h0 : Holds I s) : Holds I (State.bar2Fault s f acc x) := by
  unfold State.bar2Fault
  exact (State.quietRecord_keeps H (State.bar2Miss_keeps H h0))

theorem execHostBar2Write_keeps (H : Closed I) {fn off : Nat} {data : List Byte} {poisoned : Bool} {s : State} (h4 : Holds I s) : ∀ t', execHostBar2Write fn off data poisoned s = Host.Outcome.next t' → Holds I t' := by
  show HoldsOut I _
  unfold execHostBar2Write
  refine iteInduction (motive := fun r => HoldsOut I r) (fun _ => ?_) (fun _ => ?_)
  · exact (out_next (State.urAnswer_keeps H h4))
  · refine iteInduction (motive := fun r => HoldsOut I r) (fun _ => ?_) (fun _ => ?_)
    · exact (out_next h4)
    · refine iteInduction (motive := fun r => HoldsOut I r) (fun _ => ?_) (fun _ => ?_)
      · exact (out_next (State.discardRo_keeps H h4))
      · refine iteInduction (motive := fun r => HoldsOut I r) (fun _ => ?_) (fun _ => ?_)
        · exact (out_next (State.bar2Miss_keeps H h4))
        · extract_lets +onlyGivenNames -merge -useContext a20
          have h21 : Holds I a20 := by
            unfold a20
            refine iteInduction (motive := fun r => Holds I r) (fun _ => ?_) (fun _ => ?_)
            · exact (State.aer_keeps H h4)
            · exact h4
          try clear_value a20
          extract_lets +onlyGivenNames -merge -useContext a22
          try clear_value a22
          refine iteInduction (motive := fun r => HoldsOut I r) (fun _ => ?_) (fun _ => ?_)
          · extract_lets +onlyGivenNames -merge -useContext a23
            have h24 : Holds I a23.st := (State.writeMem_keeps H h21)
            try clear_value a23
            refine out_next ?_
            refine iteInduction (motive := fun r => Holds I r) (fun _ => ?_) (fun _ => ?_)
            · exact h21
            · refine iteInduction (motive := fun r => Holds I r) (fun _ => ?_) (fun _ => ?_)
              · exact (State.bar2Miss_keeps H h24)
              · exact h24
          · extract_lets +onlyGivenNames -merge -useContext a25 a26
            try clear_value a25
            have h27 : Holds I a26.st := (State.ipaWriteMem_keeps H h21)
            try clear_value a26
            refine out_next ?_
            refine iteInduction (motive := fun r => Holds I r) (fun _ => ?_) (fun _ => ?_)
            · exact h21
            · split
              · exact (State.bar2Fault_keeps H h27)
              · exact h27

@[simp] theorem State.hostAnswer_keeps (H : Closed I) {s : State} {r : HostReply} (h0 : Holds I s) : Holds I (State.hostAnswer s r) := by
  unfold State.hostAnswer
  exact holds_mk h0 rfl rfl rfl rfl rfl rfl

theorem execHostBar2Read_keeps (H : Closed I) {fn off len : Nat} {s : State} (h3 : Holds I s) : ∀ t', execHostBar2Read fn off len s = Host.Outcome.next t' → Holds I t' := by
  show HoldsOut I _
  unfold execHostBar2Read
  extract_lets +onlyGivenNames -merge -useContext a20
  try clear_value a20
  refine iteInduction (motive := fun r => HoldsOut I r) (fun _ => ?_) (fun _ => ?_)
  · exact (out_next (State.hostAnswer_keeps H (State.urAnswer_keeps H h3)))
  · refine iteInduction (motive := fun r => HoldsOut I r) (fun _ => ?_) (fun _ => ?_)
    · exact (out_next h3)
    · refine iteInduction (motive := fun r => HoldsOut I r) (fun _ => ?_) (fun _ => ?_)
      · exact (out_next (State.hostAnswer_keeps H h3))
      · refine iteInduction (motive := fun r => HoldsOut I r) (fun _ => ?_) (fun _ => ?_)
        · exact (out_next (State.hostAnswer_keeps H (State.bar2Miss_keeps H h3)))
        · extract_lets +onlyGivenNames -merge -useContext a21
          try clear_value a21
          refine iteInduction (motive := fun r => HoldsOut I r) (fun _ => ?_) (fun _ => ?_)
          · extract_lets +onlyGivenNames -merge -useContext a22
            have h23 : Holds I a22.st := (State.readMem_keeps H h3)
            try clear_value a22
            refine out_next ?_
            refine iteInduction (motive := fun r => Holds I r) (fun _ => ?_) (fun _ => ?_)
            · exact h3
            · refine iteInduction (motive := fun r => Holds I r) (fun _ => ?_) (fun _ => ?_)
              · exact (State.hostAnswer_keeps H (State.bar2Miss_keeps H h23))
              · exact (State.hostAnswer_keeps H h23)
          · extract_lets +onlyGivenNames -merge -useContext a24
            have h25 : Holds I a24.st := (State.ipaRead_keeps H h3)
            try clear_value a24
            refine out_next ?_
            refine iteInduction (motive := fun r => Holds I r) (fun _ => ?_) (fun _ => ?_)
            · exact h3
            · split
              · exact (State.hostAnswer_keeps H (State.bar2Fault_keeps H h25))
              · exact (State.hostAnswer_keeps H h25)

theorem execUnsupportedRequest_keeps (H : Closed I) {fn : Nat} {k : UrKind} {s : State} (h2 : Holds I s) : ∀ t', execUnsupportedRequest fn k s = Host.Outcome.next t' → Holds I t' := by
  show HoldsOut I _
  unfold execUnsupportedRequest
  split
  · exact (out_next (State.hostAnswer_keeps H (State.urAnswer_keeps H h2)))
  · exact (out_next (State.hostAnswer_keeps H (State.urAnswer_keeps H h2)))
  · refine out_next ?_
    refine iteInduction (motive := fun r => Holds I r) (fun _ => ?_) (fun _ => ?_)
    · exact h2
    · exact (State.hostAnswer_keeps H (State.urAnswer_keeps H h2))

theorem execHostReadFail_keeps (H : Closed I) {addr : Nat} {s : State} (h1 : Holds I s) : ∀ t', execHostReadFail addr s = Host.Outcome.next t' → Holds I t' := by
  show HoldsOut I _
  unfold execHostReadFail
  extract_lets +onlyGivenNames -merge -useContext a20
  try clear_value a20
  refine out_next ?_
  exact holds_mk h1 rfl rfl rfl rfl rfl rfl

@[simp] theorem State.msixKick_keeps (H : Closed I) {s : State} {f : Nat} (h0 : Holds I s) : Holds I (State.msixKick s f) := by
  unfold State.msixKick
  extract_lets +onlyGivenNames -merge -useContext a20
  refine iteInduction (motive := fun r => Holds I r) (fun _ => ?_) (fun _ => ?_)
  · exact h0
  · extract_lets +onlyGivenNames -merge -useContext a21 a22
    try clear_value a21
    have h23 : Holds I a22 := (State.modFn_keeps H h0)
    try clear_value a22
    exact holds_mk h23 rfl rfl rfl rfl rfl rfl

theorem execMsixUnmask_keeps (H : Closed I) {fn : Nat} {w : MsixWrite} {s : State} (h2 : Holds I s) : ∀ t', execMsixUnmask fn w s = Host.Outcome.next t' → Holds I t' := by
  show HoldsOut I _
  unfold execMsixUnmask
  split
  · refine iteInduction (motive := fun r => HoldsOut I r) (fun _ => ?_) (fun _ => ?_)
    · exact (out_next (State.urAnswer_keeps H h2))
    · refine iteInduction (motive := fun r => HoldsOut I r) (fun _ => ?_) (fun _ => ?_)
      · exact (out_next h2)
      · exact (out_next (State.msixKick_keeps H (State.modFn_keeps H h2)))
  · refine out_next ?_
    refine iteInduction (motive := fun r => Holds I r) (fun _ => ?_) (fun _ => ?_)
    · exact (State.msixKick_keeps H (State.modFn_keeps H h2))
    · exact h2
  · refine out_next ?_
    refine iteInduction (motive := fun r => Holds I r) (fun _ => ?_) (fun _ => ?_)
    · exact (State.msixKick_keeps H (State.modFn_keeps H h2))
    · exact h2

@[simp] theorem State.fnReset_keeps (H : Closed I) {s : State} {f : Nat} (h0 : Holds I s) : Holds I (State.fnReset s f) := by
  unfold State.fnReset
  exact (State.modFn_keeps H h0)

theorem execFlrVf_keeps (H : Closed I) {k : Nat} {s : State} (h1 : Holds I s) : ∀ t', execFlrVf k s = Host.Outcome.next t' → Holds I t' := by
  show HoldsOut I _
  unfold execFlrVf
  refine iteInduction (motive := fun r => HoldsOut I r) (fun _ => ?_) (fun _ => ?_)
  · exact (out_next (State.flrPart_keeps H (State.fnReset_keeps H h1)))
  · exact (out_next h1)

theorem execFlrPf_keeps (H : Closed I) {s : State} (h0 : Holds I s) : ∀ t', execFlrPf s = Host.Outcome.next t' → Holds I t' := by
  show HoldsOut I _
  unfold execFlrPf
  refine iteInduction (motive := fun r => HoldsOut I r) (fun _ => ?_) (fun _ => ?_)
  · extract_lets +onlyGivenNames -merge -useContext a20 a21
    have h22 : Holds I a21 := by
      unfold a21
      exact holds_mk h0 rfl rfl rfl rfl rfl rfl
    try clear_value a21
    refine out_next ?_
    refine State.discardAll_keeps H ?_
    · refine State.each_keeps H h22 ?_
      · intro _ _ h23
        exact (State.flrPart_keeps H h23)
  · exact (out_next h0)

theorem execVfEnable_keeps (H : Closed I) {on : Bool} {numVfs : Nat} {ari : Bool} {s : State} (h3 : Holds I s) : ∀ t', execVfEnable on numVfs ari s = Host.Outcome.next t' → Holds I t' := by
  show HoldsOut I _
  unfold execVfEnable
  refine iteInduction (motive := fun r => HoldsOut I r) (fun _ => ?_) (fun _ => ?_)
  · refine out_next ?_
    exact holds_mk h3 rfl rfl rfl rfl rfl rfl
  · exact (out_next h3)

theorem execD3hotEntry_keeps (H : Closed I) {fn : Nat} {s : State} (h1 : Holds I s) : ∀ t', execD3hotEntry fn s = Host.Outcome.next t' → Holds I t' := by
  show HoldsOut I _
  unfold execD3hotEntry
  refine out_next ?_
  refine iteInduction (motive := fun r => Holds I r) (fun _ => ?_) (fun _ => ?_)
  · exact (State.modFn_keeps H h1)
  · exact h1

theorem execD0Entry_keeps (H : Closed I) {fn : Nat} {s : State} (h1 : Holds I s) : ∀ t', execD0Entry fn s = Host.Outcome.next t' → Holds I t' := by
  show HoldsOut I _
  unfold execD0Entry
  refine out_next ?_
  refine iteInduction (motive := fun r => Holds I r) (fun _ => ?_) (fun _ => ?_)
  · exact (State.modFn_keeps H h1)
  · exact h1

theorem execDoeRequest_keeps (H : Closed I) {k : DoeKind} {msg : List Byte} {s : State} (h2 : Holds I s) : ∀ t', execDoeRequest k msg s = Host.Outcome.next t' → Holds I t' := by
  show HoldsOut I _
  unfold execDoeRequest
  refine iteInduction (motive := fun r => HoldsOut I r) (fun _ => ?_) (fun _ => ?_)
  · exact (out_next h2)
  · split
    · exact (out_next (State.hostAnswer_keeps H (State.draw_keeps H h2)))
    · exact (out_next (State.hostAnswer_keeps H (State.draw_keeps H h2)))
    · exact (out_next (State.hostAnswer_keeps H (State.draw_keeps H h2)))

theorem execIdeEstablish_keeps (H : Closed I) {s : State} (h0 : Holds I s) : ∀ t', execIdeEstablish s = Host.Outcome.next t' → Holds I t' := by
  show HoldsOut I _
  unfold execIdeEstablish
  refine iteInduction (motive := fun r => HoldsOut I r) (fun _ => ?_) (fun _ => ?_)
  · extract_lets +onlyGivenNames -merge -useContext a20
    try clear_value a20
    refine out_next ?_
    refine State.linkEntry_keeps H ?_
    · exact holds_mk h0 rfl rfl rfl rfl rfl rfl
  · exact (out_next h0)

theorem execIdeCheckFail_keeps (H : Closed I) {s : State} (h0 : Holds I s) : ∀ t', execIdeCheckFail s = Host.Outcome.next t' → Holds I t' := by
  show HoldsOut I _
  unfold execIdeCheckFail
  refine iteInduction (motive := fun r => HoldsOut I r) (fun _ => ?_) (fun _ => ?_)
  · refine out_next ?_
    refine State.linkEntry_keeps H ?_
    · refine State.aer_keeps H ?_
      · exact holds_mk h0 rfl rfl rfl rfl rfl rfl
  · exact (out_next h0)

end Sys2Proof.Machine
end

