-- ==== Sys2Proof/Laws/KeepsLayout.lean ====
section
/-! SUPPORT. What the operations of Machine/Layout.lean protect. -/

namespace Sys2Proof.Machine

set_option linter.all false

variable {I : Prot → Prop}

@[simp] theorem State.layoutRefuse_keeps (H : Closed I) {s : State} (h0 : Holds I s) : Holds I ((State.layoutRefuse s).1) := by
  unfold State.layoutRefuse
  exact (State.odSet_keeps H h0)

@[simp] theorem State.applyAct_keeps (H : Closed I) {t : State} {p : Path} {v : W32} (h0 : Holds I t) : Holds I ((State.applyAct t p v).1) := by
  unfold State.applyAct
  refine iteInduction (motive := fun (r : State × Option Nat) => Holds I r.1) (fun _ => ?_) (fun _ => ?_)
  · exact (State.layoutRefuse_keeps H h0)
  · exact (State.startApply_keeps H h0)

theorem execApply_keeps (H : Closed I) {p : Path} {v : W32} {s : State} (h2 : Holds I s) : ∀ t', execApply p v s = Host.Outcome.next t' → Holds I t' := by
  show HoldsOut I _
  unfold execApply
  refine out_next ?_
  refine State.odCmd_keeps H h2 ?_
  · intro _ h20
    exact (State.applyAct_keeps H h20)

@[simp] theorem State.layoutAbort_keeps (H : Closed I) {s : State} (h0 : Holds I s) : Holds I ((State.layoutAbort s).1) := by
  unfold State.layoutAbort
  split
  · exact h0
  · refine iteInduction (motive := fun (r : State × Option Nat) => Holds I r.1) (fun _ => ?_) (fun _ => ?_)
    · exact h0
    · refine iteInduction (motive := fun (r : State × Option Nat) => Holds I r.1) (fun _ => ?_) (fun _ => ?_)
      · exact (State.modeAbort_keeps H h0)
      · extract_lets +onlyGivenNames -merge -useContext a20
        exact (State.layoutEnd_keeps H (State.setModes_keeps H h0))

@[simp] theorem State.abortAct_keeps (H : Closed I) {t : State} {v : W32} (h0 : Holds I t) : Holds I ((State.abortAct t v).1) := by
  unfold State.abortAct
  refine iteInduction (motive := fun (r : State × Option Nat) => Holds I r.1) (fun _ => ?_) (fun _ => ?_)
  · exact h0
  · exact (State.layoutAbort_keeps H h0)

theorem execLayoutAbort_keeps (H : Closed I) {p : Path} {v : W32} {s : State} (h2 : Holds I s) : ∀ t', execLayoutAbort p v s = Host.Outcome.next t' → Holds I t' := by
  show HoldsOut I _
  unfold execLayoutAbort
  refine out_next ?_
  refine State.odCmd_keeps H h2 ?_
  · intro _ h20
    exact (State.abortAct_keeps H h20)

@[simp] theorem State.resetAct_keeps (H : Closed I) {t : State} {p : Path} {v : W32} (h0 : Holds I t) : Holds I ((State.resetAct t p v).1) := by
  unfold State.resetAct
  refine iteInduction (motive := fun (r : State × Option Nat) => Holds I r.1) (fun _ => ?_) (fun _ => ?_)
  · exact (State.layoutRefuse_keeps H h0)
  · exact (State.startReset_keeps H h0)

theorem execPartitionReset_keeps (H : Closed I) {p : Path} {v : W32} {s : State} (h2 : Holds I s) : ∀ t', execPartitionReset p v s = Host.Outcome.next t' → Holds I t' := by
  show HoldsOut I _
  unfold execPartitionReset
  refine out_next ?_
  refine State.odCmd_keeps H h2 ?_
  · intro _ h20
    exact (State.resetAct_keeps H h20)

theorem execPtResetGo_keeps (H : Closed I) {p : Path} {part : Nat} {v : W32} {s : State} (h3 : Holds I s) : ∀ t', execPtResetGo p part v s = Host.Outcome.next t' → Holds I t' := by
  show HoldsOut I _
  unfold execPtResetGo
  refine out_next ?_
  refine State.regGate_keeps H h3 ?_
  · intro _ h20
    refine iteInduction (motive := fun r => Holds I r) (fun _ => ?_) (fun _ => ?_)
    · exact (State.startReset_keeps H h20)
    · exact h20

theorem execLayoutDrainLimit_keeps (H : Closed I) {s : State} (h0 : Holds I s) : ∀ t', execLayoutDrainLimit s = Host.Outcome.next t' → Holds I t' := by
  show HoldsOut I _
  unfold execLayoutDrainLimit
  split
  · refine iteInduction (motive := fun r => HoldsOut I r) (fun _ => ?_) (fun _ => ?_)
    · extract_lets +onlyGivenNames -merge -useContext a20
      try clear_value a20
      refine out_next ?_
      refine State.each_keeps H h0 ?_
      · intro _ _ h21
        exact (State.teardown_keeps H h21)
    · exact (out_next h0)
  · exact (out_next h0)

@[simp] theorem State.layoutInMode_keeps (H : Closed I) {s : State} (h0 : Holds I s) : Holds I (State.layoutInMode s) := by
  unfold State.layoutInMode
  extract_lets +onlyGivenNames -merge -useContext a20
  try clear_value a20
  exact holds_mk h0 rfl rfl rfl rfl rfl rfl

theorem execModeStage_keeps (H : Closed I) {s : State} (h0 : Holds I s) : ∀ t', execModeStage s = Host.Outcome.next t' → Holds I t' := by
  show HoldsOut I _
  unfold execModeStage
  extract_lets +onlyGivenNames -merge -useContext a20
  have h21 : Holds I a20 := (State.layoutRequest_keeps H h0)
  try clear_value a20
  extract_lets +onlyGivenNames -merge -useContext a22
  refine iteInduction (motive := fun r => HoldsOut I r) (fun _ => ?_) (fun _ => ?_)
  · exact (out_next h21)
  · split
    · exact (out_next h21)
    · extract_lets +onlyGivenNames -merge -useContext a23
      have h24 : Holds I a23 := (State.setModes_keeps H h21)
      try clear_value a23
      extract_lets +onlyGivenNames -merge -useContext a25
      have h26 : Holds I a25 := by
        unfold a25
        refine iteInduction (motive := fun r => Holds I r) (fun _ => ?_) (fun _ => ?_)
        · exact (State.layoutInMode_keeps H h24)
        · exact h24
      try clear_value a25
      refine out_next ?_
      refine iteInduction (motive := fun r => Holds I r) (fun _ => ?_) (fun _ => ?_)
      · exact (State.modeAbort_keeps H h26)
      · exact h26

theorem execModeStageLimit_keeps (H : Closed I) {s : State} (h0 : Holds I s) : ∀ t', execModeStageLimit s = Host.Outcome.next t' → Holds I t' := by
  show HoldsOut I _
  unfold execModeStageLimit
  extract_lets +onlyGivenNames -merge -useContext a20
  refine out_next ?_
  refine iteInduction (motive := fun r => Holds I r) (fun _ => ?_) (fun _ => ?_)
  · exact (State.modeAbort_keeps H h0)
  · exact h0

theorem execModeCommit_keeps (H : Closed I) {s : State} (h0 : Holds I s) : ∀ t', execModeCommit s = Host.Outcome.next t' → Holds I t' := by
  show HoldsOut I _
  unfold execModeCommit
  extract_lets +onlyGivenNames -merge -useContext a20
  refine iteInduction (motive := fun r => HoldsOut I r) (fun _ => ?_) (fun _ => ?_)
  · exact (out_next h0)
  · refine iteInduction (motive := fun r => HoldsOut I r) (fun _ => ?_) (fun _ => ?_)
    · exact (out_next (State.modeAbort_keeps H h0))
    · extract_lets +onlyGivenNames -merge -useContext a21
      have h22 : Holds I a21 := (State.setModes_keeps H h0)
      try clear_value a21
      extract_lets +onlyGivenNames -merge -useContext a23
      have h24 : Holds I a23 := by
        unfold a23
        split
        · refine iteInduction (motive := fun r => Holds I r) (fun _ => ?_) (fun _ => ?_)
          · refine State.each_keeps H h22 ?_
            · intro _ _ h25
              exact (State.ccEmpty_keeps H h25)
          · exact h22
        · exact h22
      try clear_value a23
      exact (out_next (State.modeFlip_keeps H h24))

theorem execEpochBoundary_keeps (H : Closed I) {u : ModeUnit} {s : State} (h1 : Holds I s) : ∀ t', execEpochBoundary u s = Host.Outcome.next t' → Holds I t' := by
  show HoldsOut I _
  unfold execEpochBoundary
  extract_lets +onlyGivenNames -merge -useContext a20
  refine iteInduction (motive := fun r => HoldsOut I r) (fun _ => ?_) (fun _ => ?_)
  · extract_lets +onlyGivenNames -merge -useContext a21
    have h22 : Holds I a21 := (State.setModes_keeps H h1)
    try clear_value a21
    exact (out_next (State.modeFlip_keeps H (State.commitWork_keeps H h22)))
  · exact (out_next h1)

@[simp] theorem State.setPoint_keeps (H : Closed I) {s : State} {j : Nat} (h0 : Holds I s) : Holds I (State.setPoint s j) := by
  unfold State.setPoint
  extract_lets +onlyGivenNames -merge -useContext a20
  have h21 : Holds I a20 := (State.setRf_keeps H (State.setRf_keeps H h0))
  try clear_value a20
  exact holds_mk h21 rfl rfl rfl rfl rfl rfl

theorem execModeChangeComplete_keeps (H : Closed I) {s : State} (h0 : Holds I s) : ∀ t', execModeChangeComplete s = Host.Outcome.next t' → Holds I t' := by
  show HoldsOut I _
  unfold execModeChangeComplete
  extract_lets +onlyGivenNames -merge -useContext a20
  refine iteInduction (motive := fun r => HoldsOut I r) (fun _ => ?_) (fun _ => ?_)
  · extract_lets +onlyGivenNames -merge -useContext a21 a22
    try clear_value a21
    have h23 : Holds I a22 := (State.odBump_keeps H (State.setRf_keeps H (State.setModes_keeps H h0)))
    try clear_value a22
    refine iteInduction (motive := fun r => HoldsOut I r) (fun _ => ?_) (fun _ => ?_)
    · exact (out_next (State.reel_keeps H (State.setPoint_keeps H h23)))
    · split
      · refine iteInduction (motive := fun r => HoldsOut I r) (fun _ => ?_) (fun _ => ?_)
        · exact (out_next (State.layoutEnd_keeps H (State.layoutApply_keeps H h23)))
        · exact (out_next h23)
      · exact (out_next h23)
  · exact (out_next h0)

theorem execCompatHoldExpiry_keeps (H : Closed I) {part : Nat} {s : State} (h1 : Holds I s) : ∀ t', execCompatHoldExpiry part s = Host.Outcome.next t' → Holds I t' := by
  show HoldsOut I _
  unfold execCompatHoldExpiry
  extract_lets +onlyGivenNames -merge -useContext a20 a21 a22 a23
  try clear_value a22 a23
  refine out_next ?_
  refine iteInduction (motive := fun r => Holds I r) (fun _ => ?_) (fun _ => ?_)
  · exact (State.modeRequest_keeps H h1)
  · exact h1

@[simp] theorem State.subnormalAct_keeps (H : Closed I) {t : State} {part v : Nat} (h0 : Holds I t) : Holds I ((State.subnormalAct t part v).1) := by
  unfold State.subnormalAct
  refine iteInduction (motive := fun (r : State × Option Nat) => Holds I r.1) (fun _ => ?_) (fun _ => ?_)
  · exact h0
  · extract_lets +onlyGivenNames -merge -useContext a20
    have h21 : Holds I a20 := (State.odSet_keeps H h0)
    try clear_value a20
    refine iteInduction (motive := fun r => Holds I r) (fun _ => ?_) (fun _ => ?_)
    · exact h21
    · exact (State.modeRequest_keeps H h21)

theorem execSubnormalDefaultWrite_keeps (H : Closed I) {p : Path} {part : Nat} {v : Byte} {s : State} (h3 : Holds I s) : ∀ t', execSubnormalDefaultWrite p part v s = Host.Outcome.next t' → Holds I t' := by
  show HoldsOut I _
  unfold execSubnormalDefaultWrite
  refine out_next ?_
  refine State.odCmdS_keeps H h3 ?_
  · intro _ h20
    exact (State.subnormalAct_keeps H h20)

theorem execRootPointReached_keeps (H : Closed I) {s : State} (h0 : Holds I s) : ∀ t', execRootPointReached s = Host.Outcome.next t' → Holds I t' := by
  show HoldsOut I _
  unfold execRootPointReached
  extract_lets +onlyGivenNames -merge -useContext a20 a21
  try clear_value a20 a21
  refine iteInduction (motive := fun r => HoldsOut I r) (fun _ => ?_) (fun _ => ?_)
  · exact (out_next h0)
  · extract_lets +onlyGivenNames -merge -useContext a22 a23 a24
    try clear_value a22 a23
    have h25 : Holds I a24 := (State.setRf_keeps H (State.setRf_keeps H h0))
    try clear_value a24
    refine out_next ?_
    exact holds_mk h25 rfl rfl rfl rfl rfl rfl

theorem execRefclkSwitch_keeps (H : Closed I) {s : State} (h0 : Holds I s) : ∀ t', execRefclkSwitch s = Host.Outcome.next t' → Holds I t' := by
  show HoldsOut I _
  unfold execRefclkSwitch
  refine iteInduction (motive := fun r => HoldsOut I r) (fun _ => ?_) (fun _ => ?_)
  · exact (out_next h0)
  · refine out_next ?_
    refine State.alert_keeps H ?_
    · refine State.logEvent_keeps H ?_
      · exact holds_mk h0 rfl rfl rfl rfl rfl rfl

end Sys2Proof.Machine
end

