-- ==== Sys2Proof/Laws/KeepsLink.lean ====
section
/-! SUPPORT. What the operations of Machine/Link.lean protect. -/

namespace Sys2Proof.Machine

set_option linter.all false

variable {I : Prot → Prop}

@[simp] theorem State.heard_keeps (H : Closed I) {s : State} {n : Nat} (h0 : Holds I s) : Holds I (State.heard s n) := by
  unfold State.heard
  refine iteInduction (motive := fun r => Holds I r) (fun _ => ?_) (fun _ => ?_)
  · exact h0
  · exact (State.modPeer_keeps H h0)

@[simp] theorem State.frameIn_keeps (H : Closed I) {s : State} {type : Nat} {f : Frame} {act : State → State} (h0 : Holds I s) (h3 : ∀ y0, Holds I (y0) → Holds I (act y0)) : Holds I (State.frameIn s type f act) := by
  unfold State.frameIn
  refine iteInduction (motive := fun r => Holds I r) (fun _ => ?_) (fun _ => ?_)
  · exact h0
  · extract_lets +onlyGivenNames -merge -useContext a20
    have h21 : Holds I a20 := (State.lkTrace_keeps H h0)
    try clear_value a20
    refine iteInduction (motive := fun r => Holds I r) (fun _ => ?_) (fun _ => ?_)
    · exact (State.bump_keeps H h21)
    · exact (h3 _ (State.heard_keeps H (State.bump_keeps H h21)))

@[simp] theorem State.lkCum_keeps (H : Closed I) {s : State} {n cum : Nat} (h0 : Holds I s) : Holds I (State.lkCum s n cum) := by
  unfold State.lkCum
  exact (State.modPeer_keeps H h0)

@[simp] theorem State.lkRefresh_keeps (H : Closed I) {s : State} {k : LkPkt} (h0 : Holds I s) : Holds I ((State.lkRefresh s k).1) := by
  unfold State.lkRefresh
  refine iteInduction (motive := fun (r : State × Option (Except Nat LkPkt)) => Holds I r.1) (fun _ => ?_) (fun _ => ?_)
  · exact h0
  · extract_lets +onlyGivenNames -merge -useContext a20 a21
    have h22 : Holds I a21.st := (State.lkRead_keeps H h0)
    try clear_value a21
    refine iteInduction (motive := fun (r : State × Option (Except Nat LkPkt)) => Holds I r.1) (fun _ => ?_) (fun _ => ?_)
    · exact h0
    · split
      · exact (State.lkFault_keeps H h22)
      · split
        · refine iteInduction (motive := fun (r : State × Option (Except Nat LkPkt)) => Holds I r.1) (fun _ => ?_) (fun _ => ?_)
          · exact h22
          · exact h22
        · exact h22

@[simp] theorem State.lkRetx_keeps (H : Closed I) {s : State} {n psn : Nat} (h0 : Holds I s) : Holds I (State.lkRetx s n psn) := by
  unfold State.lkRetx
  split
  · exact h0
  · split
    · exact h0
    · extract_lets +onlyGivenNames -merge -useContext a20
      have h21 : Holds I a20.1 := (State.lkRefresh_keeps H h0)
      try clear_value a20
      split
      · exact h0
      · exact (State.runFail_keeps H h21)
      · extract_lets +onlyGivenNames -merge -useContext a22
        have h23 : Holds I a22 := (State.modPeer_keeps H h21)
        try clear_value a22
        exact (State.lkEmit_keeps H (State.bump_keeps H h23))

@[simp] theorem State.lkAck_keeps (H : Closed I) {s : State} {n : Nat} (h0 : Holds I s) : Holds I (State.lkAck s n) := by
  unfold State.lkAck
  exact (State.modPeer_keeps H (State.lkPlain_keeps H h0))

@[simp] theorem State.lkNak_keeps (H : Closed I) {s : State} {n psn st : Nat} (h0 : Holds I s) : Holds I (State.lkNak s n psn st) := by
  unfold State.lkNak
  exact (State.bump_keeps H (State.lkPlain_keeps H h0))

@[simp] theorem State.signalIn_keeps (H : Closed I) {s : State} {f : Frame} (h0 : Holds I s) : Holds I (State.signalIn s f) := by
  unfold State.signalIn
  extract_lets +onlyGivenNames -merge -useContext a20 a21
  try clear_value a20
  refine iteInduction (motive := fun r => Holds I r) (fun _ => ?_) (fun _ => ?_)
  · exact (State.signalLocal_keeps H h0)
  · exact (State.lkNak_keeps H h0)

@[simp] theorem State.lkAdvance_keeps (H : Closed I) {x0 : Nat} {x1 : State} {x2 : Nat} (h1 : Holds I (x1)) : Holds I (State.lkAdvance x0 x1 x2) := by
  induction x0 generalizing x1 x2 with
  | zero => exact h1
  | succ n ih =>
    unfold State.lkAdvance
    (repeat' first | with_reducible assumption | (simp (maxDischargeDepth := 60) +contextual only [*, holds_mk, holds_ite, State.modPeer_keeps, State.signalIn_keeps]; done) | with_reducible refine ih ?_ | with_reducible refine State.modPeer_keeps H ?_ | with_reducible refine State.signalIn_keeps H ?_ | with_reducible refine holds_foldl ?_ ?_ | with_reducible refine State.each_keeps H ?_ ?_ | with_reducible refine holds_ite ?_ ?_ | with_reducible refine holds_ite_fst ?_ ?_ | with_reducible refine holds_ite_snd ?_ ?_ | with_reducible refine holds_foldl_fst ?_ ?_ | with_reducible refine holds_foldl_snd ?_ ?_ | with_reducible refine holds_of_fst (by assumption) ?_ | with_reducible refine holds_of_snd (by assumption) ?_ | intro _ | split | dsimp only)

@[simp] theorem State.lkCounted_keeps (H : Closed I) {s : State} {n : Nat} (h0 : Holds I s) : Holds I (State.lkCounted s n) := by
  unfold State.lkCounted
  extract_lets +onlyGivenNames -merge -useContext a20
  have h21 : Holds I a20 := (State.modPeer_keeps H h0)
  try clear_value a20
  refine iteInduction (motive := fun r => Holds I r) (fun _ => ?_) (fun _ => ?_)
  · exact (State.lkAck_keeps H h21)
  · exact h21

@[simp] theorem State.lkPerformed_keeps (H : Closed I) {s : State} {n psn : Nat} (h0 : Holds I s) : Holds I (State.lkPerformed s n psn) := by
  unfold State.lkPerformed
  extract_lets +onlyGivenNames -merge -useContext a20
  have h21 : Holds I a20 := (State.modPeer_keeps H h0)
  try clear_value a20
  exact (State.lkCounted_keeps H (State.lkAdvance_keeps H h21))

@[simp] theorem State.lkSequenced_keeps (H : Closed I) {s : State} {f : Frame} {act : State → Option State} (h0 : Holds I s) (h2 : ∀ y0, Holds I (y0) → ∀ t', act y0 = some t' → Holds I (t')) : Holds I (State.lkSequenced s f act) := by
  unfold State.lkSequenced
  extract_lets +onlyGivenNames -merge -useContext a20
  try clear_value a20
  refine iteInduction (motive := fun r => Holds I r) (fun _ => ?_) (fun _ => ?_)
  · exact (State.sendHello_keeps H h0)
  · extract_lets +onlyGivenNames -merge -useContext a21
    have h22 : Holds I a21 := (State.lkCum_keeps H h0)
    try clear_value a21
    extract_lets +onlyGivenNames -merge -useContext a23 a24
    try clear_value a24
    refine iteInduction (motive := fun r => Holds I r) (fun _ => ?_) (fun _ => ?_)
    · exact (State.lkFlush_keeps H (State.lkAck_keeps H (State.bump_keeps H h22)))
    · refine iteInduction (motive := fun r => Holds I r) (fun _ => ?_) (fun _ => ?_)
      · exact (State.lkFlush_keeps H h22)
      · split
        · rename_i e25
          have h26 := some_of (I := I) (p := fun t => t) e25 (h2 _ h22)
          exact (State.lkFlush_keeps H (State.lkPerformed_keeps H h26))
        · exact h22

@[simp] theorem State.dataFault_keeps (H : Closed I) {s : State} {f : Frame} {p c : Nat} {x : XFault} (h0 : Holds I s) : Holds I (State.dataFault s f p c x) := by
  unfold State.dataFault
  exact (State.lkNak_keeps H (State.quietRecord_keeps H h0))

theorem State.dataWrite_keeps (H : Closed I) {s : State} {f : Frame} (h0 : Holds I s) : ∀ t', State.dataWrite s f = some t' → Holds I (t') := by
  show HoldsSome I (fun t => t) _
  unfold State.dataWrite
  extract_lets +onlyGivenNames -merge -useContext a20 a21 a22
  try clear_value a20 a21
  have h23 : Holds I a22.st := (State.s2Xlate_keeps H h0)
  try clear_value a22
  refine iteInduction (motive := fun r => HoldsSome I (fun t => t) r) (fun _ => ?_) (fun _ => ?_)
  · exact some_none
  · split
    · exact (some_some (State.dataFault_keeps H h23))
    · refine iteInduction (motive := fun r => HoldsSome I (fun t => t) r) (fun _ => ?_) (fun _ => ?_)
      · exact (some_some (State.dataFault_keeps H h23))
      · split
        · exact some_none
        · exact (some_some (State.lkNak_keeps H h23))
        · exact (some_some (State.dataFault_keeps H h23))
        · extract_lets +onlyGivenNames -merge -useContext a24 a25
          try clear_value a24
          have h26 : Holds I a25.st := (State.ipaWriteMem_keeps H h23)
          try clear_value a25
          refine iteInduction (motive := fun r => HoldsSome I (fun t => t) r) (fun _ => ?_) (fun _ => ?_)
          · exact some_none
          · extract_lets +onlyGivenNames -merge -useContext a27 a28
            have h29 : Holds I a28 := (State.modRun_keeps H h26)
            try clear_value a28
            exact (some_some (State.opAdvance_keeps H h29))

theorem State.dataIn_keeps (H : Closed I) {s : State} {f : Frame} (h0 : Holds I s) : ∀ t', State.dataIn s f = some t' → Holds I (t') := by
  show HoldsSome I (fun t => t) _
  unfold State.dataIn
  extract_lets +onlyGivenNames -merge -useContext a20
  try clear_value a20
  refine iteInduction (motive := fun r => HoldsSome I (fun t => t) r) (fun _ => ?_) (fun _ => ?_)
  · exact (some_some (State.lkNak_keeps H h0))
  · refine iteInduction (motive := fun r => HoldsSome I (fun t => t) r) (fun _ => ?_) (fun _ => ?_)
    · exact (some_some h0)
    · exact (State.dataWrite_keeps H h0)

theorem execData_keeps (H : Closed I) {f : Frame} {s : State} (h1 : Holds I s) : ∀ t', execData f s = Host.Outcome.next t' → Holds I t' := by
  show HoldsOut I _
  unfold execData
  refine out_next ?_
  refine State.frameIn_keeps H h1 ?_
  · intro _ h20
    refine State.lkSequenced_keeps H h20 ?_
    · intro _ h21
      exact (State.dataIn_keeps H h21)

@[simp] theorem State.signalHeld_keeps (H : Closed I) {s : State} {f : Frame} (h0 : Holds I s) : Holds I (State.signalHeld s f) := by
  unfold State.signalHeld
  extract_lets +onlyGivenNames -merge -useContext a20
  try clear_value a20
  refine iteInduction (motive := fun r => Holds I r) (fun _ => ?_) (fun _ => ?_)
  · exact (State.sendHello_keeps H h0)
  · extract_lets +onlyGivenNames -merge -useContext a21
    have h22 : Holds I a21 := (State.lkCum_keeps H h0)
    try clear_value a21
    extract_lets +onlyGivenNames -merge -useContext a23 a24
    try clear_value a24
    refine iteInduction (motive := fun r => Holds I r) (fun _ => ?_) (fun _ => ?_)
    · exact (State.lkFlush_keeps H (State.lkAck_keeps H (State.bump_keeps H h22)))
    · refine iteInduction (motive := fun r => Holds I r) (fun _ => ?_) (fun _ => ?_)
      · exact (State.lkFlush_keeps H h22)
      · extract_lets +onlyGivenNames -merge -useContext a25
        have h26 : Holds I a25 := (State.modPeer_keeps H h22)
        try clear_value a25
        exact (State.lkFlush_keeps H (State.lkCounted_keeps H (State.lkAdvance_keeps H h26)))

theorem execSignal_keeps (H : Closed I) {f : Frame} {s : State} (h1 : Holds I s) : ∀ t', execSignal f s = Host.Outcome.next t' → Holds I t' := by
  show HoldsOut I _
  unfold execSignal
  refine out_next ?_
  refine State.frameIn_keeps H h1 ?_
  · intro _ h20
    exact (State.signalHeld_keeps H h20)

@[simp] theorem State.subscribeIn_keeps (H : Closed I) {s : State} {f : Frame} (h0 : Holds I s) : Holds I (State.subscribeIn s f) := by
  unfold State.subscribeIn
  extract_lets +onlyGivenNames -merge -useContext a20 a21 a22 a23
  try clear_value a20 a21 a22
  refine iteInduction (motive := fun r => Holds I r) (fun _ => ?_) (fun _ => ?_)
  · exact (State.lkSend_keeps H h0)
  · refine iteInduction (motive := fun r => Holds I r) (fun _ => ?_) (fun _ => ?_)
    · exact (State.lkSend_keeps H h0)
    · exact (State.lkSend_keeps H (State.addRef_keeps H (State.modSync_keeps H h0)))

theorem execSubscribe_keeps (H : Closed I) {f : Frame} {s : State} (h1 : Holds I s) : ∀ t', execSubscribe f s = Host.Outcome.next t' → Holds I t' := by
  show HoldsOut I _
  unfold execSubscribe
  refine out_next ?_
  refine State.frameIn_keeps H h1 ?_
  · intro _ h20
    refine State.lkSequenced_keeps H h20 ?_
    · intro _ h21
      exact (some_some (State.subscribeIn_keeps H h21))

@[simp] theorem State.subReplyIn_keeps (H : Closed I) {s : State} {f : Frame} (h0 : Holds I s) : Holds I (State.subReplyIn s f) := by
  unfold State.subReplyIn
  extract_lets +onlyGivenNames -merge -useContext a20 a21
  try clear_value a20 a21
  split
  · exact h0
  · refine iteInduction (motive := fun r => Holds I r) (fun _ => ?_) (fun _ => ?_)
    · exact (State.importFail_keeps H h0)
    · extract_lets +onlyGivenNames -merge -useContext a22 a23
      have h24 : Holds I a23 := by
        unfold a23
        exact holds_mk h0 rfl rfl rfl rfl rfl rfl
      try clear_value a23
      exact (State.hqAnswer_keeps H (State.modSync_keeps H h24))

theorem execSubReply_keeps (H : Closed I) {f : Frame} {s : State} (h1 : Holds I s) : ∀ t', execSubReply f s = Host.Outcome.next t' → Holds I t' := by
  show HoldsOut I _
  unfold execSubReply
  refine out_next ?_
  refine State.frameIn_keeps H h1 ?_
  · intro _ h20
    refine State.lkSequenced_keeps H h20 ?_
    · intro _ h21
      exact (some_some (State.subReplyIn_keeps H h21))

@[simp] theorem State.fenceChangeIn_keeps (H : Closed I) {s : State} {f : Frame} (h0 : Holds I s) : Holds I (State.fenceChangeIn s f) := by
  unfold State.fenceChangeIn
  extract_lets +onlyGivenNames -merge -useContext a20 a21
  try clear_value a20
  refine iteInduction (motive := fun r => Holds I r) (fun _ => ?_) (fun _ => ?_)
  · exact (State.signalLocal_keeps H h0)
  · exact h0

theorem execFenceChange_keeps (H : Closed I) {f : Frame} {s : State} (h1 : Holds I s) : ∀ t', execFenceChange f s = Host.Outcome.next t' → Holds I t' := by
  show HoldsOut I _
  unfold execFenceChange
  refine out_next ?_
  refine State.frameIn_keeps H h1 ?_
  · intro _ h20
    refine State.lkSequenced_keeps H h20 ?_
    · intro _ h21
      exact (some_some (State.fenceChangeIn_keeps H h21))

@[simp] theorem State.unsubscribeIn_keeps (H : Closed I) {s : State} {f : Frame} (h0 : Holds I s) : Holds I (State.unsubscribeIn s f) := by
  unfold State.unsubscribeIn
  extract_lets +onlyGivenNames -merge -useContext a20 a21
  try clear_value a20 a21
  refine iteInduction (motive := fun r => Holds I r) (fun _ => ?_) (fun _ => ?_)
  · exact (State.dropRef_keeps H (State.modSync_keeps H h0))
  · exact h0

theorem execUnsubscribe_keeps (H : Closed I) {f : Frame} {s : State} (h1 : Holds I s) : ∀ t', execUnsubscribe f s = Host.Outcome.next t' → Holds I t' := by
  show HoldsOut I _
  unfold execUnsubscribe
  refine out_next ?_
  refine State.frameIn_keeps H h1 ?_
  · intro _ h20
    refine State.lkSequenced_keeps H h20 ?_
    · intro _ h21
      exact (some_some (State.unsubscribeIn_keeps H h21))

@[simp] theorem State.creditIn_keeps (H : Closed I) {s : State} {f : Frame} (h0 : Holds I s) : Holds I (State.creditIn s f) := by
  unfold State.creditIn
  refine iteInduction (motive := fun r => Holds I r) (fun _ => ?_) (fun _ => ?_)
  · exact h0
  · extract_lets +onlyGivenNames -merge -useContext a20
    split
    · exact h0
    · exact (State.opAdvance_keeps H (State.modRun_keeps H h0))

theorem execCredit_keeps (H : Closed I) {f : Frame} {s : State} (h1 : Holds I s) : ∀ t', execCredit f s = Host.Outcome.next t' → Holds I t' := by
  show HoldsOut I _
  unfold execCredit
  refine out_next ?_
  refine State.frameIn_keeps H h1 ?_
  · intro _ h20
    refine State.lkSequenced_keeps H h20 ?_
    · intro _ h21
      exact (some_some (State.creditIn_keeps H h21))

@[simp] theorem State.runAbortIn_keeps (H : Closed I) {s : State} {f : Frame} (h0 : Holds I s) : Holds I (State.runAbortIn s f) := by
  unfold State.runAbortIn
  refine iteInduction (motive := fun r => Holds I r) (fun _ => ?_) (fun _ => ?_)
  · exact (State.runAbort_keeps H h0)
  · exact h0

theorem execRunAbort_keeps (H : Closed I) {f : Frame} {s : State} (h1 : Holds I s) : ∀ t', execRunAbort f s = Host.Outcome.next t' → Holds I t' := by
  show HoldsOut I _
  unfold execRunAbort
  refine out_next ?_
  refine State.frameIn_keeps H h1 ?_
  · intro _ h20
    refine State.lkSequenced_keeps H h20 ?_
    · intro _ h21
      exact (some_some (State.runAbortIn_keeps H h21))

@[simp] theorem State.ackIn_keeps (H : Closed I) {s : State} {f : Frame} (h0 : Holds I s) : Holds I (State.ackIn s f) := by
  unfold State.ackIn
  extract_lets +onlyGivenNames -merge -useContext a20
  try clear_value a20
  refine iteInduction (motive := fun r => Holds I r) (fun _ => ?_) (fun _ => ?_)
  · exact h0
  · extract_lets +onlyGivenNames -merge -useContext a21 a22
    try clear_value a21
    have h23 : Holds I a22 := (State.lkCum_keeps H h0)
    try clear_value a22
    extract_lets +onlyGivenNames -merge -useContext a24 a25
    try clear_value a24
    have h26 : Holds I a25 := (State.modPeer_keeps H h23)
    try clear_value a25
    extract_lets +onlyGivenNames -merge -useContext a27
    try clear_value a27
    refine State.lkFlush_keeps H ?_
    · refine State.each_keeps H h26 ?_
      · intro _ _ h28
        exact (State.lkRetx_keeps H h28)

theorem execAck_keeps (H : Closed I) {f : Frame} {s : State} (h1 : Holds I s) : ∀ t', execAck f s = Host.Outcome.next t' → Holds I t' := by
  show HoldsOut I _
  unfold execAck
  refine out_next ?_
  refine State.frameIn_keeps H h1 ?_
  · intro _ h20
    exact (State.ackIn_keeps H h20)

@[simp] theorem State.nakIn_keeps (H : Closed I) {s : State} {f : Frame} (h0 : Holds I s) : Holds I (State.nakIn s f) := by
  unfold State.nakIn
  extract_lets +onlyGivenNames -merge -useContext a20
  try clear_value a20
  refine iteInduction (motive := fun r => Holds I r) (fun _ => ?_) (fun _ => ?_)
  · exact h0
  · extract_lets +onlyGivenNames -merge -useContext a21
    have h22 : Holds I a21 := (State.lkCum_keeps H (State.bump_keeps H h0))
    try clear_value a21
    extract_lets +onlyGivenNames -merge -useContext a23
    have h24 : Holds I a23 := by
      unfold a23
      split
      · refine iteInduction (motive := fun r => Holds I r) (fun _ => ?_) (fun _ => ?_)
        · exact (State.runFail_keeps H h22)
        · exact h22
      · exact h22
    try clear_value a23
    exact (State.lkFlush_keeps H h24)

theorem execNak_keeps (H : Closed I) {f : Frame} {s : State} (h1 : Holds I s) : ∀ t', execNak f s = Host.Outcome.next t' → Holds I t' := by
  show HoldsOut I _
  unfold execNak
  refine out_next ?_
  refine State.frameIn_keeps H h1 ?_
  · intro _ h20
    exact (State.nakIn_keeps H h20)

@[simp] theorem State.helloSeen_keeps (H : Closed I) {s : State} {n inc seen planes : Nat} {answer : State → State} (h0 : Holds I s) (h5 : ∀ y0, Holds I (y0) → Holds I (answer y0)) : Holds I (State.helloSeen s n inc seen planes answer) := by
  unfold State.helloSeen
  extract_lets +onlyGivenNames -merge -useContext a20
  have h21 : Holds I a20 := (State.modPeer_keeps H h0)
  try clear_value a20
  extract_lets +onlyGivenNames -merge -useContext a22
  have h23 : Holds I a22 := (h5 _ h21)
  try clear_value a22
  refine iteInduction (motive := fun r => Holds I r) (fun _ => ?_) (fun _ => ?_)
  · exact (State.lkFlush_keeps H (State.peerUp_keeps H h23))
  · exact h23

@[simp] theorem State.helloOpens_keeps (H : Closed I) {s : State} {n inc seen planes : Nat} (h0 : Holds I s) : Holds I (State.helloOpens s n inc seen planes) := by
  unfold State.helloOpens
  refine iteInduction (motive := fun r => Holds I r) (fun _ => ?_) (fun _ => ?_)
  · refine State.helloSeen_keeps H (State.modPeer_keeps H h0) ?_
    · intro _ h20
      exact (State.helloAll_keeps H h20)
  · exact h0

@[simp] theorem State.helloIn_keeps (H : Closed I) {s : State} {f : Frame} (h0 : Holds I s) : Holds I (State.helloIn s f) := by
  unfold State.helloIn
  extract_lets +onlyGivenNames -merge -useContext a20 a21 a22 a23 a24
  try clear_value a20 a21 a22 a23
  refine iteInduction (motive := fun r => Holds I r) (fun _ => ?_) (fun _ => ?_)
  · exact (State.modPeer_keeps H (State.peerLost_keeps H h0))
  · split
    · refine iteInduction (motive := fun r => Holds I r) (fun _ => ?_) (fun _ => ?_)
      · exact (State.helloOpens_keeps H (State.modPeer_keeps H (State.peerLost_keeps H h0)))
      · exact (State.lkFlush_keeps H (State.modPeer_keeps H h0))
    · refine State.helloSeen_keeps H h0 ?_
      · intro _ h25
        exact (State.sendHello_keeps H h25)
    · exact (State.helloOpens_keeps H h0)

theorem execHello_keeps (H : Closed I) {f : Frame} {s : State} (h1 : Holds I s) : ∀ t', execHello f s = Host.Outcome.next t' → Holds I t' := by
  show HoldsOut I _
  unfold execHello
  refine out_next ?_
  refine State.frameIn_keeps H h1 ?_
  · intro _ h20
    exact (State.helloIn_keeps H h20)

theorem execAckTimer_keeps (H : Closed I) {node : Nat} {s : State} (h1 : Holds I s) : ∀ t', execAckTimer node s = Host.Outcome.next t' → Holds I t' := by
  show HoldsOut I _
  unfold execAckTimer
  refine out_next ?_
  refine iteInduction (motive := fun r => Holds I r) (fun _ => ?_) (fun _ => ?_)
  · exact (State.lkAck_keeps H h1)
  · exact h1

theorem execRetransmitTimeout_keeps (H : Closed I) {node psn : Nat} {s : State} (h2 : Holds I s) : ∀ t', execRetransmitTimeout node psn s = Host.Outcome.next t' → Holds I t' := by
  show HoldsOut I _
  unfold execRetransmitTimeout
  extract_lets +onlyGivenNames -merge -useContext a20
  split
  · exact (out_next h2)
  · refine out_next ?_
    refine iteInduction (motive := fun r => Holds I r) (fun _ => ?_) (fun _ => ?_)
    · exact (State.lkRetx_keeps H (State.modPeer_keeps H h2))
    · exact h2

theorem execHelloTimer_keeps (H : Closed I) {node : Nat} {s : State} (h1 : Holds I s) : ∀ t', execHelloTimer node s = Host.Outcome.next t' → Holds I t' := by
  show HoldsOut I _
  unfold execHelloTimer
  refine out_next ?_
  refine iteInduction (motive := fun r => Holds I r) (fun _ => ?_) (fun _ => ?_)
  · exact (State.helloAll_keeps H h1)
  · exact h1

theorem execKeepAlive_keeps (H : Closed I) {node : Nat} {s : State} (h1 : Holds I s) : ∀ t', execKeepAlive node s = Host.Outcome.next t' → Holds I t' := by
  show HoldsOut I _
  unfold execKeepAlive
  refine out_next ?_
  refine iteInduction (motive := fun r => Holds I r) (fun _ => ?_) (fun _ => ?_)
  · exact (State.sendHello_keeps H h1)
  · exact h1

theorem execLostTimeout_keeps (H : Closed I) {node : Nat} {s : State} (h1 : Holds I s) : ∀ t', execLostTimeout node s = Host.Outcome.next t' → Holds I t' := by
  show HoldsOut I _
  unfold execLostTimeout
  refine out_next ?_
  refine iteInduction (motive := fun r => Holds I r) (fun _ => ?_) (fun _ => ?_)
  · exact (State.peerLost_keeps H h1)
  · exact h1

theorem execPeerIdleClose_keeps (H : Closed I) {node : Nat} {s : State} (h1 : Holds I s) : ∀ t', execPeerIdleClose node s = Host.Outcome.next t' → Holds I t' := by
  show HoldsOut I _
  unfold execPeerIdleClose
  extract_lets +onlyGivenNames -merge -useContext a20
  refine out_next ?_
  refine iteInduction (motive := fun r => Holds I r) (fun _ => ?_) (fun _ => ?_)
  · extract_lets +onlyGivenNames -merge -useContext a21
    have h22 : Holds I a21 := (State.modPeer_keeps H h1)
    try clear_value a21
    split
    · exact (State.peerOpen_keeps H h22)
    · exact h22
  · exact h1

@[simp] theorem State.quadsLeave_keeps (H : Closed I) {s : State} {port mask : Nat} (h0 : Holds I s) : Holds I (State.quadsLeave s port mask) := by
  unfold State.quadsLeave
  extract_lets +onlyGivenNames -merge -useContext a20 a21 a22 a23
  try clear_value a20 a21 a22
  have h24 : Holds I a23 := (State.modPort_keeps H h0)
  try clear_value a23
  extract_lets +onlyGivenNames -merge -useContext a25
  have h26 : Holds I a25 := by
    unfold a25
    refine iteInduction (motive := fun r => Holds I r) (fun _ => ?_) (fun _ => ?_)
    · refine State.each_keeps H (State.odBump_keeps H h24) ?_
      · intro _ _ h27
        exact (State.errVec_keeps H h27)
    · exact h24
  try clear_value a25
  refine iteInduction (motive := fun r => Holds I r) (fun _ => ?_) (fun _ => ?_)
  · exact h26
  · extract_lets +onlyGivenNames -merge -useContext a28
    try clear_value a28
    refine State.each_keeps H h26 ?_
    · intro _ _ h29
      refine State.each_keeps H h29 ?_
      · intro _ _ h30
        exact (State.lkRetx_keeps H h30)

@[simp] theorem State.quadsTrain_keeps (H : Closed I) {s : State} {port mask : Nat} (h0 : Holds I s) : Holds I (State.quadsTrain s port mask) := by
  unfold State.quadsTrain
  refine iteInduction (motive := fun r => Holds I r) (fun _ => ?_) (fun _ => ?_)
  · extract_lets +onlyGivenNames -merge -useContext a20
    try clear_value a20
    exact (State.modPort_keeps H h0)
  · exact h0

theorem execQuadOut_keeps (H : Closed I) {port quad : Nat} {why : QuadLoss} {s : State} (h3 : Holds I s) : ∀ t', execQuadOut port quad why s = Host.Outcome.next t' → Holds I t' := by
  show HoldsOut I _
  unfold execQuadOut
  refine iteInduction (motive := fun r => HoldsOut I r) (fun _ => ?_) (fun _ => ?_)
  · exact (out_next h3)
  · extract_lets +onlyGivenNames -merge -useContext a20
    have h21 : Holds I a20 := by
      unfold a20
      split
      · exact h3
      · split
        · rename_i e22
          have h23 := holds_of (I := I) (p := fun t => t.2) e22 (State.draw_keeps H h3)
          exact (State.bump_keeps H h23)
    try clear_value a20
    exact (out_next (State.quadsLeave_keeps H h21))

theorem execQuadRetrainTry_keeps (H : Closed I) {port quad : Nat} {trained : Bool} {s : State} (h3 : Holds I s) : ∀ t', execQuadRetrainTry port quad trained s = Host.Outcome.next t' → Holds I t' := by
  show HoldsOut I _
  unfold execQuadRetrainTry
  refine iteInduction (motive := fun r => HoldsOut I r) (fun _ => ?_) (fun _ => ?_)
  · exact (out_next h3)
  · refine iteInduction (motive := fun r => HoldsOut I r) (fun _ => ?_) (fun _ => ?_)
    · exact (out_next (State.quadsTrain_keeps H h3))
    · exact (out_next (State.modPort_keeps H h3))

theorem execQuadReturn_keeps (H : Closed I) {port quad : Nat} {s : State} (h2 : Holds I s) : ∀ t', execQuadReturn port quad s = Host.Outcome.next t' → Holds I t' := by
  show HoldsOut I _
  unfold execQuadReturn
  refine iteInduction (motive := fun r => HoldsOut I r) (fun _ => ?_) (fun _ => ?_)
  · extract_lets +onlyGivenNames -merge -useContext a20
    have h21 : Holds I a20 := (State.modPort_keeps H h2)
    try clear_value a20
    refine out_next ?_
    refine State.each_keeps H h21 ?_
    · intro _ _ h22
      exact (State.lkFlush_keeps H h22)
  · exact (out_next h2)

@[simp] theorem State.setQuadOut_keeps (H : Closed I) {s : State} {port out : Nat} (h0 : Holds I s) : Holds I (State.setQuadOut s port out) := by
  unfold State.setQuadOut
  extract_lets +onlyGivenNames -merge -useContext a20 a21
  try clear_value a20
  have h22 : Holds I a21 := (State.setRf_keeps H h0)
  try clear_value a21
  extract_lets +onlyGivenNames -merge -useContext a23
  have h24 : Holds I a23 := (State.quadsLeave_keeps H h22)
  try clear_value a23
  extract_lets +onlyGivenNames -merge -useContext a25 a26
  try clear_value a25
  have h27 : Holds I a26 := (State.setRf_keeps H h24)
  try clear_value a26
  exact (State.quadsTrain_keeps H h27)

@[simp] theorem State.qctrlWrite_keeps (H : Closed I) {s : State} {p : Path} {port v : Nat} (h0 : Holds I s) : Holds I (State.qctrlWrite s p port v) := by
  unfold State.qctrlWrite
  refine iteInduction (motive := fun r => Holds I r) (fun _ => ?_) (fun _ => ?_)
  · exact h0
  · refine State.regGateP_keeps H h0 ?_
    · intro _ h20
      extract_lets +onlyGivenNames -merge -useContext a21
      have h22 : Holds I a21 := (State.setQuadOut_keeps H h20)
      try clear_value a21
      exact (State.quadsTrain_keeps H (State.quadsLeave_keeps H h22))

theorem execQctrlOut_keeps (H : Closed I) {p : Path} {port : Nat} {v : W32} {s : State} (h3 : Holds I s) : ∀ t', execQctrlOut p port v s = Host.Outcome.next t' → Holds I t' := by
  show HoldsOut I _
  unfold execQctrlOut
  exact (out_next (State.qctrlWrite_keeps H h3))

theorem execQuadRetrain_keeps (H : Closed I) {p : Path} {port : Nat} {v : W32} {s : State} (h3 : Holds I s) : ∀ t', execQuadRetrain p port v s = Host.Outcome.next t' → Holds I t' := by
  show HoldsOut I _
  unfold execQuadRetrain
  exact (out_next (State.qctrlWrite_keeps H h3))

theorem execCageInsert_keeps (H : Closed I) {port : Nat} {m : CageModule} {s : State} (h2 : Holds I s) : ∀ t', execCageInsert port m s = Host.Outcome.next t' → Holds I t' := by
  show HoldsOut I _
  unfold execCageInsert
  refine iteInduction (motive := fun r => HoldsOut I r) (fun _ => ?_) (fun _ => ?_)
  · exact (out_next h2)
  · extract_lets +onlyGivenNames -merge -useContext a20
    have h21 : Holds I a20 := (State.modPort_keeps H h2)
    try clear_value a20
    refine out_next ?_
    refine iteInduction (motive := fun r => Holds I r) (fun _ => ?_) (fun _ => ?_)
    · exact (State.ngEvent_keeps H (State.odBumpSat_keeps H (State.quadsTrain_keeps H h21)))
    · exact h21

theorem execCageRemove_keeps (H : Closed I) {port : Nat} {s : State} (h1 : Holds I s) : ∀ t', execCageRemove port s = Host.Outcome.next t' → Holds I t' := by
  show HoldsOut I _
  unfold execCageRemove
  refine iteInduction (motive := fun r => HoldsOut I r) (fun _ => ?_) (fun _ => ?_)
  · exact (out_next h1)
  · extract_lets +onlyGivenNames -merge -useContext a20
    have h21 : Holds I a20 := (State.modPort_keeps H (State.quadsLeave_keeps H h1))
    try clear_value a20
    refine out_next ?_
    refine iteInduction (motive := fun r => Holds I r) (fun _ => ?_) (fun _ => ?_)
    · exact (State.ngEvent_keeps H h21)
    · exact h21

@[simp] theorem State.fabricSet_keeps (H : Closed I) {s : State} {on : Bool} (h0 : Holds I s) : Holds I (State.fabricSet s on) := by
  unfold State.fabricSet
  extract_lets +onlyGivenNames -merge -useContext a20
  have h21 : Holds I a20 := (State.odSet_keeps H h0)
  try clear_value a20
  refine iteInduction (motive := fun r => Holds I r) (fun _ => ?_) (fun _ => ?_)
  · exact h21
  · refine iteInduction (motive := fun r => Holds I r) (fun _ => ?_) (fun _ => ?_)
    · exact (State.fabricStart_keeps H h21)
    · extract_lets +onlyGivenNames -merge -useContext a22 a23
      have h24 : Holds I a23 := by
        unfold a23
        exact holds_mk h21 rfl rfl rfl rfl rfl rfl
      try clear_value a23
      refine State.each_keeps H h24 ?_
      · intro _ _ h25
        exact (State.peerLost_keeps H h25)

theorem execFabricEnable_keeps (H : Closed I) {p : Path} {s : State} (h1 : Holds I s) : ∀ t', execFabricEnable p s = Host.Outcome.next t' → Holds I t' := by
  show HoldsOut I _
  unfold execFabricEnable
  refine out_next ?_
  refine State.odCmdS_keeps H h1 ?_
  · intro _ h20
    exact (State.fabricSet_keeps H h20)

theorem execFabricDisable_keeps (H : Closed I) {p : Path} {s : State} (h1 : Holds I s) : ∀ t', execFabricDisable p s = Host.Outcome.next t' → Holds I t' := by
  show HoldsOut I _
  unfold execFabricDisable
  refine out_next ?_
  refine State.odCmdS_keeps H h1 ?_
  · intro _ h20
    exact (State.fabricSet_keeps H h20)

@[simp] theorem State.groupPut_keeps (H : Closed I) {s : State} {g : Nat} {b : List Byte} (h0 : Holds I s) : Holds I (State.groupPut s g b) := by
  unfold State.groupPut
  extract_lets +onlyGivenNames -merge -useContext a20
  have h21 : Holds I a20 := by
    unfold a20
    refine iteInduction (motive := fun r => Holds I r) (fun _ => ?_) (fun _ => ?_)
    · refine State.each_keeps H h0 ?_
      · intro _ _ h22
        exact (State.runAbort_keeps H h22)
    · exact h0
  try clear_value a20
  exact holds_mk h21 rfl rfl rfl rfl rfl rfl

@[simp] theorem State.groupStore_keeps (H : Closed I) {s : State} {g : Nat} {b : List Byte} (h0 : Holds I s) : Holds I ((State.groupStore s g b).1) := by
  unfold State.groupStore
  refine iteInduction (motive := fun (r : State × Nat) => Holds I r.1) (fun _ => ?_) (fun _ => ?_)
  · exact (State.groupClear_keeps H h0)
  · refine iteInduction (motive := fun (r : State × Nat) => Holds I r.1) (fun _ => ?_) (fun _ => ?_)
    · exact h0
    · exact (State.groupPut_keeps H h0)

@[simp] theorem State.groupEntry_keeps (H : Closed I) {s : State} {data : List Byte} (h0 : Holds I s) : Holds I ((State.groupEntry s data).1) := by
  unfold State.groupEntry
  refine iteInduction (motive := fun (r : State × Option Nat) => Holds I r.1) (fun _ => ?_) (fun _ => ?_)
  · exact h0
  · extract_lets +onlyGivenNames -merge -useContext a20
    have h21 : Holds I a20.1 := (State.groupStore_keeps H h0)
    try clear_value a20
    exact h21

theorem execGroupWrite_keeps (H : Closed I) {p : Path} {data : List Byte} {s : State} (h2 : Holds I s) : ∀ t', execGroupWrite p data s = Host.Outcome.next t' → Holds I t' := by
  show HoldsOut I _
  unfold execGroupWrite
  refine out_next ?_
  refine State.odCmd_keeps H h2 ?_
  · intro _ h20
    exact (State.groupEntry_keeps H h20)

@[simp] theorem State.opStore_keeps (H : Closed I) {s : State} {o : Nat} {b : List Byte} (h0 : Holds I s) : Holds I ((State.opStore s o b).1) := by
  unfold State.opStore
  refine iteInduction (motive := fun (r : State × Nat) => Holds I r.1) (fun _ => ?_) (fun _ => ?_)
  · exact (State.opClear_keeps H h0)
  · refine iteInduction (motive := fun (r : State × Nat) => Holds I r.1) (fun _ => ?_) (fun _ => ?_)
    · exact h0
    · exact holds_mk h0 rfl rfl rfl rfl rfl rfl

@[simp] theorem State.opEntry_keeps (H : Closed I) {s : State} {data : List Byte} (h0 : Holds I s) : Holds I ((State.opEntry s data).1) := by
  unfold State.opEntry
  refine iteInduction (motive := fun (r : State × Option Nat) => Holds I r.1) (fun _ => ?_) (fun _ => ?_)
  · exact h0
  · extract_lets +onlyGivenNames -merge -useContext a20
    have h21 : Holds I a20.1 := (State.opStore_keeps H h0)
    try clear_value a20
    exact h21

theorem execOperationWrite_keeps (H : Closed I) {p : Path} {data : List Byte} {s : State} (h2 : Holds I s) : ∀ t', execOperationWrite p data s = Host.Outcome.next t' → Holds I t' := by
  show HoldsOut I _
  unfold execOperationWrite
  refine out_next ?_
  refine State.odCmd_keeps H h2 ?_
  · intro _ h20
    exact (State.opEntry_keeps H h20)

@[simp] theorem State.runBegin_keeps (H : Closed I) {s : State} {o value : Nat} (h0 : Holds I s) : Holds I (State.runBegin s o value) := by
  unfold State.runBegin
  extract_lets +onlyGivenNames -merge -useContext a20 a21
  try clear_value a20
  have h22 : Holds I a21 := (State.modRun_keeps H h0)
  try clear_value a21
  refine iteInduction (motive := fun r => Holds I r) (fun _ => ?_) (fun _ => ?_)
  · exact (State.runFail_keeps H h22)
  · exact (State.opAdvance_keeps H h22)

theorem execRunStart_keeps (H : Closed I) {op : Nat} {s : State} (h1 : Holds I s) : ∀ t', execRunStart op s = Host.Outcome.next t' → Holds I t' := by
  show HoldsOut I _
  unfold execRunStart
  extract_lets +onlyGivenNames -merge -useContext a20 a21
  try clear_value a20
  refine iteInduction (motive := fun r => HoldsOut I r) (fun _ => ?_) (fun _ => ?_)
  · exact (out_next h1)
  · refine iteInduction (motive := fun r => HoldsOut I r) (fun _ => ?_) (fun _ => ?_)
    · exact (out_next (State.signal_keeps H h1))
    · refine iteInduction (motive := fun r => HoldsOut I r) (fun _ => ?_) (fun _ => ?_)
      · exact (out_next h1)
      · exact (out_next (State.runBegin_keeps H h1))

theorem execRunComplete_keeps (H : Closed I) {op : Nat} {s : State} (h1 : Holds I s) : ∀ t', execRunComplete op s = Host.Outcome.next t' → Holds I t' := by
  show HoldsOut I _
  unfold execRunComplete
  extract_lets +onlyGivenNames -merge -useContext a20
  have h21 : Holds I a20 := (State.opAdvance_keeps H h1)
  try clear_value a20
  refine out_next ?_
  refine iteInduction (motive := fun r => Holds I r) (fun _ => ?_) (fun _ => ?_)
  · exact (State.runEnd_keeps H h21)
  · exact h21

theorem execRunTimeout_keeps (H : Closed I) {op : Nat} {s : State} (h1 : Holds I s) : ∀ t', execRunTimeout op s = Host.Outcome.next t' → Holds I t' := by
  show HoldsOut I _
  unfold execRunTimeout
  extract_lets +onlyGivenNames -merge -useContext a20
  refine out_next ?_
  refine iteInduction (motive := fun r => Holds I r) (fun _ => ?_) (fun _ => ?_)
  · exact (State.runFail_keeps H h1)
  · exact h1

@[simp] theorem State.prbsWrite_keeps (H : Closed I) {s : State} {p : Path} {port v : Nat} (h0 : Holds I s) : Holds I (State.prbsWrite s p port v) := by
  unfold State.prbsWrite
  refine iteInduction (motive := fun r => Holds I r) (fun _ => ?_) (fun _ => ?_)
  · exact h0
  · refine State.regGateP_keeps H h0 ?_
    · intro _ h20
      extract_lets +onlyGivenNames -merge -useContext a21 a22
      try clear_value a21 a22
      refine iteInduction (motive := fun r => Holds I r) (fun _ => ?_) (fun _ => ?_)
      · refine iteInduction (motive := fun r => Holds I r) (fun _ => ?_) (fun _ => ?_)
        · exact h20
        · extract_lets +onlyGivenNames -merge -useContext a23
          have h24 : Holds I a23 := (State.setReg_keeps H h20)
          try clear_value a23
          split
          · rename_i e25
            have h26 := holds_of (I := I) (p := fun t => t.2) e25 (State.draw_keeps H h24)
            extract_lets +onlyGivenNames -merge -useContext a27
            have h28 : Holds I a27 := (State.setReg_keeps H h26)
            try clear_value a27
            refine State.each_keeps H h28 ?_
            · intro _ _ h29
              exact (State.setReg_keeps H h29)
      · extract_lets +onlyGivenNames -merge -useContext a30
        have h31 : Holds I a30 := (State.setReg_keeps H h20)
        try clear_value a30
        refine iteInduction (motive := fun r => Holds I r) (fun _ => ?_) (fun _ => ?_)
        · extract_lets +onlyGivenNames -merge -useContext a32
          have h33 : Holds I a32 := by
            unfold a32
            refine State.each_keeps H h31 ?_
            · intro _ _ h34
              split
              · rename_i e35
                have h36 := holds_of (I := I) (p := fun t => t.2) e35 (State.draw_keeps H h34)
                exact (State.setReg_keeps H h36)
          try clear_value a32
          exact (State.setReg_keeps H h33)
        · exact h31

theorem execPrbsGo_keeps (H : Closed I) {p : Path} {port : Nat} {v : W32} {s : State} (h3 : Holds I s) : ∀ t', execPrbsGo p port v s = Host.Outcome.next t' → Holds I t' := by
  show HoldsOut I _
  unfold execPrbsGo
  exact (out_next (State.prbsWrite_keeps H h3))

theorem execPrbsStop_keeps (H : Closed I) {p : Path} {port : Nat} {v : W32} {s : State} (h3 : Holds I s) : ∀ t', execPrbsStop p port v s = Host.Outcome.next t' → Holds I t' := by
  show HoldsOut I _
  unfold execPrbsStop
  exact (out_next (State.prbsWrite_keeps H h3))

end Sys2Proof.Machine
end

