-- ==== Sys2Proof/Laws/KeepsMatrix.lean ====
section
/-! SUPPORT. What the operations of Machine/Matrix.lean protect. -/

namespace Sys2Proof.Machine

set_option linter.all false

variable {I : Prot → Prop}

@[simp] theorem State.mxIssue_keeps (H : Closed I) {s : State} {m : MxIssuer} {op : Nat} (h0 : Holds I s) : Holds I (State.mxIssue s m op) := by
  unfold State.mxIssue
  split
  · exact (State.mxGroup_keeps H h0)
  · exact (State.mxStream_keeps H h0)

theorem execMload_keeps (H : Closed I) {m : MxIssuer} {s : State} (h1 : Holds I s) : ∀ t', execMload m s = Host.Outcome.next t' → Holds I t' := by
  show HoldsOut I _
  unfold execMload
  exact (out_next (State.mxIssue_keeps H h1))

theorem execMswap_keeps (H : Closed I) {m : MxIssuer} {s : State} (h1 : Holds I s) : ∀ t', execMswap m s = Host.Outcome.next t' → Holds I t' := by
  show HoldsOut I _
  unfold execMswap
  exact (out_next (State.mxIssue_keeps H h1))

theorem execMstream_keeps (H : Closed I) {m : MxIssuer} {s : State} (h1 : Holds I s) : ∀ t', execMstream m s = Host.Outcome.next t' → Holds I t' := by
  show HoldsOut I _
  unfold execMstream
  exact (out_next (State.mxIssue_keeps H h1))

theorem execMtile_keeps (H : Closed I) {m : MxIssuer} {s : State} (h1 : Holds I s) : ∀ t', execMtile m s = Host.Outcome.next t' → Holds I t' := by
  show HoldsOut I _
  unfold execMtile
  exact (out_next (State.mxIssue_keeps H h1))

theorem execMdrain_keeps (H : Closed I) {m : MxIssuer} {s : State} (h1 : Holds I s) : ∀ t', execMdrain m s = Host.Outcome.next t' → Holds I t' := by
  show HoldsOut I _
  unfold execMdrain
  exact (out_next (State.mxIssue_keeps H h1))

@[simp] theorem State.mwaitGroup_keeps (H : Closed I) {s : State} {i : Issue} {word : W64} (h0 : Holds I s) : Holds I (State.mwaitGroup s i word) := by
  unfold State.mwaitGroup
  extract_lets +onlyGivenNames -merge -useContext a20
  try clear_value a20
  refine iteInduction (motive := fun r => Holds I r) (fun _ => ?_) (fun _ => ?_)
  · exact h0
  · split
    · refine iteInduction (motive := fun r => Holds I r) (fun _ => ?_) (fun _ => ?_)
      · exact (State.exception_keeps H h0)
      · refine iteInduction (motive := fun r => Holds I r) (fun _ => ?_) (fun _ => ?_)
        · exact (State.mxFault_keeps H h0)
        · extract_lets +onlyGivenNames -merge -useContext a21
          have h22 : Holds I a21 := (State.retire_keeps H h0)
          try clear_value a21
          refine iteInduction (motive := fun r => Holds I r) (fun _ => ?_) (fun _ => ?_)
          · exact h22
          · exact (State.stallGroup_keeps H h22)
    · exact h0

@[simp] theorem State.mwaitSeq_keeps (H : Closed I) {s : State} {cl : Nat} (h0 : Holds I s) : Holds I (State.mwaitSeq s cl) := by
  unfold State.mwaitSeq
  refine State.stream_keeps H h0 ?_
  · intro _ _ h20
    refine iteInduction (motive := fun r => Holds I r) (fun _ => ?_) (fun _ => ?_)
    · exact (State.seqFault_keeps H h20)
    · refine iteInduction (motive := fun r => Holds I r) (fun _ => ?_) (fun _ => ?_)
      · exact (State.seqDone_keeps H h20)
      · exact (State.seqWaitAt_keeps H h20)

theorem execMwait_keeps (H : Closed I) {m : MxIssuer} {s : State} (h1 : Holds I s) : ∀ t', execMwait m s = Host.Outcome.next t' → Holds I t' := by
  show HoldsOut I _
  unfold execMwait
  split
  · exact (out_next (State.mwaitGroup_keeps H h1))
  · exact (out_next (State.mwaitSeq_keeps H h1))

theorem execMwaitReturn_keeps (H : Closed I) {w : MxWaiter} {s : State} (h1 : Holds I s) : ∀ t', execMwaitReturn w s = Host.Outcome.next t' → Holds I t' := by
  show HoldsOut I _
  unfold execMwaitReturn
  split
  · split
    · split
      · refine out_next ?_
        refine iteInduction (motive := fun r => Holds I r) (fun _ => ?_) (fun _ => ?_)
        · exact (State.modGroup_keeps H h1)
        · exact h1
      · exact (out_next h1)
    · exact (out_next h1)
  · split
    · refine out_next ?_
      refine iteInduction (motive := fun r => Holds I r) (fun _ => ?_) (fun _ => ?_)
      · exact (State.seqDone_keeps H h1)
      · exact h1
    · exact (out_next h1)

@[simp] theorem State.mxSlot_keeps (H : Closed I) {s : State} {core : Nat} {m : MxCmd} {ctl : Nat} (h0 : Holds I s) : Holds I ((State.mxSlot s core m ctl).2) := by
  unfold State.mxSlot
  split
  · rename_i e20
    have h21 := holds_of (I := I) (p := fun t => t.2.2) e20 (State.ownRead_keeps H h0)
    extract_lets +onlyGivenNames -merge -useContext a22 a23
    try clear_value a22
    have h24 : Holds I a23 := by
      unfold a23
      split
      · refine iteInduction (motive := fun r => Holds I r) (fun _ => ?_) (fun _ => ?_)
        · exact (State.stepStatus_keeps H h21)
        · exact h21
      · exact h21
    try clear_value a23
    exact h24

@[simp] theorem State.mxBegin_keeps (H : Closed I) {s : State} {core : Nat} {m : MxCmd} {t : TileDesc} {have_ : List Xent} (h0 : Holds I s) : Holds I (State.mxBegin s core m t have_) := by
  unfold State.mxBegin
  split
  · split
    · rename_i e20
      have h21 := holds_of (I := I) (p := fun t => t.2) e20 (State.mxPages_keeps H h0)
      exact h21
    · rename_i e22
      have h23 := holds_of (I := I) (p := fun t => t.2) e22 (State.mxPages_keeps H h0)
      split
      · rename_i e24
        have h25 := holds_of (I := I) (p := fun t => t.2) e24 (State.mxPages_keeps H h23)
        exact h25
      · rename_i e26
        have h27 := holds_of (I := I) (p := fun t => t.2) e26 (State.mxPages_keeps H h23)
        refine iteInduction (motive := fun r => Holds I r) (fun _ => ?_) (fun _ => ?_)
        · exact (State.mxFault_keeps H h27)
        · split
          · exact (State.raiseFault_keeps H h27)
          · extract_lets +onlyGivenNames -merge -useContext a28 a29
            try clear_value a28 a29
            split
            · rename_i e30
              have h31 := holds_of (I := I) (p := fun t => t.2) e30 (by
                  refine iteInduction (motive := fun (r : MxCmd × State) => Holds I r.2) (fun _ => ?_) (fun _ => ?_)
                  · exact (State.mxSlot_keeps H h27)
                  · exact h27
                )
              exact (State.modMx_keeps H h31)

@[simp] theorem State.mtileBegin_keeps (H : Closed I) {s : State} {core : Nat} {m : MxCmd} (h0 : Holds I s) : Holds I (State.mtileBegin s core m) := by
  unfold State.mtileBegin
  split
  · rename_i e20
    have h21 := holds_of (I := I) (p := fun t => t.2) e20 (State.mxPages_keeps H h0)
    exact h21
  · rename_i e22
    have h23 := holds_of (I := I) (p := fun t => t.2) e22 (State.mxPages_keeps H h0)
    extract_lets +onlyGivenNames -merge -useContext a24
    have h25 : Holds I a24.st := (State.mxRead_keeps H h23)
    try clear_value a24
    refine iteInduction (motive := fun r => Holds I r) (fun _ => ?_) (fun _ => ?_)
    · exact h23
    · extract_lets +onlyGivenNames -merge -useContext a26 a27 a28
      try clear_value a27
      have h29 : Holds I a28 := (MxRun.noteRead_keeps H h25)
      try clear_value a28
      refine iteInduction (motive := fun r => Holds I r) (fun _ => ?_) (fun _ => ?_)
      · exact (State.mxFault_keeps H h29)
      · refine iteInduction (motive := fun r => Holds I r) (fun _ => ?_) (fun _ => ?_)
        · exact (State.mxFault_keeps H h29)
        · exact (State.mxBegin_keeps H h29)

theorem execMxCommandStart_keeps (H : Closed I) {core : Nat} {s : State} (h1 : Holds I s) : ∀ t', execMxCommandStart core s = Host.Outcome.next t' → Holds I t' := by
  show HoldsOut I _
  unfold execMxCommandStart
  extract_lets +onlyGivenNames -merge -useContext a20 a21
  try clear_value a21
  split
  · exact (out_next h1)
  · refine iteInduction (motive := fun r => HoldsOut I r) (fun _ => ?_) (fun _ => ?_)
    · split
      · exact (out_next (State.mxFault_keeps H h1))
      · refine out_next ?_
        refine iteInduction (motive := fun r => Holds I r) (fun _ => ?_) (fun _ => ?_)
        · exact (State.mtileBegin_keeps H h1)
        · exact (State.mxBegin_keeps H h1)
    · exact (out_next h1)

@[simp] theorem State.mxRun_keeps (H : Closed I) {s : State} {core : Nat} {m : MxCmd} (h0 : Holds I s) : Holds I (State.mxRun s core m).st := by
  unfold State.mxRun
  extract_lets +onlyGivenNames -merge -useContext a20
  try clear_value a20
  refine iteInduction (motive := fun (r : MxRun) => Holds I r.st) (fun _ => ?_) (fun _ => ?_)
  · exact (State.runMload_keeps H h0)
  · refine iteInduction (motive := fun (r : MxRun) => Holds I r.st) (fun _ => ?_) (fun _ => ?_)
    · exact (State.modMx_keeps H h0)
    · refine iteInduction (motive := fun (r : MxRun) => Holds I r.st) (fun _ => ?_) (fun _ => ?_)
      · exact (State.runMstream_keeps H h0)
      · refine iteInduction (motive := fun (r : MxRun) => Holds I r.st) (fun _ => ?_) (fun _ => ?_)
        · exact (State.runMtile_keeps H h0)
        · exact (State.runMdrain_keeps H h0)

@[simp] theorem State.mxTimes_keeps (H : Closed I) {s : State} {core : Nat} {m : MxCmd} {t : MxTiming} (h0 : Holds I s) : Holds I (State.mxTimes s core m t) := by
  unfold State.mxTimes
  extract_lets +onlyGivenNames -merge -useContext a20 a21
  try clear_value a20
  have h22 : Holds I a21 := (State.bump_keeps H (State.bump_keeps H (State.bump_keeps H h0)))
  try clear_value a21
  extract_lets +onlyGivenNames -merge -useContext a23
  have h24 : Holds I a23 := (State.odBump_keeps H h22)
  try clear_value a23
  extract_lets +onlyGivenNames -merge -useContext a25 a26 a27 a28
  try clear_value a25 a26 a27
  have h29 : Holds I a28 := (State.setReg_keeps H h24)
  try clear_value a28
  extract_lets +onlyGivenNames -merge -useContext a30
  have h31 : Holds I a30 := (State.bumpSat_keeps H h29)
  try clear_value a30
  exact (State.coreEvent_keeps H (State.coreEvent_keeps H (State.coreEvent_keeps H h31)))

theorem execMxCommandComplete_keeps (H : Closed I) {core : Nat} {t : MxTiming} {s : State} (h2 : Holds I s) : ∀ t', execMxCommandComplete core t s = Host.Outcome.next t' → Holds I t' := by
  show HoldsOut I _
  unfold execMxCommandComplete
  split
  · exact (out_next h2)
  · refine iteInduction (motive := fun r => HoldsOut I r) (fun _ => ?_) (fun _ => ?_)
    · exact (out_next h2)
    · extract_lets +onlyGivenNames -merge -useContext a20
      have h21 : Holds I a20.st := (State.mxRun_keeps H h2)
      try clear_value a20
      refine iteInduction (motive := fun r => HoldsOut I r) (fun _ => ?_) (fun _ => ?_)
      · exact (out_next h2)
      · extract_lets +onlyGivenNames -merge -useContext a22 a23
        try clear_value a22
        have h24 : Holds I a23 := (State.modMx_keeps H (State.mxTimes_keeps H h21))
        try clear_value a23
        extract_lets +onlyGivenNames -merge -useContext a25
        have h26 : Holds I a25 := by
          unfold a25
          refine iteInduction (motive := fun r => Holds I r) (fun _ => ?_) (fun _ => ?_)
          · exact (State.modSeq_keeps H h24)
          · exact h24
        try clear_value a25
        extract_lets +onlyGivenNames -merge -useContext a27
        have h28 : Holds I a27 := by
          unfold a27
          split
          · exact (State.progress_keeps H h26)
          · exact h26
        try clear_value a27
        exact (out_next (State.mxIdle_keeps H h28))

theorem execArrayRampDown_keeps (H : Closed I) {core : Nat} {s : State} (h1 : Holds I s) : ∀ t', execArrayRampDown core s = Host.Outcome.next t' → Holds I t' := by
  show HoldsOut I _
  unfold execArrayRampDown
  extract_lets +onlyGivenNames -merge -useContext a20 a21
  refine iteInduction (motive := fun r => HoldsOut I r) (fun _ => ?_) (fun _ => ?_)
  · exact (out_next h1)
  · exact (out_next (State.modMx_keeps H h1))

@[simp] theorem State.setMxEnable_keeps (H : Closed I) {s : State} {core : Nat} {on : Bool} (h0 : Holds I s) : Holds I (State.setMxEnable s core on) := by
  unfold State.setMxEnable
  extract_lets +onlyGivenNames -merge -useContext a20
  have h21 : Holds I a20 := (State.setRf_keeps H h0)
  try clear_value a20
  extract_lets +onlyGivenNames -merge -useContext a22
  try clear_value a22
  refine iteInduction (motive := fun r => Holds I r) (fun _ => ?_) (fun _ => ?_)
  · exact (State.setReg_keeps H (State.setReg_keeps H (State.setReg_keeps H (State.modMx_keeps H h21))))
  · refine iteInduction (motive := fun r => Holds I r) (fun _ => ?_) (fun _ => ?_)
    · exact (State.modMx_keeps H h21)
    · exact h21

theorem execMxEnableWrite_keeps (H : Closed I) {p : Path} {core : Nat} {on : Bool} {s : State} (h3 : Holds I s) : ∀ t', execMxEnableWrite p core on s = Host.Outcome.next t' → Holds I t' := by
  show HoldsOut I _
  unfold execMxEnableWrite
  refine out_next ?_
  refine State.regGateP_keeps H h3 ?_
  · intro _ h20
    exact (State.setMxEnable_keeps H h20)

end Sys2Proof.Machine
end

