-- ==== Sys2Proof/Laws/KeepsNeg.lean ====
section
/-! SUPPORT. What the operations of Machine/Neg.lean protect. -/

namespace Sys2Proof.Machine

set_option linter.all false

variable {I : Prot → Prop}

@[simp] theorem State.planStart_keeps (H : Closed I) {s : State} {p : Nat} (h0 : Holds I s) : Holds I ((State.planStart s p).1) := by
  unfold State.planStart
  refine iteInduction (motive := fun (r : State × Option Nat) => Holds I r.1) (fun _ => ?_) (fun _ => ?_)
  · exact h0
  · extract_lets +onlyGivenNames -merge -useContext a20
    have h21 : Holds I a20.2 := (State.rangeOwned_keeps H h0)
    try clear_value a20
    refine iteInduction (motive := fun (r : State × Option Nat) => Holds I r.1) (fun _ => ?_) (fun _ => ?_)
    · exact h0
    · refine iteInduction (motive := fun (r : State × Option Nat) => Holds I r.1) (fun _ => ?_) (fun _ => ?_)
      · exact h21
      · extract_lets +onlyGivenNames -merge -useContext a22
        exact (State.odSet_keeps H (State.modPlan_keeps H h21))

@[simp] theorem State.planSet_keeps (H : Closed I) {s : State} {p v : Nat} (h0 : Holds I s) : Holds I ((State.planSet s p v).1) := by
  unfold State.planSet
  refine iteInduction (motive := fun (r : State × Option Nat) => Holds I r.1) (fun _ => ?_) (fun _ => ?_)
  · exact h0
  · refine iteInduction (motive := fun (r : State × Option Nat) => Holds I r.1) (fun _ => ?_) (fun _ => ?_)
    · exact (State.planOff_keeps H h0)
    · exact (State.planStart_keeps H h0)

theorem execPlanEnable_keeps (H : Closed I) {p : Path} {part : Nat} {v : Byte} {s : State} (h3 : Holds I s) : ∀ t', execPlanEnable p part v s = Host.Outcome.next t' → Holds I t' := by
  show HoldsOut I _
  unfold execPlanEnable
  refine out_next ?_
  refine iteInduction (motive := fun r => Holds I r) (fun _ => ?_) (fun _ => ?_)
  · refine State.odCmd_keeps H h3 ?_
    · intro _ h20
      exact (State.planSet_keeps H h20)
  · exact h3

@[simp] theorem State.failureReport_keeps (H : Closed I) {s : State} {g : Nat} (h0 : Holds I s) : Holds I ((State.failureReport s g).1) := by
  unfold State.failureReport
  refine iteInduction (motive := fun (r : State × Option Nat) => Holds I r.1) (fun _ => ?_) (fun _ => ?_)
  · exact h0
  · refine State.each_keeps H h0 ?_
    · intro _ _ h20
      exact (State.planFailure_keeps H h20)

theorem execFailureReport_keeps (H : Closed I) {p : Path} {group : Nat} {s : State} (h2 : Holds I s) : ∀ t', execFailureReport p group s = Host.Outcome.next t' → Holds I t' := by
  show HoldsOut I _
  unfold execFailureReport
  refine out_next ?_
  refine State.odCmd_keeps H h2 ?_
  · intro _ h20
    exact (State.failureReport_keeps H h20)

theorem execNegativeDue_keeps (H : Closed I) {part : Nat} {s : State} (h1 : Holds I s) : ∀ t', execNegativeDue part s = Host.Outcome.next t' → Holds I t' := by
  show HoldsOut I _; unfold execNegativeDue; (repeat' first | with_reducible assumption | (simp (maxDischargeDepth := 60) +contextual only [*, holds_mk, holds_ite, State.signal_keeps, State.negFail_keeps, State.ipaWriteMem_keeps, State.modPlan_keeps]; done) | with_reducible refine out_next ?_ | with_reducible refine out_ite ?_ ?_ | with_reducible refine State.signal_keeps H ?_ | with_reducible refine State.negFail_keeps H ?_ | with_reducible refine State.ipaWriteMem_keeps H ?_ | with_reducible refine State.modPlan_keeps H ?_ | with_reducible refine holds_foldl ?_ ?_ | with_reducible refine State.each_keeps H ?_ ?_ | with_reducible refine holds_ite ?_ ?_ | with_reducible refine holds_ite_fst ?_ ?_ | with_reducible refine holds_ite_snd ?_ ?_ | with_reducible refine holds_foldl_fst ?_ ?_ | with_reducible refine holds_foldl_snd ?_ ?_ | with_reducible refine holds_of_fst (by assumption) ?_ | with_reducible refine holds_of_snd (by assumption) ?_ | with_reducible refine holds_foldl_of (fun r : VaRes => r.st) ?_ ?_ | intro _ | split | dsimp only)

theorem execNegativeLate_keeps (H : Closed I) {part : Nat} {s : State} (h1 : Holds I s) : ∀ t', execNegativeLate part s = Host.Outcome.next t' → Holds I t' := by
  show HoldsOut I _
  unfold execNegativeLate
  extract_lets +onlyGivenNames -merge -useContext a20
  refine out_next ?_
  refine iteInduction (motive := fun r => Holds I r) (fun _ => ?_) (fun _ => ?_)
  · exact (State.odBump_keeps H (State.modPlan_keeps H h1))
  · exact h1

theorem State.putGroups_keeps (H : Closed I) {s : State} {x1 : List (GroupImg × Nat)} (h0 : Holds I s) : ∀ t', State.putGroups s x1 = some t' → Holds I (t') := by
  show HoldsSome I (fun t => t) _
  induction x1 generalizing s with
  | nil => exact some_some h0
  | cons x l ih =>
    obtain ⟨g, a⟩ := x
    unfold State.putGroups
    extract_lets +onlyGivenNames -merge -useContext b
    clear_value b
    refine iteInduction (motive := fun r => HoldsSome I (fun t => t) r) (fun _ => some_none) (fun _ => ih (State.groupPut_keeps H (State.ownWrite_keeps H h0)))

theorem State.putOps_keeps (H : Closed I) {s : State} {x1 : List (Nat × List Byte)} (h0 : Holds I s) : ∀ t', State.putOps s x1 = some t' → Holds I (t') := by
  show HoldsSome I (fun t => t) _
  induction x1 generalizing s with
  | nil => exact some_some h0
  | cons x l ih =>
    obtain ⟨o, b⟩ := x
    unfold State.putOps
    refine iteInduction (motive := fun r => HoldsSome I (fun t => t) r) (fun _ => some_none) (fun _ => ?_)
    exact iteInduction (motive := fun r => HoldsSome I (fun t => t) r) (fun _ => some_none) (fun _ => ih (State.opStore_keeps H h0))

@[simp] theorem State.putRoutes_keeps (H : Closed I) {s : State} {image : Nat} (h0 : Holds I s) : Holds I (State.putRoutes s image) := by
  unfold State.putRoutes
  refine State.each_keeps H h0 ?_
  · intro _ _ h20
    extract_lets +onlyGivenNames -merge -useContext a21
    try clear_value a21
    refine State.each_keeps H h20 ?_
    · intro _ _ h22
      exact (State.setReg_keeps H h22)

@[simp] theorem State.restoreFabric_keeps (H : Closed I) {s : State} {p image fr dst : Nat} {routes : Bool} (h0 : Holds I s) : Holds I ((State.restoreFabric s p image fr dst routes).1) := by
  unfold State.restoreFabric
  extract_lets +onlyGivenNames -merge -useContext a20 a21 a22 a23 a24 a25 a26
  clear_value a26 a24 a23
  refine iteInduction (motive := fun (r : State × Nat) => Holds I r.1) (fun _ => ?_) (fun _ => ?_)
  · exact h0
  · refine iteInduction (motive := fun (r : State × Nat) => Holds I r.1) (fun _ => ?_) (fun _ => ?_)
    · exact h0
    · split
      · exact h0
      · rename_i e27
        obtain ⟨u, eu, e28⟩ := Option.bind_eq_some_iff.mp e27
        have h28 := State.putOps_keeps H (State.putGroups_keeps H h0 _ eu) _ e28
        refine iteInduction (motive := fun r => Holds I r) (fun _ => ?_) (fun _ => ?_)
        · exact (State.putRoutes_keeps H h28)
        · exact h28

@[simp] theorem State.remapFabric_keeps (H : Closed I) {s : State} {p fr dst : Nat} (h0 : Holds I s) : Holds I ((State.remapFabric s p fr dst).1) := by
  unfold State.remapFabric
  extract_lets +onlyGivenNames -merge -useContext a20
  try clear_value a20
  split
  · exact h0
  · rename_i e21
    have h22 := some_of (I := I) (p := fun t => t) e21 (State.putGroups_keeps H h0)
    exact h22

@[simp] theorem State.fabricCmd_keeps (H : Closed I) {s : State} {w : Words4} (h0 : Holds I s) : Holds I ((State.fabricCmd s w).1) := by
  unfold State.fabricCmd
  extract_lets +onlyGivenNames -merge -useContext a20 a21 a22 a23
  try clear_value a20 a21 a22
  have h24 : Holds I a23.1 := by
    unfold a23
    refine iteInduction (motive := fun (r : State × Nat) => Holds I r.1) (fun _ => ?_) (fun _ => ?_)
    · exact h0
    · refine iteInduction (motive := fun (r : State × Nat) => Holds I r.1) (fun _ => ?_) (fun _ => ?_)
      · exact (State.restoreFabric_keeps H h0)
      · refine iteInduction (motive := fun (r : State × Nat) => Holds I r.1) (fun _ => ?_) (fun _ => ?_)
        · exact (State.remapFabric_keeps H h0)
        · exact h0
  try clear_value a23
  exact (State.odSet_keeps H h24)

theorem execRestore_keeps (H : Closed I) {p : Path} {w : Words4} {s : State} (h2 : Holds I s) : ∀ t', execRestore p w s = Host.Outcome.next t' → Holds I t' := by
  show HoldsOut I _
  unfold execRestore
  refine out_next ?_
  refine State.odCmd_keeps H h2 ?_
  · intro _ h20
    exact (State.fabricCmd_keeps H h20)

theorem execRemap_keeps (H : Closed I) {p : Path} {w : Words4} {s : State} (h2 : Holds I s) : ∀ t', execRemap p w s = Host.Outcome.next t' → Holds I t' := by
  show HoldsOut I _
  unfold execRemap
  refine out_next ?_
  refine State.odCmd_keeps H h2 ?_
  · intro _ h20
    exact (State.fabricCmd_keeps H h20)

@[simp] theorem State.digestCmd_keeps (H : Closed I) {s : State} {w : Words4} (h0 : Holds I s) : Holds I ((State.digestCmd s w).1) := by
  unfold State.digestCmd
  extract_lets +onlyGivenNames -merge -useContext a20 a21 a22
  try clear_value a20 a21 a22
  refine iteInduction (motive := fun (r : State × Option Nat) => Holds I r.1) (fun _ => ?_) (fun _ => ?_)
  · exact h0
  · extract_lets +onlyGivenNames -merge -useContext a23
    refine State.setReg_keeps H ?_
    · exact holds_mk h0 rfl rfl rfl rfl rfl rfl

theorem execDigest_keeps (H : Closed I) {p : Path} {w : Words4} {s : State} (h2 : Holds I s) : ∀ t', execDigest p w s = Host.Outcome.next t' → Holds I t' := by
  show HoldsOut I _
  unfold execDigest
  refine out_next ?_
  refine State.odCmd_keeps H h2 ?_
  · intro _ h20
    exact (State.digestCmd_keeps H h20)

theorem execCompare_keeps (H : Closed I) {p : Path} {w : Words4} {s : State} (h2 : Holds I s) : ∀ t', execCompare p w s = Host.Outcome.next t' → Holds I t' := by
  show HoldsOut I _
  unfold execCompare
  refine out_next ?_
  refine State.odCmd_keeps H h2 ?_
  · intro _ h20
    exact (State.digestCmd_keeps H h20)

@[simp] theorem State.digestPage_keeps (H : Closed I) {p : Nat} {r : VaRes} {pc : Nat × Nat} (h1 : Holds I (r).st) : Holds I (State.digestPage p r pc).st := by
  unfold State.digestPage
  refine iteInduction (motive := fun (r : VaRes) => Holds I r.st) (fun _ => ?_) (fun _ => ?_)
  · exact h1
  · extract_lets +onlyGivenNames -merge -useContext a20
    have h21 : Holds I a20.st := (State.s2Xlate_keeps H h1)
    try clear_value a20
    refine iteInduction (motive := fun (r : VaRes) => Holds I r.st) (fun _ => ?_) (fun _ => ?_)
    · exact h1
    · split
      · exact h21
      · refine iteInduction (motive := fun (r : VaRes) => Holds I r.st) (fun _ => ?_) (fun _ => ?_)
        · exact h21
        · extract_lets +onlyGivenNames -merge -useContext a22 a23
          have h24 : Holds I a23.st := (State.readMem_keeps H h21)
          try clear_value a23
          refine iteInduction (motive := fun (r : VaRes) => Holds I r.st) (fun _ => ?_) (fun _ => ?_)
          · exact h1
          · exact h24

@[simp] theorem DigRes.chunk_keeps (H : Closed I) {r : DigRes} {i : Nat} {v : VaRes} (h0 : Holds I (r).st) (h2 : Holds I (v).st) : Holds I (DigRes.chunk r i v).st := by
  unfold DigRes.chunk
  refine iteInduction (motive := fun (r : DigRes) => Holds I r.st) (fun _ => ?_) (fun _ => ?_)
  · exact h0
  · split
    · exact h2
    · extract_lets +onlyGivenNames -merge -useContext a20 a21
      try clear_value a20 a21
      exact h2

@[simp] theorem State.digestChunk_keeps (H : Closed I) {j : DigestJob} {r : DigRes} {i : Nat} (h1 : Holds I (r).st) : Holds I (State.digestChunk j r i).st := by
  unfold State.digestChunk
  refine iteInduction (motive := fun (r : DigRes) => Holds I r.st) (fun _ => ?_) (fun _ => ?_)
  · exact h1
  · refine DigRes.chunk_keeps H h1 ?_
    · refine holds_foldl_of (fun (r : VaRes) => r.st) ?_ ?_
      · exact h1
      · intro _ _ h20
        exact State.digestPage_keeps H h20

@[simp] theorem State.digestEnd_keeps (H : Closed I) {s : State} {done status count first : Nat} (h0 : Holds I s) : Holds I (State.digestEnd s done status count first) := by
  unfold State.digestEnd
  extract_lets +onlyGivenNames -merge -useContext a20 a21
  have h22 : Holds I a21 := by
    unfold a21
    exact holds_mk h0 rfl rfl rfl rfl rfl rfl
  try clear_value a21
  exact (State.odSet_keeps H (State.setReg_keeps H h22))

theorem execDigestDone_keeps (H : Closed I) {s : State} (h0 : Holds I s) : ∀ t', execDigestDone s = Host.Outcome.next t' → Holds I t' := by
  have hv : ∀ l t p, Holds I t → Holds I (List.foldl (State.digestPage p) { st := t } l).st := fun l t p h =>
    holds_foldl_of (fun (r : VaRes) => r.st) h (fun _ _ h => State.digestPage_keeps H h)
  have hc : ∀ l j, Holds I (List.foldl (State.digestChunk j) { st := s } l).st := fun l j =>
    holds_foldl_of (fun (r : DigRes) => r.st) h0 (fun _ _ h => State.digestChunk_keeps H h)
  show HoldsOut I _
  simp only [execDigestDone]
  split
  · exact out_next h0
  · refine out_ite (fun _ => out_next h0) (fun _ => out_ite (fun _ => out_next h0) (fun _ => out_ite (fun _ => ?_) (fun _ => out_ite (fun _ => out_next h0) (fun _ => ?_))))
    · exact out_next (State.digestEnd_keeps H (State.ipaWriteMem_keeps H (hc _ _)))
    · exact out_next (State.digestEnd_keeps H (hv _ _ _ (State.ipaWriteMem_keeps H (hc _ _))))

@[simp] theorem State.leaveKernel_keeps (H : Closed I) {s : State} {slot : Nat} {spare : Option Nat} (h0 : Holds I s) : Holds I (State.leaveKernel s slot spare) := by
  unfold State.leaveKernel
  split
  · exact h0
  · split
    · exact h0
    · extract_lets +onlyGivenNames -merge -useContext a20
      have h21 : Holds I a20 := (State.kernelOffCore_keeps H h0)
      try clear_value a20
      split
      · exact h21
      · exact (State.setKernel_keeps H h21)

@[simp] theorem State.spareCore_keeps (H : Closed I) {s : State} {l : Nat} (h0 : Holds I s) : Holds I ((State.spareCore s l).1) := by
  unfold State.spareCore
  extract_lets +onlyGivenNames -merge -useContext a20
  try clear_value a20
  split
  · exact h0
  · extract_lets +onlyGivenNames -merge -useContext a21 a22
    try clear_value a21
    have h23 : Holds I a22 := (State.leaveKernel_keeps H h0)
    try clear_value a22
    extract_lets +onlyGivenNames -merge -useContext a24
    have h25 : Holds I a24 := (State.setMxEnable_keeps H (State.setTeEnable_keeps H h23))
    try clear_value a24
    extract_lets +onlyGivenNames -merge -useContext a26 a27
    have h28 : Holds I a27 := by
      unfold a27
      exact holds_mk h25 rfl rfl rfl rfl rfl rfl
    try clear_value a27
    split
    · extract_lets +onlyGivenNames -merge -useContext a29 a30
      have h31 : Holds I a30 := by
        unfold a30
        exact holds_mk h28 rfl rfl rfl rfl rfl rfl
      try clear_value a30
      extract_lets +onlyGivenNames -merge -useContext a32
      have h33 : Holds I a32 := (State.setMxEnable_keeps H (State.setTeEnable_keeps H h31))
      try clear_value a32
      exact (State.ngEvent_keeps H (State.odBump_keeps H h33))
    · extract_lets +onlyGivenNames -merge -useContext a34 a35
      have h36 : Holds I a35 := by
        unfold a35
        exact holds_mk h28 rfl rfl rfl rfl rfl rfl
      try clear_value a35
      extract_lets +onlyGivenNames -merge -useContext a37
      have h38 : Holds I a37 := by
        unfold a37
        split
        · exact (State.errVec_keeps H h36)
        · exact h36
      try clear_value a37
      exact (State.ngEvent_keeps H h38)

@[simp] theorem State.svcAnswer_keeps (H : Closed I) {s : State} {pick : SvcWait → Bool} {st : Nat} (h0 : Holds I s) : Holds I (State.svcAnswer s pick st) := by
  unfold State.svcAnswer
  extract_lets +onlyGivenNames -merge -useContext a20 a21 a22
  try clear_value a20
  have h23 : Holds I a22 := by
    unfold a22
    exact holds_mk h0 rfl rfl rfl rfl rfl rfl
  try clear_value a22
  refine State.each_keeps H h23 ?_
  · intro _ _ h24
    exact (State.odAnswer_keeps H (State.odSet_keeps H h24))

@[simp] theorem State.spareNow_keeps (H : Closed I) {s : State} {l : Nat} (h0 : Holds I s) : Holds I (State.spareNow s l) := by
  unfold State.spareNow
  extract_lets +onlyGivenNames -merge -useContext a20
  have h21 : Holds I a20.1 := (State.spareCore_keeps H h0)
  try clear_value a20
  exact (State.svcAnswer_keeps H h21)

@[simp] theorem State.led_keeps (H : Closed I) {s : State} {k : Nat} {on : Bool} (h0 : Holds I s) : Holds I (State.led s k on) := by
  unfold State.led
  exact holds_mk h0 rfl rfl rfl rfl rfl rfl

@[simp] theorem State.svcDone_keeps (H : Closed I) {s : State} {st : Nat} (h0 : Holds I s) : Holds I ((State.svcDone s st).1) := by
  unfold State.svcDone
  exact (State.odSet_keeps H h0)

@[simp] theorem State.prepareModule_keeps (H : Closed I) {s : State} (h0 : Holds I s) : Holds I (State.prepareModule s) := by
  unfold State.prepareModule
  extract_lets +onlyGivenNames -merge -useContext a20 a21
  try clear_value a20
  have h22 : Holds I a21 := (State.led_keeps H h0)
  try clear_value a21
  extract_lets +onlyGivenNames -merge -useContext a23
  have h24 : Holds I a23 := by
    unfold a23
    refine iteInduction (motive := fun r => Holds I r) (fun _ => ?_) (fun _ => ?_)
    · refine State.each_keeps H h22 ?_
      · intro _ _ h25
        exact (State.lkPlain_keeps H h25)
    · exact h22
  try clear_value a23
  extract_lets +onlyGivenNames -merge -useContext a26 a27
  have h28 : Holds I a27 := by
    unfold a27
    exact holds_mk h24 rfl rfl rfl rfl rfl rfl
  try clear_value a27
  refine State.each_keeps H h28 ?_
  · intro _ _ h29
    exact (State.peerLost_keeps H h29)

@[simp] theorem State.spareAsk_keeps (H : Closed I) {s : State} {p : Path} {l : Nat} (h0 : Holds I s) : Holds I ((State.spareAsk s p l).1) := by
  unfold State.spareAsk
  split
  · exact (State.svcDone_keeps H h0)
  · extract_lets +onlyGivenNames -merge -useContext a20
    have h21 : Holds I a20 := (State.setDrain_keeps H h0)
    try clear_value a20
    extract_lets +onlyGivenNames -merge -useContext a22
    exact holds_mk h21 rfl rfl rfl rfl rfl rfl

@[simp] theorem State.serviceCmd_keeps (H : Closed I) {s : State} {p : Path} {v : Nat} (h0 : Holds I s) : Holds I ((State.serviceCmd s p v).1) := by
  unfold State.serviceCmd
  extract_lets +onlyGivenNames -merge -useContext a20 a21
  try clear_value a20 a21
  refine iteInduction (motive := fun (r : State × Option Nat) => Holds I r.1) (fun _ => ?_) (fun _ => ?_)
  · exact (State.svcDone_keeps H h0)
  · refine iteInduction (motive := fun (r : State × Option Nat) => Holds I r.1) (fun _ => ?_) (fun _ => ?_)
    · exact holds_mk h0 rfl rfl rfl rfl rfl rfl
    · refine iteInduction (motive := fun (r : State × Option Nat) => Holds I r.1) (fun _ => ?_) (fun _ => ?_)
      · refine State.svcDone_keeps H ?_
        · refine State.led_keeps H ?_
          · exact holds_mk h0 rfl rfl rfl rfl rfl rfl
      · refine iteInduction (motive := fun (r : State × Option Nat) => Holds I r.1) (fun _ => ?_) (fun _ => ?_)
        · exact (State.svcDone_keeps H (State.led_keeps H (State.setQuadOut_keeps H h0)))
        · refine iteInduction (motive := fun (r : State × Option Nat) => Holds I r.1) (fun _ => ?_) (fun _ => ?_)
          · exact (State.svcDone_keeps H (State.led_keeps H (State.setQuadOut_keeps H h0)))
          · refine iteInduction (motive := fun (r : State × Option Nat) => Holds I r.1) (fun _ => ?_) (fun _ => ?_)
            · exact (State.svcDone_keeps H (State.prepareModule_keeps H h0))
            · refine iteInduction (motive := fun (r : State × Option Nat) => Holds I r.1) (fun _ => ?_) (fun _ => ?_)
              · exact (State.spareAsk_keeps H h0)
              · exact (State.svcDone_keeps H h0)

@[simp] theorem State.service_keeps (H : Closed I) {s : State} {p : Path} {v : W32} (h0 : Holds I s) : Holds I (State.service s p v) := by
  unfold State.service
  refine State.odCmd_keeps H h0 ?_
  · intro _ h20
    exact (State.serviceCmd_keeps H h20)

theorem execReleaseBrick_keeps (H : Closed I) {p : Path} {v : W32} {s : State} (h2 : Holds I s) : ∀ t', execReleaseBrick p v s = Host.Outcome.next t' → Holds I t' := by
  show HoldsOut I _
  unfold execReleaseBrick
  exact (out_next (State.service_keeps H h2))

theorem execReleaseFan_keeps (H : Closed I) {p : Path} {v : W32} {s : State} (h2 : Holds I s) : ∀ t', execReleaseFan p v s = Host.Outcome.next t' → Holds I t' := by
  show HoldsOut I _
  unfold execReleaseFan
  exact (out_next (State.fanCheck_keeps H (State.service_keeps H h2)))

theorem execReleaseCage_keeps (H : Closed I) {p : Path} {v : W32} {s : State} (h2 : Holds I s) : ∀ t', execReleaseCage p v s = Host.Outcome.next t' → Holds I t' := by
  show HoldsOut I _
  unfold execReleaseCage
  exact (out_next (State.service_keeps H h2))

theorem execReturnCage_keeps (H : Closed I) {p : Path} {v : W32} {s : State} (h2 : Holds I s) : ∀ t', execReturnCage p v s = Host.Outcome.next t' → Holds I t' := by
  show HoldsOut I _
  unfold execReturnCage
  exact (out_next (State.service_keeps H h2))

theorem execPrepareModule_keeps (H : Closed I) {p : Path} {v : W32} {s : State} (h2 : Holds I s) : ∀ t', execPrepareModule p v s = Host.Outcome.next t' → Holds I t' := by
  show HoldsOut I _
  unfold execPrepareModule
  exact (out_next (State.service_keeps H h2))

theorem execSpareCore_keeps (H : Closed I) {p : Path} {v : W32} {s : State} (h2 : Holds I s) : ∀ t', execSpareCore p v s = Host.Outcome.next t' → Holds I t' := by
  show HoldsOut I _
  unfold execSpareCore
  exact (out_next (State.service_keeps H h2))

theorem execBrickReleaseEnd_keeps (H : Closed I) {inputW : Nat} {s : State} (h1 : Holds I s) : ∀ t', execBrickReleaseEnd inputW s = Host.Outcome.next t' → Holds I t' := by
  show HoldsOut I _
  unfold execBrickReleaseEnd
  split
  · exact (out_next h1)
  · extract_lets +onlyGivenNames -merge -useContext a20
    try clear_value a20
    refine iteInduction (motive := fun r => HoldsOut I r) (fun _ => ?_) (fun _ => ?_)
    · extract_lets +onlyGivenNames -merge -useContext a21 a22
      have h23 : Holds I a22 := by
        unfold a22
        refine State.led_keeps H ?_
        · exact holds_mk h1 rfl rfl rfl rfl rfl rfl
      try clear_value a22
      exact (out_next (State.svcAnswer_keeps H h23))
    · exact (out_next (State.svcAnswer_keeps H h1))

end Sys2Proof.Machine
end

