-- ==== Sys2Proof/Laws/KeepsMaint.lean ====
section
/-! SUPPORT. What the operations of Machine/Maint.lean protect. -/

namespace Sys2Proof.Machine

set_option linter.all false

variable {I : Prot → Prop}

@[simp] theorem State.sparingReport_keeps (H : Closed I) {s : State} {unit : Nat} (h0 : Holds I s) : Holds I (State.sparingReport s unit) := by
  unfold State.sparingReport
  exact (State.logEvent_keeps H h0)

@[simp] theorem State.coreTest_keeps (H : Closed I) {s : State} {slot : Nat} {passed : Bool} (h0 : Holds I s) : Holds I ((State.coreTest s slot passed).1) := by
  unfold State.coreTest
  refine iteInduction (motive := fun (r : State × Bool) => Holds I r.1) (fun _ => ?_) (fun _ => ?_)
  · exact (State.setDrain_keeps H h0)
  · split
    · refine iteInduction (motive := fun r => Holds I r) (fun _ => ?_) (fun _ => ?_)
      · exact h0
      · exact holds_mk h0 rfl rfl rfl rfl rfl rfl
    · refine iteInduction (motive := fun (r : State × Bool) => Holds I r.1) (fun _ => ?_) (fun _ => ?_)
      · exact (State.spareNow_keeps H h0)
      · refine State.setDrain_keeps H ?_
        · refine iteInduction (motive := fun r => Holds I r) (fun _ => ?_) (fun _ => ?_)
          · exact h0
          · exact (State.sparingReport_keeps H h0)

@[simp] theorem State.maintDo_keeps (H : Closed I) {s : State} {w : MaintWork} (h0 : Holds I s) : Holds I ((State.maintDo s w).1) := by
  unfold State.maintDo
  split
  · exact (State.coreTest_keeps H h0)
  · refine iteInduction (motive := fun (r : State × Bool) => Holds I r.1) (fun _ => ?_) (fun _ => ?_)
    · exact h0
    · refine iteInduction (motive := fun (r : State × Bool) => Holds I r.1) (fun _ => ?_) (fun _ => ?_)
      · exact h0
      · refine iteInduction (motive := fun r => Holds I r) (fun _ => ?_) (fun _ => ?_)
        · exact (State.bankRetire_keeps H h0)
        · exact (State.sparingReport_keeps H h0)
  · refine iteInduction (motive := fun (r : State × Bool) => Holds I r.1) (fun _ => ?_) (fun _ => ?_)
    · exact (State.tgStart_keeps H h0)
    · exact h0
  · refine iteInduction (motive := fun r => Holds I r) (fun _ => ?_) (fun _ => ?_)
    · exact (State.odBumpSat_keeps H h0)
    · exact h0
  · exact (State.spareStart_keeps H h0)
  · refine iteInduction (motive := fun r => Holds I r) (fun _ => ?_) (fun _ => ?_)
    · exact (State.quadsTrain_keeps H (State.quadsLeave_keeps H h0))
    · exact h0

theorem execMaintenanceStep_keeps (H : Closed I) {w : MaintWork} {s : State} (h1 : Holds I s) : ∀ t', execMaintenanceStep w s = Host.Outcome.next t' → Holds I t' := by
  show HoldsOut I _
  unfold execMaintenanceStep
  extract_lets +onlyGivenNames -merge -useContext a20 a21
  have h22 : Holds I a21 := by
    unfold a21
    refine iteInduction (motive := fun r => Holds I r) (fun _ => ?_) (fun _ => ?_)
    · exact h1
    · exact holds_mk h1 rfl rfl rfl rfl rfl rfl
  try clear_value a21
  refine iteInduction (motive := fun r => HoldsOut I r) (fun _ => ?_) (fun _ => ?_)
  · exact (out_next h22)
  · extract_lets +onlyGivenNames -merge -useContext a23
    have h24 : Holds I a23.1 := (State.maintDo_keeps H h22)
    try clear_value a23
    refine out_next ?_
    refine iteInduction (motive := fun r => Holds I r) (fun _ => ?_) (fun _ => ?_)
    · extract_lets +onlyGivenNames -merge -useContext a25
      have h26 : Holds I a25 := h24
      try clear_value a25
      exact holds_mk h26 rfl rfl rfl rfl rfl rfl
    · exact h24

end Sys2Proof.Machine
end

