-- ==== Sys2Proof/Laws/KeepsSched.lean ====
section
/-! SUPPORT. What the operations of Machine/Sched.lean protect. -/

namespace Sys2Proof.Machine

set_option linter.all false

variable {I : Prot → Prop}

@[simp] theorem State.place_keeps (H : Closed I) {s : State} {q : Nat} {r : StepRec} {a : Admit} {cls : List Nat} (h0 : Holds I s) : Holds I (State.place s q r a cls) := by
  unfold State.place
  extract_lets +onlyGivenNames -merge -useContext a20
  have h21 : Holds I a20 := (State.modPart_keeps H h0)
  try clear_value a20
  extract_lets +onlyGivenNames -merge -useContext a22
  have h23 : Holds I a22 := by
    unfold a22
    refine State.each_keeps H h21 ?_
    · intro _ _ h24
      refine iteInduction (motive := fun r => Holds I r) (fun _ => ?_) (fun _ => ?_)
      · exact (State.seqIdle_keeps H h24)
      · exact h24
  try clear_value a22
  extract_lets +onlyGivenNames -merge -useContext a25
  have h26 : Holds I a25 := by
    unfold a25
    refine State.each_keeps H h23 ?_
    · intro _ _ h27
      exact (State.modSeq_keeps H (State.setDuty_keeps H h27))
  try clear_value a25
  extract_lets +onlyGivenNames -merge -useContext a28
  have h29 : Holds I a28 := (State.setStep_keeps H h26)
  try clear_value a28
  extract_lets +onlyGivenNames -merge -useContext a30
  have h31 : Holds I a30 := (State.odBump_keeps H (State.setRf_keeps H h29))
  try clear_value a30
  exact (State.reel_keeps H h31)

@[simp] theorem State.defer_keeps (H : Closed I) {s : State} {q : Nat} {r : StepRec} {a : Admit} (h0 : Holds I s) : Holds I (State.defer s q r a) := by
  unfold State.defer
  extract_lets +onlyGivenNames -merge -useContext a20
  have h21 : Holds I a20 := (State.setStep_keeps H h0)
  try clear_value a20
  extract_lets +onlyGivenNames -merge -useContext a22
  have h23 : Holds I a22 := (State.odBump_keeps H (State.setRf_keeps H h21))
  try clear_value a22
  exact (State.reel_keeps H h23)

@[simp] theorem State.askYield_keeps (H : Closed I) {s : State} {q : Nat} {forRt : Bool} (h0 : Holds I s) : Holds I (State.askYield s q forRt) := by
  unfold State.askYield
  split
  · exact h0
  · split
    · exact h0
    · extract_lets +onlyGivenNames -merge -useContext a20
      have h21 : Holds I a20 := (State.setStep_keeps H h0)
      try clear_value a20
      refine State.each_keeps H h21 ?_
      · intro _ _ h22
        exact (State.modSeq_keeps H h22)

@[simp] theorem State.preempt_keeps (H : Closed I) {s : State} {p q n : Nat} {rt : Bool} (h0 : Holds I s) : Holds I (State.preempt s p q n rt) := by
  unfold State.preempt
  refine iteInduction (motive := fun r => Holds I r) (fun _ => ?_) (fun _ => ?_)
  · exact h0
  · split
    · exact h0
    · refine iteInduction (motive := fun r => Holds I r) (fun _ => ?_) (fun _ => ?_)
      · exact h0
      · refine State.each_keeps H h0 ?_
        · intro _ _ h20
          exact (State.askYield_keeps H h20)

@[simp] theorem State.placeNext_keeps (H : Closed I) {s : State} {p : Nat} {x2 : List Nat} (h0 : Holds I s) : Holds I (State.placeNext s p x2) := by
  induction x2 generalizing s with
  | nil => exact h0
  | cons q l ih =>
    unfold State.placeNext
    (repeat' first | with_reducible assumption | (simp (maxDischargeDepth := 60) +contextual only [*, holds_mk, holds_ite, State.place_keeps, State.defer_keeps, State.preempt_keeps]; done) | with_reducible refine ih ?_ | with_reducible refine State.place_keeps H ?_ | with_reducible refine State.defer_keeps H ?_ | with_reducible refine State.preempt_keeps H ?_ | with_reducible refine holds_foldl ?_ ?_ | with_reducible refine State.each_keeps H ?_ ?_ | with_reducible refine holds_ite ?_ ?_ | with_reducible refine holds_ite_fst ?_ ?_ | with_reducible refine holds_ite_snd ?_ ?_ | with_reducible refine holds_foldl_fst ?_ ?_ | with_reducible refine holds_foldl_snd ?_ ?_ | with_reducible refine holds_of_fst (by assumption) ?_ | with_reducible refine holds_of_snd (by assumption) ?_ | intro _ | split | dsimp only)

theorem execStepPlace_keeps (H : Closed I) {part : Nat} {s : State} (h1 : Holds I s) : ∀ t', execStepPlace part s = Host.Outcome.next t' → Holds I t' := by
  show HoldsOut I _
  unfold execStepPlace
  refine iteInduction (motive := fun r => HoldsOut I r) (fun _ => ?_) (fun _ => ?_)
  · extract_lets +onlyGivenNames -merge -useContext a20
    have h21 : Holds I a20 := (State.budgets_keeps H h1)
    try clear_value a20
    exact (out_next (State.placeNext_keeps H h21))
  · exact (out_next h1)

theorem execSliceEligible_keeps (H : Closed I) {queue : Nat} {s : State} (h1 : Holds I s) : ∀ t', execSliceEligible queue s = Host.Outcome.next t' → Holds I t' := by
  show HoldsOut I _
  unfold execSliceEligible
  split
  · exact (out_next h1)
  · refine iteInduction (motive := fun r => HoldsOut I r) (fun _ => ?_) (fun _ => ?_)
    · exact (out_next h1)
    · split
      · exact (out_next h1)
      · split
        · exact (out_next h1)
        · extract_lets +onlyGivenNames -merge -useContext a20 a21
          try clear_value a20 a21
          split
          · exact (out_next h1)
          · refine out_next ?_
            refine iteInduction (motive := fun r => Holds I r) (fun _ => ?_) (fun _ => ?_)
            · exact h1
            · refine State.each_keeps H h1 ?_
              · intro _ _ h22
                exact (State.askYield_keeps H h22)

theorem execPreemptTimeout_keeps (H : Closed I) {queue : Nat} {s : State} (h1 : Holds I s) : ∀ t', execPreemptTimeout queue s = Host.Outcome.next t' → Holds I t' := by
  show HoldsOut I _
  unfold execPreemptTimeout
  extract_lets +onlyGivenNames -merge -useContext a20
  try clear_value a20
  split
  · exact (out_next h1)
  · refine iteInduction (motive := fun r => HoldsOut I r) (fun _ => ?_) (fun _ => ?_)
    · extract_lets +onlyGivenNames -merge -useContext a21
      try clear_value a21
      refine out_next ?_
      refine State.modStep_keeps H ?_
      · refine State.each_keeps H h1 ?_
        · intro _ _ h22
          exact (State.setDrain_keeps H h22)
    · exact (out_next h1)

@[simp] theorem State.forgetAct_keeps (H : Closed I) {t : State} {v : Nat} (h0 : Holds I t) : Holds I ((State.forgetAct t v).1) := by
  unfold State.forgetAct
  extract_lets +onlyGivenNames -merge -useContext a20 a21
  try clear_value a21
  exact holds_mk h0 rfl rfl rfl rfl rfl rfl

theorem execLearnForget_keeps (H : Closed I) {p : Path} {v : Byte} {s : State} (h2 : Holds I s) : ∀ t', execLearnForget p v s = Host.Outcome.next t' → Holds I t' := by
  show HoldsOut I _
  unfold execLearnForget
  refine out_next ?_
  refine State.odCmd_keeps H h2 ?_
  · intro _ h20
    exact (State.forgetAct_keeps H h20)

end Sys2Proof.Machine
end

