-- ==== Sys2Proof/Laws/KeepsMeter.lean ====
section
/-! SUPPORT. What the operations of Machine/Meter.lean protect. -/

namespace Sys2Proof.Machine

set_option linter.all false

variable {I : Prot → Prop}

@[simp] theorem State.chargeCl_keeps (H : Closed I) {a : State × SMap Nat} {c : Nat × Nat} (h0 : Holds I ((a).1)) : Holds I ((State.chargeCl a c).1) := by
  unfold State.chargeCl
  extract_lets +onlyGivenNames -merge -useContext a20
  have h21 : Holds I a20 := h0
  try clear_value a20
  extract_lets +onlyGivenNames -merge -useContext a22 a23 a24
  try clear_value a22 a23
  have h25 : Holds I a24 := by
    unfold a24
    refine State.each_keeps H h21 ?_
    · intro _ _ h26
      split
      · exact h26
      · extract_lets +onlyGivenNames -merge -useContext a27
        try clear_value a27
        exact (State.setKernel_keeps H h26)
  try clear_value a24
  split
  · exact (State.modStep_keeps H h25)
  · exact h25

@[simp] theorem State.dutyBy_keeps (H : Closed I) {s : State} {cls : List Nat} {up : Bool} (h0 : Holds I s) : Holds I (State.dutyBy s cls up) := by
  unfold State.dutyBy
  refine State.each_keeps H h0 ?_
  · intro _ _ h20
    refine iteInduction (motive := fun r => Holds I r) (fun _ => ?_) (fun _ => ?_)
    · exact (State.setDuty_keeps H h20)
    · exact (State.setDuty_keeps H h20)

@[simp] theorem State.dutyPart_keeps (H : Closed I) {s : State} {p : Nat} (h0 : Holds I s) : Holds I (State.dutyPart s p) := by
  unfold State.dutyPart
  extract_lets +onlyGivenNames -merge -useContext a20 a21 a22 a23 a24
  try clear_value a21 a22 a23 a24
  refine iteInduction (motive := fun r => Holds I r) (fun _ => ?_) (fun _ => ?_)
  · extract_lets +onlyGivenNames -merge -useContext a25 a26
    try clear_value a25
    have h27 : Holds I a26 := (State.modPart_keeps H h0)
    try clear_value a26
    refine iteInduction (motive := fun r => Holds I r) (fun _ => ?_) (fun _ => ?_)
    · exact h27
    · exact (State.errVec_keeps H (State.dutyBy_keeps H h27))
  · refine iteInduction (motive := fun r => Holds I r) (fun _ => ?_) (fun _ => ?_)
    · refine iteInduction (motive := fun r => Holds I r) (fun _ => ?_) (fun _ => ?_)
      · exact (State.modPart_keeps H h0)
      · exact (State.modPart_keeps H (State.dutyBy_keeps H h0))
    · exact (State.modPart_keeps H h0)

@[simp] theorem State.choosePoint_keeps (H : Closed I) {s : State} (h0 : Holds I s) : Holds I (State.choosePoint s) := by
  unfold State.choosePoint
  extract_lets +onlyGivenNames -merge -useContext a20 a21 a22 a23 a24
  try clear_value a20 a21 a23
  have h25 : ∀ y0 y1, Holds I y0 → Holds I (a24 y0 y1) := by
    intro _ _ h26
    unfold a24
    exact (State.modeRequest_keeps H h26)
  try clear_value a24
  extract_lets +onlyGivenNames -merge -useContext a27
  have h28 : ∀ y0 y1, Holds I y0 → Holds I (a27 y0 y1) := by
    intro _ _ h29
    unfold a27
    exact holds_mk h29 rfl rfl rfl rfl rfl rfl
  try clear_value a27
  refine iteInduction (motive := fun r => Holds I r) (fun _ => ?_) (fun _ => ?_)
  · exact (h25 _ _ h0)
  · refine iteInduction (motive := fun r => Holds I r) (fun _ => ?_) (fun _ => ?_)
    · exact (h25 _ _ h0)
    · refine iteInduction (motive := fun r => Holds I r) (fun _ => ?_) (fun _ => ?_)
      · refine iteInduction (motive := fun r => Holds I r) (fun _ => ?_) (fun _ => ?_)
        · exact (h28 _ _ (h25 _ _ h0))
        · exact (h28 _ _ h0)
      · exact (h28 _ _ h0)

@[simp] theorem State.bucketEnd_keeps (H : Closed I) {s : State} {p : Nat} (h0 : Holds I s) : Holds I (State.bucketEnd s p) := by
  unfold State.bucketEnd
  exact (State.modPart_keeps H h0)

@[simp] theorem State.showWindow_keeps (H : Closed I) {s : State} {m : Measures} {t : Int} {th : Rat} (h0 : Holds I s) : Holds I (State.showWindow s m t th) := by
  unfold State.showWindow
  extract_lets +onlyGivenNames -merge -useContext a20 a21
  try clear_value a20
  have h22 : Holds I a21 := (State.setReg_keeps H h0)
  try clear_value a21
  extract_lets +onlyGivenNames -merge -useContext a23
  have h24 : Holds I a23 := (State.bump_keeps H h22)
  try clear_value a23
  extract_lets +onlyGivenNames -merge -useContext a25
  have h26 : Holds I a25 := by
    unfold a25
    refine State.each_keeps H h24 ?_
    · intro _ _ h27
      exact (State.setRf_keeps H h27)
  try clear_value a25
  extract_lets +onlyGivenNames -merge -useContext a28
  have h29 : Holds I a28 := (State.odSet_keeps H (State.odSet_keeps H (State.odSet_keeps H h26)))
  try clear_value a28
  extract_lets +onlyGivenNames -merge -useContext a30
  have h31 : Holds I a30 := (State.odSet_keeps H (State.odSet_keeps H (State.odSet_keeps H h29)))
  try clear_value a30
  exact (State.setBlob_keeps H h31)

theorem execMeterWindow_keeps (H : Closed I) {m : Measures} {s : State} (h1 : Holds I s) : ∀ t', execMeterWindow m s = Host.Outcome.next t' → Holds I t' := by
  show HoldsOut I _
  unfold execMeterWindow
  refine iteInduction (motive := fun r => HoldsOut I r) (fun _ => ?_) (fun _ => ?_)
  · exact (out_next h1)
  · extract_lets +onlyGivenNames -merge -useContext a20 a21 a22 a23 a24
    try clear_value a20 a21 a22 a23
    have h25 : Holds I a24 := by
      unfold a24
      refine State.each_keeps H h1 ?_
      · intro _ _ h26
        exact (State.kernelTime_keeps H h26)
    try clear_value a24
    extract_lets +onlyGivenNames -merge -useContext a27
    have h28 : Holds I a27 := by
      unfold a27
      refine State.each_keeps H h25 ?_
      · intro _ _ h29
        exact (State.stepTime_keeps H (State.accountRt_keeps H h29))
    try clear_value a27
    extract_lets +onlyGivenNames -merge -useContext a30
    have h31 : Holds I a30.1 := by
      unfold a30
      refine holds_foldl_of (fun (r : State × SMap Nat) => r.1) ?_ ?_
      · exact h28
      · intro _ _ h32
        exact State.chargeCl_keeps H h32
    try clear_value a30
    extract_lets +onlyGivenNames -merge -useContext a33
    have h34 : Holds I a33 := h31
    try clear_value a33
    extract_lets +onlyGivenNames -merge -useContext a35 a36 a37
    try clear_value a35 a36
    have h38 : Holds I a37 := by
      unfold a37
      refine State.each_keeps H h34 ?_
      · intro _ _ h39
        exact (State.bucketEnd_keeps H (State.modPart_keeps H h39))
    try clear_value a37
    extract_lets +onlyGivenNames -merge -useContext a40
    have h41 : Holds I a40 := by
      unfold a40
      refine State.each_keeps H h38 ?_
      · intro _ _ h42
        exact (State.latchPart_keeps H h42)
    try clear_value a40
    extract_lets +onlyGivenNames -merge -useContext a43 a44 a45
    have h46 : Holds I a45 := by
      unfold a45
      exact holds_mk h41 rfl rfl rfl rfl rfl rfl
    try clear_value a45
    extract_lets +onlyGivenNames -merge -useContext a47
    have h48 : Holds I a47 := (State.budgets_keeps H h46)
    try clear_value a47
    extract_lets +onlyGivenNames -merge -useContext a49
    have h50 : Holds I a49 := by
      unfold a49
      refine iteInduction (motive := fun r => Holds I r) (fun _ => ?_) (fun _ => ?_)
      · refine State.odBump_keeps H ?_
        · refine State.each_keeps H h48 ?_
          · intro _ _ h51
            exact (State.errVec_keeps H h51)
      · exact h48
    try clear_value a49
    extract_lets +onlyGivenNames -merge -useContext a52
    have h53 : Holds I a52 := by
      unfold a52
      refine iteInduction (motive := fun r => Holds I r) (fun _ => ?_) (fun _ => ?_)
      · refine State.each_keeps H h50 ?_
        · intro _ _ h54
          exact (State.setDuty_keeps H h54)
      · refine State.each_keeps H h50 ?_
        · intro _ _ h55
          exact (State.dutyPart_keeps H h55)
    try clear_value a52
    extract_lets +onlyGivenNames -merge -useContext a56
    have h57 : Holds I a56 := by
      unfold a56
      refine iteInduction (motive := fun r => Holds I r) (fun _ => ?_) (fun _ => ?_)
      · exact (State.alert_keeps H (State.logEvent_keeps H h53))
      · exact h53
    try clear_value a56
    extract_lets +onlyGivenNames -merge -useContext a58
    have h59 : Holds I a58 := by
      unfold a58
      refine iteInduction (motive := fun r => Holds I r) (fun _ => ?_) (fun _ => ?_)
      · exact (State.odBumpSat_keeps H h57)
      · exact h57
    try clear_value a58
    exact (out_next (State.showWindow_keeps H (State.choosePoint_keeps H h59)))

end Sys2Proof.Machine
end

