-- ==== Sys2Proof/Laws/KeepsPower.lean ====
section
/-! SUPPORT. What the operations of Machine/Power.lean protect. -/

namespace Sys2Proof.Machine

set_option linter.all false

variable {I : Prot → Prop}

@[simp] theorem State.powerGo_keeps (H : Closed I) {s : State} (h0 : Holds I s) : Holds I (State.powerGo s) := by
  unfold State.powerGo
  extract_lets +onlyGivenNames -merge -useContext a20
  try clear_value a20
  refine iteInduction (motive := fun r => Holds I r) (fun _ => ?_) (fun _ => ?_)
  · exact holds_mk h0 rfl rfl rfl rfl rfl rfl
  · extract_lets +onlyGivenNames -merge -useContext a21 a22 a23 a24 a25 a26
    have h27 : Holds I a26 := by
      unfold a26
      exact holds_mk h0 rfl rfl rfl rfl rfl rfl
    try clear_value a26
    extract_lets +onlyGivenNames -merge -useContext a28
    have h29 : Holds I a28 := by
      unfold a28
      refine iteInduction (motive := fun r => Holds I r) (fun _ => ?_) (fun _ => ?_)
      · exact (State.alert_keeps H (State.slotStatus_keeps H h27))
      · exact (State.slotStatus_keeps H h27)
    try clear_value a28
    extract_lets +onlyGivenNames -merge -useContext a30
    have h31 : Holds I a30 := by
      unfold a30
      refine iteInduction (motive := fun r => Holds I r) (fun _ => ?_) (fun _ => ?_)
      · exact (State.logEvent_keeps H h29)
      · exact h29
    try clear_value a30
    exact (State.setStage_keeps H h31)

theorem execPowerUp_keeps (H : Closed I) {pins : PowerPins} {s : State} (h1 : Holds I s) : ∀ t', execPowerUp pins s = Host.Outcome.next t' → Holds I t' := by
  show HoldsOut I _
  unfold execPowerUp
  refine iteInduction (motive := fun r => HoldsOut I r) (fun _ => ?_) (fun _ => ?_)
  · exact (out_next h1)
  · extract_lets +onlyGivenNames -merge -useContext a20 a21
    have h22 : Holds I a21 := by
      unfold a21
      exact holds_mk h1 rfl rfl rfl rfl rfl rfl
    try clear_value a21
    refine out_next ?_
    refine iteInduction (motive := fun r => Holds I r) (fun _ => ?_) (fun _ => ?_)
    · exact (State.powerGo_keeps H h22)
    · exact h22

theorem execPwrEnFall_keeps (H : Closed I) {s : State} (h0 : Holds I s) : ∀ t', execPwrEnFall s = Host.Outcome.next t' → Holds I t' := by
  show HoldsOut I _
  unfold execPwrEnFall
  refine iteInduction (motive := fun r => HoldsOut I r) (fun _ => ?_) (fun _ => ?_)
  · exact (out_next h0)
  · extract_lets +onlyGivenNames -merge -useContext a20
    have h21 : Holds I a20 := by
      unfold a20
      refine iteInduction (motive := fun r => Holds I r) (fun _ => ?_) (fun _ => ?_)
      · exact h0
      · exact (State.powerLost_keeps H h0)
    try clear_value a20
    refine out_next ?_
    exact holds_mk h21 rfl rfl rfl rfl rfl rfl

theorem execRestartHoldoff_keeps (H : Closed I) {pins : PowerPins} {s : State} (h1 : Holds I s) : ∀ t', execRestartHoldoff pins s = Host.Outcome.next t' → Holds I t' := by
  show HoldsOut I _
  unfold execRestartHoldoff
  refine iteInduction (motive := fun r => HoldsOut I r) (fun _ => ?_) (fun _ => ?_)
  · exact (out_next h1)
  · refine iteInduction (motive := fun r => HoldsOut I r) (fun _ => ?_) (fun _ => ?_)
    · refine out_next ?_
      refine State.powerGo_keeps H ?_
      · exact holds_mk h1 rfl rfl rfl rfl rfl rfl
    · refine out_next ?_
      exact holds_mk h1 rfl rfl rfl rfl rfl rfl

theorem execInputDip_keeps (H : Closed I) {s : State} (h0 : Holds I s) : ∀ t', execInputDip s = Host.Outcome.next t' → Holds I t' := by
  show HoldsOut I _
  unfold execInputDip
  refine out_next ?_
  refine iteInduction (motive := fun r => Holds I r) (fun _ => ?_) (fun _ => ?_)
  · exact (State.odBump_keeps H h0)
  · exact h0

theorem execUndervoltage_keeps (H : Closed I) {s : State} (h0 : Holds I s) : ∀ t', execUndervoltage s = Host.Outcome.next t' → Holds I t' := by
  show HoldsOut I _
  unfold execUndervoltage
  refine out_next ?_
  refine iteInduction (motive := fun r => Holds I r) (fun _ => ?_) (fun _ => ?_)
  · exact h0
  · exact (State.powerLost_keeps H h0)

theorem execOvervoltage_keeps (H : Closed I) {s : State} (h0 : Holds I s) : ∀ t', execOvervoltage s = Host.Outcome.next t' → Holds I t' := by
  show HoldsOut I _
  unfold execOvervoltage
  refine out_next ?_
  refine iteInduction (motive := fun r => Holds I r) (fun _ => ?_) (fun _ => ?_)
  · exact (State.powerLost_keeps H h0)
  · exact h0

theorem execBrickOverload_keeps (H : Closed I) {s : State} (h0 : Holds I s) : ∀ t', execBrickOverload s = Host.Outcome.next t' → Holds I t' := by
  show HoldsOut I _
  unfold execBrickOverload
  refine out_next ?_
  refine iteInduction (motive := fun r => Holds I r) (fun _ => ?_) (fun _ => ?_)
  · exact (State.powerLost_keeps H h0)
  · exact h0

@[simp] theorem State.partFitted_keeps (H : Closed I) {s : State} {b : Nat} (h0 : Holds I s) : Holds I (State.partFitted s b) := by
  unfold State.partFitted
  exact (State.ngEvent_keeps H (State.odBumpSat_keeps H h0))

theorem execBrickInsert_keeps (H : Closed I) {n : Nat} {genuine : Bool} {s : State} (h2 : Holds I s) : ∀ t', execBrickInsert n genuine s = Host.Outcome.next t' → Holds I t' := by
  show HoldsOut I _
  unfold execBrickInsert
  refine iteInduction (motive := fun r => HoldsOut I r) (fun _ => ?_) (fun _ => ?_)
  · exact (out_next h2)
  · extract_lets +onlyGivenNames -merge -useContext a20 a21 a22
    try clear_value a20
    have h23 : Holds I a22 := by
      unfold a22
      exact holds_mk h2 rfl rfl rfl rfl rfl rfl
    try clear_value a22
    refine iteInduction (motive := fun r => HoldsOut I r) (fun _ => ?_) (fun _ => ?_)
    · exact (out_next (State.partFitted_keeps H (State.led_keeps H h23)))
    · refine out_next ?_
      refine iteInduction (motive := fun r => Holds I r) (fun _ => ?_) (fun _ => ?_)
      · exact (State.powerGo_keeps H h23)
      · exact h23

theorem execBrickLost_keeps (H : Closed I) {n : Nat} {s : State} (h1 : Holds I s) : ∀ t', execBrickLost n s = Host.Outcome.next t' → Holds I t' := by
  show HoldsOut I _; unfold execBrickLost; (repeat' first | with_reducible assumption | (simp (maxDischargeDepth := 60) +contextual only [*, holds_mk, holds_ite, State.svcAnswer_keeps, State.ngEvent_keeps, State.alert_keeps, State.logEvent_keeps, State.odBumpSat_keeps, State.powerLost_keeps, State.led_keeps]; done) | with_reducible refine out_next ?_ | with_reducible refine out_ite ?_ ?_ | with_reducible refine State.svcAnswer_keeps H ?_ | with_reducible refine State.ngEvent_keeps H ?_ | with_reducible refine State.alert_keeps H ?_ | with_reducible refine State.logEvent_keeps H ?_ | with_reducible refine State.odBumpSat_keeps H ?_ | with_reducible refine State.powerLost_keeps H ?_ | with_reducible refine State.led_keeps H ?_ | with_reducible refine holds_foldl ?_ ?_ | with_reducible refine State.each_keeps H ?_ ?_ | with_reducible refine holds_ite ?_ ?_ | with_reducible refine holds_ite_fst ?_ ?_ | with_reducible refine holds_ite_snd ?_ ?_ | with_reducible refine holds_foldl_fst ?_ ?_ | with_reducible refine holds_foldl_snd ?_ ?_ | with_reducible refine holds_of_fst (by assumption) ?_ | with_reducible refine holds_of_snd (by assumption) ?_ | intro _ | split | dsimp only)

theorem execFanInsert_keeps (H : Closed I) {n : Nat} {s : State} (h1 : Holds I s) : ∀ t', execFanInsert n s = Host.Outcome.next t' → Holds I t' := by
  show HoldsOut I _
  unfold execFanInsert
  refine iteInduction (motive := fun r => HoldsOut I r) (fun _ => ?_) (fun _ => ?_)
  · exact (out_next h1)
  · extract_lets +onlyGivenNames -merge -useContext a20 a21 a22
    try clear_value a20
    have h23 : Holds I a22 := by
      unfold a22
      exact holds_mk h1 rfl rfl rfl rfl rfl rfl
    try clear_value a22
    refine out_next ?_
    refine iteInduction (motive := fun r => Holds I r) (fun _ => ?_) (fun _ => ?_)
    · exact (State.partFitted_keeps H (State.led_keeps H h23))
    · exact h23

theorem execFanLost_keeps (H : Closed I) {n : Nat} {s : State} (h1 : Holds I s) : ∀ t', execFanLost n s = Host.Outcome.next t' → Holds I t' := by
  show HoldsOut I _
  unfold execFanLost
  extract_lets +onlyGivenNames -merge -useContext a20
  refine iteInduction (motive := fun r => HoldsOut I r) (fun _ => ?_) (fun _ => ?_)
  · exact (out_next h1)
  · refine iteInduction (motive := fun r => HoldsOut I r) (fun _ => ?_) (fun _ => ?_)
    · extract_lets +onlyGivenNames -merge -useContext a21 a22
      have h23 : Holds I a22 := by
        unfold a22
        exact holds_mk h1 rfl rfl rfl rfl rfl rfl
      try clear_value a22
      exact (out_next (State.fanCheck_keeps H (State.ngEvent_keeps H (State.alert_keeps H (State.logEvent_keeps H (State.odBumpSat_keeps H h23))))))
    · extract_lets +onlyGivenNames -merge -useContext a24 a25
      have h26 : Holds I a25 := by
        unfold a25
        exact holds_mk h1 rfl rfl rfl rfl rfl rfl
      try clear_value a25
      refine out_next ?_
      refine iteInduction (motive := fun r => Holds I r) (fun _ => ?_) (fun _ => ?_)
      · exact (State.ngEvent_keeps H (State.led_keeps H h26))
      · exact h26

theorem execThermalShutdown_keeps (H : Closed I) {maxTemp : Int} {s : State} (h1 : Holds I s) : ∀ t', execThermalShutdown maxTemp s = Host.Outcome.next t' → Holds I t' := by
  show HoldsOut I _
  unfold execThermalShutdown
  refine out_next ?_
  refine iteInduction (motive := fun r => Holds I r) (fun _ => ?_) (fun _ => ?_)
  · exact (State.thermalStop_keeps H h1)
  · exact h1

theorem execHwThermalTrip_keeps (H : Closed I) {s : State} (h0 : Holds I s) : ∀ t', execHwThermalTrip s = Host.Outcome.next t' → Holds I t' := by
  show HoldsOut I _
  unfold execHwThermalTrip
  refine out_next ?_
  refine iteInduction (motive := fun r => Holds I r) (fun _ => ?_) (fun _ => ?_)
  · exact (State.thermalStop_keeps H h0)
  · exact h0

end Sys2Proof.Machine
end

