-- ==== Sys2Proof/Laws/KeepsObserve.lean ====
section
/-! SUPPORT. What the operations of Machine/Observe.lean protect. -/

namespace Sys2Proof.Machine

set_option linter.all false

variable {I : Prot → Prop}

@[simp] theorem State.profileAct_keeps (H : Closed I) {t : State} {d : List Byte} (h0 : Holds I t) : Holds I ((State.profileAct t d).1) := by
  unfold State.profileAct
  extract_lets +onlyGivenNames -merge -useContext a20
  try clear_value a20
  refine iteInduction (motive := fun (r : State × Option Nat) => Holds I r.1) (fun _ => ?_) (fun _ => ?_)
  · exact h0
  · exact holds_mk h0 rfl rfl rfl rfl rfl rfl

theorem execProfilePlanWrite_keeps (H : Closed I) {p : Path} {data : List Byte} {s : State} (h2 : Holds I s) : ∀ t', execProfilePlanWrite p data s = Host.Outcome.next t' → Holds I t' := by
  show HoldsOut I _
  unfold execProfilePlanWrite
  refine out_next ?_
  refine State.odCmd_keeps H h2 ?_
  · intro _ h20
    exact (State.profileAct_keeps H h20)

@[simp] theorem State.reelFlush_keeps (H : Closed I) {s : State} {u : Nat} (h0 : Holds I s) : Holds I (State.reelFlush s u) := by
  unfold State.reelFlush
  exact (State.modReel_keeps H h0)

@[simp] theorem State.rctrlWrite_keeps (H : Closed I) {s : State} {u v : Nat} (h0 : Holds I s) : Holds I (State.rctrlWrite s u v) := by
  unfold State.rctrlWrite
  extract_lets +onlyGivenNames -merge -useContext a20 a21 a22 a23
  try clear_value a20 a21 a22
  have h24 : Holds I a23 := (State.setReg_keeps H h0)
  try clear_value a23
  refine iteInduction (motive := fun r => Holds I r) (fun _ => ?_) (fun _ => ?_)
  · exact (State.reelFlush_keeps H h24)
  · exact h24

@[simp] theorem State.rctrlBy_keeps (H : Closed I) {s : State} {p : Path} {u v : Nat} (h0 : Holds I s) : Holds I (State.rctrlBy s p u v) := by
  unfold State.rctrlBy
  refine iteInduction (motive := fun r => Holds I r) (fun _ => ?_) (fun _ => ?_)
  · exact (State.rctrlWrite_keeps H h0)
  · extract_lets +onlyGivenNames -merge -useContext a20
    have h21 : Holds I a20 := (State.discardRwp_keeps H h0)
    try clear_value a20
    refine iteInduction (motive := fun r => Holds I r) (fun _ => ?_) (fun _ => ?_)
    · exact (State.reelFlush_keeps H h21)
    · exact h21

theorem execReelFlush_keeps (H : Closed I) {p : Path} {reel : Nat} {v : W32} {s : State} (h3 : Holds I s) : ∀ t', execReelFlush p reel v s = Host.Outcome.next t' → Holds I t' := by
  show HoldsOut I _
  unfold execReelFlush
  refine out_next ?_
  refine iteInduction (motive := fun r => Holds I r) (fun _ => ?_) (fun _ => ?_)
  · refine State.regGate_keeps H h3 ?_
    · intro _ h20
      exact (State.rctrlBy_keeps H h20)
  · exact h3

theorem execReelDisable_keeps (H : Closed I) {p : Path} {reel : Nat} {v : W32} {s : State} (h3 : Holds I s) : ∀ t', execReelDisable p reel v s = Host.Outcome.next t' → Holds I t' := by
  show HoldsOut I _
  unfold execReelDisable
  refine out_next ?_
  refine iteInduction (motive := fun r => Holds I r) (fun _ => ?_) (fun _ => ?_)
  · refine State.regGate_keeps H h3 ?_
    · intro _ h20
      exact (State.rctrlBy_keeps H h20)
  · exact h3

theorem State.reelPut_keeps (H : Closed I) {s : State} {host : Bool} {a : Nat} {bs : List Byte} (h0 : Holds I s) : ∀ t', (State.reelPut s host a bs).1 = some t' → Holds I (t') := by
  unfold State.reelPut
  refine iteInduction (motive := fun (r : Option State × Bool) => HoldsSome I (fun t => t) r.1) (fun _ => ?_) (fun _ => ?_)
  · refine iteInduction (motive := fun r => HoldsSome I (fun t => t) r) (fun _ => ?_) (fun _ => ?_)
    · exact (some_some (State.hostWrite_keeps H h0))
    · exact some_none
  · extract_lets +onlyGivenNames -merge -useContext a20
    have h21 : Holds I a20.st := (State.writeMem_keeps H h0)
    try clear_value a20
    refine iteInduction (motive := fun (r : Option State × Bool) => HoldsSome I (fun t => t) r.1) (fun _ => ?_) (fun _ => ?_)
    · exact some_none
    · refine iteInduction (motive := fun (r : Option State × Bool) => HoldsSome I (fun t => t) r.1) (fun _ => ?_) (fun _ => ?_)
      · exact some_none
      · exact (some_some h21)

theorem execReelDrainDone_keeps (H : Closed I) {reel : Nat} {ok : Bool} {s : State} (h2 : Holds I s) : ∀ t', execReelDrainDone reel ok s = Host.Outcome.next t' → Holds I t' := by
  show HoldsOut I _
  unfold execReelDrainDone
  extract_lets +onlyGivenNames -merge -useContext a20
  try clear_value a20
  split
  · exact (out_next h2)
  · extract_lets +onlyGivenNames -merge -useContext a21 a22 a23
    try clear_value a21 a22
    have h24 : HoldsSome I (fun t => t) a23.1 := (State.reelPut_keeps H h2)
    try clear_value a23
    refine iteInduction (motive := fun r => HoldsOut I r) (fun _ => ?_) (fun _ => ?_)
    · exact (out_next h2)
    · extract_lets +onlyGivenNames -merge -useContext a25
      have h26 : Holds I a25 := by
        unfold a25
        split
        · rename_i e27
          have h28 := some_of (I := I) (p := fun t => t) e27 (by
              refine iteInduction (motive := fun r => HoldsSome I (fun t => t) r) (fun _ => ?_) (fun _ => ?_)
              · exact h24
              · exact some_none
            )
          exact (State.bump_keeps H h28)
        · exact (State.setRf_keeps H (State.odBump_keeps H (State.bump_keeps H h2)))
      try clear_value a25
      exact (out_next (State.modReel_keeps H h26))

theorem execProgressWatchdog_keeps (H : Closed I) {queue : Nat} {s : State} (h1 : Holds I s) : ∀ t', execProgressWatchdog queue s = Host.Outcome.next t' → Holds I t' := by
  show HoldsOut I _
  unfold execProgressWatchdog
  split
  · exact (out_next h1)
  · refine out_next ?_
    refine iteInduction (motive := fun r => Holds I r) (fun _ => ?_) (fun _ => ?_)
    · exact (State.hang_keeps H h1)
    · exact h1

@[simp] theorem State.sheetZero_keeps (H : Closed I) {s : State} (h0 : Holds I s) : Holds I (State.sheetZero s) := by
  unfold State.sheetZero
  extract_lets +onlyGivenNames -merge -useContext a20 a21
  have h22 : Holds I a21 := by
    unfold a21
    refine State.each_keeps H h0 ?_
    intro _ _ h23
    refine State.each_keeps H h23 ?_
    intro _ _ h24
    exact (State.ccForget_keeps H h24)
  clear_value a21
  extract_lets +onlyGivenNames -merge -useContext a25
  have h26 : Holds I a25 := by
    unfold a25
    refine State.each_keeps H h22 ?_
    intro _ _ h27
    refine State.each_keeps H h27 ?_
    intro _ _ h28
    exact (State.tkDrop_keeps H h28)
  clear_value a25
  exact H.poisonFilter _ _ (H.memFilter _ _ h26)

@[simp] theorem State.writeSheet_keeps (H : Closed I) {s : State} {x : Sheet} (h0 : Holds I s) : Holds I (State.writeSheet s x) := by
  unfold State.writeSheet
  extract_lets +onlyGivenNames -merge -useContext a20 a21
  try clear_value a20
  have h22 : Holds I a21 := by
    unfold a21
    refine iteInduction (motive := fun r => Holds I r) (fun _ => ?_) (fun _ => ?_)
    · exact (State.sheetZero_keeps H h0)
    · exact h0
  try clear_value a21
  refine State.each_keeps H h22 ?_
  · intro _ _ h23
    exact (State.ownWrite_keeps H h23)

theorem execContactSheetDone_keeps (H : Closed I) {s : State} (h0 : Holds I s) : ∀ t', execContactSheetDone s = Host.Outcome.next t' → Holds I t' := by
  show HoldsOut I _
  unfold execContactSheetDone
  split
  · exact (out_next h0)
  · extract_lets +onlyGivenNames -merge -useContext a20
    have h21 : Holds I a20 := (State.writeSheet_keeps H h0)
    try clear_value a20
    extract_lets +onlyGivenNames -merge -useContext a22 a23
    have h24 : Holds I a23 := by
      unfold a23
      exact holds_mk h21 rfl rfl rfl rfl rfl rfl
    try clear_value a23
    extract_lets +onlyGivenNames -merge -useContext a25
    have h26 : Holds I a25 := (State.odBump_keeps H (State.setRf_keeps H h24))
    try clear_value a25
    exact (out_next (State.teardown_keeps H h26))

@[simp] theorem State.sheetRelease_keeps (H : Closed I) {s : State} (h0 : Holds I s) : Holds I (State.sheetRelease s) := by
  unfold State.sheetRelease
  refine iteInduction (motive := fun r => Holds I r) (fun _ => ?_) (fun _ => ?_)
  · exact h0
  · exact (State.setRf_keeps H (State.setRf_keeps H h0))

@[simp] theorem State.releaseAct_keeps (H : Closed I) {t : State} {v : Nat} (h0 : Holds I t) : Holds I ((State.releaseAct t v).1) := by
  unfold State.releaseAct
  refine iteInduction (motive := fun (r : State × Option Nat) => Holds I r.1) (fun _ => ?_) (fun _ => ?_)
  · exact (State.sheetRelease_keeps H h0)
  · exact h0

theorem execContactSheetRelease_keeps (H : Closed I) {p : Path} {byRegister : Bool} {v : W32} {s : State} (h3 : Holds I s) : ∀ t', execContactSheetRelease p byRegister v s = Host.Outcome.next t' → Holds I t' := by
  show HoldsOut I _
  unfold execContactSheetRelease
  refine out_next ?_
  refine iteInduction (motive := fun r => Holds I r) (fun _ => ?_) (fun _ => ?_)
  · refine State.regGateP_keeps H h3 ?_
    · intro _ h20
      refine iteInduction (motive := fun r => Holds I r) (fun _ => ?_) (fun _ => ?_)
      · exact (State.sheetRelease_keeps H h20)
      · exact h20
  · refine State.odCmd_keeps H h3 ?_
    · intro _ h21
      exact (State.releaseAct_keeps H h21)

end Sys2Proof.Machine
end

