-- ==== Sys2Proof/Laws/KeepsMgmt.lean ====
section
/-! SUPPORT. What the operations of Machine/Mgmt.lean protect. -/

namespace Sys2Proof.Machine

set_option linter.all false

variable {I : Prot → Prop}

@[simp] theorem State.keyRevoke_keeps (H : Closed I) {s : State} {v : Nat} (h0 : Holds I s) : Holds I ((State.keyRevoke s v).1) := by
  unfold State.keyRevoke
  extract_lets +onlyGivenNames -merge -useContext left
  split
  · exact h0
  · rename_i c
    simp only [Bool.or_eq_true, decide_eq_true_eq, not_or] at c
    exact State.logEvent_keeps H (H.keyRevoke _ v (by omega) c.2 h0)

@[simp] theorem State.floorRaise_keeps (H : Closed I) {s : State} {v : Nat} (h0 : Holds I s) : Holds I ((State.floorRaise s v).1) := by
  unfold State.floorRaise
  split
  · exact h0
  · split
    · exact h0
    · split
      · exact h0
      · exact H.floorRaise _ _ (by show s.mg.floor < s.mg.runArb; omega) ‹_› h0

@[simp] theorem State.ownerProgram_keeps (H : Closed I) {s : State} {d : List Byte} (h0 : Holds I s) : Holds I ((State.ownerProgram s d).1) := by
  unfold State.ownerProgram
  extract_lets +onlyGivenNames -merge -useContext n
  split
  · exact h0
  · rename_i c
    simp only [Bool.or_eq_true, decide_eq_true_eq, not_or] at c
    exact H.ownerPut _ _ _ (by show (s.mg.owners.find n).isSome = false; simpa using c.2) h0

@[simp] theorem State.ownerRevoke_keeps (H : Closed I) {s : State} {v : Nat} (h0 : Holds I s) : Holds I ((State.ownerRevoke s v).1) := by
  unfold State.ownerRevoke
  split
  · exact h0
  · exact State.logEvent_keeps H (H.ownerRevoke _ v (by omega) h0)

@[simp] theorem State.restoreEnd_keeps (H : Closed I) {s : State} (h0 : Holds I s) : Holds I (State.restoreEnd s) := by
  unfold State.restoreEnd
  refine iteInduction (motive := fun r => Holds I r) (fun _ => ?_) (fun _ => ?_)
  · refine State.bootGo_keeps H ?_
    · exact holds_mk h0 rfl rfl rfl rfl rfl rfl
  · exact h0

@[simp] theorem State.restoreAct_keeps (H : Closed I) {s : State} {v : Nat} (h0 : Holds I s) : Holds I ((State.restoreAct s v).1) := by
  unfold State.restoreAct
  refine iteInduction (motive := fun (r : State × Option Nat) => Holds I r.1) (fun _ => ?_) (fun _ => ?_)
  · exact h0
  · exact (State.restoreEnd_keeps H h0)

@[simp] theorem State.unitAct_keeps (H : Closed I) {s : State} {p : Path} {v : Nat} (h0 : Holds I s) : Holds I ((State.unitAct s p v).1) := by
  unfold State.unitAct
  extract_lets +onlyGivenNames -merge -useContext a20
  try clear_value a20
  refine iteInduction (motive := fun (r : State × Option Nat) => Holds I r.1) (fun _ => ?_) (fun _ => ?_)
  · exact (State.sparePcAct_keeps H h0)
  · refine iteInduction (motive := fun (r : State × Option Nat) => Holds I r.1) (fun _ => ?_) (fun _ => ?_)
    · exact (State.unitAnswer_keeps H h0)
    · refine iteInduction (motive := fun (r : State × Option Nat) => Holds I r.1) (fun _ => ?_) (fun _ => ?_)
      · exact (State.drainAct_keeps H h0)
      · refine iteInduction (motive := fun (r : State × Option Nat) => Holds I r.1) (fun _ => ?_) (fun _ => ?_)
        · exact (State.undrainAct_keeps H h0)
        · refine iteInduction (motive := fun (r : State × Option Nat) => Holds I r.1) (fun _ => ?_) (fun _ => ?_)
          · exact (State.quiesceAct_keeps H h0)
          · refine iteInduction (motive := fun (r : State × Option Nat) => Holds I r.1) (fun _ => ?_) (fun _ => ?_)
            · exact (State.testAct_keeps H h0)
            · refine iteInduction (motive := fun (r : State × Option Nat) => Holds I r.1) (fun _ => ?_) (fun _ => ?_)
              · exact (State.returnAct_keeps H h0)
              · refine iteInduction (motive := fun (r : State × Option Nat) => Holds I r.1) (fun _ => ?_) (fun _ => ?_)
                · exact (State.retrainAct_keeps H h0)
                · exact (State.unitAnswer_keeps H h0)

@[simp] theorem State.layoutAct_keeps (H : Closed I) {s : State} {p : Path} {v : Nat} (h0 : Holds I s) : Holds I ((State.layoutAct s p v).1) := by
  unfold State.layoutAct
  extract_lets +onlyGivenNames -merge -useContext a20
  try clear_value a20
  refine iteInduction (motive := fun (r : State × Option Nat) => Holds I r.1) (fun _ => ?_) (fun _ => ?_)
  · exact (State.applyAct_keeps H h0)
  · refine iteInduction (motive := fun (r : State × Option Nat) => Holds I r.1) (fun _ => ?_) (fun _ => ?_)
    · exact (State.abortAct_keeps H h0)
    · refine iteInduction (motive := fun (r : State × Option Nat) => Holds I r.1) (fun _ => ?_) (fun _ => ?_)
      · exact (State.resetAct_keeps H h0)
      · exact h0

@[simp] theorem State.rangeAct_keeps (H : Closed I) {s : State} {mirror : Bool} {d : List Byte} (h0 : Holds I s) : Holds I ((State.rangeAct s mirror d).1) := by
  unfold State.rangeAct
  extract_lets +onlyGivenNames -merge -useContext a20 a21
  try clear_value a21
  refine iteInduction (motive := fun (r : State × Option Nat) => Holds I r.1) (fun _ => ?_) (fun _ => ?_)
  · refine iteInduction (motive := fun (r : State × Option Nat) => Holds I r.1) (fun _ => ?_) (fun _ => ?_)
    · exact (State.mirrorAddAct_keeps H h0)
    · refine iteInduction (motive := fun (r : State × Option Nat) => Holds I r.1) (fun _ => ?_) (fun _ => ?_)
      · exact (State.mirrorRemoveAct_keeps H h0)
      · exact h0
  · refine iteInduction (motive := fun (r : State × Option Nat) => Holds I r.1) (fun _ => ?_) (fun _ => ?_)
    · exact (State.moveStartAct_keeps H h0)
    · refine iteInduction (motive := fun (r : State × Option Nat) => Holds I r.1) (fun _ => ?_) (fun _ => ?_)
      · exact (State.moveReleaseAct_keeps H h0)
      · exact (State.moveAnswer_keeps H h0)

@[simp] theorem State.odEffect_keeps (H : Closed I) {s : State} {p : Path} {idx sub : Nat} {ty : OdTy} {d : List Byte} (h0 : Holds I s) : Holds I ((State.odEffect s p idx sub ty d).1) := by
  unfold State.odEffect
  extract_lets +onlyGivenNames -merge -useContext a20
  try clear_value a20
  refine iteInduction (motive := fun (r : State × Option Nat) => Holds I r.1) (fun _ => ?_) (fun _ => ?_)
  · exact (State.unitAct_keeps H h0)
  · refine iteInduction (motive := fun (r : State × Option Nat) => Holds I r.1) (fun _ => ?_) (fun _ => ?_)
    · exact (State.rangeAct_keeps H h0)
    · refine iteInduction (motive := fun (r : State × Option Nat) => Holds I r.1) (fun _ => ?_) (fun _ => ?_)
      · exact (State.rangeAct_keeps H h0)
      · refine iteInduction (motive := fun (r : State × Option Nat) => Holds I r.1) (fun _ => ?_) (fun _ => ?_)
        · exact (State.ruleAct_keeps H h0)
        · refine iteInduction (motive := fun (r : State × Option Nat) => Holds I r.1) (fun _ => ?_) (fun _ => ?_)
          · exact (State.layoutAct_keeps H h0)
          · refine iteInduction (motive := fun (r : State × Option Nat) => Holds I r.1) (fun _ => ?_) (fun _ => ?_)
            · exact (State.subnormalAct_keeps H h0)
            · refine iteInduction (motive := fun (r : State × Option Nat) => Holds I r.1) (fun _ => ?_) (fun _ => ?_)
              · exact (State.slotCommand_keeps H h0)
              · refine iteInduction (motive := fun (r : State × Option Nat) => Holds I r.1) (fun _ => ?_) (fun _ => ?_)
                · exact (State.forgetAct_keeps H h0)
                · refine iteInduction (motive := fun (r : State × Option Nat) => Holds I r.1) (fun _ => ?_) (fun _ => ?_)
                  · exact (State.fabricSet_keeps H h0)
                  · refine iteInduction (motive := fun (r : State × Option Nat) => Holds I r.1) (fun _ => ?_) (fun _ => ?_)
                    · exact (State.groupEntry_keeps H h0)
                    · refine iteInduction (motive := fun (r : State × Option Nat) => Holds I r.1) (fun _ => ?_) (fun _ => ?_)
                      · exact (State.opEntry_keeps H h0)
                      · refine iteInduction (motive := fun (r : State × Option Nat) => Holds I r.1) (fun _ => ?_) (fun _ => ?_)
                        · exact (State.planSet_keeps H h0)
                        · refine iteInduction (motive := fun (r : State × Option Nat) => Holds I r.1) (fun _ => ?_) (fun _ => ?_)
                          · exact (State.serviceCmd_keeps H h0)
                          · refine iteInduction (motive := fun (r : State × Option Nat) => Holds I r.1) (fun _ => ?_) (fun _ => ?_)
                            · exact (State.digestCmd_keeps H h0)
                            · refine iteInduction (motive := fun (r : State × Option Nat) => Holds I r.1) (fun _ => ?_) (fun _ => ?_)
                              · exact (State.fabricCmd_keeps H h0)
                              · refine iteInduction (motive := fun (r : State × Option Nat) => Holds I r.1) (fun _ => ?_) (fun _ => ?_)
                                · exact (State.failureReport_keeps H h0)
                                · refine iteInduction (motive := fun (r : State × Option Nat) => Holds I r.1) (fun _ => ?_) (fun _ => ?_)
                                  · exact (State.profileAct_keeps H h0)
                                  · refine iteInduction (motive := fun (r : State × Option Nat) => Holds I r.1) (fun _ => ?_) (fun _ => ?_)
                                    · exact (State.releaseAct_keeps H h0)
                                    · refine iteInduction (motive := fun (r : State × Option Nat) => Holds I r.1) (fun _ => ?_) (fun _ => ?_)
                                      · exact (State.ownerProgram_keeps H h0)
                                      · refine iteInduction (motive := fun (r : State × Option Nat) => Holds I r.1) (fun _ => ?_) (fun _ => ?_)
                                        · exact (State.ownerRevoke_keeps H h0)
                                        · refine iteInduction (motive := fun (r : State × Option Nat) => Holds I r.1) (fun _ => ?_) (fun _ => ?_)
                                          · exact (State.keyRevoke_keeps H h0)
                                          · refine iteInduction (motive := fun (r : State × Option Nat) => Holds I r.1) (fun _ => ?_) (fun _ => ?_)
                                            · exact (State.floorRaise_keeps H h0)
                                            · refine iteInduction (motive := fun (r : State × Option Nat) => Holds I r.1) (fun _ => ?_) (fun _ => ?_)
                                              · exact (State.restoreAct_keeps H h0)
                                              · refine iteInduction (motive := fun (r : State × Option Nat) => Holds I r.1) (fun _ => ?_) (fun _ => ?_)
                                                · exact h0
                                                · refine iteInduction (motive := fun (r : State × Option Nat) => Holds I r.1) (fun _ => ?_) (fun _ => ?_)
                                                  · exact h0
                                                  · split
                                                    · exact (State.setBlob_keeps H h0)
                                                    · extract_lets +onlyGivenNames -merge -useContext a21
                                                      have h22 : Holds I a21 := (State.odSet_keeps H h0)
                                                      try clear_value a21
                                                      refine iteInduction (motive := fun r => Holds I r) (fun _ => ?_) (fun _ => ?_)
                                                      · exact holds_mk h22 rfl rfl rfl rfl rfl rfl
                                                      · exact h22

@[simp] theorem State.odWriteAct_keeps (H : Closed I) {s : State} {p : Path} {idx sub : Nat} {d : List Byte} (h0 : Holds I s) : Holds I ((State.odWriteAct s p idx sub d).1) := by
  unfold State.odWriteAct
  split
  · refine iteInduction (motive := fun r => Holds I r) (fun _ => ?_) (fun _ => ?_)
    · exact (State.discardRo_keeps H h0)
    · exact h0
  · refine iteInduction (motive := fun (r : State × Option Nat) => Holds I r.1) (fun _ => ?_) (fun _ => ?_)
    · exact (State.discardRo_keeps H h0)
    · refine iteInduction (motive := fun (r : State × Option Nat) => Holds I r.1) (fun _ => ?_) (fun _ => ?_)
      · exact h0
      · extract_lets +onlyGivenNames -merge -useContext a20
        have h21 : Holds I a20.1 := (State.odEffect_keeps H h0)
        try clear_value a20
        refine iteInduction (motive := fun (r : State × Option Nat) => Holds I r.1) (fun _ => ?_) (fun _ => ?_)
        · exact (State.noteS_keeps H h21)
        · exact h21

@[simp] theorem State.leaveRom_keeps (H : Closed I) {s : State} (h0 : Holds I s) : Holds I (State.leaveRom s) := by
  unfold State.leaveRom
  refine iteInduction (motive := fun r => Holds I r) (fun _ => ?_) (fun _ => ?_)
  · exact h0
  · refine iteInduction (motive := fun r => Holds I r) (fun _ => ?_) (fun _ => ?_)
    · exact (State.setStage_keeps H h0)
    · exact h0

@[simp] theorem State.warmGo_keeps (H : Closed I) {s : State} {reload : Bool} (h0 : Holds I s) : Holds I (State.warmGo s reload) := by
  unfold State.warmGo
  extract_lets +onlyGivenNames -merge -useContext a20
  have h21 : Holds I a20 := (State.warmReset_keeps H h0)
  try clear_value a20
  refine iteInduction (motive := fun r => Holds I r) (fun _ => ?_) (fun _ => ?_)
  · exact holds_mk h21 rfl rfl rfl rfl rfl rfl
  · exact h21

@[simp] theorem State.afterWrite_keeps (H : Closed I) {s : State} {idx sub v : Nat} (h0 : Holds I s) : Holds I (State.afterWrite s idx sub v) := by
  unfold State.afterWrite
  refine iteInduction (motive := fun r => Holds I r) (fun _ => ?_) (fun _ => ?_)
  · exact (State.warmGo_keeps H h0)
  · refine iteInduction (motive := fun r => Holds I r) (fun _ => ?_) (fun _ => ?_)
    · refine State.each_keeps H h0 ?_
      · intro _ _ h20
        extract_lets +onlyGivenNames -merge -useContext a21
        refine iteInduction (motive := fun r => Holds I r) (fun _ => ?_) (fun _ => ?_)
        · exact (State.closeSession_keeps H h20)
        · exact h20
    · refine iteInduction (motive := fun r => Holds I r) (fun _ => ?_) (fun _ => ?_)
      · exact (State.fanCheck_keeps H h0)
      · exact h0

@[simp] theorem State.odWriteItem_keeps (H : Closed I) {s : State} {p : Path} {idx sub : Nat} {d : List Byte} (h0 : Holds I s) : Holds I (State.odWriteItem s p idx sub d) := by
  unfold State.odWriteItem
  extract_lets +onlyGivenNames -merge -useContext a20
  have h21 : Holds I a20 := by
    unfold a20
    refine State.odCmd_keeps H h0 ?_
    · intro _ h22
      exact (State.odWriteAct_keeps H h22)
  try clear_value a20
  refine iteInduction (motive := fun r => Holds I r) (fun _ => ?_) (fun _ => ?_)
  · exact (State.afterWrite_keeps H h21)
  · exact h21

theorem execOdWrite_keeps (H : Closed I) {p : Path} {index sub : Nat} {data : List Byte} {s : State} (h4 : Holds I s) : ∀ t', execOdWrite p index sub data s = Host.Outcome.next t' → Holds I t' := by
  show HoldsOut I _
  unfold execOdWrite
  exact (out_next (State.odWriteItem_keeps H h4))

@[simp] theorem State.buf4Put_keeps (H : Closed I) {s : State} {bs : List Byte} (h0 : Holds I s) : Holds I (State.buf4Put s bs) := by
  unfold State.buf4Put
  extract_lets +onlyGivenNames -merge -useContext a20
  have h21 : Holds I a20 := by
    unfold a20
    exact holds_mk h0 rfl rfl rfl rfl rfl rfl
  try clear_value a20
  exact (State.odStat_keeps H h21)

@[simp] theorem State.odLookItem_keeps (H : Closed I) {s : State} {p : Path} {describe : Bool} {idx sub off : Nat} (h0 : Holds I s) : Holds I (State.odLookItem s p describe idx sub off) := by
  unfold State.odLookItem
  extract_lets +onlyGivenNames -merge -useContext a20 a21
  try clear_value a20 a21
  split
  · refine iteInduction (motive := fun r => Holds I r) (fun _ => ?_) (fun _ => ?_)
    · exact (State.urAnswer_keeps H h0)
    · refine iteInduction (motive := fun r => Holds I r) (fun _ => ?_) (fun _ => ?_)
      · exact (State.setRf_keeps H h0)
      · refine iteInduction (motive := fun r => Holds I r) (fun _ => ?_) (fun _ => ?_)
        · exact (State.odStat_keeps H h0)
        · refine iteInduction (motive := fun r => Holds I r) (fun _ => ?_) (fun _ => ?_)
          · exact (State.odStat_keeps H h0)
          · exact (State.buf4Put_keeps H h0)
  · extract_lets +onlyGivenNames -merge -useContext a22
    try clear_value a22
    refine iteInduction (motive := fun r => Holds I r) (fun _ => ?_) (fun _ => ?_)
    · exact h0
    · refine iteInduction (motive := fun r => Holds I r) (fun _ => ?_) (fun _ => ?_)
      · exact (State.odReply_keeps H h0)
      · exact (State.tuiSend_keeps H h0)
  · exact h0

theorem execOdRead_keeps (H : Closed I) {p : Path} {index sub off : Nat} {s : State} (h4 : Holds I s) : ∀ t', execOdRead p index sub off s = Host.Outcome.next t' → Holds I t' := by
  show HoldsOut I _
  unfold execOdRead
  exact (out_next (State.odLookItem_keeps H h4))

theorem execOdDescribe_keeps (H : Closed I) {p : Path} {index sub : Nat} {s : State} (h3 : Holds I s) : ∀ t', execOdDescribe p index sub s = Host.Outcome.next t' → Holds I t' := by
  show HoldsOut I _
  unfold execOdDescribe
  exact (out_next (State.odLookItem_keeps H h3))

@[simp] theorem State.tuiDrop_keeps (H : Closed I) {s : State} (h0 : Holds I s) : Holds I (State.tuiDrop s) := by
  unfold State.tuiDrop
  exact (State.odBump_keeps H h0)

@[simp] theorem State.plainIn_keeps (H : Closed I) {s : State} {h : TuiHead} {len : Nat} {act : State → State} (h0 : Holds I s) (h3 : ∀ y0, Holds I (y0) → Holds I (act y0)) : Holds I (State.plainIn s h len act) := by
  unfold State.plainIn
  refine iteInduction (motive := fun r => Holds I r) (fun _ => ?_) (fun _ => ?_)
  · exact h0
  · refine iteInduction (motive := fun r => Holds I r) (fun _ => ?_) (fun _ => ?_)
    · exact (h3 _ h0)
    · exact (State.tuiDrop_keeps H h0)

@[simp] theorem State.sealedIn_keeps (H : Closed I) {s : State} {h : TuiHead} {len : Nat} {act : State → Nat → State} (h0 : Holds I s) (h3 : ∀ y0 y1, Holds I (y0) → Holds I (act y0 y1)) : Holds I (State.sealedIn s h len act) := by
  unfold State.sealedIn
  refine iteInduction (motive := fun r => Holds I r) (fun _ => ?_) (fun _ => ?_)
  · exact h0
  · split
    · exact (State.tuiDrop_keeps H h0)
    · extract_lets +onlyGivenNames -merge -useContext a20
      refine iteInduction (motive := fun r => Holds I r) (fun _ => ?_) (fun _ => ?_)
      · extract_lets +onlyGivenNames -merge -useContext a21 a22 a23
        try clear_value a21
        have h24 : Holds I a23 := by
          unfold a23
          exact holds_mk h0 rfl rfl rfl rfl rfl rfl
        try clear_value a23
        extract_lets +onlyGivenNames -merge -useContext a25
        have h26 : Holds I a25 := (h3 _ _ h24)
        try clear_value a25
        refine iteInduction (motive := fun r => Holds I r) (fun _ => ?_) (fun _ => ?_)
        · exact (State.closeSession_keeps H h26)
        · exact h26
      · exact (State.tuiDrop_keeps H h0)

theorem execDiscover_keeps (H : Closed I) {h : TuiHead} {s : State} (h1 : Holds I s) : ∀ t', execDiscover h s = Host.Outcome.next t' → Holds I t' := by
  show HoldsOut I _
  unfold execDiscover
  refine out_next ?_
  refine State.plainIn_keeps H h1 ?_
  · intro _ h20
    exact (State.announce_keeps H h20)

theorem execSpdm_keeps (H : Closed I) {h : TuiHead} {msg : List Byte} {s : State} (h2 : Holds I s) : ∀ t', execSpdm h msg s = Host.Outcome.next t' → Holds I t' := by
  show HoldsOut I _
  unfold execSpdm
  refine out_next ?_
  refine State.plainIn_keeps H h2 ?_
  · intro _ h20
    exact (State.tuiPlain_keeps H (State.draw_keeps H h20))

@[simp] theorem State.sessionReject_keeps (H : Closed I) {s : State} {req st : Nat} (h0 : Holds I s) : Holds I (State.sessionReject s req st) := by
  unfold State.sessionReject
  exact (State.logEvent_keeps H (State.odBump_keeps H (State.tuiPlain_keeps H h0)))

theorem execSessionInit_keeps (H : Closed I) {h : TuiHead} {staticKey ephKey nonce : List Byte} {s : State} (h4 : Holds I s) : ∀ t', execSessionInit h staticKey ephKey nonce s = Host.Outcome.next t' → Holds I t' := by
  show HoldsOut I _
  unfold execSessionInit
  refine out_next ?_
  refine iteInduction (motive := fun r => Holds I r) (fun _ => ?_) (fun _ => ?_)
  · refine iteInduction (motive := fun r => Holds I r) (fun _ => ?_) (fun _ => ?_)
    · exact (State.tuiDrop_keeps H h4)
    · exact h4
  · refine State.plainIn_keeps H h4 ?_
    · intro _ h20
      split
      · exact (State.sessionReject_keeps H h20)
      · extract_lets +onlyGivenNames -merge -useContext a21 a22 a23 a24 a25 a26 a27
        try clear_value a21 a22 a23 a24 a25
        have h28 : Holds I a27 := (State.draw_keeps H h20)
        try clear_value a27
        refine State.tuiPlain_keeps H ?_
        · exact holds_mk h28 rfl rfl rfl rfl rfl rfl

theorem execSessionFinish_keeps (H : Closed I) {h : TuiHead} {sig : List Byte} {s : State} (h2 : Holds I s) : ∀ t', execSessionFinish h sig s = Host.Outcome.next t' → Holds I t' := by
  show HoldsOut I _
  unfold execSessionFinish
  refine out_next ?_
  refine iteInduction (motive := fun r => Holds I r) (fun _ => ?_) (fun _ => ?_)
  · refine iteInduction (motive := fun r => Holds I r) (fun _ => ?_) (fun _ => ?_)
    · exact (State.tuiDrop_keeps H h2)
    · exact h2
  · refine State.plainIn_keeps H h2 ?_
    · intro _ h20
      split
      · exact (State.tuiDrop_keeps H h20)
      · extract_lets +onlyGivenNames -merge -useContext a21
        split
        · refine iteInduction (motive := fun r => Holds I r) (fun _ => ?_) (fun _ => ?_)
          · exact holds_mk h20 rfl rfl rfl rfl rfl rfl
          · exact (State.sessionReject_keeps H (State.closeSession_keeps H h20))
        · exact (State.sessionReject_keeps H (State.closeSession_keeps H h20))

theorem execSessionClose_keeps (H : Closed I) {h : TuiHead} {s : State} (h1 : Holds I s) : ∀ t', execSessionClose h s = Host.Outcome.next t' → Holds I t' := by
  show HoldsOut I _
  unfold execSessionClose
  refine out_next ?_
  refine State.sealedIn_keeps H h1 ?_
  · intro _ _ h20
    exact (State.closeSession_keeps H h20)

theorem execSessionTimeout_keeps (H : Closed I) {i : Nat} {s : State} (h1 : Holds I s) : ∀ t', execSessionTimeout i s = Host.Outcome.next t' → Holds I t' := by
  show HoldsOut I _
  unfold execSessionTimeout
  refine out_next ?_
  split
  · exact h1
  · refine iteInduction (motive := fun r => Holds I r) (fun _ => ?_) (fun _ => ?_)
    · exact (State.closeSession_keeps H h1)
    · exact h1

theorem execEventAck_keeps (H : Closed I) {h : TuiHead} {s : State} (h1 : Holds I s) : ∀ t', execEventAck h s = Host.Outcome.next t' → Holds I t' := by
  show HoldsOut I _
  unfold execEventAck
  refine out_next ?_
  refine State.sealedIn_keeps H h1 ?_
  · intro _ _ h20
    exact holds_mk h20 rfl rfl rfl rfl rfl rfl

@[simp] theorem State.eventAgain_keeps (H : Closed I) {s : State} {i : Nat} {e : TuiEvent} (h0 : Holds I s) : Holds I (State.eventAgain s i e) := by
  unfold State.eventAgain
  refine iteInduction (motive := fun r => Holds I r) (fun _ => ?_) (fun _ => ?_)
  · exact h0
  · extract_lets +onlyGivenNames -merge -useContext a20
    try clear_value a20
    refine iteInduction (motive := fun r => Holds I r) (fun _ => ?_) (fun _ => ?_)
    · exact holds_mk h0 rfl rfl rfl rfl rfl rfl
    · extract_lets +onlyGivenNames -merge -useContext a21
      have h22 : Holds I a21 := (State.tuiSend_keeps H h0)
      try clear_value a21
      refine iteInduction (motive := fun r => Holds I r) (fun _ => ?_) (fun _ => ?_)
      · exact holds_mk h22 rfl rfl rfl rfl rfl rfl
      · exact h22

theorem execEventRepeat_keeps (H : Closed I) {i : Nat} {s : State} (h1 : Holds I s) : ∀ t', execEventRepeat i s = Host.Outcome.next t' → Holds I t' := by
  show HoldsOut I _
  unfold execEventRepeat
  refine out_next ?_
  refine iteInduction (motive := fun r => Holds I r) (fun _ => ?_) (fun _ => ?_)
  · refine State.each_keeps H h1 ?_
    · intro _ _ h20
      exact (State.eventAgain_keeps H h20)
  · exact h1

@[simp] theorem State.odItem_keeps (H : Closed I) {s : State} {p : Path} {sealed : Bool} {used : Nat} {it : OdItem} (h0 : Holds I s) : Holds I ((State.odItem s p sealed used it).1) := by
  unfold State.odItem
  refine iteInduction (motive := fun (r : State × Option (Nat × List Byte)) => Holds I r.1) (fun _ => ?_) (fun _ => ?_)
  · refine iteInduction (motive := fun r => Holds I r) (fun _ => ?_) (fun _ => ?_)
    · exact (State.odBump_keeps H (State.discardRwp_keeps H h0))
    · exact h0
  · refine iteInduction (motive := fun (r : State × Option (Nat × List Byte)) => Holds I r.1) (fun _ => ?_) (fun _ => ?_)
    · refine iteInduction (motive := fun (r : State × Option (Nat × List Byte)) => Holds I r.1) (fun _ => ?_) (fun _ => ?_)
      · exact (State.odBump_keeps H h0)
      · extract_lets +onlyGivenNames -merge -useContext a20
        have h21 : Holds I a20.1 := (State.odWriteAct_keeps H h0)
        try clear_value a20
        split
        · refine iteInduction (motive := fun r => Holds I r) (fun _ => ?_) (fun _ => ?_)
          · exact h21
          · exact (State.odBump_keeps H h21)
        · exact h21
    · refine iteInduction (motive := fun (r : State × Option (Nat × List Byte)) => Holds I r.1) (fun _ => ?_) (fun _ => ?_)
      · extract_lets +onlyGivenNames -merge -useContext a22 a23 a24
        try clear_value a22 a23 a24
        refine iteInduction (motive := fun (r : State × Option (Nat × List Byte)) => Holds I r.1) (fun _ => ?_) (fun _ => ?_)
        · exact h0
        · exact h0
      · exact h0

@[simp] theorem State.runItems_keeps (H : Closed I) {s : State} {p : Path} {sealed : Bool} {out : List Byte} {posts : List (Nat × Nat × Nat)} {x5 : List OdItem} (h0 : Holds I s) : Holds I (State.runItems s p sealed out posts x5).st := by
  induction x5 generalizing s out posts with
  | nil => exact h0
  | cons it l ih =>
    unfold State.runItems
    have h1 := State.odItem_keeps H (s := s) (p := p) (sealed := sealed) (used := out.length + 8 * l.length) (it := it) h0
    dsimp only
    split
    · exact h1
    · exact ih h1

@[simp] theorem State.reqEnd_keeps (H : Closed I) {r : ReqRun} {key req : Nat} (h0 : Holds I (r).st) : Holds I (State.reqEnd r key req) := by
  unfold State.reqEnd; (repeat' first | with_reducible assumption | (simp (maxDischargeDepth := 60) +contextual only [*, holds_mk, holds_ite, State.each_keeps, State.tuiSend_keeps, State.afterWrite_keeps]; done) | with_reducible refine State.tuiSend_keeps H ?_ | with_reducible refine State.afterWrite_keeps H ?_ | with_reducible refine holds_foldl ?_ ?_ | with_reducible refine State.each_keeps H ?_ ?_ | with_reducible refine holds_ite ?_ ?_ | with_reducible refine holds_ite_fst ?_ ?_ | with_reducible refine holds_ite_snd ?_ ?_ | with_reducible refine holds_foldl_fst ?_ ?_ | with_reducible refine holds_foldl_snd ?_ ?_ | with_reducible refine holds_of_fst (by assumption) ?_ | with_reducible refine holds_of_snd (by assumption) ?_ | intro _ | split | dsimp only)

@[simp] theorem State.reqsGo_keeps (H : Closed I) {s : State} (h0 : Holds I s) : Holds I (State.reqsGo s) := by
  unfold State.reqsGo
  refine State.each_keeps H h0 ?_
  · intro _ _ h20
    split
    · split
      · exact (State.reqEnd_keeps H (State.runItems_keeps H h20))
      · exact h20
    · exact h20

theorem execOdRequest_keeps (H : Closed I) {h : TuiHead} {items : List OdItem} {s : State} (h2 : Holds I s) : ∀ t', execOdRequest h items s = Host.Outcome.next t' → Holds I t' := by
  show HoldsOut I _
  unfold execOdRequest
  extract_lets +onlyGivenNames -merge -useContext a20
  try clear_value a20
  refine out_next ?_
  refine iteInduction (motive := fun r => Holds I r) (fun _ => ?_) (fun _ => ?_)
  · exact h2
  · refine iteInduction (motive := fun r => Holds I r) (fun _ => ?_) (fun _ => ?_)
    · exact (State.tuiDrop_keeps H h2)
    · refine iteInduction (motive := fun r => Holds I r) (fun _ => ?_) (fun _ => ?_)
      · refine State.sealedIn_keeps H h2 ?_
        · intro _ _ h21
          extract_lets +onlyGivenNames -merge -useContext a22
          try clear_value a22
          exact (State.reqEnd_keeps H (State.runItems_keeps H h21))
      · refine State.plainIn_keeps H h2 ?_
        · intro _ h23
          extract_lets +onlyGivenNames -merge -useContext a24
          have h25 : Holds I a24.st := (State.runItems_keeps H h23)
          try clear_value a24
          exact (State.tuiPlain_keeps H h25)

@[simp] theorem State.loaderFail_keeps (H : Closed I) {s : State} {cause : Nat} (h0 : Holds I s) : Holds I (State.loaderFail s cause) := by
  unfold State.loaderFail
  extract_lets +onlyGivenNames -merge -useContext a20 a21
  have h22 : Holds I a21 := by
    unfold a21
    exact holds_mk h0 rfl rfl rfl rfl rfl rfl
  try clear_value a21
  extract_lets +onlyGivenNames -merge -useContext a23
  have h24 : Holds I a23 := (State.odSet_keeps H (State.setRf_keeps H h22))
  try clear_value a23
  exact (State.setStage_keeps H (State.alert_keeps H (State.logEvent_keeps H h24)))

@[simp] theorem State.imageReads_keeps (H : Closed I) {s : State} {x1 : Nat} (h0 : Holds I s) : Holds I (State.imageReads s x1) := by
  induction x1 generalizing s with
  | zero => exact h0
  | succ n ih =>
    unfold State.imageReads
    extract_lets +onlyGivenNames -merge -useContext l
    refine holds_ite (fun _ => h0) (fun _ => ?_)
    exact ih (State.tuiPlain_keeps H (holds_mk h0 rfl rfl rfl rfl rfl rfl))

@[simp] theorem State.fetchStart_keeps (H : Closed I) {s : State} {source size addr : Nat} (h0 : Holds I s) : Holds I (State.fetchStart s source size addr) := by
  unfold State.fetchStart
  extract_lets +onlyGivenNames -merge -useContext a20 a21
  have h22 : Holds I a21 := by
    unfold a21
    exact holds_mk h0 rfl rfl rfl rfl rfl rfl
  try clear_value a21
  exact (State.setStage_keeps H h22)

theorem execImageRequest_keeps (H : Closed I) {s : State} (h0 : Holds I s) : ∀ t', execImageRequest s = Host.Outcome.next t' → Holds I t' := by
  show HoldsOut I _
  unfold execImageRequest
  extract_lets +onlyGivenNames -merge -useContext a20
  have h21 : Holds I a20 := (State.leaveRom_keeps H h0)
  try clear_value a20
  refine out_next ?_
  refine iteInduction (motive := fun r => Holds I r) (fun _ => ?_) (fun _ => ?_)
  · exact (State.tuiPlain_keeps H h21)
  · exact h21

theorem execImageOffer_keeps (H : Closed I) {h : TuiHead} {size : Nat} {s : State} (h2 : Holds I s) : ∀ t', execImageOffer h size s = Host.Outcome.next t' → Holds I t' := by
  show HoldsOut I _
  unfold execImageOffer
  refine out_next ?_
  refine State.plainIn_keeps H (State.leaveRom_keeps H h2) ?_
  · intro _ h20
    refine iteInduction (motive := fun r => Holds I r) (fun _ => ?_) (fun _ => ?_)
    · exact (State.tuiDrop_keeps H h20)
    · refine iteInduction (motive := fun r => Holds I r) (fun _ => ?_) (fun _ => ?_)
      · exact (State.loaderFail_keeps H h20)
      · exact (State.imageReads_keeps H (State.fetchStart_keeps H h20))

theorem execImageData_keeps (H : Closed I) {h : TuiHead} {off : Nat} {data : List Byte} {s : State} (h3 : Holds I s) : ∀ t', execImageData h off data s = Host.Outcome.next t' → Holds I t' := by
  show HoldsOut I _
  unfold execImageData
  refine out_next ?_
  refine State.plainIn_keeps H h3 ?_
  · intro _ h20
    extract_lets +onlyGivenNames -merge -useContext a21
    refine iteInduction (motive := fun r => Holds I r) (fun _ => ?_) (fun _ => ?_)
    · exact (State.tuiDrop_keeps H h20)
    · extract_lets +onlyGivenNames -merge -useContext a22 a23
      have h24 : Holds I a23 := by
        unfold a23
        exact holds_mk h20 rfl rfl rfl rfl rfl rfl
      try clear_value a23
      exact (State.imageReads_keeps H h24)

theorem execImageReadTimeout_keeps (H : Closed I) {off : Nat} {s : State} (h1 : Holds I s) : ∀ t', execImageReadTimeout off s = Host.Outcome.next t' → Holds I t' := by
  show HoldsOut I _
  unfold execImageReadTimeout
  extract_lets +onlyGivenNames -merge -useContext a20
  refine out_next ?_
  refine iteInduction (motive := fun r => Holds I r) (fun _ => ?_) (fun _ => ?_)
  · exact h1
  · split
    · exact h1
    · refine iteInduction (motive := fun r => Holds I r) (fun _ => ?_) (fun _ => ?_)
      · exact (State.loaderFail_keeps H h1)
      · refine State.tuiPlain_keeps H ?_
        · exact holds_mk h1 rfl rfl rfl rfl rfl rfl

@[simp] theorem State.ldctrlWrite_keeps (H : Closed I) {s : State} {p : Path} {v : Nat} (h0 : Holds I s) : Holds I (State.ldctrlWrite s p v) := by
  unfold State.ldctrlWrite
  split
  · refine iteInduction (motive := fun r => Holds I r) (fun _ => ?_) (fun _ => ?_)
    · exact (State.urAnswer_keeps H h0)
    · extract_lets +onlyGivenNames -merge -useContext a20
      have h21 : Holds I a20 := (State.setRf_keeps H (State.leaveRom_keeps H h0))
      try clear_value a20
      refine iteInduction (motive := fun r => Holds I r) (fun _ => ?_) (fun _ => ?_)
      · exact h21
      · refine iteInduction (motive := fun r => Holds I r) (fun _ => ?_) (fun _ => ?_)
        · exact (State.discardRo_keeps H h21)
        · extract_lets +onlyGivenNames -merge -useContext a22 a23
          try clear_value a22 a23
          refine iteInduction (motive := fun r => Holds I r) (fun _ => ?_) (fun _ => ?_)
          · exact (State.loaderFail_keeps H h21)
          · extract_lets +onlyGivenNames -merge -useContext a24
            have h25 : Holds I a24 := (State.fetchStart_keeps H h21)
            try clear_value a24
            split
            · exact (State.loaderFail_keeps H (State.hostReadFailed_keeps H h25))
            · exact holds_mk h25 rfl rfl rfl rfl rfl rfl
  · exact h0

theorem execLoaderGo_keeps (H : Closed I) {p : Path} {v : W32} {s : State} (h2 : Holds I s) : ∀ t', execLoaderGo p v s = Host.Outcome.next t' → Holds I t' := by
  show HoldsOut I _
  unfold execLoaderGo
  exact (out_next (State.ldctrlWrite_keeps H h2))

@[simp] theorem State.fwStart_keeps (H : Closed I) {s : State} {slot : Nat} (h0 : Holds I s) : Holds I (State.fwStart s slot) := by
  unfold State.fwStart
  extract_lets +onlyGivenNames -merge -useContext a20 a21 a22
  try clear_value a20
  have h23 : Holds I a22 := by
    unfold a22
    exact holds_mk h0 rfl rfl rfl rfl rfl rfl
  try clear_value a22
  extract_lets +onlyGivenNames -merge -useContext a24
  have h25 : Holds I a24 := (State.setStage_keeps H (State.odSet_keeps H (State.odSet_keeps H (State.setRf_keeps H h23))))
  try clear_value a24
  refine iteInduction (motive := fun r => Holds I r) (fun _ => ?_) (fun _ => ?_)
  · exact (State.bootGo_keeps H h25)
  · extract_lets +onlyGivenNames -merge -useContext a26
    have h27 : ∀ y0 y1 y2, Holds I y2 → Holds I (a26 y0 y1 y2) := by
      intro _ _ _ h28
      unfold a26
      refine State.each_keeps H h28 ?_
      · intro _ _ h29
        exact (State.modUnit_keeps H h29)
    try clear_value a26
    extract_lets +onlyGivenNames -merge -useContext a30
    have h31 : Holds I a30 := (h27 _ _ _ (h27 _ _ _ (h27 _ _ _ h25)))
    try clear_value a30
    extract_lets +onlyGivenNames -merge -useContext a32
    have h33 : Holds I a32 := by
      unfold a32
      refine State.each_keeps H h31 ?_
      · intro _ _ h34
        refine State.each_keeps H (State.setSqEnable_keeps H h34) ?_
        · intro _ _ h35
          exact (State.setMxEnable_keeps H (State.setTeEnable_keeps H h35))
    try clear_value a32
    refine State.each_keeps H h33 ?_
    · intro _ _ h36
      refine iteInduction (motive := fun r => Holds I r) (fun _ => ?_) (fun _ => ?_)
      · exact (State.quadsTrain_keeps H h36)
      · exact h36

theorem execImageCheck_keeps (H : Closed I) {s : State} (h0 : Holds I s) : ∀ t', execImageCheck s = Host.Outcome.next t' → Holds I t' := by
  show HoldsOut I _
  unfold execImageCheck
  extract_lets +onlyGivenNames -merge -useContext a20
  have h21 : Holds I a20 := (State.leaveRom_keeps H h0)
  try clear_value a20
  extract_lets +onlyGivenNames -merge -useContext a22
  refine out_next ?_
  refine iteInduction (motive := fun r => Holds I r) (fun _ => ?_) (fun _ => ?_)
  · exact h21
  · split
    · exact (State.loaderFail_keeps H h21)
    · exact (State.fwStart_keeps H h21)

theorem execRestoreDone_keeps (H : Closed I) {p : Path} {v : Byte} {s : State} (h2 : Holds I s) : ∀ t', execRestoreDone p v s = Host.Outcome.next t' → Holds I t' := by
  show HoldsOut I _
  unfold execRestoreDone
  refine out_next ?_
  refine State.odCmd_keeps H h2 ?_
  · intro _ h20
    exact (State.restoreAct_keeps H h20)

theorem execRestoreWindowExpiry_keeps (H : Closed I) {s : State} (h0 : Holds I s) : ∀ t', execRestoreWindowExpiry s = Host.Outcome.next t' → Holds I t' := by
  show HoldsOut I _
  unfold execRestoreWindowExpiry
  refine out_next ?_
  refine iteInduction (motive := fun r => Holds I r) (fun _ => ?_) (fun _ => ?_)
  · exact (State.restoreEnd_keeps H (State.setRf_keeps H h0))
  · exact h0

@[simp] theorem State.warmWrite_keeps (H : Closed I) {s : State} {p : Path} {v : Nat} (h0 : Holds I s) : Holds I (State.warmWrite s p v) := by
  unfold State.warmWrite
  exact (State.odWriteItem_keeps H h0)

theorem execWarm_keeps (H : Closed I) {p : Path} {v : W32} {s : State} (h2 : Holds I s) : ∀ t', execWarm p v s = Host.Outcome.next t' → Holds I t' := by
  show HoldsOut I _
  unfold execWarm
  exact (out_next (State.warmWrite_keeps H h2))

theorem execWarmReload_keeps (H : Closed I) {p : Path} {v : W32} {s : State} (h2 : Holds I s) : ∀ t', execWarmReload p v s = Host.Outcome.next t' → Holds I t' := by
  show HoldsOut I _
  unfold execWarmReload
  exact (out_next (State.warmWrite_keeps H h2))

theorem execWatchdog_keeps (H : Closed I) {s : State} (h0 : Holds I s) : ∀ t', execWatchdog s = Host.Outcome.next t' → Holds I t' := by
  show HoldsOut I _
  unfold execWatchdog
  refine out_next ?_
  refine iteInduction (motive := fun r => Holds I r) (fun _ => ?_) (fun _ => ?_)
  · exact h0
  · extract_lets +onlyGivenNames -merge -useContext a20 a21 a22
    try clear_value a20
    have h23 : Holds I a22 := by
      unfold a22
      refine State.alert_keeps H ?_
      · refine State.bumpSat_keeps H ?_
        · exact holds_mk h0 rfl rfl rfl rfl rfl rfl
    try clear_value a22
    extract_lets +onlyGivenNames -merge -useContext a24
    have h25 : Holds I a24 := (State.warmReset_keeps H (State.logEvent_keeps H h23))
    try clear_value a24
    refine iteInduction (motive := fun r => Holds I r) (fun _ => ?_) (fun _ => ?_)
    · exact (State.loaderFail_keeps H h25)
    · exact h25

theorem execRevokeKeySlot_keeps (H : Closed I) {p : Path} {v : Byte} {s : State} (h2 : Holds I s) : ∀ t', execRevokeKeySlot p v s = Host.Outcome.next t' → Holds I t' := by
  show HoldsOut I _
  unfold execRevokeKeySlot
  exact (out_next (State.odWriteItem_keeps H h2))

theorem execRaiseRollbackFloor_keeps (H : Closed I) {p : Path} {v : Byte} {s : State} (h2 : Holds I s) : ∀ t', execRaiseRollbackFloor p v s = Host.Outcome.next t' → Holds I t' := by
  show HoldsOut I _
  unfold execRaiseRollbackFloor
  refine out_next ?_
  refine State.odCmd_keeps H h2 ?_
  · intro _ h20
    exact (State.floorRaise_keeps H h20)

theorem execProgramOwnerSlot_keeps (H : Closed I) {p : Path} {data : List Byte} {s : State} (h2 : Holds I s) : ∀ t', execProgramOwnerSlot p data s = Host.Outcome.next t' → Holds I t' := by
  show HoldsOut I _
  unfold execProgramOwnerSlot
  refine out_next ?_
  refine State.odCmd_keeps H h2 ?_
  · intro _ h20
    exact (State.ownerProgram_keeps H h20)

theorem execRevokeOwnerSlot_keeps (H : Closed I) {p : Path} {v : Byte} {s : State} (h2 : Holds I s) : ∀ t', execRevokeOwnerSlot p v s = Host.Outcome.next t' → Holds I t' := by
  show HoldsOut I _
  unfold execRevokeOwnerSlot
  exact (out_next (State.odWriteItem_keeps H h2))

end Sys2Proof.Machine
end

