-- ==== Sys2Proof/Laws/KeepsTranslate.lean ====
section
/-! SUPPORT. What the operations of Machine/Translate.lean protect. -/

namespace Sys2Proof.Machine

set_option linter.all false

variable {I : Prot → Prop}

theorem execWalkComplete_keeps (H : Closed I) {walk : Nat} {s : State} (h1 : Holds I s) : ∀ t', execWalkComplete walk s = Host.Outcome.next t' → Holds I t' := by
  show HoldsOut I _
  unfold execWalkComplete
  split
  · exact (out_next h1)
  · extract_lets +onlyGivenNames -merge -useContext a20
    have h21 : Holds I a20.st := (State.walkXlate_keeps H h1)
    try clear_value a20
    refine iteInduction (motive := fun r => HoldsOut I r) (fun _ => ?_) (fun _ => ?_)
    · exact (out_next h1)
    · extract_lets +onlyGivenNames -merge -useContext a22
      have h23 : Holds I a22 := h21
      try clear_value a22
      extract_lets +onlyGivenNames -merge -useContext a24 a25
      have h26 : Holds I a25 := by
        unfold a25
        exact holds_mk h23 rfl rfl rfl rfl rfl rfl
      try clear_value a25
      split
      · refine out_next ?_
        refine State.each_keeps H h26 ?_
        · intro _ _ h27
          exact (State.wake_keeps H (State.xlFill_keeps H h27))
      · refine out_next ?_
        refine State.each_keeps H h26 ?_
        · intro _ _ h28
          exact (State.raiseFault_keeps H h28)

theorem execFaultWindowClose_keeps (H : Closed I) {fault : Nat} {s : State} (h1 : Holds I s) : ∀ t', execFaultWindowClose fault s = Host.Outcome.next t' → Holds I t' := by
  show HoldsOut I _
  unfold execFaultWindowClose
  split
  · exact (out_next h1)
  · refine out_next ?_
    refine iteInduction (motive := fun r => Holds I r) (fun _ => ?_) (fun _ => ?_)
    · exact (State.recordFault_keeps H h1)
    · exact h1

@[simp] theorem State.fqTail_keeps (H : Closed I) {s : State} {part v : Nat} (h0 : Holds I s) : Holds I (State.fqTail s part v) := by
  unfold State.fqTail
  extract_lets +onlyGivenNames -merge -useContext a20
  have h21 : Holds I a20 := (State.setReg_keeps H h0)
  try clear_value a20
  refine State.each_keeps H h21 ?_
  · intro _ _ h22
    refine iteInduction (motive := fun r => Holds I r) (fun _ => ?_) (fun _ => ?_)
    · exact h22
    · exact (State.recordFault_keeps H h22)

theorem execFqtailWrite_keeps (H : Closed I) {p : Path} {part : Nat} {v : W32} {s : State} (h3 : Holds I s) : ∀ t', execFqtailWrite p part v s = Host.Outcome.next t' → Holds I t' := by
  show HoldsOut I _
  unfold execFqtailWrite
  refine out_next ?_
  refine State.regGate_keeps H h3 ?_
  · intro _ h20
    exact (State.fqTail_keeps H h20)

@[simp] theorem State.descAbort_keeps (H : Closed I) {s : State} {cl st : Nat} (h0 : Holds I s) : Holds I (State.descAbort s cl st) := by
  unfold State.descAbort
  split
  · rename_i e20
    have h21 := holds_of (I := I) (p := fun t => t.2) e20 (State.fetchWord_keeps H h0)
    exact (State.seqFail_keeps H h21)
  · rename_i e22
    have h23 := holds_of (I := I) (p := fun t => t.2) e22 (State.fetchWord_keeps H h0)
    exact (State.seqFail_keeps H h0)

@[simp] theorem State.abortFault_keeps (H : Closed I) {s : State} {o : OpenFault} (h0 : Holds I s) : Holds I (State.abortFault s o) := by
  unfold State.abortFault
  extract_lets +onlyGivenNames -merge -useContext a20 a21 a22
  try clear_value a20 a21
  have h23 : Holds I a22 := (State.closeFault_keeps H h0)
  try clear_value a22
  refine iteInduction (motive := fun r => Holds I r) (fun _ => ?_) (fun _ => ?_)
  · refine State.each_keeps H h23 ?_
    · intro _ _ h24
      split
      · exact (State.descAbort_keeps H h24)
      · exact h24
  · extract_lets +onlyGivenNames -merge -useContext a25
    have h26 : Holds I a25 := by
      unfold a25
      refine State.each_keeps H h23 ?_
      · intro _ _ h27
        exact (State.modStep_keeps H h27)
    try clear_value a25
    exact (State.teardown_keeps H h26)

@[simp] theorem State.resolve_keeps (H : Closed I) {s : State} {part v : Nat} (h0 : Holds I s) : Holds I (State.resolve s part v) := by
  unfold State.resolve
  extract_lets +onlyGivenNames -merge -useContext a20
  have h21 : Holds I a20 := (State.setRf_keeps H h0)
  try clear_value a20
  split
  · exact h21
  · refine iteInduction (motive := fun r => Holds I r) (fun _ => ?_) (fun _ => ?_)
    · refine State.each_keeps H (State.closeFault_keeps H h0) ?_
      · intro _ _ h22
        exact (State.wake_keeps H h22)
    · refine iteInduction (motive := fun r => Holds I r) (fun _ => ?_) (fun _ => ?_)
      · exact (State.abortFault_keeps H h0)
      · exact h21

theorem execResolveRetry_keeps (H : Closed I) {p : Path} {part : Nat} {v : W64} {s : State} (h3 : Holds I s) : ∀ t', execResolveRetry p part v s = Host.Outcome.next t' → Holds I t' := by
  show HoldsOut I _
  unfold execResolveRetry
  refine out_next ?_
  refine State.regGate_keeps H h3 ?_
  · intro _ h20
    exact (State.resolve_keeps H h20)

theorem execResolveAbort_keeps (H : Closed I) {p : Path} {part : Nat} {v : W64} {s : State} (h3 : Holds I s) : ∀ t', execResolveAbort p part v s = Host.Outcome.next t' → Holds I t' := by
  show HoldsOut I _
  unfold execResolveAbort
  refine out_next ?_
  refine State.regGate_keeps H h3 ?_
  · intro _ h20
    exact (State.resolve_keeps H h20)

@[simp] theorem State.invPost_keeps (H : Closed I) {s : State} {p : Path} {part v : Nat} (h0 : Holds I s) : Holds I (State.invPost s p part v) := by
  unfold State.invPost
  extract_lets +onlyGivenNames -merge -useContext a20
  try clear_value a20
  refine iteInduction (motive := fun r => Holds I r) (fun _ => ?_) (fun _ => ?_)
  · exact (State.setRf_keeps H h0)
  · extract_lets +onlyGivenNames -merge -useContext a21 a22 a23 a24
    try clear_value a21 a22 a23
    exact holds_mk h0 rfl rfl rfl rfl rfl rfl

@[simp] theorem State.invCmd_keeps (H : Closed I) {s : State} {p : Path} {part : Nat} {v : W64} {action : Nat} (h0 : Holds I s) : Holds I (State.invCmd s p part v action) := by
  unfold State.invCmd
  refine State.regGate_keeps H h0 ?_
  · intro _ h20
    exact (State.invPost_keeps H h20)

theorem execSync_keeps (H : Closed I) {p : Path} {part : Nat} {v : W64} {s : State} (h3 : Holds I s) : ∀ t', execSync p part v s = Host.Outcome.next t' → Holds I t' := by
  show HoldsOut I _
  unfold execSync
  exact (out_next (State.invCmd_keeps H h3))

theorem execContextRange_keeps (H : Closed I) {p : Path} {part : Nat} {v : W64} {s : State} (h3 : Holds I s) : ∀ t', execContextRange p part v s = Host.Outcome.next t' → Holds I t' := by
  show HoldsOut I _
  unfold execContextRange
  exact (out_next (State.invCmd_keeps H h3))

theorem execContext_keeps (H : Closed I) {p : Path} {part : Nat} {v : W64} {s : State} (h3 : Holds I s) : ∀ t', execContext p part v s = Host.Outcome.next t' → Holds I t' := by
  show HoldsOut I _
  unfold execContext
  exact (out_next (State.invCmd_keeps H h3))

theorem execS2Range_keeps (H : Closed I) {p : Path} {part : Nat} {v : W64} {s : State} (h3 : Holds I s) : ∀ t', execS2Range p part v s = Host.Outcome.next t' → Holds I t' := by
  show HoldsOut I _
  unfold execS2Range
  exact (out_next (State.invCmd_keeps H h3))

theorem execPartition_keeps (H : Closed I) {p : Path} {part : Nat} {v : W64} {s : State} (h3 : Holds I s) : ∀ t', execPartition p part v s = Host.Outcome.next t' → Holds I t' := by
  show HoldsOut I _
  unfold execPartition
  exact (out_next (State.invCmd_keeps H h3))

@[simp] theorem State.invDrain_keeps (H : Closed I) {s : State} {part : Nat} {c : InvCmd} (h0 : Holds I s) : Holds I (State.invDrain s part c) := by
  unfold State.invDrain
  refine State.each_keeps H h0 ?_
  · intro _ _ h20
    refine iteInduction (motive := fun r => Holds I r) (fun _ => ?_) (fun _ => ?_)
    · exact (State.drainCore_keeps H h20)
    · exact h20

theorem execInvComplete_keeps (H : Closed I) {part : Nat} {s : State} (h1 : Holds I s) : ∀ t', execInvComplete part s = Host.Outcome.next t' → Holds I t' := by
  show HoldsOut I _
  unfold execInvComplete
  split
  · exact (out_next h1)
  · extract_lets +onlyGivenNames -merge -useContext a20
    have h21 : ∀ y0 y1, Holds I y0 → Holds I (a20 y0 y1) := by
      intro _ _ h22
      unfold a20
      refine State.setRf_keeps H ?_
      · refine State.setReg_keeps H ?_
        · exact holds_mk h22 rfl rfl rfl rfl rfl rfl
    try clear_value a20
    refine iteInduction (motive := fun r => HoldsOut I r) (fun _ => ?_) (fun _ => ?_)
    · exact (out_next (h21 _ _ h1))
    · extract_lets +onlyGivenNames -merge -useContext a23
      have h24 : Holds I a23 := (State.invDrain_keeps H (State.invApply_keeps H h1))
      try clear_value a23
      refine iteInduction (motive := fun r => HoldsOut I r) (fun _ => ?_) (fun _ => ?_)
      · exact (out_next h24)
      · exact (out_next (h21 _ _ h24))

end Sys2Proof.Machine
end

