-- ==== Sys2Proof/Laws/KeepsRegs.lean ====
section
/-! SUPPORT. What the operations of Machine/Regs.lean protect. -/

namespace Sys2Proof.Machine

set_option linter.all false

variable {I : Prot → Prop}

@[simp] theorem State.regPlain_keeps (H : Closed I) {s : State} {p : Path} {r : RegRow} {base o v m : Nat} (h0 : Holds I s) : Holds I (State.regPlain s p r base o v m) := by
  unfold State.regPlain
  extract_lets +onlyGivenNames -merge -useContext a20
  have h21 : Holds I a20 := (State.setReg_keeps H h0)
  try clear_value a20
  refine iteInduction (motive := fun r => Holds I r) (fun _ => ?_) (fun _ => ?_)
  · exact (State.setRf_keeps H h21)
  · exact h21

@[simp] theorem State.odcmdWrite_keeps (H : Closed I) {s : State} {p : Path} {v : Nat} (h0 : Holds I s) : Holds I (State.odcmdWrite s p v) := by
  unfold State.odcmdWrite
  extract_lets +onlyGivenNames -merge -useContext a20 a21 a22
  try clear_value a20 a21 a22
  refine iteInduction (motive := fun r => Holds I r) (fun _ => ?_) (fun _ => ?_)
  · exact (State.setRf_keeps H h0)
  · refine iteInduction (motive := fun r => Holds I r) (fun _ => ?_) (fun _ => ?_)
    · exact (State.odStat_keeps H h0)
    · split
      · exact (State.odLookItem_keeps H h0)
      · refine iteInduction (motive := fun r => Holds I r) (fun _ => ?_) (fun _ => ?_)
        · exact (State.odStat_keeps H h0)
        · exact (State.odWriteItem_keeps H h0)
      · exact (State.odLookItem_keeps H h0)
      · exact (State.odStat_keeps H h0)

@[simp] theorem State.regAct_keeps (H : Closed I) {s : State} {p : Path} {b : Blk} {i o v : Nat} (h0 : Holds I s) : Holds I (State.regAct s p b i o v) := by
  unfold State.regAct
  split
  · refine iteInduction (motive := fun r => Holds I r) (fun _ => ?_) (fun _ => ?_)
    · exact (State.resolve_keeps H h0)
    · exact (State.invPost_keeps H h0)
  · exact (State.hqWrite_keeps H h0)
  · exact (State.odcmdWrite_keeps H h0)
  · exact h0

@[simp] theorem State.actWrite_keeps (H : Closed I) {s : State} {p : Path} {b : Blk} {i o base d size val : Nat} (h0 : Holds I s) : Holds I (State.actWrite s p b i o base d size val) := by
  unfold State.actWrite
  extract_lets +onlyGivenNames -merge -useContext a20
  have h21 : ∀ y0, Holds I y0 → Holds I (a20 y0) := by
    intro _ h22
    unfold a20
    exact holds_mk h22 rfl rfl rfl rfl rfl rfl
  try clear_value a20
  refine iteInduction (motive := fun r => Holds I r) (fun _ => ?_) (fun _ => ?_)
  · exact (State.regAct_keeps H (h21 _ h0))
  · refine iteInduction (motive := fun r => Holds I r) (fun _ => ?_) (fun _ => ?_)
    · exact holds_mk h0 rfl rfl rfl rfl rfl rfl
    · exact (State.regAct_keeps H (h21 _ h0))

@[simp] theorem State.byPriv_keeps (H : Closed I) {s : State} {p : Path} {act : State → State} (h0 : Holds I s) (h2 : ∀ y0, Holds I (y0) → Holds I (act y0)) : Holds I (State.byPriv s p act) := by
  unfold State.byPriv
  refine iteInduction (motive := fun r => Holds I r) (fun _ => ?_) (fun _ => ?_)
  · exact (h2 _ h0)
  · exact (State.discardRwp_keeps H h0)

@[simp] theorem State.wayPwr_keeps (H : Closed I) {s : State} {cl v : Nat} (h0 : Holds I s) : Holds I (State.wayPwr s cl v) := by
  unfold State.wayPwr
  refine State.each_keeps H h0 ?_
  · intro _ _ h20
    exact (State.ccWaySet_keeps H h20)

@[simp] theorem State.invAddr_keeps (H : Closed I) {s : State} {p : Path} {r : RegRow} {part base o v m : Nat} (h0 : Holds I s) : Holds I (State.invAddr s p r part base o v m) := by
  unfold State.invAddr
  extract_lets +onlyGivenNames -merge -useContext a20 a21
  try clear_value a20
  have h22 : Holds I a21 := (State.regPlain_keeps H h0)
  try clear_value a21
  exact holds_mk h22 rfl rfl rfl rfl rfl rfl

theorem State.regSpecial_keeps (H : Closed I) {s : State} {p : Path} {r : RegRow} {i base o v m : Nat} (h0 : Holds I s) : ∀ t', State.regSpecial s p r i base o v m = some t' → Holds I (t') := by
  show HoldsSome I (fun t => t) _
  unfold State.regSpecial
  split
  · refine iteInduction (motive := fun r => HoldsSome I (fun t => t) r) (fun _ => ?_) (fun _ => ?_)
    · refine some_some ?_
      refine State.byPriv_keeps H h0 ?_
      · intro _ h20
        exact (State.setDrain_keeps H (State.setTeEnable_keeps H h20))
    · exact some_none
  · refine iteInduction (motive := fun r => HoldsSome I (fun t => t) r) (fun _ => ?_) (fun _ => ?_)
    · refine some_some ?_
      refine State.byPriv_keeps H h0 ?_
      · intro _ h21
        exact (State.setMxEnable_keeps H h21)
    · exact some_none
  · refine iteInduction (motive := fun r => HoldsSome I (fun t => t) r) (fun _ => ?_) (fun _ => ?_)
    · refine some_some ?_
      refine State.byPriv_keeps H h0 ?_
      · intro _ h22
        exact (State.setSqEnable_keeps H h22)
    · exact some_none
  · refine iteInduction (motive := fun r => HoldsSome I (fun t => t) r) (fun _ => ?_) (fun _ => ?_)
    · refine some_some ?_
      refine State.byPriv_keeps H h0 ?_
      · intro _ h23
        exact (State.wayPwr_keeps H h23)
    · exact some_none
  · refine iteInduction (motive := fun r => HoldsSome I (fun t => t) r) (fun _ => ?_) (fun _ => ?_)
    · exact (some_some (State.keepClr_keeps H (State.keepClr_keeps H h0)))
    · refine iteInduction (motive := fun r => HoldsSome I (fun t => t) r) (fun _ => ?_) (fun _ => ?_)
      · refine some_some ?_
        refine iteInduction (motive := fun r => Holds I r) (fun _ => ?_) (fun _ => ?_)
        · exact (State.bankRetire_keeps H h0)
        · exact h0
      · exact some_none
  · refine iteInduction (motive := fun r => HoldsSome I (fun t => t) r) (fun _ => ?_) (fun _ => ?_)
    · exact (some_some (State.tgWrite_keeps H h0))
    · exact some_none
  · refine iteInduction (motive := fun r => HoldsSome I (fun t => t) r) (fun _ => ?_) (fun _ => ?_)
    · exact (some_some (State.tgWrite_keeps H h0))
    · exact some_none
  · extract_lets +onlyGivenNames -merge -useContext a24
    try clear_value a24
    refine iteInduction (motive := fun r => HoldsSome I (fun t => t) r) (fun _ => ?_) (fun _ => ?_)
    · exact some_none
    · refine iteInduction (motive := fun r => HoldsSome I (fun t => t) r) (fun _ => ?_) (fun _ => ?_)
      · exact (some_some (State.fqTail_keeps H h0))
      · refine iteInduction (motive := fun r => HoldsSome I (fun t => t) r) (fun _ => ?_) (fun _ => ?_)
        · exact (some_some (State.invAddr_keeps H h0))
        · exact some_none
  · refine iteInduction (motive := fun r => HoldsSome I (fun t => t) r) (fun _ => ?_) (fun _ => ?_)
    · refine some_some ?_
      refine State.byPriv_keeps H h0 ?_
      · intro _ h25
        exact (State.uuEnable_keeps H h25)
    · exact some_none
  · refine iteInduction (motive := fun r => HoldsSome I (fun t => t) r) (fun _ => ?_) (fun _ => ?_)
    · exact (some_some (State.qctrlWrite_keeps H h0))
    · refine iteInduction (motive := fun r => HoldsSome I (fun t => t) r) (fun _ => ?_) (fun _ => ?_)
      · exact (some_some (State.prbsWrite_keeps H h0))
      · exact some_none
  · refine iteInduction (motive := fun r => HoldsSome I (fun t => t) r) (fun _ => ?_) (fun _ => ?_)
    · refine some_some ?_
      refine iteInduction (motive := fun r => Holds I r) (fun _ => ?_) (fun _ => ?_)
      · exact (State.startReset_keeps H h0)
      · exact h0
    · exact some_none
  · refine iteInduction (motive := fun r => HoldsSome I (fun t => t) r) (fun _ => ?_) (fun _ => ?_)
    · refine some_some ?_
      refine iteInduction (motive := fun r => Holds I r) (fun _ => ?_) (fun _ => ?_)
      · exact (State.sheetRelease_keeps H h0)
      · exact h0
    · refine iteInduction (motive := fun r => HoldsSome I (fun t => t) r) (fun _ => ?_) (fun _ => ?_)
      · exact (some_some (State.rctrlBy_keeps H h0))
      · refine iteInduction (motive := fun r => HoldsSome I (fun t => t) r) (fun _ => ?_) (fun _ => ?_)
        · refine some_some ?_
          refine State.byPriv_keeps H h0 ?_
          · intro _ h26
            refine iteInduction (motive := fun r => Holds I r) (fun _ => ?_) (fun _ => ?_)
            · exact h26
            · extract_lets +onlyGivenNames -merge -useContext a27
              have h28 : Holds I a27 := (State.regPlain_keeps H h26)
              try clear_value a27
              refine iteInduction (motive := fun r => Holds I r) (fun _ => ?_) (fun _ => ?_)
              · exact (State.setRf_keeps H h28)
              · exact h28
        · exact some_none
  · refine iteInduction (motive := fun r => HoldsSome I (fun t => t) r) (fun _ => ?_) (fun _ => ?_)
    · exact (some_some (State.hostDoorbell_keeps H h0))
    · refine iteInduction (motive := fun r => HoldsSome I (fun t => t) r) (fun _ => ?_) (fun _ => ?_)
      · refine some_some ?_
        refine iteInduction (motive := fun r => Holds I r) (fun _ => ?_) (fun _ => ?_)
        · exact (State.modQueue_keeps H h0)
        · exact h0
      · exact some_none
  · refine iteInduction (motive := fun r => HoldsSome I (fun t => t) r) (fun _ => ?_) (fun _ => ?_)
    · exact (some_some (State.ldctrlWrite_keeps H h0))
    · exact some_none
  · exact some_none

@[simp] theorem State.regBody_keeps (H : Closed I) {s : State} {p : Path} {off size val : Nat} (h0 : Holds I s) : Holds I (State.regBody s p off size val) := by
  unfold State.regBody
  refine iteInduction (motive := fun r => Holds I r) (fun _ => ?_) (fun _ => ?_)
  · exact holds_mk h0 rfl rfl rfl rfl rfl rfl
  · split
    · exact h0
    · extract_lets +onlyGivenNames -merge -useContext a20 a21 a22 a23
      try clear_value a20 a21 a22 a23
      refine iteInduction (motive := fun r => Holds I r) (fun _ => ?_) (fun _ => ?_)
      · exact (State.discardRwp_keeps H h0)
      · refine iteInduction (motive := fun r => Holds I r) (fun _ => ?_) (fun _ => ?_)
        · exact (State.discardRo_keeps H h0)
        · refine iteInduction (motive := fun r => Holds I r) (fun _ => ?_) (fun _ => ?_)
          · exact (State.actWrite_keeps H h0)
          · split
            · rename_i e24
              have h25 := some_of (I := I) (p := fun t => t) e24 (State.regSpecial_keeps H h0)
              exact h25
            · refine State.regPlain_keeps H ?_
              · refine iteInduction (motive := fun r => Holds I r) (fun _ => ?_) (fun _ => ?_)
                · exact (State.discardRwp_keeps H h0)
                · exact h0

@[simp] theorem State.cfgWrite_keeps (H : Closed I) {s : State} {f off val : Nat} (h0 : Holds I s) : Holds I (State.cfgWrite s f off val) := by
  unfold State.cfgWrite
  extract_lets +onlyGivenNames -merge -useContext a20 a21
  try clear_value a20 a21
  refine iteInduction (motive := fun r => Holds I r) (fun _ => ?_) (fun _ => ?_)
  · exact h0
  · refine iteInduction (motive := fun r => Holds I r) (fun _ => ?_) (fun _ => ?_)
    · exact (State.modFn_keeps H h0)
    · refine iteInduction (motive := fun r => Holds I r) (fun _ => ?_) (fun _ => ?_)
      · exact (State.modFn_keeps H h0)
      · refine iteInduction (motive := fun r => Holds I r) (fun _ => ?_) (fun _ => ?_)
        · exact h0
        · refine iteInduction (motive := fun r => Holds I r) (fun _ => ?_) (fun _ => ?_)
          · exact (State.modFn_keeps H h0)
          · refine iteInduction (motive := fun r => Holds I r) (fun _ => ?_) (fun _ => ?_)
            · refine State.each_keeps H h0 ?_
              · intro _ _ h22
                exact (State.modFn_keeps H h22)
            · refine iteInduction (motive := fun r => Holds I r) (fun _ => ?_) (fun _ => ?_)
              · exact holds_mk h0 rfl rfl rfl rfl rfl rfl
              · exact h0

@[simp] theorem State.regStore_keeps (H : Closed I) {s : State} {p : Path} {off size val : Nat} (h0 : Holds I s) : Holds I (State.regStore s p off size val) := by
  unfold State.regStore
  extract_lets +onlyGivenNames -merge -useContext a20
  try clear_value a20
  split
  · exact h0
  · refine iteInduction (motive := fun r => Holds I r) (fun _ => ?_) (fun _ => ?_)
    · exact (State.cfgWrite_keeps H h0)
    · refine iteInduction (motive := fun r => Holds I r) (fun _ => ?_) (fun _ => ?_)
      · exact (State.urAnswer_keeps H h0)
      · refine iteInduction (motive := fun r => Holds I r) (fun _ => ?_) (fun _ => ?_)
        · exact (State.discardRo_keeps H h0)
        · exact (State.regBody_keeps H h0)
  · refine iteInduction (motive := fun r => Holds I r) (fun _ => ?_) (fun _ => ?_)
    · exact (State.cfgWrite_keeps H h0)
    · refine iteInduction (motive := fun r => Holds I r) (fun _ => ?_) (fun _ => ?_)
      · exact (State.urAnswer_keeps H h0)
      · refine iteInduction (motive := fun r => Holds I r) (fun _ => ?_) (fun _ => ?_)
        · exact (State.discardRo_keeps H h0)
        · split
          · exact h0
          · refine iteInduction (motive := fun r => Holds I r) (fun _ => ?_) (fun _ => ?_)
            · exact (State.odBump_keeps H h0)
            · exact (State.regBody_keeps H h0)
  · split
    · refine iteInduction (motive := fun r => Holds I r) (fun _ => ?_) (fun _ => ?_)
      · exact (State.regBody_keeps H h0)
      · exact h0
    · exact h0

theorem execRegWrite_keeps (H : Closed I) {p : Path} {off size : Nat} {val : W64} {s : State} (h4 : Holds I s) : ∀ t', execRegWrite p off size val s = Host.Outcome.next t' → Holds I t' := by
  show HoldsOut I _
  unfold execRegWrite
  exact (out_next (State.regStore_keeps H h4))

theorem execActionLowHalfWrite_keeps (H : Closed I) {p : Path} {off : Nat} {val : W32} {s : State} (h3 : Holds I s) : ∀ t', execActionLowHalfWrite p off val s = Host.Outcome.next t' → Holds I t' := by
  show HoldsOut I _
  unfold execActionLowHalfWrite
  refine out_next ?_
  refine iteInduction (motive := fun r => Holds I r) (fun _ => ?_) (fun _ => ?_)
  · exact (State.regStore_keeps H h3)
  · exact h3

theorem execBadSizeAccess_keeps (H : Closed I) {p : Path} {write : Bool} {off size : Nat} {x4 : W64} {s : State} (h5 : Holds I s) : ∀ t', execBadSizeAccess p write off size x4 s = Host.Outcome.next t' → Holds I t' := by
  show HoldsOut I _
  unfold execBadSizeAccess
  extract_lets +onlyGivenNames -merge -useContext a20 a21
  try clear_value a20
  have h22 : ∀ y0, Holds I (a21 y0) := by
    intro _
    unfold a21
    extract_lets +onlyGivenNames -merge -useContext a23
    have h24 : Holds I a23 := (State.urAnswer_keeps H h5)
    try clear_value a23
    refine iteInduction (motive := fun r => Holds I r) (fun _ => ?_) (fun _ => ?_)
    · exact h24
    · exact holds_mk h24 rfl rfl rfl rfl rfl rfl
  try clear_value a21
  split
  · refine out_next ?_
    refine iteInduction (motive := fun r => Holds I r) (fun _ => ?_) (fun _ => ?_)
    · exact h5
    · exact (h22 _)
  · refine out_next ?_
    refine iteInduction (motive := fun r => Holds I r) (fun _ => ?_) (fun _ => ?_)
    · exact h5
    · exact (h22 _)
  · exact (out_next h5)

@[simp] theorem State.regLoad_keeps (H : Closed I) {s : State} {off size : Nat} (h0 : Holds I s) : Holds I ((State.regLoad s off size).2) := by
  unfold State.regLoad
  refine iteInduction (motive := fun (r : Nat × State) => Holds I r.2) (fun _ => ?_) (fun _ => ?_)
  · exact h0
  · extract_lets +onlyGivenNames -merge -useContext a20
    try clear_value a20
    refine iteInduction (motive := fun (r : Nat × State) => Holds I r.2) (fun _ => ?_) (fun _ => ?_)
    · split
      · rename_i e21
        have h22 := holds_of (I := I) (p := fun t => t.2) e21 (State.draw_keeps H h0)
        exact h22
    · exact h0

end Sys2Proof.Machine
end

