-- ==== Sys2Proof/Laws/KeepsThreadMem.lean ====
section
/-! SUPPORT. What the operations of Machine/ThreadMem.lean protect. -/

namespace Sys2Proof.Machine

set_option linter.all false

variable {I : Prot → Prop}

theorem some_map {α : Type} {p : α → State} {f : α → State} {o : Option α} (h : HoldsSome I p o) (hf : ∀ x, Holds I (p x) → Holds I (f x)) :
    HoldsSome I (fun t => t) (o.map f) := by
  intro t e
  obtain ⟨x, ex, et⟩ := Option.map_eq_some_iff.mp e
  exact et ▸ hf x (h x ex)

theorem some_findSome {α : Type} {f : α → Option State} {l : List α} (hf : ∀ x, HoldsSome I (fun t => t) (f x)) :
    HoldsSome I (fun t => t) (l.findSome? f) := by
  intro t e
  obtain ⟨x, _, ex⟩ := List.exists_of_findSome?_eq_some e
  exact hf x t ex

theorem some_foldl {α : Type} {f : Option State → α → Option State} {l : List α} {o : Option State} (h : HoldsSome I (fun t => t) o)
    (hf : ∀ o x, HoldsSome I (fun t => t) o → HoldsSome I (fun t => t) (f o x)) : HoldsSome I (fun t => t) (l.foldl f o) := by
  induction l generalizing o with
  | nil => exact h
  | cons x l ih => exact ih (hf o x h)

@[simp] theorem State.laneXlate_keeps (H : Closed I) {i : Issue} {k : Kernel} {pc acc : Nat} {r : LanesRes} {x : Nat × Nat} (h4 : Holds I (r).st) : Holds I (State.laneXlate i k pc acc r x).st := by
  unfold State.laneXlate
  refine iteInduction (motive := fun (r : LanesRes) => Holds I r.st) (fun _ => ?_) (fun _ => ?_)
  · exact h4
  · extract_lets +onlyGivenNames -merge -useContext a20 a21 a22
    try clear_value a20 a21
    have h23 : Holds I a22 := by
      unfold a22
      refine iteInduction (motive := fun r => Holds I r) (fun _ => ?_) (fun _ => ?_)
      · exact h4
      · exact (State.coreEvent_keeps H h4)
    try clear_value a22
    split
    · rename_i e24
      have h25 := holds_of (I := I) (p := fun t => t.2) e24 (State.xlLookup_keeps H h23)
      exact h25
    · rename_i e26
      have h27 := holds_of (I := I) (p := fun t => t.2) e26 (State.xlLookup_keeps H h23)
      exact (State.stallGroup_keeps H (State.startWalk_keeps H h27))

@[simp] theorem State.laneFault_keeps (H : Closed I) {s : State} {i : Issue} {k : Kernel} {pc acc cause stage : Nat} {l : LaneAt} (h0 : Holds I s) : Holds I (State.laneFault s i k pc acc cause stage l) := by
  unfold State.laneFault
  extract_lets +onlyGivenNames -merge -useContext a20 a21
  try clear_value a20
  exact (State.stallGroup_keeps H (State.raiseFault_keeps H h0))

@[simp] theorem State.lanesDo_keeps (H : Closed I) {s : State} {i : Issue} {k : Kernel} {g : Group} {p : PathSt} {size acc : Nat} {va : Nat → Nat} {f : State → State → List LaneAt → State} (h0 : Holds I s) (h8 : ∀ y0 y1 y2, Holds I (y0) → Holds I (y1) → Holds I (f y0 y1 y2)) : Holds I (State.lanesDo s i k g p size acc va f) := by
  unfold State.lanesDo
  extract_lets +onlyGivenNames -merge -useContext a20
  try clear_value a20
  refine iteInduction (motive := fun r => Holds I r) (fun _ => ?_) (fun _ => ?_)
  · exact (State.exception_keeps H h0)
  · refine iteInduction (motive := fun r => Holds I r) (fun _ => ?_) (fun _ => ?_)
    · exact h0
    · extract_lets +onlyGivenNames -merge -useContext a21
      have h22 : Holds I a21.st := by
        unfold a21
        refine holds_foldl_of (fun (r : LanesRes) => r.st) ?_ ?_
        · exact h0
        · intro _ _ h23
          exact State.laneXlate_keeps H h23
      try clear_value a21
      refine iteInduction (motive := fun r => Holds I r) (fun _ => ?_) (fun _ => ?_)
      · exact h22
      · split
        · exact (State.laneFault_keeps H h22)
        · exact (h8 _ _ _ h0 h22)

theorem State.drainLines_keeps (H : Closed I) {x0 : Nat} {x1 : State} {x2 : Nat} {x3 : List (Bool × Nat)} (h1 : Holds I (x1)) : ∀ t', State.drainLines x0 x1 x2 x3 = some t' → Holds I (t') := by
  show HoldsSome I (fun t => t) _
  induction x0 generalizing x1 with
  | zero => exact some_some h1
  | succ n ih =>
    unfold State.drainLines
    extract_lets +onlyGivenNames -merge -useContext j
    refine iteInduction (motive := fun r => HoldsSome I (fun t => t) r) (fun _ => some_some h1) (fun _ => ?_)
    split
    · rename_i e
      exact ih (State.drainSb_keeps H h1 _ e)
    · exact some_none

theorem State.sbRoom_keeps (H : Closed I) {s : State} {core : Nat} (h0 : Holds I s) : ∀ t', State.sbRoom s core = some t' → Holds I (t') := by
  show HoldsSome I (fun t => t) _
  unfold State.sbRoom
  exact iteInduction (motive := fun r => HoldsSome I (fun t => t) r) (fun _ => some_some h0) (fun _ => some_findSome (fun x => State.drainSb_keeps H h0))

@[simp] theorem State.sbPut_keeps (H : Closed I) {s : State} {i : Issue} {k : Kernel} {h : Nat} {l : LaneAt} {bs : List Byte} (h0 : Holds I s) : Holds I (State.sbPut s i k h l bs) := by
  unfold State.sbPut
  extract_lets +onlyGivenNames -merge -useContext a20 a21
  try clear_value a20 a21
  exact (State.modCore_keeps H h0)

@[simp] theorem State.sbStallEnd_keeps (H : Closed I) {s : State} {i : Issue} {g : Group} (h0 : Holds I s) : Holds I (State.sbStallEnd s i g) := by
  unfold State.sbStallEnd
  refine iteInduction (motive := fun r => Holds I r) (fun _ => ?_) (fun _ => ?_)
  · split
    · rename_i e20
      have h21 := holds_of (I := I) (p := fun t => t.2) e20 (State.draw_keeps H h0)
      exact (State.coreEvent_keeps H (State.bump_keeps H h21))
  · exact h0

theorem State.sbStores_keeps (H : Closed I) {s : State} {i : Issue} {k : Kernel} {xs : List (Nat × LaneAt × List Byte)} (h0 : Holds I s) : ∀ t', State.sbStores s i k xs = some t' → Holds I (t') := by
  show HoldsSome I (fun t => t) _
  unfold State.sbStores
  extract_lets +onlyGivenNames -merge -useContext a20 a21 a22 a23 a24
  have h25 : ∀ y0 y1, Holds I y0 → Holds I (a24 y0 y1) := by
    intro _ _ h26
    unfold a24
    exact (State.sbPut_keeps H h26)
  clear_value a24 a23 a22 a21
  extract_lets +onlyGivenNames -merge -useContext a27
  have h28 : ∀ y0, Holds I y0 → Holds I (a27 y0) := by
    intro _ h29
    unfold a27
    exact (State.setRf_keeps H (State.bump_keeps H h29))
  clear_value a27
  refine iteInduction (motive := fun r => HoldsSome I (fun t => t) r) (fun _ => ?_) (fun _ => ?_)
  · exact some_some (h28 _ (holds_foldl h0 (fun _ _ h => h25 _ _ h)))
  · refine iteInduction (motive := fun r => HoldsSome I (fun t => t) r) (fun _ => some_none) (fun _ => some_map (some_foldl (some_some h0) ?_) h28)
    intro o x ho
    split
    · exact some_none
    · refine iteInduction (motive := fun r => HoldsSome I (fun t => t) r) (fun _ => some_some (h25 _ _ (ho _ rfl))) (fun _ => ?_)
      split
      · rename_i e
        exact some_some (h25 _ _ (State.sbRoom_keeps H (ho _ rfl) _ e))
      · exact some_none

@[simp] theorem State.loadLine_keeps (H : Closed I) {i : Issue} {k : Kernel} {h : Nat} {r : State × List LineGot} {l : LaneAt} (h3 : Holds I ((r).1)) : Holds I ((State.loadLine i k h r l).1) := by
  unfold State.loadLine
  extract_lets +onlyGivenNames -merge -useContext a20 a21
  try clear_value a20
  have h22 : Holds I a21 := (State.coreEvent_keeps H h3)
  try clear_value a21
  extract_lets +onlyGivenNames -merge -useContext a23
  have h24 : Holds I a23.st := (State.readMem_keeps H h22)
  try clear_value a23
  exact h24

@[simp] theorem State.loadMet_keeps (H : Closed I) {s : State} {i : Issue} {k : Kernel} {acc pc va line : Nat} {secs : List Nat} {status : Option Nat} (h0 : Holds I s) : Holds I (State.loadMet s i k acc pc va line secs status) := by
  unfold State.loadMet
  refine State.metPoison_keeps H h0 ?_
  · exact h0

@[simp] theorem State.laneWrite_keeps (H : Closed I) {s : State} {i : Issue} {lane rd n v : Nat} (h0 : Holds I s) : Holds I (State.laneWrite s i lane rd n v) := by
  unfold State.laneWrite
  exact (State.modGroup_keeps H h0)

@[simp] theorem State.loadLane_keeps (H : Closed I) {i : Issue} {k : Kernel} {pc size rd : Nat} {got : List LineGot} {s : State} {l : LaneAt} (h6 : Holds I s) : Holds I (State.loadLane i k pc size rd got s l) := by
  unfold State.loadLane
  extract_lets +onlyGivenNames -merge -useContext a20
  try clear_value a20
  split
  · split
    · extract_lets +onlyGivenNames -merge -useContext a21
      try clear_value a21
      exact (State.laneWrite_keeps H h6)
    · exact (State.laneWrite_keeps H (State.loadMet_keeps H (State.hostReadFailed_keeps H h6)))
  · extract_lets +onlyGivenNames -merge -useContext a22
    have h23 : Holds I a22.st := (State.readMem_keeps H h6)
    try clear_value a22
    extract_lets +onlyGivenNames -merge -useContext a24
    try clear_value a24
    exact (State.laneWrite_keeps H (State.loadMet_keeps H h23))
  · extract_lets +onlyGivenNames -merge -useContext a25
    have h26 : Holds I a25.2 := (State.regLoad_keeps H h6)
    try clear_value a25
    exact (State.laneWrite_keeps H h26)
  · refine iteInduction (motive := fun r => Holds I r) (fun _ => ?_) (fun _ => ?_)
    · extract_lets +onlyGivenNames -merge -useContext a27
      have h28 : Holds I a27.st := (State.readMem_keeps H h6)
      try clear_value a27
      extract_lets +onlyGivenNames -merge -useContext a29
      try clear_value a29
      exact (State.laneWrite_keeps H (State.loadMet_keeps H h28))
    · split
      · exact h6
      · extract_lets +onlyGivenNames -merge -useContext a30
        try clear_value a30
        exact (State.laneWrite_keeps H h6)
  · exact h6

@[simp] theorem State.winSend_keeps (H : Closed I) {s : State} {slot : Nat} {a : WinAcc} (h0 : Holds I s) : Holds I (State.winSend s slot a) := by
  unfold State.winSend
  exact (State.modCore_keeps H h0)

@[simp] theorem State.loadDo_keeps (H : Closed I) {s : State} {i : Issue} {k : Kernel} {p : PathSt} {size rd h : Nat} {ls : List LaneAt} (h0 : Holds I s) : Holds I (State.loadDo s i k p size rd h ls) := by
  unfold State.loadDo
  extract_lets +onlyGivenNames -merge -useContext a20 a21 a22
  try clear_value a20 a21
  have h23 : Holds I a22.1 := by
    unfold a22
    refine holds_foldl_of (fun (r : State × List LineGot) => r.1) ?_ ?_
    · exact h0
    · intro _ _ h24
      exact (State.loadLine_keeps H h24)
  try clear_value a22
  extract_lets +onlyGivenNames -merge -useContext a25
  have h26 : Holds I a25 := by
    unfold a25
    refine holds_foldl_of (fun (r : State) => r) ?_ ?_
    · exact h23
    · intro _ _ h27
      exact (State.loadMet_keeps H h27)
  try clear_value a25
  extract_lets +onlyGivenNames -merge -useContext a28
  have h29 : Holds I a28 := by
    unfold a28
    refine holds_foldl_of (fun (r : State) => r) ?_ ?_
    · exact h26
    · intro _ _ h30
      exact State.loadLane_keeps H h30
  try clear_value a28
  extract_lets +onlyGivenNames -merge -useContext a31
  try clear_value a31
  refine iteInduction (motive := fun r => Holds I r) (fun _ => ?_) (fun _ => ?_)
  · exact (State.retire_keeps H h29)
  · refine State.stallGroup_keeps H ?_
    · refine holds_foldl_of (fun (r : State) => r) ?_ ?_
      · exact h29
      · intro _ _ h32
        exact (State.winSend_keeps H h32)

theorem execLoad_keeps (H : Closed I) {i : Issue} {size rd ra : Nat} {off : Int} {acq : Option Scope} {h : Hint} {s : State} (h7 : Holds I s) : ∀ t', execLoad i size rd ra off acq h s = Host.Outcome.next t' → Holds I t' := by
  show HoldsOut I _
  unfold execLoad
  refine out_next ?_
  refine State.issue_keeps H h7 ?_
  · intro _ _ _ h20
    split
    · exact h20
    · extract_lets +onlyGivenNames -merge -useContext a21
      try clear_value a21
      refine State.lanesDo_keeps H h20 ?_
      · intro _ _ _ h22 h23
        refine iteInduction (motive := fun r => Holds I r) (fun _ => ?_) (fun _ => ?_)
        · exact h22
        · extract_lets +onlyGivenNames -merge -useContext a24 a25
          try clear_value a24 a25
          split
          · exact h22
          · rename_i e26
            have h27 := some_of (I := I) (p := fun t => t) e26 (State.drainLines_keeps H h23)
            exact (State.loadDo_keeps H h27)

@[simp] theorem State.storeLane_keeps (H : Closed I) {i : Issue} {k : Kernel} {pc : Nat} {s : State} {x : Nat × LaneAt × List Byte} (h3 : Holds I s) : Holds I (State.storeLane i k pc s x) := by
  unfold State.storeLane
  extract_lets +onlyGivenNames -merge -useContext a20 a21
  try clear_value a21
  split
  · exact (State.writeMem_keeps H h3)
  · exact (State.winSend_keeps H h3)
  · exact (State.regStore_keeps H h3)
  · extract_lets +onlyGivenNames -merge -useContext a22
    have h23 : Holds I a22.st := (State.writeMem_keeps H h3)
    try clear_value a22
    exact (State.loadMet_keeps H h23)
  · exact h3

@[simp] theorem State.storeOp_keeps (H : Closed I) {s : State} {i : Issue} {size ra : Nat} {rd : List (Nat × Nat)} {off : Int} {val : Group → Nat → List Byte} {rel : Option Scope} {h : Hint} (h0 : Holds I s) : Holds I (State.storeOp s i size ra rd off val rel h) := by
  unfold State.storeOp
  refine State.issue_keeps H h0 ?_
  · intro _ _ _ h20
    split
    · exact h20
    · extract_lets +onlyGivenNames -merge -useContext a21
      have h22 : Holds I a21.1 := by
        unfold a21
        split
        · exact (State.release_keeps H h20)
        · exact h20
      try clear_value a21
      refine iteInduction (motive := fun r => Holds I r) (fun _ => ?_) (fun _ => ?_)
      · exact h22
      · refine State.lanesDo_keeps H h22 ?_
        · intro _ _ _ h23 h24
          refine iteInduction (motive := fun r => Holds I r) (fun _ => ?_) (fun _ => ?_)
          · exact h23
          · extract_lets +onlyGivenNames -merge -useContext a25 a26
            try clear_value a25 a26
            split
            · exact (State.stallGroup_keeps H h23)
            · rename_i e27
              have h28 := some_of (I := I) (p := fun t => t) e27 (State.sbStores_keeps H h24)
              refine State.retire_keeps H ?_
              · refine State.sbStallEnd_keeps H ?_
                · refine holds_foldl_of (fun (r : State) => r) ?_ ?_
                  · exact h28
                  · intro _ _ h29
                    exact State.storeLane_keeps H h29

theorem execStore_keeps (H : Closed I) {i : Issue} {size ra rb : Nat} {off : Int} {rel : Option Scope} {h : Hint} {s : State} (h7 : Holds I s) : ∀ t', execStore i size ra rb off rel h s = Host.Outcome.next t' → Holds I t' := by
  show HoldsOut I _
  unfold execStore
  exact (out_next (State.storeOp_keeps H h7))

theorem execDeviceStrictStore_keeps (H : Closed I) {i : Issue} {size ra rb : Nat} {off : Int} {s : State} (h5 : Holds I s) : ∀ t', execDeviceStrictStore i size ra rb off s = Host.Outcome.next t' → Holds I t' := by
  show HoldsOut I _
  unfold execDeviceStrictStore
  exact (out_next (State.storeOp_keeps H h5))

theorem execZline_keeps (H : Closed I) {i : Issue} {ra : Nat} {h : Hint} {s : State} (h3 : Holds I s) : ∀ t', execZline i ra h s = Host.Outcome.next t' → Holds I t' := by
  show HoldsOut I _
  unfold execZline
  exact (out_next (State.storeOp_keeps H h3))

@[simp] theorem State.lanesWrite_keeps (H : Closed I) {s : State} {i : Issue} {rd n : Nat} {vs : List (Nat × Nat)} (h0 : Holds I s) : Holds I (State.lanesWrite s i rd n vs) := by
  unfold State.lanesWrite
  refine holds_foldl_of (fun (r : State) => r) ?_ ?_
  · exact h0
  · intro _ _ h20
    exact (State.laneWrite_keeps H h20)

@[simp] theorem State.atomicAt_keeps (H : Closed I) {i : Issue} {k : Kernel} {pc : Nat} {op : AtomicOp} {wide : Bool} {sc : Scope} {rd : Nat} {s : State} {x : LaneAt × List (Nat × Nat × Nat)} (h7 : Holds I s) : Holds I (State.atomicAt i k pc op wide sc rd s x) := by
  unfold State.atomicAt
  extract_lets +onlyGivenNames -merge -useContext a20 a21 a22 a23 a24 a25
  try clear_value a21 a22 a24
  have h26 : Holds I a25.st := (State.readMem_keeps H h7)
  try clear_value a25
  refine iteInduction (motive := fun r => Holds I r) (fun _ => ?_) (fun _ => ?_)
  · exact (State.lanesWrite_keeps H (State.metPoison_keeps H h26 h26))
  · extract_lets +onlyGivenNames -merge -useContext a27 a28 a29
    try clear_value a27 a28
    have h30 : Holds I a29 := h26
    try clear_value a29
    extract_lets +onlyGivenNames -merge -useContext a31
    have h32 : Holds I a31.st := by
      unfold a31
      refine State.writeMem_keeps H ?_
      · exact holds_mk h30 rfl rfl rfl rfl rfl rfl
    try clear_value a31
    exact (State.lanesWrite_keeps H (State.coreEvent_keeps H h32))

theorem execAtomic_keeps (H : Closed I) {i : Issue} {op : AtomicOp} {wide : Bool} {sc : Scope} {x4 rel : Bool} {rd ra rb rc : Nat} {s : State} (h10 : Holds I s) : ∀ t', execAtomic i op wide sc x4 rel rd ra rb rc s = Host.Outcome.next t' → Holds I t' := by
  show HoldsOut I _
  unfold execAtomic
  extract_lets +onlyGivenNames -merge -useContext a20 a21
  try clear_value a20 a21
  refine out_next ?_
  refine State.issue_keeps H h10 ?_
  · intro _ _ _ h22
    split
    · exact h22
    · refine iteInduction (motive := fun r => Holds I r) (fun _ => ?_) (fun _ => ?_)
      · exact (State.exception_keeps H h22)
      · extract_lets +onlyGivenNames -merge -useContext a23
        have h24 : Holds I a23.1 := by
          unfold a23
          refine iteInduction (motive := fun (r : State × Bool) => Holds I r.1) (fun _ => ?_) (fun _ => ?_)
          · exact (State.release_keeps H h22)
          · exact h22
        try clear_value a23
        refine iteInduction (motive := fun r => Holds I r) (fun _ => ?_) (fun _ => ?_)
        · exact h24
        · refine State.lanesDo_keeps H h24 ?_
          · intro _ _ _ h25 h26
            split
            · exact (State.laneFault_keeps H h26)
            · split
              · exact (State.laneFault_keeps H h26)
              · refine iteInduction (motive := fun r => Holds I r) (fun _ => ?_) (fun _ => ?_)
                · exact h25
                · split
                  · exact h25
                  · rename_i e27
                    have h28 := some_of (I := I) (p := fun t => t) e27 (State.drainLines_keeps H h26)
                    extract_lets +onlyGivenNames -merge -useContext a29 a30
                    try clear_value a29
                    have h31 : Holds I a30 := (State.coreEvent_keeps H h28)
                    try clear_value a30
                    extract_lets +onlyGivenNames -merge -useContext a32 a33 a34
                    try clear_value a32 a33
                    have h35 : Holds I a34 := by
                      unfold a34
                      refine holds_foldl_of (fun (r : State) => r) ?_ ?_
                      · exact h31
                      · intro _ _ h36
                        exact State.atomicAt_keeps H h36
                    try clear_value a34
                    refine iteInduction (motive := fun r => Holds I r) (fun _ => ?_) (fun _ => ?_)
                    · exact (State.retire_keeps H h35)
                    · refine State.stallGroup_keeps H ?_
                      · refine holds_foldl_of (fun (r : State) => r) ?_ ?_
                        · exact h35
                        · intro _ _ h37
                          extract_lets +onlyGivenNames -merge -useContext a38
                          exact (State.winSend_keeps H h37)

@[simp] theorem State.winDone_keeps (H : Closed I) {s : State} {a : WinAcc} (h0 : Holds I s) : Holds I (State.winDone s a) := by
  unfold State.winDone
  refine iteInduction (motive := fun r => Holds I r) (fun _ => ?_) (fun _ => ?_)
  · exact h0
  · refine iteInduction (motive := fun r => Holds I r) (fun _ => ?_) (fun _ => ?_)
    · exact h0
    · exact (State.retire_keeps H h0)

@[simp] theorem State.winPerform_keeps (H : Closed I) {s : State} {core : Nat} {a : WinAcc} (h0 : Holds I s) : Holds I (State.winPerform s core a) := by
  unfold State.winPerform
  extract_lets +onlyGivenNames -merge -useContext a20 a21 a22
  try clear_value a20 a22
  refine iteInduction (motive := fun r => Holds I r) (fun _ => ?_) (fun _ => ?_)
  · exact (State.writeMem_keeps H h0)
  · extract_lets +onlyGivenNames -merge -useContext a23
    have h24 : Holds I a23.st := (State.readMem_keeps H h0)
    try clear_value a23
    extract_lets +onlyGivenNames -merge -useContext a25
    try clear_value a25
    split
    · extract_lets +onlyGivenNames -merge -useContext a26
      try clear_value a26
      exact (State.laneWrite_keeps H (State.metPoison_keeps H h24 h24))
    · refine iteInduction (motive := fun r => Holds I r) (fun _ => ?_) (fun _ => ?_)
      · exact (State.lanesWrite_keeps H (State.metPoison_keeps H h24 h24))
      · extract_lets +onlyGivenNames -merge -useContext a27 a28 a29
        try clear_value a27 a28
        have h30 : Holds I a29 := h24
        try clear_value a29
        extract_lets +onlyGivenNames -merge -useContext a31
        have h32 : Holds I a31.st := by
          unfold a31
          refine State.writeMem_keeps H ?_
          · exact holds_mk h30 rfl rfl rfl rfl rfl rfl
        try clear_value a31
        exact (State.lanesWrite_keeps H (State.coreEvent_keeps H h32))

theorem execWindowAccess_keeps (H : Closed I) {core : Nat} {s : State} (h1 : Holds I s) : ∀ t', execWindowAccess core s = Host.Outcome.next t' → Holds I t' := by
  show HoldsOut I _
  unfold execWindowAccess
  split
  · exact (out_next h1)
  · refine iteInduction (motive := fun r => HoldsOut I r) (fun _ => ?_) (fun _ => ?_)
    · exact (out_next h1)
    · refine iteInduction (motive := fun r => HoldsOut I r) (fun _ => ?_) (fun _ => ?_)
      · exact (out_next (State.raiseFault_keeps H h1))
      · extract_lets +onlyGivenNames -merge -useContext a20
        have h21 : Holds I a20 := (State.modCore_keeps H h1)
        try clear_value a20
        exact (out_next (State.winDone_keeps H (State.winPerform_keeps H h21)))

@[simp] theorem State.enqueue_keeps (H : Closed I) {s : State} {a : Agent} {ctx queue va pc : Nat} (h0 : Holds I s) : Holds I (State.enqueue s a ctx queue va pc).st := by
  unfold State.enqueue
  extract_lets +onlyGivenNames -merge -useContext a20 a21 a22
  try clear_value a21 a22
  refine iteInduction (motive := fun (r : EnqRes) => Holds I r.st) (fun _ => ?_) (fun _ => ?_)
  · exact h0
  · extract_lets +onlyGivenNames -merge -useContext a23
    have h24 : Holds I a23.st := (State.hubRead_keeps H h0)
    try clear_value a23
    refine iteInduction (motive := fun (r : EnqRes) => Holds I r.st) (fun _ => ?_) (fun _ => ?_)
    · exact h0
    · split
      · exact (State.quietRecord_keeps H h24)
      · refine iteInduction (motive := fun (r : EnqRes) => Holds I r.st) (fun _ => ?_) (fun _ => ?_)
        · exact h24
        · refine iteInduction (motive := fun (r : EnqRes) => Holds I r.st) (fun _ => ?_) (fun _ => ?_)
          · refine State.each_keeps H h24 ?_
            · intro _ _ h25
              exact (State.poisonRecord_keeps H h25)
          · refine iteInduction (motive := fun (r : EnqRes) => Holds I r.st) (fun _ => ?_) (fun _ => ?_)
            · exact (State.odBump_keeps H h24)
            · extract_lets +onlyGivenNames -merge -useContext a26
              have h27 : Holds I a26.st := (State.hubWrite_keeps H h24)
              try clear_value a26
              refine iteInduction (motive := fun (r : EnqRes) => Holds I r.st) (fun _ => ?_) (fun _ => ?_)
              · exact h0
              · split
                · exact (State.quietRecord_keeps H h27)
                · refine iteInduction (motive := fun (r : EnqRes) => Holds I r.st) (fun _ => ?_) (fun _ => ?_)
                  · exact h27
                  · exact (State.ringDoorbell_keeps H (State.modCtx_keeps H h27))

theorem execThreadEnqueue_keeps (H : Closed I) {i : Issue} {rd ra rb : Nat} {s : State} (h4 : Holds I s) : ∀ t', execThreadEnqueue i rd ra rb s = Host.Outcome.next t' → Holds I t' := by
  show HoldsOut I _
  unfold execThreadEnqueue
  refine out_next ?_
  refine State.issue_keeps H h4 ?_
  · intro _ _ _ h20
    split
    · exact h20
    · refine iteInduction (motive := fun r => Holds I r) (fun _ => ?_) (fun _ => ?_)
      · exact (State.exception_keeps H h20)
      · extract_lets +onlyGivenNames -merge -useContext a21 a22
        try clear_value a21
        have h23 : Holds I a22 := (State.drainCore_keeps H h20)
        try clear_value a22
        refine iteInduction (motive := fun r => Holds I r) (fun _ => ?_) (fun _ => ?_)
        · exact h20
        · extract_lets +onlyGivenNames -merge -useContext a24
          have h25 : Holds I a24.st := (State.enqueue_keeps H h23)
          try clear_value a24
          split
          · exact h20
          · exact (State.retire_keeps H (State.laneWrite_keeps H h25))

end Sys2Proof.Machine
end

