-- ==== Sys2Proof/Laws/KeepsSeqMem.lean ====
section
/-! SUPPORT. What the operations of Machine/SeqMem.lean protect. -/

namespace Sys2Proof.Machine

set_option linter.all false

variable {I : Prot → Prop}

@[simp] theorem State.seqUndec_keeps (H : Closed I) {s : State} {cl acc va : Nat} {e : Xent} (h0 : Holds I s) : Holds I (State.seqUndec s cl acc va e) := by
  unfold State.seqUndec
  extract_lets +onlyGivenNames -merge -useContext a20
  exact (State.raiseFault_keeps H h0)

@[simp] theorem State.seqAccess_keeps (H : Closed I) {s : State} {cl w acc : Nat} {f : State → Nat → Xent → State} (h0 : Holds I s) (h4 : ∀ y0 y1 y2, Holds I (y0) → Holds I (f y0 y1 y2)) : Holds I (State.seqAccess s cl w acc f) := by
  unfold State.seqAccess
  extract_lets +onlyGivenNames -merge -useContext a20 a21
  try clear_value a21
  refine iteInduction (motive := fun r => Holds I r) (fun _ => ?_) (fun _ => ?_)
  · exact (State.seqFault_keeps H h0)
  · split
    · rename_i e22
      have h23 := holds_of (I := I) (p := fun t => t.2) e22 (State.xlateOr_keeps H h0)
      exact h23
    · rename_i e24
      have h25 := holds_of (I := I) (p := fun t => t.2) e24 (State.xlateOr_keeps H h0)
      exact (h4 _ _ _ h25)

theorem execLd_keeps (H : Closed I) {cl : Nat} {s : State} (h1 : Holds I s) : ∀ t', execLd cl s = Host.Outcome.next t' → Holds I t' := by
  show HoldsOut I _
  unfold execLd
  refine out_next ?_
  refine State.stream_keeps H h1 ?_
  · intro _ _ h20
    refine State.seqAccess_keeps H h20 ?_
    · intro _ _ _ h21
      extract_lets +onlyGivenNames -merge -useContext a22 a23 a24
      try clear_value a23
      have h25 : ∀ y0 y1, Holds I y0 → Holds I (a24 y0 y1) := by
        intro _ _ h26
        unfold a24
        exact (State.seqDone_keeps H h26)
      try clear_value a24
      refine iteInduction (motive := fun r => Holds I r) (fun _ => ?_) (fun _ => ?_)
      · split
        · exact (h25 _ _ h21)
        · refine h25 _ _ ?_
          · refine State.metPoison_keeps H (State.hostReadFailed_keeps H h21) ?_
            · exact h21
      · split
        · extract_lets +onlyGivenNames -merge -useContext a27
          have h28 : Holds I a27.2 := (State.regLoad_keeps H h21)
          try clear_value a27
          exact (h25 _ _ h28)
        · extract_lets +onlyGivenNames -merge -useContext a29
          have h30 : Holds I a29.st := (State.readMem_keeps H h21)
          try clear_value a29
          refine iteInduction (motive := fun r => Holds I r) (fun _ => ?_) (fun _ => ?_)
          · exact h20
          · refine iteInduction (motive := fun r => Holds I r) (fun _ => ?_) (fun _ => ?_)
            · exact (State.seqUndec_keeps H h30)
            · exact (h25 _ _ (State.metPoison_keeps H h30 h30))

theorem execSt_keeps (H : Closed I) {cl : Nat} {s : State} (h1 : Holds I s) : ∀ t', execSt cl s = Host.Outcome.next t' → Holds I t' := by
  show HoldsOut I _
  unfold execSt
  refine out_next ?_
  refine State.stream_keeps H h1 ?_
  · intro _ _ h20
    refine State.seqAccess_keeps H h20 ?_
    · intro _ _ _ h21
      extract_lets +onlyGivenNames -merge -useContext a22 a23 a24
      try clear_value a23 a24
      refine iteInduction (motive := fun r => Holds I r) (fun _ => ?_) (fun _ => ?_)
      · exact (State.seqDone_keeps H (State.hostWrite_keeps H h21))
      · split
        · exact (State.seqDone_keeps H (State.regStore_keeps H h21))
        · extract_lets +onlyGivenNames -merge -useContext a25
          have h26 : Holds I a25.st := (State.writeMem_keeps H h21)
          try clear_value a25
          refine iteInduction (motive := fun r => Holds I r) (fun _ => ?_) (fun _ => ?_)
          · exact h20
          · refine iteInduction (motive := fun r => Holds I r) (fun _ => ?_) (fun _ => ?_)
            · exact (State.seqUndec_keeps H h26)
            · exact (State.seqDone_keeps H (State.metPoison_keeps H h26 h26))

theorem execEnq_keeps (H : Closed I) {cl : Nat} {s : State} (h1 : Holds I s) : ∀ t', execEnq cl s = Host.Outcome.next t' → Holds I t' := by
  show HoldsOut I _
  unfold execEnq
  refine out_next ?_
  refine State.stream_keeps H h1 ?_
  · intro _ _ h20
    extract_lets +onlyGivenNames -merge -useContext a21 a22
    have h23 : Holds I a22.st := (State.enqueue_keeps H h20)
    try clear_value a22
    split
    · exact h20
    · exact (State.seqDone_keeps H h23)

end Sys2Proof.Machine
end

