-- ==== Sys2Proof/Laws/KeepsDispatch.lean ====
section
/-! SUPPORT. What the operations of Machine/Dispatch.lean protect. -/

namespace Sys2Proof.Machine

set_option linter.all false

variable {I : Prot → Prop}

theorem exec_keeps (H : Closed I) {i : Instr} {s : State} (h1 : Holds I s) : ∀ t', exec i s = Host.Outcome.next t' → Holds I t' := by
  show HoldsOut I _
  unfold exec
  split
  · exact (execRegWrite_keeps H h1)
  · exact (execActionLowHalfWrite_keeps H h1)
  · exact (execBadSizeAccess_keeps H h1)
  · exact (execRefclkSwitch_keeps H h1)
  · exact (execRootPointReached_keeps H h1)
  · exact (execBlockStart_keeps H h1)
  · exact (execBlockExit_keeps H h1)
  · exact (execKernelCompleteCore_keeps H h1)
  · exact (execKernelComplete_keeps H h1)
  · exact (execThreadAluInstruction_keeps H h1)
  · exact (execSpecialRegRead_keeps H h1)
  · exact (execBranch_keeps H h1)
  · exact (execBarrier_keeps H h1)
  · exact (execThreadExit_keeps H h1)
  · exact (execAtomic_keeps H h1)
  · exact (execLoad_keeps H h1)
  · exact (execStore_keeps H h1)
  · exact (execDeviceStrictStore_keeps H h1)
  · exact (execFence_keeps H h1)
  · exact (execReleaseComplete_keeps H h1)
  · exact (execZline_keeps H h1)
  · exact (execConvert_keeps H h1)
  · exact (execTrap_keeps H h1)
  · exact (execThreadEnqueue_keeps H h1)
  · exact (execTeDrainWrite_keeps H h1)
  · exact (execTeEnableWrite_keeps H h1)
  · exact (execCoreClearDone_keeps H h1)
  · exact (execMload_keeps H h1)
  · exact (execMswap_keeps H h1)
  · exact (execMstream_keeps H h1)
  · exact (execMtile_keeps H h1)
  · exact (execMdrain_keeps H h1)
  · exact (execMwait_keeps H h1)
  · exact (execMwaitReturn_keeps H h1)
  · exact (execMxCommandStart_keeps H h1)
  · exact (execMxCommandComplete_keeps H h1)
  · exact (execArrayRampDown_keeps H h1)
  · exact (execDensRecordClose_keeps H h1)
  · exact (execSeqRecordClose_keeps H h1)
  · exact (execSetScale_keeps H h1)
  · exact (execHold_keeps H h1)
  · exact (execSlotRelease_keeps H h1)
  · exact (execSetCentre_keeps H h1)
  · exact (execClearCentre_keeps H h1)
  · exact (execSlotReset_keeps H h1)
  · exact (execSubnormalDefaultWrite_keeps H h1)
  · exact (execStepStart_keeps H h1)
  · exact (execNop_keeps H h1)
  · exact (execEndStream_keeps H h1)
  · exact (execMovi_keeps H h1)
  · exact (execMovhi_keeps H h1)
  · exact (execAdd_keeps H h1)
  · exact (execSub_keeps H h1)
  · exact (execMul_keeps H h1)
  · exact (execAnd_keeps H h1)
  · exact (execOr_keeps H h1)
  · exact (execXor_keeps H h1)
  · exact (execShl_keeps H h1)
  · exact (execShr_keeps H h1)
  · exact (execAddi_keeps H h1)
  · exact (execLd_keeps H h1)
  · exact (execSt_keeps H h1)
  · exact (execRdts_keeps H h1)
  · exact (execBr_keeps H h1)
  · exact (execLoop_keeps H h1)
  · exact (execLidx_keeps H h1)
  · exact (execCset_keeps H h1)
  · exact (execCinc_keeps H h1)
  · exact (execCrd_keeps H h1)
  · exact (execKset_keeps H h1)
  · exact (execKwait_keeps H h1)
  · exact (execKwaitEnd_keeps H h1)
  · exact (execKbr_keeps H h1)
  · exact (execLaunch_keeps H h1)
  · exact (execLwait_keeps H h1)
  · exact (execLwaitEnd_keeps H h1)
  · exact (execKstat_keeps H h1)
  · exact (execMxsel_keeps H h1)
  · exact (execFwait_keeps H h1)
  · exact (execFwaitEnd_keeps H h1)
  · exact (execFsig_keeps H h1)
  · exact (execFsigRelease_keeps H h1)
  · exact (execEsig_keeps H h1)
  · exact (execEwait_keeps H h1)
  · exact (execEwaitEnd_keeps H h1)
  · exact (execSbar_keeps H h1)
  · exact (execSbarLeave_keeps H h1)
  · exact (execEnq_keeps H h1)
  · exact (execSeqPark_keeps H h1)
  · exact (execSeqResume_keeps H h1)
  · exact (execStepEnd_keeps H h1)
  · exact (execStoreBufferDrain_keeps H h1)
  · exact (execWindowAccess_keeps H h1)
  · exact (execTeardownDrainLimit_keeps H h1)
  · exact (execCacheFill_keeps H h1)
  · exact (execCcEviction_keeps H h1)
  · exact (execCcWayPowerDown_keeps H h1)
  · exact (execCcWayPowerUp_keeps H h1)
  · exact (execCcWayCleanDone_keeps H h1)
  · exact (execTkKeepclr_keeps H h1)
  · exact (execKeepSweepDone_keeps H h1)
  · exact (execTkRetire_keeps H h1)
  · exact (execBankMoveDone_keeps H h1)
  · exact (execTankScrubPass_keeps H h1)
  · exact (execDrain_keeps H h1)
  · exact (execUndrain_keeps H h1)
  · exact (execQuiesce_keeps H h1)
  · exact (execUnitQuiesced_keeps H h1)
  · exact (execTest_keeps H h1)
  · exact (execTestPassEnd_keeps H h1)
  · exact (execReturnUnit_keeps H h1)
  · exact (execUnitReturned_keeps H h1)
  · exact (execRetrain_keeps H h1)
  · exact (execUnitTrainingEnd_keeps H h1)
  · exact (execSparePc_keeps H h1)
  · exact (execSparePcDone_keeps H h1)
  · exact (execDimmLatch_keeps H h1)
  · exact (execDimmLatchClose_keeps H h1)
  · exact (execDimmTrainingStart_keeps H h1)
  · exact (execDimmThermalRead_keeps H h1)
  · exact (execCxlLinkDown_keeps H h1)
  · exact (execCxlReadyTimeout_keeps H h1)
  · exact (execCxlRequestTimeout_keeps H h1)
  · exact (execUnitFailed_keeps H h1)
  · exact (execMemoryTrainingEnd_keeps H h1)
  · exact (execMoveStart_keeps H h1)
  · exact (execMoveCopied_keeps H h1)
  · exact (execMoveRelease_keeps H h1)
  · exact (execBucketRefill_keeps H h1)
  · exact (execPatrolPass_keeps H h1)
  · exact (execRowRepair_keeps H h1)
  · exact (execMirrorAdd_keeps H h1)
  · exact (execMirrorRemove_keeps H h1)
  · exact (execTgGo_keeps H h1)
  · exact (execTgStop_keeps H h1)
  · exact (execWalkComplete_keeps H h1)
  · exact (execFaultWindowClose_keeps H h1)
  · exact (execFqtailWrite_keeps H h1)
  · exact (execResolveRetry_keeps H h1)
  · exact (execResolveAbort_keeps H h1)
  · exact (execSync_keeps H h1)
  · exact (execContextRange_keeps H h1)
  · exact (execContext_keeps H h1)
  · exact (execS2Range_keeps H h1)
  · exact (execPartition_keeps H h1)
  · exact (execInvComplete_keeps H h1)
  · exact (execShardHandout_keeps H h1)
  · exact (execPass1Shard_keeps H h1)
  · exact (execPass2Shard_keeps H h1)
  · exact (execUpdateComplete_keeps H h1)
  · exact (execRuleWrite_keeps H h1)
  · exact (execRuleApplied_keeps H h1)
  · exact (execUuEnableWrite_keeps H h1)
  · exact (execLinkTraining_keeps H h1)
  · exact (execLaneLossRetrain_keeps H h1)
  · exact (execDlDown_keeps H h1)
  · exact (execHotReset_keeps H h1)
  · exact (execPerst_keeps H h1)
  · exact (execHostBar2Write_keeps H h1)
  · exact (execHostBar2Read_keeps H h1)
  · exact (execUnsupportedRequest_keeps H h1)
  · exact (execHostReadFail_keeps H h1)
  · exact (execMsixUnmask_keeps H h1)
  · exact (execFlrVf_keeps H h1)
  · exact (execFlrPf_keeps H h1)
  · exact (execDoeRequest_keeps H h1)
  · exact (execIdeEstablish_keeps H h1)
  · exact (execIdeCheckFail_keeps H h1)
  · exact (execD3hotEntry_keeps H h1)
  · exact (execCtxCreate_keeps H h1)
  · exact (execCtxKill_keeps H h1)
  · exact (execObjQuery_keeps H h1)
  · exact (execQCreate_keeps H h1)
  · exact (execQStart_keeps H h1)
  · exact (execQStop_keeps H h1)
  · exact (execQReset_keeps H h1)
  · exact (execQDestroy_keeps H h1)
  · exact (execMemCreate_keeps H h1)
  · exact (execMemFree_keeps H h1)
  · exact (execFenceCreate_keeps H h1)
  · exact (execEventCreate_keeps H h1)
  · exact (execSyncFree_keeps H h1)
  · exact (execFenceSignal_keeps H h1)
  · exact (execEventSignal_keeps H h1)
  · exact (execFenceExport_keeps H h1)
  · exact (execFenceImport_keeps H h1)
  · exact (execFenceImportRemote_keeps H h1)
  · exact (execImportRemoteTimeout_keeps H h1)
  · exact (execRefAdd_keeps H h1)
  · exact (execDoorbell_keeps H h1)
  · exact (execEntryAccept_keeps H h1)
  · exact (execWaitsMet_keeps H h1)
  · exact (execEntryComplete_keeps H h1)
  · exact (execQueueTimeout_keeps H h1)
  · exact (execKillTimeout_keeps H h1)
  · exact (execReclaimEpochEnd_keeps H h1)
  · exact (execApply_keeps H h1)
  · exact (execLayoutAbort_keeps H h1)
  · exact (execPartitionReset_keeps H h1)
  · exact (execPtResetGo_keeps H h1)
  · exact (execLayoutDrainLimit_keeps H h1)
  · exact (execMeterWindow_keeps H h1)
  · exact (execStepPlace_keeps H h1)
  · exact (execSliceEligible_keeps H h1)
  · exact (execPreemptTimeout_keeps H h1)
  · exact (execModeStage_keeps H h1)
  · exact (execModeStageLimit_keeps H h1)
  · exact (execModeCommit_keeps H h1)
  · exact (execEpochBoundary_keeps H h1)
  · exact (execModeChangeComplete_keeps H h1)
  · exact (execCompatHoldExpiry_keeps H h1)
  · exact (execLearnForget_keeps H h1)
  · exact (execMaintenanceStep_keeps H h1)
  · exact (execData_keeps H h1)
  · exact (execSignal_keeps H h1)
  · exact (execSubscribe_keeps H h1)
  · exact (execSubReply_keeps H h1)
  · exact (execFenceChange_keeps H h1)
  · exact (execUnsubscribe_keeps H h1)
  · exact (execCredit_keeps H h1)
  · exact (execRunAbort_keeps H h1)
  · exact (execAck_keeps H h1)
  · exact (execNak_keeps H h1)
  · exact (execHello_keeps H h1)
  · exact (execAckTimer_keeps H h1)
  · exact (execRetransmitTimeout_keeps H h1)
  · exact (execHelloTimer_keeps H h1)
  · exact (execKeepAlive_keeps H h1)
  · exact (execLostTimeout_keeps H h1)
  · exact (execPeerIdleClose_keeps H h1)
  · exact (execQuadOut_keeps H h1)
  · exact (execQuadRetrainTry_keeps H h1)
  · exact (execQuadReturn_keeps H h1)
  · exact (execQctrlOut_keeps H h1)
  · exact (execQuadRetrain_keeps H h1)
  · exact (execCageInsert_keeps H h1)
  · exact (execCageRemove_keeps H h1)
  · exact (execFabricEnable_keeps H h1)
  · exact (execGroupWrite_keeps H h1)
  · exact (execOperationWrite_keeps H h1)
  · exact (execRunStart_keeps H h1)
  · exact (execRunComplete_keeps H h1)
  · exact (execRunTimeout_keeps H h1)
  · exact (execPrbsGo_keeps H h1)
  · exact (execPrbsStop_keeps H h1)
  · exact (execPlanEnable_keeps H h1)
  · exact (execNegativeDue_keeps H h1)
  · exact (execNegativeLate_keeps H h1)
  · exact (execFailureReport_keeps H h1)
  · exact (execRestore_keeps H h1)
  · exact (execRemap_keeps H h1)
  · exact (execDigest_keeps H h1)
  · exact (execCompare_keeps H h1)
  · exact (execDigestDone_keeps H h1)
  · exact (execReleaseBrick_keeps H h1)
  · exact (execBrickReleaseEnd_keeps H h1)
  · exact (execReleaseFan_keeps H h1)
  · exact (execReleaseCage_keeps H h1)
  · exact (execReturnCage_keeps H h1)
  · exact (execPrepareModule_keeps H h1)
  · exact (execSpareCore_keeps H h1)
  · exact (execOdRead_keeps H h1)
  · exact (execOdWrite_keeps H h1)
  · exact (execOdDescribe_keeps H h1)
  · exact (execOdRequest_keeps H h1)
  · exact (execDiscover_keeps H h1)
  · exact (execSessionInit_keeps H h1)
  · exact (execSessionFinish_keeps H h1)
  · exact (execSessionClose_keeps H h1)
  · exact (execSessionTimeout_keeps H h1)
  · exact (execEventAck_keeps H h1)
  · exact (execEventRepeat_keeps H h1)
  · exact (execSpdm_keeps H h1)
  · exact (execImageRequest_keeps H h1)
  · exact (execImageOffer_keeps H h1)
  · exact (execImageData_keeps H h1)
  · exact (execImageReadTimeout_keeps H h1)
  · exact (execLoaderGo_keeps H h1)
  · exact (execImageCheck_keeps H h1)
  · exact (execRestoreDone_keeps H h1)
  · exact (execRestoreWindowExpiry_keeps H h1)
  · exact (execWarm_keeps H h1)
  · exact (execWarmReload_keeps H h1)
  · exact (execWatchdog_keeps H h1)
  · exact (execRevokeKeySlot_keeps H h1)
  · exact (execRaiseRollbackFloor_keeps H h1)
  · exact (execProgramOwnerSlot_keeps H h1)
  · exact (execRevokeOwnerSlot_keeps H h1)
  · exact (execProfilePlanWrite_keeps H h1)
  · exact (execReelDrainDone_keeps H h1)
  · exact (execReelFlush_keeps H h1)
  · exact (execReelDisable_keeps H h1)
  · exact (execProgressWatchdog_keeps H h1)
  · exact (execContactSheetDone_keeps H h1)
  · exact (execContactSheetRelease_keeps H h1)
  · exact (execPowerUp_keeps H h1)
  · exact (execPwrEnFall_keeps H h1)
  · exact (execRestartHoldoff_keeps H h1)
  · exact (execInputDip_keeps H h1)
  · exact (execUndervoltage_keeps H h1)
  · exact (execOvervoltage_keeps H h1)
  · exact (execBrickOverload_keeps H h1)
  · exact (execBrickInsert_keeps H h1)
  · exact (execBrickLost_keeps H h1)
  · exact (execFanInsert_keeps H h1)
  · exact (execFanLost_keeps H h1)
  · exact (execThermalShutdown_keeps H h1)
  · exact (execHwThermalTrip_keeps H h1)
  · exact (execSqEnableWrite_keeps H h1)
  · exact (execMxEnableWrite_keeps H h1)
  · exact (execPerstRelease_keeps H h1)
  · exact (execD0Entry_keeps H h1)
  · exact (execVfEnable_keeps H h1)
  · exact (execFabricDisable_keeps H h1)
  · exact (execCxlRetrainEnd_keeps H h1)

end Sys2Proof.Machine
end

