-- ==== Sys2Proof/Laws/KeepsTick.lean ====
section
/-! SUPPORT. What the operations of Machine/Tick.lean protect. -/

namespace Sys2Proof.Machine

set_option linter.all false

variable {I : Prot → Prop}

@[simp] theorem State.tick_keeps (H : Closed I) {s : State} (h0 : Holds I s) : Holds I (State.tick s) := by
  unfold State.tick
  extract_lets +onlyGivenNames -merge -useContext a20
  have h21 : Holds I a20 := (State.reqsGo_keeps H (State.leaveRom_keeps H h0))
  try clear_value a20
  exact holds_mk h21 rfl rfl rfl rfl rfl rfl

end Sys2Proof.Machine
end

