-- ==== Sys2Proof/Laws/Maps.lean ====
section
/-! SUPPORT. Laws of sparse maps: a read after a write, and the canonical form. -/

namespace Sys2Proof.Machine

variable {α : Type}

/-! ### Read after write -/

theorem SMap.getD_put_self (m : SMap α) (k : Nat) (v d : α) : (SMap.put m k v).getD k d = v := by
  induction m with
  | nil => simp [SMap.put, SMap.getD]
  | cons e t ih =>
    obtain ⟨k', v'⟩ := e
    simp only [SMap.put]
    split
    · simp [SMap.getD]
    · split
      · simp [SMap.getD]
      · rename_i h
        simp only [SMap.getD, if_neg (Ne.symm h), ih]

theorem SMap.getD_put_ne {m : SMap α} {k l : Nat} (h : l ≠ k) (v d : α) : (SMap.put m k v).getD l d = m.getD l d := by
  induction m with
  | nil => simp [SMap.put, SMap.getD, Ne.symm h]
  | cons e t ih =>
    obtain ⟨k', v'⟩ := e
    simp only [SMap.put]
    split
    · simp [SMap.getD, Ne.symm h]
    · split
      · subst_vars; simp [SMap.getD, Ne.symm h]
      · simp only [SMap.getD, ih]

theorem SMap.getD_del_self (m : SMap α) (k : Nat) (d : α) : (SMap.del m k).getD k d = d := by
  induction m with
  | nil => rfl
  | cons e t ih =>
    obtain ⟨k', v'⟩ := e
    simp only [SMap.del]
    split
    · exact ih
    · rename_i h; simp only [SMap.getD, if_neg h, ih]

theorem SMap.getD_del_ne {m : SMap α} {k l : Nat} (h : l ≠ k) (d : α) : (SMap.del m k).getD l d = m.getD l d := by
  induction m with
  | nil => rfl
  | cons e t ih =>
    obtain ⟨k', v'⟩ := e
    simp only [SMap.del]
    split
    · subst_vars; simp only [SMap.getD, if_neg (Ne.symm h), ih]
    · simp only [SMap.getD, ih]

/-- What is written is read back. -/
@[simp] theorem SMap.getD_set_self [DecidableEq α] (m : SMap α) (k : Nat) (d v : α) : (SMap.set m k d v).getD k d = v := by
  unfold SMap.set
  split
  · subst_vars; exact SMap.getD_del_self ..
  · exact SMap.getD_put_self ..

/-- A write leaves every other key as it is, whatever the default there. -/
theorem SMap.getD_set_ne [DecidableEq α] {m : SMap α} {k l : Nat} (h : l ≠ k) (d v e : α) : (SMap.set m k d v).getD l e = m.getD l e := by
  unfold SMap.set
  split
  · exact SMap.getD_del_ne h e
  · exact SMap.getD_put_ne h v e

@[simp] theorem SMap.find_put_self (m : SMap α) (k : Nat) (v : α) : (SMap.put m k v).find k = some v := by
  induction m with
  | nil => simp [SMap.put, SMap.find]
  | cons e t ih =>
    obtain ⟨k', v'⟩ := e
    simp only [SMap.put]
    split
    · simp [SMap.find]
    · split
      · simp [SMap.find]
      · rename_i h; simp only [SMap.find, if_neg (Ne.symm h), ih]

theorem SMap.find_put_ne {m : SMap α} {k l : Nat} (h : l ≠ k) (v : α) : (SMap.put m k v).find l = m.find l := by
  induction m with
  | nil => simp [SMap.put, SMap.find, Ne.symm h]
  | cons e t ih =>
    obtain ⟨k', v'⟩ := e
    simp only [SMap.put]
    split
    · simp [SMap.find, Ne.symm h]
    · split
      · subst_vars; simp [SMap.find, Ne.symm h]
      · simp only [SMap.find, ih]

@[simp] theorem SMap.find_del_self (m : SMap α) (k : Nat) : (SMap.del m k).find k = none := by
  induction m with
  | nil => rfl
  | cons e t ih =>
    obtain ⟨k', v'⟩ := e
    simp only [SMap.del]
    split
    · exact ih
    · rename_i h; simp only [SMap.find, if_neg h, ih]

theorem SMap.find_del_ne {m : SMap α} {k l : Nat} (h : l ≠ k) : (SMap.del m k).find l = m.find l := by
  induction m with
  | nil => rfl
  | cons e t ih =>
    obtain ⟨k', v'⟩ := e
    simp only [SMap.del]
    split
    · subst_vars; simp only [SMap.find, if_neg (Ne.symm h), ih]
    · simp only [SMap.find, ih]

/-! ### The canonical form -/

section Canonical

variable [DecidableEq α] {d : Nat → α}

/-- Keys above a lower bound are keys above every bound below it. -/
theorem SMap.wfFrom_weaken {lo : Nat} {lo' : Option Nat} {m : SMap α} (h : SMap.wfFrom d (some lo) m = true)
    (hl : ∀ l, lo' = some l → l ≤ lo) : SMap.wfFrom d lo' m = true := by
  cases m with
  | nil => simp [SMap.wfFrom]
  | cons e t =>
    obtain ⟨k, v⟩ := e
    simp only [SMap.wfFrom, Bool.and_eq_true, decide_eq_true_eq] at h ⊢
    refine ⟨⟨?_, h.1.2⟩, h.2⟩
    cases lo' with
    | none => rfl
    | some l => simp; have := hl l rfl; omega

theorem SMap.wfFrom_put {m : SMap α} {lo : Option Nat} {k : Nat} {v : α} (h : SMap.wfFrom d lo m = true) (hk : ∀ l, lo = some l → l < k)
    (hv : v ≠ d k) : SMap.wfFrom d lo (SMap.put m k v) = true := by
  induction m generalizing lo with
  | nil =>
    simp only [SMap.put, SMap.wfFrom, Bool.and_true, Bool.and_eq_true, decide_eq_true_eq]
    refine ⟨?_, hv⟩
    cases lo with
    | none => rfl
    | some l => simp [hk l rfl]
  | cons e t ih =>
    obtain ⟨k', v'⟩ := e
    simp only [SMap.wfFrom, Bool.and_eq_true, decide_eq_true_eq] at h
    simp only [SMap.put]
    have hlo : (match (generalizing := false) lo with | none => true | some l => decide (l < k)) = true := by
      cases lo with
      | none => rfl
      | some l => simp [hk l rfl]
    split
    · simp only [SMap.wfFrom, Bool.and_eq_true, decide_eq_true_eq]
      exact ⟨⟨hlo, hv⟩, ⟨by assumption, h.1.2⟩, h.2⟩
    · split
      · subst_vars
        simp only [SMap.wfFrom, Bool.and_eq_true, decide_eq_true_eq]
        exact ⟨⟨h.1.1, hv⟩, h.2⟩
      · simp only [SMap.wfFrom, Bool.and_eq_true, decide_eq_true_eq]
        exact ⟨h.1, ih h.2 (fun l e => by cases e; omega)⟩

theorem SMap.wfFrom_filter {m : SMap α} {lo : Option Nat} (f : Nat × α → Bool) (h : SMap.wfFrom d lo m = true) :
    SMap.wfFrom d lo (m.filter f) = true := by
  induction m generalizing lo with
  | nil => exact h
  | cons e t ih =>
    obtain ⟨k, v⟩ := e
    simp only [SMap.wfFrom, Bool.and_eq_true, decide_eq_true_eq] at h
    simp only [List.filter]
    split
    · simp only [SMap.wfFrom, Bool.and_eq_true, decide_eq_true_eq]
      exact ⟨h.1, ih h.2⟩
    · refine ih (SMap.wfFrom_weaken h.2 (fun l e => ?_))
      subst e
      simpa using Nat.le_of_lt (of_decide_eq_true h.1.1)

omit [DecidableEq α] in
theorem SMap.del_eq_filter (m : SMap α) (k : Nat) : SMap.del m k = m.filter (fun e => decide (e.1 ≠ k)) := by
  induction m with
  | nil => rfl
  | cons e t ih =>
    obtain ⟨k', v'⟩ := e
    simp only [SMap.del, List.filter]
    split
    · rename_i h; simp [h, ih]
    · rename_i h; simp [h, ih]

/-- A filter keeps the canonical form. -/
theorem SMap.wf_filter {m : SMap α} (f : Nat × α → Bool) (h : SMap.wf d m = true) : SMap.wf d (m.filter f) = true :=
  SMap.wfFrom_filter f h

/-- A write keeps the canonical form. -/
theorem SMap.wf_set {m : SMap α} {k : Nat} {v : α} (h : SMap.wf d m = true) : SMap.wf d (SMap.set m k (d k) v) = true := by
  unfold SMap.set
  split
  · rw [SMap.del_eq_filter]; exact SMap.wfFrom_filter _ h
  · exact SMap.wfFrom_put h (fun l e => by cases e) ‹_›

/-- Two maps in canonical form that read alike at every key are one and the same list. -/
theorem SMap.wfFrom_ext {m n : SMap α} {lo lo' : Option Nat} (hm : SMap.wfFrom d lo m = true) (hn : SMap.wfFrom d lo' n = true)
    (e : ∀ k, m.getD k (d k) = n.getD k (d k)) : m = n := by
  have above : ∀ {m : SMap α} {k : Nat}, SMap.wfFrom d (some k) m = true → ∀ j, j ≤ k → m.getD j (d j) = d j := by
    intro m
    induction m with
    | nil => intros; rfl
    | cons x t ih =>
      obtain ⟨k', v'⟩ := x
      intro k h j hj
      simp only [SMap.wfFrom, Bool.and_eq_true, decide_eq_true_eq] at h
      have : k' ≠ j := by omega
      simp only [SMap.getD, if_neg this]
      exact ih h.2 j (by omega)
  induction m generalizing n lo lo' with
  | nil =>
    cases n with
    | nil => rfl
    | cons x t =>
      obtain ⟨k, v⟩ := x
      simp only [SMap.wfFrom, Bool.and_eq_true, decide_eq_true_eq] at hn
      have := e k
      simp only [SMap.getD, if_true] at this
      exact absurd this.symm hn.1.2
  | cons x t ih =>
    obtain ⟨k, v⟩ := x
    simp only [SMap.wfFrom, Bool.and_eq_true, decide_eq_true_eq] at hm
    cases n with
    | nil =>
      have := e k
      simp only [SMap.getD, if_true] at this
      exact absurd this hm.1.2
    | cons y u =>
      obtain ⟨k', v'⟩ := y
      simp only [SMap.wfFrom, Bool.and_eq_true, decide_eq_true_eq] at hn
      have hk : k = k' := by
        rcases Nat.lt_trichotomy k k' with h | h | h
        · have := e k
          simp only [SMap.getD, if_true, if_neg (show k' ≠ k by omega)] at this
          rw [above hn.2 k (by omega)] at this
          exact absurd this hm.1.2
        · exact h
        · have := e k'
          simp only [SMap.getD, if_true, if_neg (show k ≠ k' by omega)] at this
          rw [above hm.2 k' (by omega)] at this
          exact absurd this.symm hn.1.2
      subst hk
      have hv : v = v' := by simpa [SMap.getD] using e k
      subst hv
      have ht := ih hm.2 hn.2 (fun j => by
        by_cases hj : k = j
        · subst hj
          rw [above hm.2 k (Nat.le_refl k), above hn.2 k (Nat.le_refl k)]
        · simpa [SMap.getD, hj] using e j)
      rw [ht]

end Canonical

end Sys2Proof.Machine
end

