-- ==== Sys2Proof/Laws/Memory.lean ====
section
/-! SUPPORT. The canonical form of memory: every memory operation keeps it, and the machine after reset has it. -/

namespace Sys2Proof.Machine

/-- The canonical form, of the protected part. -/
def Prot.canonical (p : Prot) : Prop :=
  SMap.wf (fun _ => (0 : Byte)) p.mem = true ∧ SMap.wf (fun _ => (0 : Byte)) p.hostMem = true ∧ SMap.wf (fun _ => false) p.poison = true

/-- Every memory operation keeps the canonical form: the ones that write a byte or a poison mark, and the ones that forget a range. -/
theorem memory_closed : Closed Prot.canonical where
  memSet _ _ _ h := ⟨SMap.wf_set (d := fun _ => (0 : Byte)) h.1, h.2⟩
  memFilter _ f h := ⟨SMap.wf_filter f h.1, h.2⟩
  hostSet _ _ _ h := ⟨h.1, SMap.wf_set (d := fun _ => (0 : Byte)) h.2.1, h.2.2⟩
  poisonSet _ _ _ h := ⟨h.1, h.2.1, SMap.wf_set (d := fun _ => false) h.2.2⟩
  poisonFilter _ f h := ⟨h.1, h.2.1, SMap.wf_filter f h.2.2⟩
  keyRevoke _ _ _ _ h := h
  ownerRevoke _ _ _ h := h
  ownerPut _ _ _ _ h := h
  floorRaise _ _ _ _ h := h

theorem memory_wf_iff {s : State} : Memory.wf s = true ↔ Holds Prot.canonical s := by
  simp [Memory.wf, Holds, State.prot, Prot.canonical, and_assoc]

end Sys2Proof.Machine
end

