-- ==== Sys2Proof/Laws/State.lean ====
section
/-! SUPPORT. What the named updates of Machine/Ops.lean leave as it is, field by field, and what is read back after them. -/

namespace Sys2Proof.Machine

@[simp] theorem State.setReg_pending (s : State) {a v : Nat} : (s.setReg a v).pending = s.pending := rfl
@[simp] theorem State.setReg_free (s : State) {a v : Nat} : (s.setReg a v).free = s.free := rfl
@[simp] theorem State.setReg_now (s : State) {a v : Nat} : (s.setReg a v).now = s.now := rfl
@[simp] theorem State.setReg_ac (s : State) {a v : Nat} : (s.setReg a v).ac = s.ac := rfl
@[simp] theorem State.setReg_actLow (s : State) {a v : Nat} : (s.setReg a v).actLow = s.actLow := rfl
@[simp] theorem State.setReg_buf4 (s : State) {a v : Nat} : (s.setReg a v).buf4 = s.buf4 := rfl
@[simp] theorem State.setReg_od (s : State) {a v : Nat} : (s.setReg a v).od = s.od := rfl
@[simp] theorem State.setReg_odBlob (s : State) {a v : Nat} : (s.setReg a v).odBlob = s.odBlob := rfl
@[simp] theorem State.setReg_mem (s : State) {a v : Nat} : (s.setReg a v).mem = s.mem := rfl
@[simp] theorem State.setReg_hostMem (s : State) {a v : Nat} : (s.setReg a v).hostMem = s.hostMem := rfl
@[simp] theorem State.setReg_hostFail (s : State) {a v : Nat} : (s.setReg a v).hostFail = s.hostFail := rfl
@[simp] theorem State.setReg_clk (s : State) {a v : Nat} : (s.setReg a v).clk = s.clk := rfl
@[simp] theorem State.setReg_cores (s : State) {a v : Nat} : (s.setReg a v).cores = s.cores := rfl
@[simp] theorem State.setReg_seqs (s : State) {a v : Nat} : (s.setReg a v).seqs = s.seqs := rfl
@[simp] theorem State.setReg_ext (s : State) {a v : Nat} : (s.setReg a v).ext = s.ext := rfl
@[simp] theorem State.setReg_xl (s : State) {a v : Nat} : (s.setReg a v).xl = s.xl := rfl
@[simp] theorem State.setReg_upd (s : State) {a v : Nat} : (s.setReg a v).upd = s.upd := rfl
@[simp] theorem State.setReg_host (s : State) {a v : Nat} : (s.setReg a v).host = s.host := rfl
@[simp] theorem State.setReg_obj (s : State) {a v : Nat} : (s.setReg a v).obj = s.obj := rfl
@[simp] theorem State.setReg_pt (s : State) {a v : Nat} : (s.setReg a v).pt = s.pt := rfl
@[simp] theorem State.setReg_lk (s : State) {a v : Nat} : (s.setReg a v).lk = s.lk := rfl
@[simp] theorem State.setReg_ng (s : State) {a v : Nat} : (s.setReg a v).ng = s.ng := rfl
@[simp] theorem State.setReg_mg (s : State) {a v : Nat} : (s.setReg a v).mg = s.mg := rfl
@[simp] theorem State.setReg_obs (s : State) {a v : Nat} : (s.setReg a v).obs = s.obs := rfl
@[simp] theorem State.setReg_pw (s : State) {a v : Nat} : (s.setReg a v).pw = s.pw := rfl

@[simp] theorem State.setRf_pending (s : State) {a hi lo v : Nat} : (s.setRf a hi lo v).pending = s.pending := rfl
@[simp] theorem State.setRf_free (s : State) {a hi lo v : Nat} : (s.setRf a hi lo v).free = s.free := rfl
@[simp] theorem State.setRf_now (s : State) {a hi lo v : Nat} : (s.setRf a hi lo v).now = s.now := rfl
@[simp] theorem State.setRf_ac (s : State) {a hi lo v : Nat} : (s.setRf a hi lo v).ac = s.ac := rfl
@[simp] theorem State.setRf_actLow (s : State) {a hi lo v : Nat} : (s.setRf a hi lo v).actLow = s.actLow := rfl
@[simp] theorem State.setRf_buf4 (s : State) {a hi lo v : Nat} : (s.setRf a hi lo v).buf4 = s.buf4 := rfl
@[simp] theorem State.setRf_od (s : State) {a hi lo v : Nat} : (s.setRf a hi lo v).od = s.od := rfl
@[simp] theorem State.setRf_odBlob (s : State) {a hi lo v : Nat} : (s.setRf a hi lo v).odBlob = s.odBlob := rfl
@[simp] theorem State.setRf_mem (s : State) {a hi lo v : Nat} : (s.setRf a hi lo v).mem = s.mem := rfl
@[simp] theorem State.setRf_hostMem (s : State) {a hi lo v : Nat} : (s.setRf a hi lo v).hostMem = s.hostMem := rfl
@[simp] theorem State.setRf_hostFail (s : State) {a hi lo v : Nat} : (s.setRf a hi lo v).hostFail = s.hostFail := rfl
@[simp] theorem State.setRf_clk (s : State) {a hi lo v : Nat} : (s.setRf a hi lo v).clk = s.clk := rfl
@[simp] theorem State.setRf_cores (s : State) {a hi lo v : Nat} : (s.setRf a hi lo v).cores = s.cores := rfl
@[simp] theorem State.setRf_seqs (s : State) {a hi lo v : Nat} : (s.setRf a hi lo v).seqs = s.seqs := rfl
@[simp] theorem State.setRf_ext (s : State) {a hi lo v : Nat} : (s.setRf a hi lo v).ext = s.ext := rfl
@[simp] theorem State.setRf_xl (s : State) {a hi lo v : Nat} : (s.setRf a hi lo v).xl = s.xl := rfl
@[simp] theorem State.setRf_upd (s : State) {a hi lo v : Nat} : (s.setRf a hi lo v).upd = s.upd := rfl
@[simp] theorem State.setRf_host (s : State) {a hi lo v : Nat} : (s.setRf a hi lo v).host = s.host := rfl
@[simp] theorem State.setRf_obj (s : State) {a hi lo v : Nat} : (s.setRf a hi lo v).obj = s.obj := rfl
@[simp] theorem State.setRf_pt (s : State) {a hi lo v : Nat} : (s.setRf a hi lo v).pt = s.pt := rfl
@[simp] theorem State.setRf_lk (s : State) {a hi lo v : Nat} : (s.setRf a hi lo v).lk = s.lk := rfl
@[simp] theorem State.setRf_ng (s : State) {a hi lo v : Nat} : (s.setRf a hi lo v).ng = s.ng := rfl
@[simp] theorem State.setRf_mg (s : State) {a hi lo v : Nat} : (s.setRf a hi lo v).mg = s.mg := rfl
@[simp] theorem State.setRf_obs (s : State) {a hi lo v : Nat} : (s.setRf a hi lo v).obs = s.obs := rfl
@[simp] theorem State.setRf_pw (s : State) {a hi lo v : Nat} : (s.setRf a hi lo v).pw = s.pw := rfl

@[simp] theorem State.bump_pending (s : State) {a n : Nat} : (s.bump a n).pending = s.pending := rfl
@[simp] theorem State.bump_free (s : State) {a n : Nat} : (s.bump a n).free = s.free := rfl
@[simp] theorem State.bump_now (s : State) {a n : Nat} : (s.bump a n).now = s.now := rfl
@[simp] theorem State.bump_ac (s : State) {a n : Nat} : (s.bump a n).ac = s.ac := rfl
@[simp] theorem State.bump_actLow (s : State) {a n : Nat} : (s.bump a n).actLow = s.actLow := rfl
@[simp] theorem State.bump_buf4 (s : State) {a n : Nat} : (s.bump a n).buf4 = s.buf4 := rfl
@[simp] theorem State.bump_od (s : State) {a n : Nat} : (s.bump a n).od = s.od := rfl
@[simp] theorem State.bump_odBlob (s : State) {a n : Nat} : (s.bump a n).odBlob = s.odBlob := rfl
@[simp] theorem State.bump_mem (s : State) {a n : Nat} : (s.bump a n).mem = s.mem := rfl
@[simp] theorem State.bump_hostMem (s : State) {a n : Nat} : (s.bump a n).hostMem = s.hostMem := rfl
@[simp] theorem State.bump_hostFail (s : State) {a n : Nat} : (s.bump a n).hostFail = s.hostFail := rfl
@[simp] theorem State.bump_clk (s : State) {a n : Nat} : (s.bump a n).clk = s.clk := rfl
@[simp] theorem State.bump_cores (s : State) {a n : Nat} : (s.bump a n).cores = s.cores := rfl
@[simp] theorem State.bump_seqs (s : State) {a n : Nat} : (s.bump a n).seqs = s.seqs := rfl
@[simp] theorem State.bump_ext (s : State) {a n : Nat} : (s.bump a n).ext = s.ext := rfl
@[simp] theorem State.bump_xl (s : State) {a n : Nat} : (s.bump a n).xl = s.xl := rfl
@[simp] theorem State.bump_upd (s : State) {a n : Nat} : (s.bump a n).upd = s.upd := rfl
@[simp] theorem State.bump_host (s : State) {a n : Nat} : (s.bump a n).host = s.host := rfl
@[simp] theorem State.bump_obj (s : State) {a n : Nat} : (s.bump a n).obj = s.obj := rfl
@[simp] theorem State.bump_pt (s : State) {a n : Nat} : (s.bump a n).pt = s.pt := rfl
@[simp] theorem State.bump_lk (s : State) {a n : Nat} : (s.bump a n).lk = s.lk := rfl
@[simp] theorem State.bump_ng (s : State) {a n : Nat} : (s.bump a n).ng = s.ng := rfl
@[simp] theorem State.bump_mg (s : State) {a n : Nat} : (s.bump a n).mg = s.mg := rfl
@[simp] theorem State.bump_obs (s : State) {a n : Nat} : (s.bump a n).obs = s.obs := rfl
@[simp] theorem State.bump_pw (s : State) {a n : Nat} : (s.bump a n).pw = s.pw := rfl

@[simp] theorem State.bumpSat_pending (s : State) {a lo w n : Nat} : (s.bumpSat a lo w n).pending = s.pending := rfl
@[simp] theorem State.bumpSat_free (s : State) {a lo w n : Nat} : (s.bumpSat a lo w n).free = s.free := rfl
@[simp] theorem State.bumpSat_now (s : State) {a lo w n : Nat} : (s.bumpSat a lo w n).now = s.now := rfl
@[simp] theorem State.bumpSat_ac (s : State) {a lo w n : Nat} : (s.bumpSat a lo w n).ac = s.ac := rfl
@[simp] theorem State.bumpSat_actLow (s : State) {a lo w n : Nat} : (s.bumpSat a lo w n).actLow = s.actLow := rfl
@[simp] theorem State.bumpSat_buf4 (s : State) {a lo w n : Nat} : (s.bumpSat a lo w n).buf4 = s.buf4 := rfl
@[simp] theorem State.bumpSat_od (s : State) {a lo w n : Nat} : (s.bumpSat a lo w n).od = s.od := rfl
@[simp] theorem State.bumpSat_odBlob (s : State) {a lo w n : Nat} : (s.bumpSat a lo w n).odBlob = s.odBlob := rfl
@[simp] theorem State.bumpSat_mem (s : State) {a lo w n : Nat} : (s.bumpSat a lo w n).mem = s.mem := rfl
@[simp] theorem State.bumpSat_hostMem (s : State) {a lo w n : Nat} : (s.bumpSat a lo w n).hostMem = s.hostMem := rfl
@[simp] theorem State.bumpSat_hostFail (s : State) {a lo w n : Nat} : (s.bumpSat a lo w n).hostFail = s.hostFail := rfl
@[simp] theorem State.bumpSat_clk (s : State) {a lo w n : Nat} : (s.bumpSat a lo w n).clk = s.clk := rfl
@[simp] theorem State.bumpSat_cores (s : State) {a lo w n : Nat} : (s.bumpSat a lo w n).cores = s.cores := rfl
@[simp] theorem State.bumpSat_seqs (s : State) {a lo w n : Nat} : (s.bumpSat a lo w n).seqs = s.seqs := rfl
@[simp] theorem State.bumpSat_ext (s : State) {a lo w n : Nat} : (s.bumpSat a lo w n).ext = s.ext := rfl
@[simp] theorem State.bumpSat_xl (s : State) {a lo w n : Nat} : (s.bumpSat a lo w n).xl = s.xl := rfl
@[simp] theorem State.bumpSat_upd (s : State) {a lo w n : Nat} : (s.bumpSat a lo w n).upd = s.upd := rfl
@[simp] theorem State.bumpSat_host (s : State) {a lo w n : Nat} : (s.bumpSat a lo w n).host = s.host := rfl
@[simp] theorem State.bumpSat_obj (s : State) {a lo w n : Nat} : (s.bumpSat a lo w n).obj = s.obj := rfl
@[simp] theorem State.bumpSat_pt (s : State) {a lo w n : Nat} : (s.bumpSat a lo w n).pt = s.pt := rfl
@[simp] theorem State.bumpSat_lk (s : State) {a lo w n : Nat} : (s.bumpSat a lo w n).lk = s.lk := rfl
@[simp] theorem State.bumpSat_ng (s : State) {a lo w n : Nat} : (s.bumpSat a lo w n).ng = s.ng := rfl
@[simp] theorem State.bumpSat_mg (s : State) {a lo w n : Nat} : (s.bumpSat a lo w n).mg = s.mg := rfl
@[simp] theorem State.bumpSat_obs (s : State) {a lo w n : Nat} : (s.bumpSat a lo w n).obs = s.obs := rfl
@[simp] theorem State.bumpSat_pw (s : State) {a lo w n : Nat} : (s.bumpSat a lo w n).pw = s.pw := rfl

@[simp] theorem State.odSet_pending (s : State) {i j v : Nat} : (s.odSet i j v).pending = s.pending := rfl
@[simp] theorem State.odSet_free (s : State) {i j v : Nat} : (s.odSet i j v).free = s.free := rfl
@[simp] theorem State.odSet_now (s : State) {i j v : Nat} : (s.odSet i j v).now = s.now := rfl
@[simp] theorem State.odSet_ac (s : State) {i j v : Nat} : (s.odSet i j v).ac = s.ac := rfl
@[simp] theorem State.odSet_regs (s : State) {i j v : Nat} : (s.odSet i j v).regs = s.regs := rfl
@[simp] theorem State.odSet_actLow (s : State) {i j v : Nat} : (s.odSet i j v).actLow = s.actLow := rfl
@[simp] theorem State.odSet_buf4 (s : State) {i j v : Nat} : (s.odSet i j v).buf4 = s.buf4 := rfl
@[simp] theorem State.odSet_odBlob (s : State) {i j v : Nat} : (s.odSet i j v).odBlob = s.odBlob := rfl
@[simp] theorem State.odSet_mem (s : State) {i j v : Nat} : (s.odSet i j v).mem = s.mem := rfl
@[simp] theorem State.odSet_hostMem (s : State) {i j v : Nat} : (s.odSet i j v).hostMem = s.hostMem := rfl
@[simp] theorem State.odSet_hostFail (s : State) {i j v : Nat} : (s.odSet i j v).hostFail = s.hostFail := rfl
@[simp] theorem State.odSet_clk (s : State) {i j v : Nat} : (s.odSet i j v).clk = s.clk := rfl
@[simp] theorem State.odSet_cores (s : State) {i j v : Nat} : (s.odSet i j v).cores = s.cores := rfl
@[simp] theorem State.odSet_seqs (s : State) {i j v : Nat} : (s.odSet i j v).seqs = s.seqs := rfl
@[simp] theorem State.odSet_ext (s : State) {i j v : Nat} : (s.odSet i j v).ext = s.ext := rfl
@[simp] theorem State.odSet_xl (s : State) {i j v : Nat} : (s.odSet i j v).xl = s.xl := rfl
@[simp] theorem State.odSet_upd (s : State) {i j v : Nat} : (s.odSet i j v).upd = s.upd := rfl
@[simp] theorem State.odSet_host (s : State) {i j v : Nat} : (s.odSet i j v).host = s.host := rfl
@[simp] theorem State.odSet_obj (s : State) {i j v : Nat} : (s.odSet i j v).obj = s.obj := rfl
@[simp] theorem State.odSet_pt (s : State) {i j v : Nat} : (s.odSet i j v).pt = s.pt := rfl
@[simp] theorem State.odSet_lk (s : State) {i j v : Nat} : (s.odSet i j v).lk = s.lk := rfl
@[simp] theorem State.odSet_ng (s : State) {i j v : Nat} : (s.odSet i j v).ng = s.ng := rfl
@[simp] theorem State.odSet_mg (s : State) {i j v : Nat} : (s.odSet i j v).mg = s.mg := rfl
@[simp] theorem State.odSet_obs (s : State) {i j v : Nat} : (s.odSet i j v).obs = s.obs := rfl
@[simp] theorem State.odSet_pw (s : State) {i j v : Nat} : (s.odSet i j v).pw = s.pw := rfl

@[simp] theorem State.odBump_pending (s : State) {i j n : Nat} : (s.odBump i j n).pending = s.pending := rfl
@[simp] theorem State.odBump_free (s : State) {i j n : Nat} : (s.odBump i j n).free = s.free := rfl
@[simp] theorem State.odBump_now (s : State) {i j n : Nat} : (s.odBump i j n).now = s.now := rfl
@[simp] theorem State.odBump_ac (s : State) {i j n : Nat} : (s.odBump i j n).ac = s.ac := rfl
@[simp] theorem State.odBump_regs (s : State) {i j n : Nat} : (s.odBump i j n).regs = s.regs := rfl
@[simp] theorem State.odBump_actLow (s : State) {i j n : Nat} : (s.odBump i j n).actLow = s.actLow := rfl
@[simp] theorem State.odBump_buf4 (s : State) {i j n : Nat} : (s.odBump i j n).buf4 = s.buf4 := rfl
@[simp] theorem State.odBump_odBlob (s : State) {i j n : Nat} : (s.odBump i j n).odBlob = s.odBlob := rfl
@[simp] theorem State.odBump_mem (s : State) {i j n : Nat} : (s.odBump i j n).mem = s.mem := rfl
@[simp] theorem State.odBump_hostMem (s : State) {i j n : Nat} : (s.odBump i j n).hostMem = s.hostMem := rfl
@[simp] theorem State.odBump_hostFail (s : State) {i j n : Nat} : (s.odBump i j n).hostFail = s.hostFail := rfl
@[simp] theorem State.odBump_clk (s : State) {i j n : Nat} : (s.odBump i j n).clk = s.clk := rfl
@[simp] theorem State.odBump_cores (s : State) {i j n : Nat} : (s.odBump i j n).cores = s.cores := rfl
@[simp] theorem State.odBump_seqs (s : State) {i j n : Nat} : (s.odBump i j n).seqs = s.seqs := rfl
@[simp] theorem State.odBump_ext (s : State) {i j n : Nat} : (s.odBump i j n).ext = s.ext := rfl
@[simp] theorem State.odBump_xl (s : State) {i j n : Nat} : (s.odBump i j n).xl = s.xl := rfl
@[simp] theorem State.odBump_upd (s : State) {i j n : Nat} : (s.odBump i j n).upd = s.upd := rfl
@[simp] theorem State.odBump_host (s : State) {i j n : Nat} : (s.odBump i j n).host = s.host := rfl
@[simp] theorem State.odBump_obj (s : State) {i j n : Nat} : (s.odBump i j n).obj = s.obj := rfl
@[simp] theorem State.odBump_pt (s : State) {i j n : Nat} : (s.odBump i j n).pt = s.pt := rfl
@[simp] theorem State.odBump_lk (s : State) {i j n : Nat} : (s.odBump i j n).lk = s.lk := rfl
@[simp] theorem State.odBump_ng (s : State) {i j n : Nat} : (s.odBump i j n).ng = s.ng := rfl
@[simp] theorem State.odBump_mg (s : State) {i j n : Nat} : (s.odBump i j n).mg = s.mg := rfl
@[simp] theorem State.odBump_obs (s : State) {i j n : Nat} : (s.odBump i j n).obs = s.obs := rfl
@[simp] theorem State.odBump_pw (s : State) {i j n : Nat} : (s.odBump i j n).pw = s.pw := rfl

@[simp] theorem State.odBumpSat_pending (s : State) {i j w n : Nat} : (s.odBumpSat i j w n).pending = s.pending := rfl
@[simp] theorem State.odBumpSat_free (s : State) {i j w n : Nat} : (s.odBumpSat i j w n).free = s.free := rfl
@[simp] theorem State.odBumpSat_now (s : State) {i j w n : Nat} : (s.odBumpSat i j w n).now = s.now := rfl
@[simp] theorem State.odBumpSat_ac (s : State) {i j w n : Nat} : (s.odBumpSat i j w n).ac = s.ac := rfl
@[simp] theorem State.odBumpSat_regs (s : State) {i j w n : Nat} : (s.odBumpSat i j w n).regs = s.regs := rfl
@[simp] theorem State.odBumpSat_actLow (s : State) {i j w n : Nat} : (s.odBumpSat i j w n).actLow = s.actLow := rfl
@[simp] theorem State.odBumpSat_buf4 (s : State) {i j w n : Nat} : (s.odBumpSat i j w n).buf4 = s.buf4 := rfl
@[simp] theorem State.odBumpSat_odBlob (s : State) {i j w n : Nat} : (s.odBumpSat i j w n).odBlob = s.odBlob := rfl
@[simp] theorem State.odBumpSat_mem (s : State) {i j w n : Nat} : (s.odBumpSat i j w n).mem = s.mem := rfl
@[simp] theorem State.odBumpSat_hostMem (s : State) {i j w n : Nat} : (s.odBumpSat i j w n).hostMem = s.hostMem := rfl
@[simp] theorem State.odBumpSat_hostFail (s : State) {i j w n : Nat} : (s.odBumpSat i j w n).hostFail = s.hostFail := rfl
@[simp] theorem State.odBumpSat_clk (s : State) {i j w n : Nat} : (s.odBumpSat i j w n).clk = s.clk := rfl
@[simp] theorem State.odBumpSat_cores (s : State) {i j w n : Nat} : (s.odBumpSat i j w n).cores = s.cores := rfl
@[simp] theorem State.odBumpSat_seqs (s : State) {i j w n : Nat} : (s.odBumpSat i j w n).seqs = s.seqs := rfl
@[simp] theorem State.odBumpSat_ext (s : State) {i j w n : Nat} : (s.odBumpSat i j w n).ext = s.ext := rfl
@[simp] theorem State.odBumpSat_xl (s : State) {i j w n : Nat} : (s.odBumpSat i j w n).xl = s.xl := rfl
@[simp] theorem State.odBumpSat_upd (s : State) {i j w n : Nat} : (s.odBumpSat i j w n).upd = s.upd := rfl
@[simp] theorem State.odBumpSat_host (s : State) {i j w n : Nat} : (s.odBumpSat i j w n).host = s.host := rfl
@[simp] theorem State.odBumpSat_obj (s : State) {i j w n : Nat} : (s.odBumpSat i j w n).obj = s.obj := rfl
@[simp] theorem State.odBumpSat_pt (s : State) {i j w n : Nat} : (s.odBumpSat i j w n).pt = s.pt := rfl
@[simp] theorem State.odBumpSat_lk (s : State) {i j w n : Nat} : (s.odBumpSat i j w n).lk = s.lk := rfl
@[simp] theorem State.odBumpSat_ng (s : State) {i j w n : Nat} : (s.odBumpSat i j w n).ng = s.ng := rfl
@[simp] theorem State.odBumpSat_mg (s : State) {i j w n : Nat} : (s.odBumpSat i j w n).mg = s.mg := rfl
@[simp] theorem State.odBumpSat_obs (s : State) {i j w n : Nat} : (s.odBumpSat i j w n).obs = s.obs := rfl
@[simp] theorem State.odBumpSat_pw (s : State) {i j w n : Nat} : (s.odBumpSat i j w n).pw = s.pw := rfl

@[simp] theorem State.setBlob_pending (s : State) {i j : Nat} {v : List Byte} : (s.setBlob i j v).pending = s.pending := rfl
@[simp] theorem State.setBlob_free (s : State) {i j : Nat} {v : List Byte} : (s.setBlob i j v).free = s.free := rfl
@[simp] theorem State.setBlob_now (s : State) {i j : Nat} {v : List Byte} : (s.setBlob i j v).now = s.now := rfl
@[simp] theorem State.setBlob_ac (s : State) {i j : Nat} {v : List Byte} : (s.setBlob i j v).ac = s.ac := rfl
@[simp] theorem State.setBlob_regs (s : State) {i j : Nat} {v : List Byte} : (s.setBlob i j v).regs = s.regs := rfl
@[simp] theorem State.setBlob_actLow (s : State) {i j : Nat} {v : List Byte} : (s.setBlob i j v).actLow = s.actLow := rfl
@[simp] theorem State.setBlob_buf4 (s : State) {i j : Nat} {v : List Byte} : (s.setBlob i j v).buf4 = s.buf4 := rfl
@[simp] theorem State.setBlob_od (s : State) {i j : Nat} {v : List Byte} : (s.setBlob i j v).od = s.od := rfl
@[simp] theorem State.setBlob_mem (s : State) {i j : Nat} {v : List Byte} : (s.setBlob i j v).mem = s.mem := rfl
@[simp] theorem State.setBlob_hostMem (s : State) {i j : Nat} {v : List Byte} : (s.setBlob i j v).hostMem = s.hostMem := rfl
@[simp] theorem State.setBlob_hostFail (s : State) {i j : Nat} {v : List Byte} : (s.setBlob i j v).hostFail = s.hostFail := rfl
@[simp] theorem State.setBlob_clk (s : State) {i j : Nat} {v : List Byte} : (s.setBlob i j v).clk = s.clk := rfl
@[simp] theorem State.setBlob_cores (s : State) {i j : Nat} {v : List Byte} : (s.setBlob i j v).cores = s.cores := rfl
@[simp] theorem State.setBlob_seqs (s : State) {i j : Nat} {v : List Byte} : (s.setBlob i j v).seqs = s.seqs := rfl
@[simp] theorem State.setBlob_ext (s : State) {i j : Nat} {v : List Byte} : (s.setBlob i j v).ext = s.ext := rfl
@[simp] theorem State.setBlob_xl (s : State) {i j : Nat} {v : List Byte} : (s.setBlob i j v).xl = s.xl := rfl
@[simp] theorem State.setBlob_upd (s : State) {i j : Nat} {v : List Byte} : (s.setBlob i j v).upd = s.upd := rfl
@[simp] theorem State.setBlob_host (s : State) {i j : Nat} {v : List Byte} : (s.setBlob i j v).host = s.host := rfl
@[simp] theorem State.setBlob_obj (s : State) {i j : Nat} {v : List Byte} : (s.setBlob i j v).obj = s.obj := rfl
@[simp] theorem State.setBlob_pt (s : State) {i j : Nat} {v : List Byte} : (s.setBlob i j v).pt = s.pt := rfl
@[simp] theorem State.setBlob_lk (s : State) {i j : Nat} {v : List Byte} : (s.setBlob i j v).lk = s.lk := rfl
@[simp] theorem State.setBlob_ng (s : State) {i j : Nat} {v : List Byte} : (s.setBlob i j v).ng = s.ng := rfl
@[simp] theorem State.setBlob_mg (s : State) {i j : Nat} {v : List Byte} : (s.setBlob i j v).mg = s.mg := rfl
@[simp] theorem State.setBlob_obs (s : State) {i j : Nat} {v : List Byte} : (s.setBlob i j v).obs = s.obs := rfl
@[simp] theorem State.setBlob_pw (s : State) {i j : Nat} {v : List Byte} : (s.setBlob i j v).pw = s.pw := rfl

@[simp] theorem State.setCore_pending (s : State) {k : Nat} {c : Core} : (s.setCore k c).pending = s.pending := rfl
@[simp] theorem State.setCore_free (s : State) {k : Nat} {c : Core} : (s.setCore k c).free = s.free := rfl
@[simp] theorem State.setCore_now (s : State) {k : Nat} {c : Core} : (s.setCore k c).now = s.now := rfl
@[simp] theorem State.setCore_ac (s : State) {k : Nat} {c : Core} : (s.setCore k c).ac = s.ac := rfl
@[simp] theorem State.setCore_regs (s : State) {k : Nat} {c : Core} : (s.setCore k c).regs = s.regs := rfl
@[simp] theorem State.setCore_actLow (s : State) {k : Nat} {c : Core} : (s.setCore k c).actLow = s.actLow := rfl
@[simp] theorem State.setCore_buf4 (s : State) {k : Nat} {c : Core} : (s.setCore k c).buf4 = s.buf4 := rfl
@[simp] theorem State.setCore_od (s : State) {k : Nat} {c : Core} : (s.setCore k c).od = s.od := rfl
@[simp] theorem State.setCore_odBlob (s : State) {k : Nat} {c : Core} : (s.setCore k c).odBlob = s.odBlob := rfl
@[simp] theorem State.setCore_mem (s : State) {k : Nat} {c : Core} : (s.setCore k c).mem = s.mem := rfl
@[simp] theorem State.setCore_hostMem (s : State) {k : Nat} {c : Core} : (s.setCore k c).hostMem = s.hostMem := rfl
@[simp] theorem State.setCore_hostFail (s : State) {k : Nat} {c : Core} : (s.setCore k c).hostFail = s.hostFail := rfl
@[simp] theorem State.setCore_clk (s : State) {k : Nat} {c : Core} : (s.setCore k c).clk = s.clk := rfl
@[simp] theorem State.setCore_seqs (s : State) {k : Nat} {c : Core} : (s.setCore k c).seqs = s.seqs := rfl
@[simp] theorem State.setCore_ext (s : State) {k : Nat} {c : Core} : (s.setCore k c).ext = s.ext := rfl
@[simp] theorem State.setCore_xl (s : State) {k : Nat} {c : Core} : (s.setCore k c).xl = s.xl := rfl
@[simp] theorem State.setCore_upd (s : State) {k : Nat} {c : Core} : (s.setCore k c).upd = s.upd := rfl
@[simp] theorem State.setCore_host (s : State) {k : Nat} {c : Core} : (s.setCore k c).host = s.host := rfl
@[simp] theorem State.setCore_obj (s : State) {k : Nat} {c : Core} : (s.setCore k c).obj = s.obj := rfl
@[simp] theorem State.setCore_pt (s : State) {k : Nat} {c : Core} : (s.setCore k c).pt = s.pt := rfl
@[simp] theorem State.setCore_lk (s : State) {k : Nat} {c : Core} : (s.setCore k c).lk = s.lk := rfl
@[simp] theorem State.setCore_ng (s : State) {k : Nat} {c : Core} : (s.setCore k c).ng = s.ng := rfl
@[simp] theorem State.setCore_mg (s : State) {k : Nat} {c : Core} : (s.setCore k c).mg = s.mg := rfl
@[simp] theorem State.setCore_obs (s : State) {k : Nat} {c : Core} : (s.setCore k c).obs = s.obs := rfl
@[simp] theorem State.setCore_pw (s : State) {k : Nat} {c : Core} : (s.setCore k c).pw = s.pw := rfl

@[simp] theorem State.modCore_pending (s : State) {k : Nat} {f : Core → Core} : (s.modCore k f).pending = s.pending := rfl
@[simp] theorem State.modCore_free (s : State) {k : Nat} {f : Core → Core} : (s.modCore k f).free = s.free := rfl
@[simp] theorem State.modCore_now (s : State) {k : Nat} {f : Core → Core} : (s.modCore k f).now = s.now := rfl
@[simp] theorem State.modCore_ac (s : State) {k : Nat} {f : Core → Core} : (s.modCore k f).ac = s.ac := rfl
@[simp] theorem State.modCore_regs (s : State) {k : Nat} {f : Core → Core} : (s.modCore k f).regs = s.regs := rfl
@[simp] theorem State.modCore_actLow (s : State) {k : Nat} {f : Core → Core} : (s.modCore k f).actLow = s.actLow := rfl
@[simp] theorem State.modCore_buf4 (s : State) {k : Nat} {f : Core → Core} : (s.modCore k f).buf4 = s.buf4 := rfl
@[simp] theorem State.modCore_od (s : State) {k : Nat} {f : Core → Core} : (s.modCore k f).od = s.od := rfl
@[simp] theorem State.modCore_odBlob (s : State) {k : Nat} {f : Core → Core} : (s.modCore k f).odBlob = s.odBlob := rfl
@[simp] theorem State.modCore_mem (s : State) {k : Nat} {f : Core → Core} : (s.modCore k f).mem = s.mem := rfl
@[simp] theorem State.modCore_hostMem (s : State) {k : Nat} {f : Core → Core} : (s.modCore k f).hostMem = s.hostMem := rfl
@[simp] theorem State.modCore_hostFail (s : State) {k : Nat} {f : Core → Core} : (s.modCore k f).hostFail = s.hostFail := rfl
@[simp] theorem State.modCore_clk (s : State) {k : Nat} {f : Core → Core} : (s.modCore k f).clk = s.clk := rfl
@[simp] theorem State.modCore_seqs (s : State) {k : Nat} {f : Core → Core} : (s.modCore k f).seqs = s.seqs := rfl
@[simp] theorem State.modCore_ext (s : State) {k : Nat} {f : Core → Core} : (s.modCore k f).ext = s.ext := rfl
@[simp] theorem State.modCore_xl (s : State) {k : Nat} {f : Core → Core} : (s.modCore k f).xl = s.xl := rfl
@[simp] theorem State.modCore_upd (s : State) {k : Nat} {f : Core → Core} : (s.modCore k f).upd = s.upd := rfl
@[simp] theorem State.modCore_host (s : State) {k : Nat} {f : Core → Core} : (s.modCore k f).host = s.host := rfl
@[simp] theorem State.modCore_obj (s : State) {k : Nat} {f : Core → Core} : (s.modCore k f).obj = s.obj := rfl
@[simp] theorem State.modCore_pt (s : State) {k : Nat} {f : Core → Core} : (s.modCore k f).pt = s.pt := rfl
@[simp] theorem State.modCore_lk (s : State) {k : Nat} {f : Core → Core} : (s.modCore k f).lk = s.lk := rfl
@[simp] theorem State.modCore_ng (s : State) {k : Nat} {f : Core → Core} : (s.modCore k f).ng = s.ng := rfl
@[simp] theorem State.modCore_mg (s : State) {k : Nat} {f : Core → Core} : (s.modCore k f).mg = s.mg := rfl
@[simp] theorem State.modCore_obs (s : State) {k : Nat} {f : Core → Core} : (s.modCore k f).obs = s.obs := rfl
@[simp] theorem State.modCore_pw (s : State) {k : Nat} {f : Core → Core} : (s.modCore k f).pw = s.pw := rfl

@[simp] theorem State.modMx_pending (s : State) {k : Nat} {f : Mx → Mx} : (s.modMx k f).pending = s.pending := rfl
@[simp] theorem State.modMx_free (s : State) {k : Nat} {f : Mx → Mx} : (s.modMx k f).free = s.free := rfl
@[simp] theorem State.modMx_now (s : State) {k : Nat} {f : Mx → Mx} : (s.modMx k f).now = s.now := rfl
@[simp] theorem State.modMx_ac (s : State) {k : Nat} {f : Mx → Mx} : (s.modMx k f).ac = s.ac := rfl
@[simp] theorem State.modMx_regs (s : State) {k : Nat} {f : Mx → Mx} : (s.modMx k f).regs = s.regs := rfl
@[simp] theorem State.modMx_actLow (s : State) {k : Nat} {f : Mx → Mx} : (s.modMx k f).actLow = s.actLow := rfl
@[simp] theorem State.modMx_buf4 (s : State) {k : Nat} {f : Mx → Mx} : (s.modMx k f).buf4 = s.buf4 := rfl
@[simp] theorem State.modMx_od (s : State) {k : Nat} {f : Mx → Mx} : (s.modMx k f).od = s.od := rfl
@[simp] theorem State.modMx_odBlob (s : State) {k : Nat} {f : Mx → Mx} : (s.modMx k f).odBlob = s.odBlob := rfl
@[simp] theorem State.modMx_mem (s : State) {k : Nat} {f : Mx → Mx} : (s.modMx k f).mem = s.mem := rfl
@[simp] theorem State.modMx_hostMem (s : State) {k : Nat} {f : Mx → Mx} : (s.modMx k f).hostMem = s.hostMem := rfl
@[simp] theorem State.modMx_hostFail (s : State) {k : Nat} {f : Mx → Mx} : (s.modMx k f).hostFail = s.hostFail := rfl
@[simp] theorem State.modMx_clk (s : State) {k : Nat} {f : Mx → Mx} : (s.modMx k f).clk = s.clk := rfl
@[simp] theorem State.modMx_seqs (s : State) {k : Nat} {f : Mx → Mx} : (s.modMx k f).seqs = s.seqs := rfl
@[simp] theorem State.modMx_ext (s : State) {k : Nat} {f : Mx → Mx} : (s.modMx k f).ext = s.ext := rfl
@[simp] theorem State.modMx_xl (s : State) {k : Nat} {f : Mx → Mx} : (s.modMx k f).xl = s.xl := rfl
@[simp] theorem State.modMx_upd (s : State) {k : Nat} {f : Mx → Mx} : (s.modMx k f).upd = s.upd := rfl
@[simp] theorem State.modMx_host (s : State) {k : Nat} {f : Mx → Mx} : (s.modMx k f).host = s.host := rfl
@[simp] theorem State.modMx_obj (s : State) {k : Nat} {f : Mx → Mx} : (s.modMx k f).obj = s.obj := rfl
@[simp] theorem State.modMx_pt (s : State) {k : Nat} {f : Mx → Mx} : (s.modMx k f).pt = s.pt := rfl
@[simp] theorem State.modMx_lk (s : State) {k : Nat} {f : Mx → Mx} : (s.modMx k f).lk = s.lk := rfl
@[simp] theorem State.modMx_ng (s : State) {k : Nat} {f : Mx → Mx} : (s.modMx k f).ng = s.ng := rfl
@[simp] theorem State.modMx_mg (s : State) {k : Nat} {f : Mx → Mx} : (s.modMx k f).mg = s.mg := rfl
@[simp] theorem State.modMx_obs (s : State) {k : Nat} {f : Mx → Mx} : (s.modMx k f).obs = s.obs := rfl
@[simp] theorem State.modMx_pw (s : State) {k : Nat} {f : Mx → Mx} : (s.modMx k f).pw = s.pw := rfl

@[simp] theorem State.setSeq_pending (s : State) {k : Nat} {q : Seq} : (s.setSeq k q).pending = s.pending := rfl
@[simp] theorem State.setSeq_free (s : State) {k : Nat} {q : Seq} : (s.setSeq k q).free = s.free := rfl
@[simp] theorem State.setSeq_now (s : State) {k : Nat} {q : Seq} : (s.setSeq k q).now = s.now := rfl
@[simp] theorem State.setSeq_ac (s : State) {k : Nat} {q : Seq} : (s.setSeq k q).ac = s.ac := rfl
@[simp] theorem State.setSeq_regs (s : State) {k : Nat} {q : Seq} : (s.setSeq k q).regs = s.regs := rfl
@[simp] theorem State.setSeq_actLow (s : State) {k : Nat} {q : Seq} : (s.setSeq k q).actLow = s.actLow := rfl
@[simp] theorem State.setSeq_buf4 (s : State) {k : Nat} {q : Seq} : (s.setSeq k q).buf4 = s.buf4 := rfl
@[simp] theorem State.setSeq_od (s : State) {k : Nat} {q : Seq} : (s.setSeq k q).od = s.od := rfl
@[simp] theorem State.setSeq_odBlob (s : State) {k : Nat} {q : Seq} : (s.setSeq k q).odBlob = s.odBlob := rfl
@[simp] theorem State.setSeq_mem (s : State) {k : Nat} {q : Seq} : (s.setSeq k q).mem = s.mem := rfl
@[simp] theorem State.setSeq_hostMem (s : State) {k : Nat} {q : Seq} : (s.setSeq k q).hostMem = s.hostMem := rfl
@[simp] theorem State.setSeq_hostFail (s : State) {k : Nat} {q : Seq} : (s.setSeq k q).hostFail = s.hostFail := rfl
@[simp] theorem State.setSeq_clk (s : State) {k : Nat} {q : Seq} : (s.setSeq k q).clk = s.clk := rfl
@[simp] theorem State.setSeq_cores (s : State) {k : Nat} {q : Seq} : (s.setSeq k q).cores = s.cores := rfl
@[simp] theorem State.setSeq_ext (s : State) {k : Nat} {q : Seq} : (s.setSeq k q).ext = s.ext := rfl
@[simp] theorem State.setSeq_xl (s : State) {k : Nat} {q : Seq} : (s.setSeq k q).xl = s.xl := rfl
@[simp] theorem State.setSeq_upd (s : State) {k : Nat} {q : Seq} : (s.setSeq k q).upd = s.upd := rfl
@[simp] theorem State.setSeq_host (s : State) {k : Nat} {q : Seq} : (s.setSeq k q).host = s.host := rfl
@[simp] theorem State.setSeq_obj (s : State) {k : Nat} {q : Seq} : (s.setSeq k q).obj = s.obj := rfl
@[simp] theorem State.setSeq_pt (s : State) {k : Nat} {q : Seq} : (s.setSeq k q).pt = s.pt := rfl
@[simp] theorem State.setSeq_lk (s : State) {k : Nat} {q : Seq} : (s.setSeq k q).lk = s.lk := rfl
@[simp] theorem State.setSeq_ng (s : State) {k : Nat} {q : Seq} : (s.setSeq k q).ng = s.ng := rfl
@[simp] theorem State.setSeq_mg (s : State) {k : Nat} {q : Seq} : (s.setSeq k q).mg = s.mg := rfl
@[simp] theorem State.setSeq_obs (s : State) {k : Nat} {q : Seq} : (s.setSeq k q).obs = s.obs := rfl
@[simp] theorem State.setSeq_pw (s : State) {k : Nat} {q : Seq} : (s.setSeq k q).pw = s.pw := rfl

@[simp] theorem State.modSeq_pending (s : State) {k : Nat} {f : Seq → Seq} : (s.modSeq k f).pending = s.pending := rfl
@[simp] theorem State.modSeq_free (s : State) {k : Nat} {f : Seq → Seq} : (s.modSeq k f).free = s.free := rfl
@[simp] theorem State.modSeq_now (s : State) {k : Nat} {f : Seq → Seq} : (s.modSeq k f).now = s.now := rfl
@[simp] theorem State.modSeq_ac (s : State) {k : Nat} {f : Seq → Seq} : (s.modSeq k f).ac = s.ac := rfl
@[simp] theorem State.modSeq_regs (s : State) {k : Nat} {f : Seq → Seq} : (s.modSeq k f).regs = s.regs := rfl
@[simp] theorem State.modSeq_actLow (s : State) {k : Nat} {f : Seq → Seq} : (s.modSeq k f).actLow = s.actLow := rfl
@[simp] theorem State.modSeq_buf4 (s : State) {k : Nat} {f : Seq → Seq} : (s.modSeq k f).buf4 = s.buf4 := rfl
@[simp] theorem State.modSeq_od (s : State) {k : Nat} {f : Seq → Seq} : (s.modSeq k f).od = s.od := rfl
@[simp] theorem State.modSeq_odBlob (s : State) {k : Nat} {f : Seq → Seq} : (s.modSeq k f).odBlob = s.odBlob := rfl
@[simp] theorem State.modSeq_mem (s : State) {k : Nat} {f : Seq → Seq} : (s.modSeq k f).mem = s.mem := rfl
@[simp] theorem State.modSeq_hostMem (s : State) {k : Nat} {f : Seq → Seq} : (s.modSeq k f).hostMem = s.hostMem := rfl
@[simp] theorem State.modSeq_hostFail (s : State) {k : Nat} {f : Seq → Seq} : (s.modSeq k f).hostFail = s.hostFail := rfl
@[simp] theorem State.modSeq_clk (s : State) {k : Nat} {f : Seq → Seq} : (s.modSeq k f).clk = s.clk := rfl
@[simp] theorem State.modSeq_cores (s : State) {k : Nat} {f : Seq → Seq} : (s.modSeq k f).cores = s.cores := rfl
@[simp] theorem State.modSeq_ext (s : State) {k : Nat} {f : Seq → Seq} : (s.modSeq k f).ext = s.ext := rfl
@[simp] theorem State.modSeq_xl (s : State) {k : Nat} {f : Seq → Seq} : (s.modSeq k f).xl = s.xl := rfl
@[simp] theorem State.modSeq_upd (s : State) {k : Nat} {f : Seq → Seq} : (s.modSeq k f).upd = s.upd := rfl
@[simp] theorem State.modSeq_host (s : State) {k : Nat} {f : Seq → Seq} : (s.modSeq k f).host = s.host := rfl
@[simp] theorem State.modSeq_obj (s : State) {k : Nat} {f : Seq → Seq} : (s.modSeq k f).obj = s.obj := rfl
@[simp] theorem State.modSeq_pt (s : State) {k : Nat} {f : Seq → Seq} : (s.modSeq k f).pt = s.pt := rfl
@[simp] theorem State.modSeq_lk (s : State) {k : Nat} {f : Seq → Seq} : (s.modSeq k f).lk = s.lk := rfl
@[simp] theorem State.modSeq_ng (s : State) {k : Nat} {f : Seq → Seq} : (s.modSeq k f).ng = s.ng := rfl
@[simp] theorem State.modSeq_mg (s : State) {k : Nat} {f : Seq → Seq} : (s.modSeq k f).mg = s.mg := rfl
@[simp] theorem State.modSeq_obs (s : State) {k : Nat} {f : Seq → Seq} : (s.modSeq k f).obs = s.obs := rfl
@[simp] theorem State.modSeq_pw (s : State) {k : Nat} {f : Seq → Seq} : (s.modSeq k f).pw = s.pw := rfl

@[simp] theorem State.setCtx_pending (s : State) {k : Nat} {c : CtxObj} : (s.setCtx k c).pending = s.pending := rfl
@[simp] theorem State.setCtx_free (s : State) {k : Nat} {c : CtxObj} : (s.setCtx k c).free = s.free := rfl
@[simp] theorem State.setCtx_now (s : State) {k : Nat} {c : CtxObj} : (s.setCtx k c).now = s.now := rfl
@[simp] theorem State.setCtx_ac (s : State) {k : Nat} {c : CtxObj} : (s.setCtx k c).ac = s.ac := rfl
@[simp] theorem State.setCtx_regs (s : State) {k : Nat} {c : CtxObj} : (s.setCtx k c).regs = s.regs := rfl
@[simp] theorem State.setCtx_actLow (s : State) {k : Nat} {c : CtxObj} : (s.setCtx k c).actLow = s.actLow := rfl
@[simp] theorem State.setCtx_buf4 (s : State) {k : Nat} {c : CtxObj} : (s.setCtx k c).buf4 = s.buf4 := rfl
@[simp] theorem State.setCtx_od (s : State) {k : Nat} {c : CtxObj} : (s.setCtx k c).od = s.od := rfl
@[simp] theorem State.setCtx_odBlob (s : State) {k : Nat} {c : CtxObj} : (s.setCtx k c).odBlob = s.odBlob := rfl
@[simp] theorem State.setCtx_mem (s : State) {k : Nat} {c : CtxObj} : (s.setCtx k c).mem = s.mem := rfl
@[simp] theorem State.setCtx_hostMem (s : State) {k : Nat} {c : CtxObj} : (s.setCtx k c).hostMem = s.hostMem := rfl
@[simp] theorem State.setCtx_hostFail (s : State) {k : Nat} {c : CtxObj} : (s.setCtx k c).hostFail = s.hostFail := rfl
@[simp] theorem State.setCtx_clk (s : State) {k : Nat} {c : CtxObj} : (s.setCtx k c).clk = s.clk := rfl
@[simp] theorem State.setCtx_cores (s : State) {k : Nat} {c : CtxObj} : (s.setCtx k c).cores = s.cores := rfl
@[simp] theorem State.setCtx_seqs (s : State) {k : Nat} {c : CtxObj} : (s.setCtx k c).seqs = s.seqs := rfl
@[simp] theorem State.setCtx_ext (s : State) {k : Nat} {c : CtxObj} : (s.setCtx k c).ext = s.ext := rfl
@[simp] theorem State.setCtx_xl (s : State) {k : Nat} {c : CtxObj} : (s.setCtx k c).xl = s.xl := rfl
@[simp] theorem State.setCtx_upd (s : State) {k : Nat} {c : CtxObj} : (s.setCtx k c).upd = s.upd := rfl
@[simp] theorem State.setCtx_host (s : State) {k : Nat} {c : CtxObj} : (s.setCtx k c).host = s.host := rfl
@[simp] theorem State.setCtx_pt (s : State) {k : Nat} {c : CtxObj} : (s.setCtx k c).pt = s.pt := rfl
@[simp] theorem State.setCtx_lk (s : State) {k : Nat} {c : CtxObj} : (s.setCtx k c).lk = s.lk := rfl
@[simp] theorem State.setCtx_ng (s : State) {k : Nat} {c : CtxObj} : (s.setCtx k c).ng = s.ng := rfl
@[simp] theorem State.setCtx_mg (s : State) {k : Nat} {c : CtxObj} : (s.setCtx k c).mg = s.mg := rfl
@[simp] theorem State.setCtx_obs (s : State) {k : Nat} {c : CtxObj} : (s.setCtx k c).obs = s.obs := rfl
@[simp] theorem State.setCtx_pw (s : State) {k : Nat} {c : CtxObj} : (s.setCtx k c).pw = s.pw := rfl

@[simp] theorem State.modCtx_pending (s : State) {k : Nat} {f : CtxObj → CtxObj} : (s.modCtx k f).pending = s.pending := rfl
@[simp] theorem State.modCtx_free (s : State) {k : Nat} {f : CtxObj → CtxObj} : (s.modCtx k f).free = s.free := rfl
@[simp] theorem State.modCtx_now (s : State) {k : Nat} {f : CtxObj → CtxObj} : (s.modCtx k f).now = s.now := rfl
@[simp] theorem State.modCtx_ac (s : State) {k : Nat} {f : CtxObj → CtxObj} : (s.modCtx k f).ac = s.ac := rfl
@[simp] theorem State.modCtx_regs (s : State) {k : Nat} {f : CtxObj → CtxObj} : (s.modCtx k f).regs = s.regs := rfl
@[simp] theorem State.modCtx_actLow (s : State) {k : Nat} {f : CtxObj → CtxObj} : (s.modCtx k f).actLow = s.actLow := rfl
@[simp] theorem State.modCtx_buf4 (s : State) {k : Nat} {f : CtxObj → CtxObj} : (s.modCtx k f).buf4 = s.buf4 := rfl
@[simp] theorem State.modCtx_od (s : State) {k : Nat} {f : CtxObj → CtxObj} : (s.modCtx k f).od = s.od := rfl
@[simp] theorem State.modCtx_odBlob (s : State) {k : Nat} {f : CtxObj → CtxObj} : (s.modCtx k f).odBlob = s.odBlob := rfl
@[simp] theorem State.modCtx_mem (s : State) {k : Nat} {f : CtxObj → CtxObj} : (s.modCtx k f).mem = s.mem := rfl
@[simp] theorem State.modCtx_hostMem (s : State) {k : Nat} {f : CtxObj → CtxObj} : (s.modCtx k f).hostMem = s.hostMem := rfl
@[simp] theorem State.modCtx_hostFail (s : State) {k : Nat} {f : CtxObj → CtxObj} : (s.modCtx k f).hostFail = s.hostFail := rfl
@[simp] theorem State.modCtx_clk (s : State) {k : Nat} {f : CtxObj → CtxObj} : (s.modCtx k f).clk = s.clk := rfl
@[simp] theorem State.modCtx_cores (s : State) {k : Nat} {f : CtxObj → CtxObj} : (s.modCtx k f).cores = s.cores := rfl
@[simp] theorem State.modCtx_seqs (s : State) {k : Nat} {f : CtxObj → CtxObj} : (s.modCtx k f).seqs = s.seqs := rfl
@[simp] theorem State.modCtx_ext (s : State) {k : Nat} {f : CtxObj → CtxObj} : (s.modCtx k f).ext = s.ext := rfl
@[simp] theorem State.modCtx_xl (s : State) {k : Nat} {f : CtxObj → CtxObj} : (s.modCtx k f).xl = s.xl := rfl
@[simp] theorem State.modCtx_upd (s : State) {k : Nat} {f : CtxObj → CtxObj} : (s.modCtx k f).upd = s.upd := rfl
@[simp] theorem State.modCtx_host (s : State) {k : Nat} {f : CtxObj → CtxObj} : (s.modCtx k f).host = s.host := rfl
@[simp] theorem State.modCtx_pt (s : State) {k : Nat} {f : CtxObj → CtxObj} : (s.modCtx k f).pt = s.pt := rfl
@[simp] theorem State.modCtx_lk (s : State) {k : Nat} {f : CtxObj → CtxObj} : (s.modCtx k f).lk = s.lk := rfl
@[simp] theorem State.modCtx_ng (s : State) {k : Nat} {f : CtxObj → CtxObj} : (s.modCtx k f).ng = s.ng := rfl
@[simp] theorem State.modCtx_mg (s : State) {k : Nat} {f : CtxObj → CtxObj} : (s.modCtx k f).mg = s.mg := rfl
@[simp] theorem State.modCtx_obs (s : State) {k : Nat} {f : CtxObj → CtxObj} : (s.modCtx k f).obs = s.obs := rfl
@[simp] theorem State.modCtx_pw (s : State) {k : Nat} {f : CtxObj → CtxObj} : (s.modCtx k f).pw = s.pw := rfl

@[simp] theorem State.setQueue_pending (s : State) {k : Nat} {q : Queue} : (s.setQueue k q).pending = s.pending := rfl
@[simp] theorem State.setQueue_free (s : State) {k : Nat} {q : Queue} : (s.setQueue k q).free = s.free := rfl
@[simp] theorem State.setQueue_now (s : State) {k : Nat} {q : Queue} : (s.setQueue k q).now = s.now := rfl
@[simp] theorem State.setQueue_ac (s : State) {k : Nat} {q : Queue} : (s.setQueue k q).ac = s.ac := rfl
@[simp] theorem State.setQueue_regs (s : State) {k : Nat} {q : Queue} : (s.setQueue k q).regs = s.regs := rfl
@[simp] theorem State.setQueue_actLow (s : State) {k : Nat} {q : Queue} : (s.setQueue k q).actLow = s.actLow := rfl
@[simp] theorem State.setQueue_buf4 (s : State) {k : Nat} {q : Queue} : (s.setQueue k q).buf4 = s.buf4 := rfl
@[simp] theorem State.setQueue_od (s : State) {k : Nat} {q : Queue} : (s.setQueue k q).od = s.od := rfl
@[simp] theorem State.setQueue_odBlob (s : State) {k : Nat} {q : Queue} : (s.setQueue k q).odBlob = s.odBlob := rfl
@[simp] theorem State.setQueue_mem (s : State) {k : Nat} {q : Queue} : (s.setQueue k q).mem = s.mem := rfl
@[simp] theorem State.setQueue_hostMem (s : State) {k : Nat} {q : Queue} : (s.setQueue k q).hostMem = s.hostMem := rfl
@[simp] theorem State.setQueue_hostFail (s : State) {k : Nat} {q : Queue} : (s.setQueue k q).hostFail = s.hostFail := rfl
@[simp] theorem State.setQueue_clk (s : State) {k : Nat} {q : Queue} : (s.setQueue k q).clk = s.clk := rfl
@[simp] theorem State.setQueue_cores (s : State) {k : Nat} {q : Queue} : (s.setQueue k q).cores = s.cores := rfl
@[simp] theorem State.setQueue_seqs (s : State) {k : Nat} {q : Queue} : (s.setQueue k q).seqs = s.seqs := rfl
@[simp] theorem State.setQueue_ext (s : State) {k : Nat} {q : Queue} : (s.setQueue k q).ext = s.ext := rfl
@[simp] theorem State.setQueue_xl (s : State) {k : Nat} {q : Queue} : (s.setQueue k q).xl = s.xl := rfl
@[simp] theorem State.setQueue_upd (s : State) {k : Nat} {q : Queue} : (s.setQueue k q).upd = s.upd := rfl
@[simp] theorem State.setQueue_host (s : State) {k : Nat} {q : Queue} : (s.setQueue k q).host = s.host := rfl
@[simp] theorem State.setQueue_pt (s : State) {k : Nat} {q : Queue} : (s.setQueue k q).pt = s.pt := rfl
@[simp] theorem State.setQueue_lk (s : State) {k : Nat} {q : Queue} : (s.setQueue k q).lk = s.lk := rfl
@[simp] theorem State.setQueue_ng (s : State) {k : Nat} {q : Queue} : (s.setQueue k q).ng = s.ng := rfl
@[simp] theorem State.setQueue_mg (s : State) {k : Nat} {q : Queue} : (s.setQueue k q).mg = s.mg := rfl
@[simp] theorem State.setQueue_obs (s : State) {k : Nat} {q : Queue} : (s.setQueue k q).obs = s.obs := rfl
@[simp] theorem State.setQueue_pw (s : State) {k : Nat} {q : Queue} : (s.setQueue k q).pw = s.pw := rfl

@[simp] theorem State.modQueue_pending (s : State) {k : Nat} {f : Queue → Queue} : (s.modQueue k f).pending = s.pending := rfl
@[simp] theorem State.modQueue_free (s : State) {k : Nat} {f : Queue → Queue} : (s.modQueue k f).free = s.free := rfl
@[simp] theorem State.modQueue_now (s : State) {k : Nat} {f : Queue → Queue} : (s.modQueue k f).now = s.now := rfl
@[simp] theorem State.modQueue_ac (s : State) {k : Nat} {f : Queue → Queue} : (s.modQueue k f).ac = s.ac := rfl
@[simp] theorem State.modQueue_regs (s : State) {k : Nat} {f : Queue → Queue} : (s.modQueue k f).regs = s.regs := rfl
@[simp] theorem State.modQueue_actLow (s : State) {k : Nat} {f : Queue → Queue} : (s.modQueue k f).actLow = s.actLow := rfl
@[simp] theorem State.modQueue_buf4 (s : State) {k : Nat} {f : Queue → Queue} : (s.modQueue k f).buf4 = s.buf4 := rfl
@[simp] theorem State.modQueue_od (s : State) {k : Nat} {f : Queue → Queue} : (s.modQueue k f).od = s.od := rfl
@[simp] theorem State.modQueue_odBlob (s : State) {k : Nat} {f : Queue → Queue} : (s.modQueue k f).odBlob = s.odBlob := rfl
@[simp] theorem State.modQueue_mem (s : State) {k : Nat} {f : Queue → Queue} : (s.modQueue k f).mem = s.mem := rfl
@[simp] theorem State.modQueue_hostMem (s : State) {k : Nat} {f : Queue → Queue} : (s.modQueue k f).hostMem = s.hostMem := rfl
@[simp] theorem State.modQueue_hostFail (s : State) {k : Nat} {f : Queue → Queue} : (s.modQueue k f).hostFail = s.hostFail := rfl
@[simp] theorem State.modQueue_clk (s : State) {k : Nat} {f : Queue → Queue} : (s.modQueue k f).clk = s.clk := rfl
@[simp] theorem State.modQueue_cores (s : State) {k : Nat} {f : Queue → Queue} : (s.modQueue k f).cores = s.cores := rfl
@[simp] theorem State.modQueue_seqs (s : State) {k : Nat} {f : Queue → Queue} : (s.modQueue k f).seqs = s.seqs := rfl
@[simp] theorem State.modQueue_ext (s : State) {k : Nat} {f : Queue → Queue} : (s.modQueue k f).ext = s.ext := rfl
@[simp] theorem State.modQueue_xl (s : State) {k : Nat} {f : Queue → Queue} : (s.modQueue k f).xl = s.xl := rfl
@[simp] theorem State.modQueue_upd (s : State) {k : Nat} {f : Queue → Queue} : (s.modQueue k f).upd = s.upd := rfl
@[simp] theorem State.modQueue_host (s : State) {k : Nat} {f : Queue → Queue} : (s.modQueue k f).host = s.host := rfl
@[simp] theorem State.modQueue_pt (s : State) {k : Nat} {f : Queue → Queue} : (s.modQueue k f).pt = s.pt := rfl
@[simp] theorem State.modQueue_lk (s : State) {k : Nat} {f : Queue → Queue} : (s.modQueue k f).lk = s.lk := rfl
@[simp] theorem State.modQueue_ng (s : State) {k : Nat} {f : Queue → Queue} : (s.modQueue k f).ng = s.ng := rfl
@[simp] theorem State.modQueue_mg (s : State) {k : Nat} {f : Queue → Queue} : (s.modQueue k f).mg = s.mg := rfl
@[simp] theorem State.modQueue_obs (s : State) {k : Nat} {f : Queue → Queue} : (s.modQueue k f).obs = s.obs := rfl
@[simp] theorem State.modQueue_pw (s : State) {k : Nat} {f : Queue → Queue} : (s.modQueue k f).pw = s.pw := rfl

@[simp] theorem State.setSync_pending (s : State) {k : Nat} {x : SyncObj} : (s.setSync k x).pending = s.pending := rfl
@[simp] theorem State.setSync_free (s : State) {k : Nat} {x : SyncObj} : (s.setSync k x).free = s.free := rfl
@[simp] theorem State.setSync_now (s : State) {k : Nat} {x : SyncObj} : (s.setSync k x).now = s.now := rfl
@[simp] theorem State.setSync_ac (s : State) {k : Nat} {x : SyncObj} : (s.setSync k x).ac = s.ac := rfl
@[simp] theorem State.setSync_regs (s : State) {k : Nat} {x : SyncObj} : (s.setSync k x).regs = s.regs := rfl
@[simp] theorem State.setSync_actLow (s : State) {k : Nat} {x : SyncObj} : (s.setSync k x).actLow = s.actLow := rfl
@[simp] theorem State.setSync_buf4 (s : State) {k : Nat} {x : SyncObj} : (s.setSync k x).buf4 = s.buf4 := rfl
@[simp] theorem State.setSync_od (s : State) {k : Nat} {x : SyncObj} : (s.setSync k x).od = s.od := rfl
@[simp] theorem State.setSync_odBlob (s : State) {k : Nat} {x : SyncObj} : (s.setSync k x).odBlob = s.odBlob := rfl
@[simp] theorem State.setSync_mem (s : State) {k : Nat} {x : SyncObj} : (s.setSync k x).mem = s.mem := rfl
@[simp] theorem State.setSync_hostMem (s : State) {k : Nat} {x : SyncObj} : (s.setSync k x).hostMem = s.hostMem := rfl
@[simp] theorem State.setSync_hostFail (s : State) {k : Nat} {x : SyncObj} : (s.setSync k x).hostFail = s.hostFail := rfl
@[simp] theorem State.setSync_clk (s : State) {k : Nat} {x : SyncObj} : (s.setSync k x).clk = s.clk := rfl
@[simp] theorem State.setSync_cores (s : State) {k : Nat} {x : SyncObj} : (s.setSync k x).cores = s.cores := rfl
@[simp] theorem State.setSync_seqs (s : State) {k : Nat} {x : SyncObj} : (s.setSync k x).seqs = s.seqs := rfl
@[simp] theorem State.setSync_ext (s : State) {k : Nat} {x : SyncObj} : (s.setSync k x).ext = s.ext := rfl
@[simp] theorem State.setSync_xl (s : State) {k : Nat} {x : SyncObj} : (s.setSync k x).xl = s.xl := rfl
@[simp] theorem State.setSync_upd (s : State) {k : Nat} {x : SyncObj} : (s.setSync k x).upd = s.upd := rfl
@[simp] theorem State.setSync_host (s : State) {k : Nat} {x : SyncObj} : (s.setSync k x).host = s.host := rfl
@[simp] theorem State.setSync_pt (s : State) {k : Nat} {x : SyncObj} : (s.setSync k x).pt = s.pt := rfl
@[simp] theorem State.setSync_lk (s : State) {k : Nat} {x : SyncObj} : (s.setSync k x).lk = s.lk := rfl
@[simp] theorem State.setSync_ng (s : State) {k : Nat} {x : SyncObj} : (s.setSync k x).ng = s.ng := rfl
@[simp] theorem State.setSync_mg (s : State) {k : Nat} {x : SyncObj} : (s.setSync k x).mg = s.mg := rfl
@[simp] theorem State.setSync_obs (s : State) {k : Nat} {x : SyncObj} : (s.setSync k x).obs = s.obs := rfl
@[simp] theorem State.setSync_pw (s : State) {k : Nat} {x : SyncObj} : (s.setSync k x).pw = s.pw := rfl

@[simp] theorem State.modSync_pending (s : State) {k : Nat} {f : SyncObj → SyncObj} : (s.modSync k f).pending = s.pending := rfl
@[simp] theorem State.modSync_free (s : State) {k : Nat} {f : SyncObj → SyncObj} : (s.modSync k f).free = s.free := rfl
@[simp] theorem State.modSync_now (s : State) {k : Nat} {f : SyncObj → SyncObj} : (s.modSync k f).now = s.now := rfl
@[simp] theorem State.modSync_ac (s : State) {k : Nat} {f : SyncObj → SyncObj} : (s.modSync k f).ac = s.ac := rfl
@[simp] theorem State.modSync_regs (s : State) {k : Nat} {f : SyncObj → SyncObj} : (s.modSync k f).regs = s.regs := rfl
@[simp] theorem State.modSync_actLow (s : State) {k : Nat} {f : SyncObj → SyncObj} : (s.modSync k f).actLow = s.actLow := rfl
@[simp] theorem State.modSync_buf4 (s : State) {k : Nat} {f : SyncObj → SyncObj} : (s.modSync k f).buf4 = s.buf4 := rfl
@[simp] theorem State.modSync_od (s : State) {k : Nat} {f : SyncObj → SyncObj} : (s.modSync k f).od = s.od := rfl
@[simp] theorem State.modSync_odBlob (s : State) {k : Nat} {f : SyncObj → SyncObj} : (s.modSync k f).odBlob = s.odBlob := rfl
@[simp] theorem State.modSync_mem (s : State) {k : Nat} {f : SyncObj → SyncObj} : (s.modSync k f).mem = s.mem := rfl
@[simp] theorem State.modSync_hostMem (s : State) {k : Nat} {f : SyncObj → SyncObj} : (s.modSync k f).hostMem = s.hostMem := rfl
@[simp] theorem State.modSync_hostFail (s : State) {k : Nat} {f : SyncObj → SyncObj} : (s.modSync k f).hostFail = s.hostFail := rfl
@[simp] theorem State.modSync_clk (s : State) {k : Nat} {f : SyncObj → SyncObj} : (s.modSync k f).clk = s.clk := rfl
@[simp] theorem State.modSync_cores (s : State) {k : Nat} {f : SyncObj → SyncObj} : (s.modSync k f).cores = s.cores := rfl
@[simp] theorem State.modSync_seqs (s : State) {k : Nat} {f : SyncObj → SyncObj} : (s.modSync k f).seqs = s.seqs := rfl
@[simp] theorem State.modSync_ext (s : State) {k : Nat} {f : SyncObj → SyncObj} : (s.modSync k f).ext = s.ext := rfl
@[simp] theorem State.modSync_xl (s : State) {k : Nat} {f : SyncObj → SyncObj} : (s.modSync k f).xl = s.xl := rfl
@[simp] theorem State.modSync_upd (s : State) {k : Nat} {f : SyncObj → SyncObj} : (s.modSync k f).upd = s.upd := rfl
@[simp] theorem State.modSync_host (s : State) {k : Nat} {f : SyncObj → SyncObj} : (s.modSync k f).host = s.host := rfl
@[simp] theorem State.modSync_pt (s : State) {k : Nat} {f : SyncObj → SyncObj} : (s.modSync k f).pt = s.pt := rfl
@[simp] theorem State.modSync_lk (s : State) {k : Nat} {f : SyncObj → SyncObj} : (s.modSync k f).lk = s.lk := rfl
@[simp] theorem State.modSync_ng (s : State) {k : Nat} {f : SyncObj → SyncObj} : (s.modSync k f).ng = s.ng := rfl
@[simp] theorem State.modSync_mg (s : State) {k : Nat} {f : SyncObj → SyncObj} : (s.modSync k f).mg = s.mg := rfl
@[simp] theorem State.modSync_obs (s : State) {k : Nat} {f : SyncObj → SyncObj} : (s.modSync k f).obs = s.obs := rfl
@[simp] theorem State.modSync_pw (s : State) {k : Nat} {f : SyncObj → SyncObj} : (s.modSync k f).pw = s.pw := rfl

@[simp] theorem State.setMemObj_pending (s : State) {k : Nat} {x : MemObj} : (s.setMemObj k x).pending = s.pending := rfl
@[simp] theorem State.setMemObj_free (s : State) {k : Nat} {x : MemObj} : (s.setMemObj k x).free = s.free := rfl
@[simp] theorem State.setMemObj_now (s : State) {k : Nat} {x : MemObj} : (s.setMemObj k x).now = s.now := rfl
@[simp] theorem State.setMemObj_ac (s : State) {k : Nat} {x : MemObj} : (s.setMemObj k x).ac = s.ac := rfl
@[simp] theorem State.setMemObj_regs (s : State) {k : Nat} {x : MemObj} : (s.setMemObj k x).regs = s.regs := rfl
@[simp] theorem State.setMemObj_actLow (s : State) {k : Nat} {x : MemObj} : (s.setMemObj k x).actLow = s.actLow := rfl
@[simp] theorem State.setMemObj_buf4 (s : State) {k : Nat} {x : MemObj} : (s.setMemObj k x).buf4 = s.buf4 := rfl
@[simp] theorem State.setMemObj_od (s : State) {k : Nat} {x : MemObj} : (s.setMemObj k x).od = s.od := rfl
@[simp] theorem State.setMemObj_odBlob (s : State) {k : Nat} {x : MemObj} : (s.setMemObj k x).odBlob = s.odBlob := rfl
@[simp] theorem State.setMemObj_mem (s : State) {k : Nat} {x : MemObj} : (s.setMemObj k x).mem = s.mem := rfl
@[simp] theorem State.setMemObj_hostMem (s : State) {k : Nat} {x : MemObj} : (s.setMemObj k x).hostMem = s.hostMem := rfl
@[simp] theorem State.setMemObj_hostFail (s : State) {k : Nat} {x : MemObj} : (s.setMemObj k x).hostFail = s.hostFail := rfl
@[simp] theorem State.setMemObj_clk (s : State) {k : Nat} {x : MemObj} : (s.setMemObj k x).clk = s.clk := rfl
@[simp] theorem State.setMemObj_cores (s : State) {k : Nat} {x : MemObj} : (s.setMemObj k x).cores = s.cores := rfl
@[simp] theorem State.setMemObj_seqs (s : State) {k : Nat} {x : MemObj} : (s.setMemObj k x).seqs = s.seqs := rfl
@[simp] theorem State.setMemObj_ext (s : State) {k : Nat} {x : MemObj} : (s.setMemObj k x).ext = s.ext := rfl
@[simp] theorem State.setMemObj_xl (s : State) {k : Nat} {x : MemObj} : (s.setMemObj k x).xl = s.xl := rfl
@[simp] theorem State.setMemObj_upd (s : State) {k : Nat} {x : MemObj} : (s.setMemObj k x).upd = s.upd := rfl
@[simp] theorem State.setMemObj_host (s : State) {k : Nat} {x : MemObj} : (s.setMemObj k x).host = s.host := rfl
@[simp] theorem State.setMemObj_pt (s : State) {k : Nat} {x : MemObj} : (s.setMemObj k x).pt = s.pt := rfl
@[simp] theorem State.setMemObj_lk (s : State) {k : Nat} {x : MemObj} : (s.setMemObj k x).lk = s.lk := rfl
@[simp] theorem State.setMemObj_ng (s : State) {k : Nat} {x : MemObj} : (s.setMemObj k x).ng = s.ng := rfl
@[simp] theorem State.setMemObj_mg (s : State) {k : Nat} {x : MemObj} : (s.setMemObj k x).mg = s.mg := rfl
@[simp] theorem State.setMemObj_obs (s : State) {k : Nat} {x : MemObj} : (s.setMemObj k x).obs = s.obs := rfl
@[simp] theorem State.setMemObj_pw (s : State) {k : Nat} {x : MemObj} : (s.setMemObj k x).pw = s.pw := rfl

@[simp] theorem State.setPart_pending (s : State) {k : Nat} {x : Partn} : (s.setPart k x).pending = s.pending := rfl
@[simp] theorem State.setPart_free (s : State) {k : Nat} {x : Partn} : (s.setPart k x).free = s.free := rfl
@[simp] theorem State.setPart_now (s : State) {k : Nat} {x : Partn} : (s.setPart k x).now = s.now := rfl
@[simp] theorem State.setPart_ac (s : State) {k : Nat} {x : Partn} : (s.setPart k x).ac = s.ac := rfl
@[simp] theorem State.setPart_regs (s : State) {k : Nat} {x : Partn} : (s.setPart k x).regs = s.regs := rfl
@[simp] theorem State.setPart_actLow (s : State) {k : Nat} {x : Partn} : (s.setPart k x).actLow = s.actLow := rfl
@[simp] theorem State.setPart_buf4 (s : State) {k : Nat} {x : Partn} : (s.setPart k x).buf4 = s.buf4 := rfl
@[simp] theorem State.setPart_od (s : State) {k : Nat} {x : Partn} : (s.setPart k x).od = s.od := rfl
@[simp] theorem State.setPart_odBlob (s : State) {k : Nat} {x : Partn} : (s.setPart k x).odBlob = s.odBlob := rfl
@[simp] theorem State.setPart_mem (s : State) {k : Nat} {x : Partn} : (s.setPart k x).mem = s.mem := rfl
@[simp] theorem State.setPart_hostMem (s : State) {k : Nat} {x : Partn} : (s.setPart k x).hostMem = s.hostMem := rfl
@[simp] theorem State.setPart_hostFail (s : State) {k : Nat} {x : Partn} : (s.setPart k x).hostFail = s.hostFail := rfl
@[simp] theorem State.setPart_clk (s : State) {k : Nat} {x : Partn} : (s.setPart k x).clk = s.clk := rfl
@[simp] theorem State.setPart_cores (s : State) {k : Nat} {x : Partn} : (s.setPart k x).cores = s.cores := rfl
@[simp] theorem State.setPart_seqs (s : State) {k : Nat} {x : Partn} : (s.setPart k x).seqs = s.seqs := rfl
@[simp] theorem State.setPart_ext (s : State) {k : Nat} {x : Partn} : (s.setPart k x).ext = s.ext := rfl
@[simp] theorem State.setPart_xl (s : State) {k : Nat} {x : Partn} : (s.setPart k x).xl = s.xl := rfl
@[simp] theorem State.setPart_upd (s : State) {k : Nat} {x : Partn} : (s.setPart k x).upd = s.upd := rfl
@[simp] theorem State.setPart_host (s : State) {k : Nat} {x : Partn} : (s.setPart k x).host = s.host := rfl
@[simp] theorem State.setPart_obj (s : State) {k : Nat} {x : Partn} : (s.setPart k x).obj = s.obj := rfl
@[simp] theorem State.setPart_lk (s : State) {k : Nat} {x : Partn} : (s.setPart k x).lk = s.lk := rfl
@[simp] theorem State.setPart_ng (s : State) {k : Nat} {x : Partn} : (s.setPart k x).ng = s.ng := rfl
@[simp] theorem State.setPart_mg (s : State) {k : Nat} {x : Partn} : (s.setPart k x).mg = s.mg := rfl
@[simp] theorem State.setPart_obs (s : State) {k : Nat} {x : Partn} : (s.setPart k x).obs = s.obs := rfl
@[simp] theorem State.setPart_pw (s : State) {k : Nat} {x : Partn} : (s.setPart k x).pw = s.pw := rfl

@[simp] theorem State.modPart_pending (s : State) {k : Nat} {f : Partn → Partn} : (s.modPart k f).pending = s.pending := rfl
@[simp] theorem State.modPart_free (s : State) {k : Nat} {f : Partn → Partn} : (s.modPart k f).free = s.free := rfl
@[simp] theorem State.modPart_now (s : State) {k : Nat} {f : Partn → Partn} : (s.modPart k f).now = s.now := rfl
@[simp] theorem State.modPart_ac (s : State) {k : Nat} {f : Partn → Partn} : (s.modPart k f).ac = s.ac := rfl
@[simp] theorem State.modPart_regs (s : State) {k : Nat} {f : Partn → Partn} : (s.modPart k f).regs = s.regs := rfl
@[simp] theorem State.modPart_actLow (s : State) {k : Nat} {f : Partn → Partn} : (s.modPart k f).actLow = s.actLow := rfl
@[simp] theorem State.modPart_buf4 (s : State) {k : Nat} {f : Partn → Partn} : (s.modPart k f).buf4 = s.buf4 := rfl
@[simp] theorem State.modPart_od (s : State) {k : Nat} {f : Partn → Partn} : (s.modPart k f).od = s.od := rfl
@[simp] theorem State.modPart_odBlob (s : State) {k : Nat} {f : Partn → Partn} : (s.modPart k f).odBlob = s.odBlob := rfl
@[simp] theorem State.modPart_mem (s : State) {k : Nat} {f : Partn → Partn} : (s.modPart k f).mem = s.mem := rfl
@[simp] theorem State.modPart_hostMem (s : State) {k : Nat} {f : Partn → Partn} : (s.modPart k f).hostMem = s.hostMem := rfl
@[simp] theorem State.modPart_hostFail (s : State) {k : Nat} {f : Partn → Partn} : (s.modPart k f).hostFail = s.hostFail := rfl
@[simp] theorem State.modPart_clk (s : State) {k : Nat} {f : Partn → Partn} : (s.modPart k f).clk = s.clk := rfl
@[simp] theorem State.modPart_cores (s : State) {k : Nat} {f : Partn → Partn} : (s.modPart k f).cores = s.cores := rfl
@[simp] theorem State.modPart_seqs (s : State) {k : Nat} {f : Partn → Partn} : (s.modPart k f).seqs = s.seqs := rfl
@[simp] theorem State.modPart_ext (s : State) {k : Nat} {f : Partn → Partn} : (s.modPart k f).ext = s.ext := rfl
@[simp] theorem State.modPart_xl (s : State) {k : Nat} {f : Partn → Partn} : (s.modPart k f).xl = s.xl := rfl
@[simp] theorem State.modPart_upd (s : State) {k : Nat} {f : Partn → Partn} : (s.modPart k f).upd = s.upd := rfl
@[simp] theorem State.modPart_host (s : State) {k : Nat} {f : Partn → Partn} : (s.modPart k f).host = s.host := rfl
@[simp] theorem State.modPart_obj (s : State) {k : Nat} {f : Partn → Partn} : (s.modPart k f).obj = s.obj := rfl
@[simp] theorem State.modPart_lk (s : State) {k : Nat} {f : Partn → Partn} : (s.modPart k f).lk = s.lk := rfl
@[simp] theorem State.modPart_ng (s : State) {k : Nat} {f : Partn → Partn} : (s.modPart k f).ng = s.ng := rfl
@[simp] theorem State.modPart_mg (s : State) {k : Nat} {f : Partn → Partn} : (s.modPart k f).mg = s.mg := rfl
@[simp] theorem State.modPart_obs (s : State) {k : Nat} {f : Partn → Partn} : (s.modPart k f).obs = s.obs := rfl
@[simp] theorem State.modPart_pw (s : State) {k : Nat} {f : Partn → Partn} : (s.modPart k f).pw = s.pw := rfl

@[simp] theorem State.setStep_pending (s : State) {k : Nat} {x : StepRec} : (s.setStep k x).pending = s.pending := rfl
@[simp] theorem State.setStep_free (s : State) {k : Nat} {x : StepRec} : (s.setStep k x).free = s.free := rfl
@[simp] theorem State.setStep_now (s : State) {k : Nat} {x : StepRec} : (s.setStep k x).now = s.now := rfl
@[simp] theorem State.setStep_ac (s : State) {k : Nat} {x : StepRec} : (s.setStep k x).ac = s.ac := rfl
@[simp] theorem State.setStep_regs (s : State) {k : Nat} {x : StepRec} : (s.setStep k x).regs = s.regs := rfl
@[simp] theorem State.setStep_actLow (s : State) {k : Nat} {x : StepRec} : (s.setStep k x).actLow = s.actLow := rfl
@[simp] theorem State.setStep_buf4 (s : State) {k : Nat} {x : StepRec} : (s.setStep k x).buf4 = s.buf4 := rfl
@[simp] theorem State.setStep_od (s : State) {k : Nat} {x : StepRec} : (s.setStep k x).od = s.od := rfl
@[simp] theorem State.setStep_odBlob (s : State) {k : Nat} {x : StepRec} : (s.setStep k x).odBlob = s.odBlob := rfl
@[simp] theorem State.setStep_mem (s : State) {k : Nat} {x : StepRec} : (s.setStep k x).mem = s.mem := rfl
@[simp] theorem State.setStep_hostMem (s : State) {k : Nat} {x : StepRec} : (s.setStep k x).hostMem = s.hostMem := rfl
@[simp] theorem State.setStep_hostFail (s : State) {k : Nat} {x : StepRec} : (s.setStep k x).hostFail = s.hostFail := rfl
@[simp] theorem State.setStep_clk (s : State) {k : Nat} {x : StepRec} : (s.setStep k x).clk = s.clk := rfl
@[simp] theorem State.setStep_cores (s : State) {k : Nat} {x : StepRec} : (s.setStep k x).cores = s.cores := rfl
@[simp] theorem State.setStep_seqs (s : State) {k : Nat} {x : StepRec} : (s.setStep k x).seqs = s.seqs := rfl
@[simp] theorem State.setStep_ext (s : State) {k : Nat} {x : StepRec} : (s.setStep k x).ext = s.ext := rfl
@[simp] theorem State.setStep_xl (s : State) {k : Nat} {x : StepRec} : (s.setStep k x).xl = s.xl := rfl
@[simp] theorem State.setStep_upd (s : State) {k : Nat} {x : StepRec} : (s.setStep k x).upd = s.upd := rfl
@[simp] theorem State.setStep_host (s : State) {k : Nat} {x : StepRec} : (s.setStep k x).host = s.host := rfl
@[simp] theorem State.setStep_obj (s : State) {k : Nat} {x : StepRec} : (s.setStep k x).obj = s.obj := rfl
@[simp] theorem State.setStep_lk (s : State) {k : Nat} {x : StepRec} : (s.setStep k x).lk = s.lk := rfl
@[simp] theorem State.setStep_ng (s : State) {k : Nat} {x : StepRec} : (s.setStep k x).ng = s.ng := rfl
@[simp] theorem State.setStep_mg (s : State) {k : Nat} {x : StepRec} : (s.setStep k x).mg = s.mg := rfl
@[simp] theorem State.setStep_obs (s : State) {k : Nat} {x : StepRec} : (s.setStep k x).obs = s.obs := rfl
@[simp] theorem State.setStep_pw (s : State) {k : Nat} {x : StepRec} : (s.setStep k x).pw = s.pw := rfl

@[simp] theorem State.delStep_pending (s : State) {k : Nat} : (s.delStep k).pending = s.pending := rfl
@[simp] theorem State.delStep_free (s : State) {k : Nat} : (s.delStep k).free = s.free := rfl
@[simp] theorem State.delStep_now (s : State) {k : Nat} : (s.delStep k).now = s.now := rfl
@[simp] theorem State.delStep_ac (s : State) {k : Nat} : (s.delStep k).ac = s.ac := rfl
@[simp] theorem State.delStep_regs (s : State) {k : Nat} : (s.delStep k).regs = s.regs := rfl
@[simp] theorem State.delStep_actLow (s : State) {k : Nat} : (s.delStep k).actLow = s.actLow := rfl
@[simp] theorem State.delStep_buf4 (s : State) {k : Nat} : (s.delStep k).buf4 = s.buf4 := rfl
@[simp] theorem State.delStep_od (s : State) {k : Nat} : (s.delStep k).od = s.od := rfl
@[simp] theorem State.delStep_odBlob (s : State) {k : Nat} : (s.delStep k).odBlob = s.odBlob := rfl
@[simp] theorem State.delStep_mem (s : State) {k : Nat} : (s.delStep k).mem = s.mem := rfl
@[simp] theorem State.delStep_hostMem (s : State) {k : Nat} : (s.delStep k).hostMem = s.hostMem := rfl
@[simp] theorem State.delStep_hostFail (s : State) {k : Nat} : (s.delStep k).hostFail = s.hostFail := rfl
@[simp] theorem State.delStep_clk (s : State) {k : Nat} : (s.delStep k).clk = s.clk := rfl
@[simp] theorem State.delStep_cores (s : State) {k : Nat} : (s.delStep k).cores = s.cores := rfl
@[simp] theorem State.delStep_seqs (s : State) {k : Nat} : (s.delStep k).seqs = s.seqs := rfl
@[simp] theorem State.delStep_ext (s : State) {k : Nat} : (s.delStep k).ext = s.ext := rfl
@[simp] theorem State.delStep_xl (s : State) {k : Nat} : (s.delStep k).xl = s.xl := rfl
@[simp] theorem State.delStep_upd (s : State) {k : Nat} : (s.delStep k).upd = s.upd := rfl
@[simp] theorem State.delStep_host (s : State) {k : Nat} : (s.delStep k).host = s.host := rfl
@[simp] theorem State.delStep_obj (s : State) {k : Nat} : (s.delStep k).obj = s.obj := rfl
@[simp] theorem State.delStep_lk (s : State) {k : Nat} : (s.delStep k).lk = s.lk := rfl
@[simp] theorem State.delStep_ng (s : State) {k : Nat} : (s.delStep k).ng = s.ng := rfl
@[simp] theorem State.delStep_mg (s : State) {k : Nat} : (s.delStep k).mg = s.mg := rfl
@[simp] theorem State.delStep_obs (s : State) {k : Nat} : (s.delStep k).obs = s.obs := rfl
@[simp] theorem State.delStep_pw (s : State) {k : Nat} : (s.delStep k).pw = s.pw := rfl

@[simp] theorem State.setKernel_pending (s : State) {k : Nat} {x : Kernel} : (s.setKernel k x).pending = s.pending := rfl
@[simp] theorem State.setKernel_free (s : State) {k : Nat} {x : Kernel} : (s.setKernel k x).free = s.free := rfl
@[simp] theorem State.setKernel_now (s : State) {k : Nat} {x : Kernel} : (s.setKernel k x).now = s.now := rfl
@[simp] theorem State.setKernel_ac (s : State) {k : Nat} {x : Kernel} : (s.setKernel k x).ac = s.ac := rfl
@[simp] theorem State.setKernel_regs (s : State) {k : Nat} {x : Kernel} : (s.setKernel k x).regs = s.regs := rfl
@[simp] theorem State.setKernel_actLow (s : State) {k : Nat} {x : Kernel} : (s.setKernel k x).actLow = s.actLow := rfl
@[simp] theorem State.setKernel_buf4 (s : State) {k : Nat} {x : Kernel} : (s.setKernel k x).buf4 = s.buf4 := rfl
@[simp] theorem State.setKernel_od (s : State) {k : Nat} {x : Kernel} : (s.setKernel k x).od = s.od := rfl
@[simp] theorem State.setKernel_odBlob (s : State) {k : Nat} {x : Kernel} : (s.setKernel k x).odBlob = s.odBlob := rfl
@[simp] theorem State.setKernel_mem (s : State) {k : Nat} {x : Kernel} : (s.setKernel k x).mem = s.mem := rfl
@[simp] theorem State.setKernel_hostMem (s : State) {k : Nat} {x : Kernel} : (s.setKernel k x).hostMem = s.hostMem := rfl
@[simp] theorem State.setKernel_hostFail (s : State) {k : Nat} {x : Kernel} : (s.setKernel k x).hostFail = s.hostFail := rfl
@[simp] theorem State.setKernel_clk (s : State) {k : Nat} {x : Kernel} : (s.setKernel k x).clk = s.clk := rfl
@[simp] theorem State.setKernel_cores (s : State) {k : Nat} {x : Kernel} : (s.setKernel k x).cores = s.cores := rfl
@[simp] theorem State.setKernel_seqs (s : State) {k : Nat} {x : Kernel} : (s.setKernel k x).seqs = s.seqs := rfl
@[simp] theorem State.setKernel_ext (s : State) {k : Nat} {x : Kernel} : (s.setKernel k x).ext = s.ext := rfl
@[simp] theorem State.setKernel_xl (s : State) {k : Nat} {x : Kernel} : (s.setKernel k x).xl = s.xl := rfl
@[simp] theorem State.setKernel_upd (s : State) {k : Nat} {x : Kernel} : (s.setKernel k x).upd = s.upd := rfl
@[simp] theorem State.setKernel_host (s : State) {k : Nat} {x : Kernel} : (s.setKernel k x).host = s.host := rfl
@[simp] theorem State.setKernel_obj (s : State) {k : Nat} {x : Kernel} : (s.setKernel k x).obj = s.obj := rfl
@[simp] theorem State.setKernel_lk (s : State) {k : Nat} {x : Kernel} : (s.setKernel k x).lk = s.lk := rfl
@[simp] theorem State.setKernel_ng (s : State) {k : Nat} {x : Kernel} : (s.setKernel k x).ng = s.ng := rfl
@[simp] theorem State.setKernel_mg (s : State) {k : Nat} {x : Kernel} : (s.setKernel k x).mg = s.mg := rfl
@[simp] theorem State.setKernel_obs (s : State) {k : Nat} {x : Kernel} : (s.setKernel k x).obs = s.obs := rfl
@[simp] theorem State.setKernel_pw (s : State) {k : Nat} {x : Kernel} : (s.setKernel k x).pw = s.pw := rfl

@[simp] theorem State.modUu_pending (s : State) {k : Nat} {f : Uu → Uu} : (s.modUu k f).pending = s.pending := rfl
@[simp] theorem State.modUu_free (s : State) {k : Nat} {f : Uu → Uu} : (s.modUu k f).free = s.free := rfl
@[simp] theorem State.modUu_now (s : State) {k : Nat} {f : Uu → Uu} : (s.modUu k f).now = s.now := rfl
@[simp] theorem State.modUu_ac (s : State) {k : Nat} {f : Uu → Uu} : (s.modUu k f).ac = s.ac := rfl
@[simp] theorem State.modUu_regs (s : State) {k : Nat} {f : Uu → Uu} : (s.modUu k f).regs = s.regs := rfl
@[simp] theorem State.modUu_actLow (s : State) {k : Nat} {f : Uu → Uu} : (s.modUu k f).actLow = s.actLow := rfl
@[simp] theorem State.modUu_buf4 (s : State) {k : Nat} {f : Uu → Uu} : (s.modUu k f).buf4 = s.buf4 := rfl
@[simp] theorem State.modUu_od (s : State) {k : Nat} {f : Uu → Uu} : (s.modUu k f).od = s.od := rfl
@[simp] theorem State.modUu_odBlob (s : State) {k : Nat} {f : Uu → Uu} : (s.modUu k f).odBlob = s.odBlob := rfl
@[simp] theorem State.modUu_mem (s : State) {k : Nat} {f : Uu → Uu} : (s.modUu k f).mem = s.mem := rfl
@[simp] theorem State.modUu_hostMem (s : State) {k : Nat} {f : Uu → Uu} : (s.modUu k f).hostMem = s.hostMem := rfl
@[simp] theorem State.modUu_hostFail (s : State) {k : Nat} {f : Uu → Uu} : (s.modUu k f).hostFail = s.hostFail := rfl
@[simp] theorem State.modUu_clk (s : State) {k : Nat} {f : Uu → Uu} : (s.modUu k f).clk = s.clk := rfl
@[simp] theorem State.modUu_cores (s : State) {k : Nat} {f : Uu → Uu} : (s.modUu k f).cores = s.cores := rfl
@[simp] theorem State.modUu_seqs (s : State) {k : Nat} {f : Uu → Uu} : (s.modUu k f).seqs = s.seqs := rfl
@[simp] theorem State.modUu_ext (s : State) {k : Nat} {f : Uu → Uu} : (s.modUu k f).ext = s.ext := rfl
@[simp] theorem State.modUu_xl (s : State) {k : Nat} {f : Uu → Uu} : (s.modUu k f).xl = s.xl := rfl
@[simp] theorem State.modUu_host (s : State) {k : Nat} {f : Uu → Uu} : (s.modUu k f).host = s.host := rfl
@[simp] theorem State.modUu_obj (s : State) {k : Nat} {f : Uu → Uu} : (s.modUu k f).obj = s.obj := rfl
@[simp] theorem State.modUu_pt (s : State) {k : Nat} {f : Uu → Uu} : (s.modUu k f).pt = s.pt := rfl
@[simp] theorem State.modUu_lk (s : State) {k : Nat} {f : Uu → Uu} : (s.modUu k f).lk = s.lk := rfl
@[simp] theorem State.modUu_ng (s : State) {k : Nat} {f : Uu → Uu} : (s.modUu k f).ng = s.ng := rfl
@[simp] theorem State.modUu_mg (s : State) {k : Nat} {f : Uu → Uu} : (s.modUu k f).mg = s.mg := rfl
@[simp] theorem State.modUu_obs (s : State) {k : Nat} {f : Uu → Uu} : (s.modUu k f).obs = s.obs := rfl
@[simp] theorem State.modUu_pw (s : State) {k : Nat} {f : Uu → Uu} : (s.modUu k f).pw = s.pw := rfl

@[simp] theorem State.modFn_pending (s : State) {k : Nat} {f : Fn → Fn} : (s.modFn k f).pending = s.pending := rfl
@[simp] theorem State.modFn_free (s : State) {k : Nat} {f : Fn → Fn} : (s.modFn k f).free = s.free := rfl
@[simp] theorem State.modFn_now (s : State) {k : Nat} {f : Fn → Fn} : (s.modFn k f).now = s.now := rfl
@[simp] theorem State.modFn_ac (s : State) {k : Nat} {f : Fn → Fn} : (s.modFn k f).ac = s.ac := rfl
@[simp] theorem State.modFn_regs (s : State) {k : Nat} {f : Fn → Fn} : (s.modFn k f).regs = s.regs := rfl
@[simp] theorem State.modFn_actLow (s : State) {k : Nat} {f : Fn → Fn} : (s.modFn k f).actLow = s.actLow := rfl
@[simp] theorem State.modFn_buf4 (s : State) {k : Nat} {f : Fn → Fn} : (s.modFn k f).buf4 = s.buf4 := rfl
@[simp] theorem State.modFn_od (s : State) {k : Nat} {f : Fn → Fn} : (s.modFn k f).od = s.od := rfl
@[simp] theorem State.modFn_odBlob (s : State) {k : Nat} {f : Fn → Fn} : (s.modFn k f).odBlob = s.odBlob := rfl
@[simp] theorem State.modFn_mem (s : State) {k : Nat} {f : Fn → Fn} : (s.modFn k f).mem = s.mem := rfl
@[simp] theorem State.modFn_hostMem (s : State) {k : Nat} {f : Fn → Fn} : (s.modFn k f).hostMem = s.hostMem := rfl
@[simp] theorem State.modFn_hostFail (s : State) {k : Nat} {f : Fn → Fn} : (s.modFn k f).hostFail = s.hostFail := rfl
@[simp] theorem State.modFn_clk (s : State) {k : Nat} {f : Fn → Fn} : (s.modFn k f).clk = s.clk := rfl
@[simp] theorem State.modFn_cores (s : State) {k : Nat} {f : Fn → Fn} : (s.modFn k f).cores = s.cores := rfl
@[simp] theorem State.modFn_seqs (s : State) {k : Nat} {f : Fn → Fn} : (s.modFn k f).seqs = s.seqs := rfl
@[simp] theorem State.modFn_ext (s : State) {k : Nat} {f : Fn → Fn} : (s.modFn k f).ext = s.ext := rfl
@[simp] theorem State.modFn_xl (s : State) {k : Nat} {f : Fn → Fn} : (s.modFn k f).xl = s.xl := rfl
@[simp] theorem State.modFn_upd (s : State) {k : Nat} {f : Fn → Fn} : (s.modFn k f).upd = s.upd := rfl
@[simp] theorem State.modFn_obj (s : State) {k : Nat} {f : Fn → Fn} : (s.modFn k f).obj = s.obj := rfl
@[simp] theorem State.modFn_pt (s : State) {k : Nat} {f : Fn → Fn} : (s.modFn k f).pt = s.pt := rfl
@[simp] theorem State.modFn_lk (s : State) {k : Nat} {f : Fn → Fn} : (s.modFn k f).lk = s.lk := rfl
@[simp] theorem State.modFn_ng (s : State) {k : Nat} {f : Fn → Fn} : (s.modFn k f).ng = s.ng := rfl
@[simp] theorem State.modFn_mg (s : State) {k : Nat} {f : Fn → Fn} : (s.modFn k f).mg = s.mg := rfl
@[simp] theorem State.modFn_obs (s : State) {k : Nat} {f : Fn → Fn} : (s.modFn k f).obs = s.obs := rfl
@[simp] theorem State.modFn_pw (s : State) {k : Nat} {f : Fn → Fn} : (s.modFn k f).pw = s.pw := rfl

@[simp] theorem State.modPeer_pending (s : State) {k : Nat} {f : Peer → Peer} : (s.modPeer k f).pending = s.pending := rfl
@[simp] theorem State.modPeer_free (s : State) {k : Nat} {f : Peer → Peer} : (s.modPeer k f).free = s.free := rfl
@[simp] theorem State.modPeer_now (s : State) {k : Nat} {f : Peer → Peer} : (s.modPeer k f).now = s.now := rfl
@[simp] theorem State.modPeer_ac (s : State) {k : Nat} {f : Peer → Peer} : (s.modPeer k f).ac = s.ac := rfl
@[simp] theorem State.modPeer_regs (s : State) {k : Nat} {f : Peer → Peer} : (s.modPeer k f).regs = s.regs := rfl
@[simp] theorem State.modPeer_actLow (s : State) {k : Nat} {f : Peer → Peer} : (s.modPeer k f).actLow = s.actLow := rfl
@[simp] theorem State.modPeer_buf4 (s : State) {k : Nat} {f : Peer → Peer} : (s.modPeer k f).buf4 = s.buf4 := rfl
@[simp] theorem State.modPeer_od (s : State) {k : Nat} {f : Peer → Peer} : (s.modPeer k f).od = s.od := rfl
@[simp] theorem State.modPeer_odBlob (s : State) {k : Nat} {f : Peer → Peer} : (s.modPeer k f).odBlob = s.odBlob := rfl
@[simp] theorem State.modPeer_mem (s : State) {k : Nat} {f : Peer → Peer} : (s.modPeer k f).mem = s.mem := rfl
@[simp] theorem State.modPeer_hostMem (s : State) {k : Nat} {f : Peer → Peer} : (s.modPeer k f).hostMem = s.hostMem := rfl
@[simp] theorem State.modPeer_hostFail (s : State) {k : Nat} {f : Peer → Peer} : (s.modPeer k f).hostFail = s.hostFail := rfl
@[simp] theorem State.modPeer_clk (s : State) {k : Nat} {f : Peer → Peer} : (s.modPeer k f).clk = s.clk := rfl
@[simp] theorem State.modPeer_cores (s : State) {k : Nat} {f : Peer → Peer} : (s.modPeer k f).cores = s.cores := rfl
@[simp] theorem State.modPeer_seqs (s : State) {k : Nat} {f : Peer → Peer} : (s.modPeer k f).seqs = s.seqs := rfl
@[simp] theorem State.modPeer_ext (s : State) {k : Nat} {f : Peer → Peer} : (s.modPeer k f).ext = s.ext := rfl
@[simp] theorem State.modPeer_xl (s : State) {k : Nat} {f : Peer → Peer} : (s.modPeer k f).xl = s.xl := rfl
@[simp] theorem State.modPeer_upd (s : State) {k : Nat} {f : Peer → Peer} : (s.modPeer k f).upd = s.upd := rfl
@[simp] theorem State.modPeer_host (s : State) {k : Nat} {f : Peer → Peer} : (s.modPeer k f).host = s.host := rfl
@[simp] theorem State.modPeer_obj (s : State) {k : Nat} {f : Peer → Peer} : (s.modPeer k f).obj = s.obj := rfl
@[simp] theorem State.modPeer_pt (s : State) {k : Nat} {f : Peer → Peer} : (s.modPeer k f).pt = s.pt := rfl
@[simp] theorem State.modPeer_ng (s : State) {k : Nat} {f : Peer → Peer} : (s.modPeer k f).ng = s.ng := rfl
@[simp] theorem State.modPeer_mg (s : State) {k : Nat} {f : Peer → Peer} : (s.modPeer k f).mg = s.mg := rfl
@[simp] theorem State.modPeer_obs (s : State) {k : Nat} {f : Peer → Peer} : (s.modPeer k f).obs = s.obs := rfl
@[simp] theorem State.modPeer_pw (s : State) {k : Nat} {f : Peer → Peer} : (s.modPeer k f).pw = s.pw := rfl

@[simp] theorem State.modPort_pending (s : State) {k : Nat} {f : Port → Port} : (s.modPort k f).pending = s.pending := rfl
@[simp] theorem State.modPort_free (s : State) {k : Nat} {f : Port → Port} : (s.modPort k f).free = s.free := rfl
@[simp] theorem State.modPort_now (s : State) {k : Nat} {f : Port → Port} : (s.modPort k f).now = s.now := rfl
@[simp] theorem State.modPort_ac (s : State) {k : Nat} {f : Port → Port} : (s.modPort k f).ac = s.ac := rfl
@[simp] theorem State.modPort_regs (s : State) {k : Nat} {f : Port → Port} : (s.modPort k f).regs = s.regs := rfl
@[simp] theorem State.modPort_actLow (s : State) {k : Nat} {f : Port → Port} : (s.modPort k f).actLow = s.actLow := rfl
@[simp] theorem State.modPort_buf4 (s : State) {k : Nat} {f : Port → Port} : (s.modPort k f).buf4 = s.buf4 := rfl
@[simp] theorem State.modPort_od (s : State) {k : Nat} {f : Port → Port} : (s.modPort k f).od = s.od := rfl
@[simp] theorem State.modPort_odBlob (s : State) {k : Nat} {f : Port → Port} : (s.modPort k f).odBlob = s.odBlob := rfl
@[simp] theorem State.modPort_mem (s : State) {k : Nat} {f : Port → Port} : (s.modPort k f).mem = s.mem := rfl
@[simp] theorem State.modPort_hostMem (s : State) {k : Nat} {f : Port → Port} : (s.modPort k f).hostMem = s.hostMem := rfl
@[simp] theorem State.modPort_hostFail (s : State) {k : Nat} {f : Port → Port} : (s.modPort k f).hostFail = s.hostFail := rfl
@[simp] theorem State.modPort_clk (s : State) {k : Nat} {f : Port → Port} : (s.modPort k f).clk = s.clk := rfl
@[simp] theorem State.modPort_cores (s : State) {k : Nat} {f : Port → Port} : (s.modPort k f).cores = s.cores := rfl
@[simp] theorem State.modPort_seqs (s : State) {k : Nat} {f : Port → Port} : (s.modPort k f).seqs = s.seqs := rfl
@[simp] theorem State.modPort_ext (s : State) {k : Nat} {f : Port → Port} : (s.modPort k f).ext = s.ext := rfl
@[simp] theorem State.modPort_xl (s : State) {k : Nat} {f : Port → Port} : (s.modPort k f).xl = s.xl := rfl
@[simp] theorem State.modPort_upd (s : State) {k : Nat} {f : Port → Port} : (s.modPort k f).upd = s.upd := rfl
@[simp] theorem State.modPort_host (s : State) {k : Nat} {f : Port → Port} : (s.modPort k f).host = s.host := rfl
@[simp] theorem State.modPort_obj (s : State) {k : Nat} {f : Port → Port} : (s.modPort k f).obj = s.obj := rfl
@[simp] theorem State.modPort_pt (s : State) {k : Nat} {f : Port → Port} : (s.modPort k f).pt = s.pt := rfl
@[simp] theorem State.modPort_ng (s : State) {k : Nat} {f : Port → Port} : (s.modPort k f).ng = s.ng := rfl
@[simp] theorem State.modPort_mg (s : State) {k : Nat} {f : Port → Port} : (s.modPort k f).mg = s.mg := rfl
@[simp] theorem State.modPort_obs (s : State) {k : Nat} {f : Port → Port} : (s.modPort k f).obs = s.obs := rfl
@[simp] theorem State.modPort_pw (s : State) {k : Nat} {f : Port → Port} : (s.modPort k f).pw = s.pw := rfl

@[simp] theorem State.setCtx_obj_queues (s : State) {k : Nat} {c : CtxObj} : (s.setCtx k c).obj.queues = s.obj.queues := rfl
@[simp] theorem State.setCtx_obj_syncs (s : State) {k : Nat} {c : CtxObj} : (s.setCtx k c).obj.syncs = s.obj.syncs := rfl
@[simp] theorem State.setCtx_obj_mems (s : State) {k : Nat} {c : CtxObj} : (s.setCtx k c).obj.mems = s.obj.mems := rfl
@[simp] theorem State.setCtx_obj_imports (s : State) {k : Nat} {c : CtxObj} : (s.setCtx k c).obj.imports = s.obj.imports := rfl
@[simp] theorem State.setCtx_obj_epoch (s : State) {k : Nat} {c : CtxObj} : (s.setCtx k c).obj.epoch = s.obj.epoch := rfl
@[simp] theorem State.setCtx_obj_tEpoch (s : State) {k : Nat} {c : CtxObj} : (s.setCtx k c).obj.tEpoch = s.obj.tEpoch := rfl
@[simp] theorem State.setCtx_obj_epochUs (s : State) {k : Nat} {c : CtxObj} : (s.setCtx k c).obj.epochUs = s.obj.epochUs := rfl
@[simp] theorem State.modCtx_obj_queues (s : State) {k : Nat} {f : CtxObj → CtxObj} : (s.modCtx k f).obj.queues = s.obj.queues := rfl
@[simp] theorem State.modCtx_obj_syncs (s : State) {k : Nat} {f : CtxObj → CtxObj} : (s.modCtx k f).obj.syncs = s.obj.syncs := rfl
@[simp] theorem State.modCtx_obj_mems (s : State) {k : Nat} {f : CtxObj → CtxObj} : (s.modCtx k f).obj.mems = s.obj.mems := rfl
@[simp] theorem State.modCtx_obj_imports (s : State) {k : Nat} {f : CtxObj → CtxObj} : (s.modCtx k f).obj.imports = s.obj.imports := rfl
@[simp] theorem State.modCtx_obj_epoch (s : State) {k : Nat} {f : CtxObj → CtxObj} : (s.modCtx k f).obj.epoch = s.obj.epoch := rfl
@[simp] theorem State.modCtx_obj_tEpoch (s : State) {k : Nat} {f : CtxObj → CtxObj} : (s.modCtx k f).obj.tEpoch = s.obj.tEpoch := rfl
@[simp] theorem State.modCtx_obj_epochUs (s : State) {k : Nat} {f : CtxObj → CtxObj} : (s.modCtx k f).obj.epochUs = s.obj.epochUs := rfl
@[simp] theorem State.setQueue_obj_ctxs (s : State) {k : Nat} {q : Queue} : (s.setQueue k q).obj.ctxs = s.obj.ctxs := rfl
@[simp] theorem State.setQueue_obj_syncs (s : State) {k : Nat} {q : Queue} : (s.setQueue k q).obj.syncs = s.obj.syncs := rfl
@[simp] theorem State.setQueue_obj_mems (s : State) {k : Nat} {q : Queue} : (s.setQueue k q).obj.mems = s.obj.mems := rfl
@[simp] theorem State.setQueue_obj_imports (s : State) {k : Nat} {q : Queue} : (s.setQueue k q).obj.imports = s.obj.imports := rfl
@[simp] theorem State.setQueue_obj_epoch (s : State) {k : Nat} {q : Queue} : (s.setQueue k q).obj.epoch = s.obj.epoch := rfl
@[simp] theorem State.setQueue_obj_tEpoch (s : State) {k : Nat} {q : Queue} : (s.setQueue k q).obj.tEpoch = s.obj.tEpoch := rfl
@[simp] theorem State.setQueue_obj_epochUs (s : State) {k : Nat} {q : Queue} : (s.setQueue k q).obj.epochUs = s.obj.epochUs := rfl
@[simp] theorem State.modQueue_obj_ctxs (s : State) {k : Nat} {f : Queue → Queue} : (s.modQueue k f).obj.ctxs = s.obj.ctxs := rfl
@[simp] theorem State.modQueue_obj_syncs (s : State) {k : Nat} {f : Queue → Queue} : (s.modQueue k f).obj.syncs = s.obj.syncs := rfl
@[simp] theorem State.modQueue_obj_mems (s : State) {k : Nat} {f : Queue → Queue} : (s.modQueue k f).obj.mems = s.obj.mems := rfl
@[simp] theorem State.modQueue_obj_imports (s : State) {k : Nat} {f : Queue → Queue} : (s.modQueue k f).obj.imports = s.obj.imports := rfl
@[simp] theorem State.modQueue_obj_epoch (s : State) {k : Nat} {f : Queue → Queue} : (s.modQueue k f).obj.epoch = s.obj.epoch := rfl
@[simp] theorem State.modQueue_obj_tEpoch (s : State) {k : Nat} {f : Queue → Queue} : (s.modQueue k f).obj.tEpoch = s.obj.tEpoch := rfl
@[simp] theorem State.modQueue_obj_epochUs (s : State) {k : Nat} {f : Queue → Queue} : (s.modQueue k f).obj.epochUs = s.obj.epochUs := rfl
@[simp] theorem State.setSync_obj_ctxs (s : State) {k : Nat} {x : SyncObj} : (s.setSync k x).obj.ctxs = s.obj.ctxs := rfl
@[simp] theorem State.setSync_obj_queues (s : State) {k : Nat} {x : SyncObj} : (s.setSync k x).obj.queues = s.obj.queues := rfl
@[simp] theorem State.setSync_obj_mems (s : State) {k : Nat} {x : SyncObj} : (s.setSync k x).obj.mems = s.obj.mems := rfl
@[simp] theorem State.setSync_obj_imports (s : State) {k : Nat} {x : SyncObj} : (s.setSync k x).obj.imports = s.obj.imports := rfl
@[simp] theorem State.setSync_obj_epoch (s : State) {k : Nat} {x : SyncObj} : (s.setSync k x).obj.epoch = s.obj.epoch := rfl
@[simp] theorem State.setSync_obj_tEpoch (s : State) {k : Nat} {x : SyncObj} : (s.setSync k x).obj.tEpoch = s.obj.tEpoch := rfl
@[simp] theorem State.setSync_obj_epochUs (s : State) {k : Nat} {x : SyncObj} : (s.setSync k x).obj.epochUs = s.obj.epochUs := rfl
@[simp] theorem State.modSync_obj_ctxs (s : State) {k : Nat} {f : SyncObj → SyncObj} : (s.modSync k f).obj.ctxs = s.obj.ctxs := rfl
@[simp] theorem State.modSync_obj_queues (s : State) {k : Nat} {f : SyncObj → SyncObj} : (s.modSync k f).obj.queues = s.obj.queues := rfl
@[simp] theorem State.modSync_obj_mems (s : State) {k : Nat} {f : SyncObj → SyncObj} : (s.modSync k f).obj.mems = s.obj.mems := rfl
@[simp] theorem State.modSync_obj_imports (s : State) {k : Nat} {f : SyncObj → SyncObj} : (s.modSync k f).obj.imports = s.obj.imports := rfl
@[simp] theorem State.modSync_obj_epoch (s : State) {k : Nat} {f : SyncObj → SyncObj} : (s.modSync k f).obj.epoch = s.obj.epoch := rfl
@[simp] theorem State.modSync_obj_tEpoch (s : State) {k : Nat} {f : SyncObj → SyncObj} : (s.modSync k f).obj.tEpoch = s.obj.tEpoch := rfl
@[simp] theorem State.modSync_obj_epochUs (s : State) {k : Nat} {f : SyncObj → SyncObj} : (s.modSync k f).obj.epochUs = s.obj.epochUs := rfl
@[simp] theorem State.setMemObj_obj_ctxs (s : State) {k : Nat} {x : MemObj} : (s.setMemObj k x).obj.ctxs = s.obj.ctxs := rfl
@[simp] theorem State.setMemObj_obj_queues (s : State) {k : Nat} {x : MemObj} : (s.setMemObj k x).obj.queues = s.obj.queues := rfl
@[simp] theorem State.setMemObj_obj_syncs (s : State) {k : Nat} {x : MemObj} : (s.setMemObj k x).obj.syncs = s.obj.syncs := rfl
@[simp] theorem State.setMemObj_obj_imports (s : State) {k : Nat} {x : MemObj} : (s.setMemObj k x).obj.imports = s.obj.imports := rfl
@[simp] theorem State.setMemObj_obj_epoch (s : State) {k : Nat} {x : MemObj} : (s.setMemObj k x).obj.epoch = s.obj.epoch := rfl
@[simp] theorem State.setMemObj_obj_tEpoch (s : State) {k : Nat} {x : MemObj} : (s.setMemObj k x).obj.tEpoch = s.obj.tEpoch := rfl
@[simp] theorem State.setMemObj_obj_epochUs (s : State) {k : Nat} {x : MemObj} : (s.setMemObj k x).obj.epochUs = s.obj.epochUs := rfl

@[simp] theorem State.setPart_pt_steps (s : State) {k : Nat} {x : Partn} : (s.setPart k x).pt.steps = s.pt.steps := rfl
@[simp] theorem State.setPart_pt_kernels (s : State) {k : Nat} {x : Partn} : (s.setPart k x).pt.kernels = s.pt.kernels := rfl
@[simp] theorem State.setPart_pt_nextKernel (s : State) {k : Nat} {x : Partn} : (s.setPart k x).pt.nextKernel = s.pt.nextKernel := rfl
@[simp] theorem State.setPart_pt_layout (s : State) {k : Nat} {x : Partn} : (s.setPart k x).pt.layout = s.pt.layout := rfl
@[simp] theorem State.setPart_pt_modes (s : State) {k : Nat} {x : Partn} : (s.setPart k x).pt.modes = s.pt.modes := rfl
@[simp] theorem State.setPart_pt_meter (s : State) {k : Nat} {x : Partn} : (s.setPart k x).pt.meter = s.pt.meter := rfl
@[simp] theorem State.setPart_pt_maint (s : State) {k : Nat} {x : Partn} : (s.setPart k x).pt.maint = s.pt.maint := rfl
@[simp] theorem State.setPart_pt_lastCtx (s : State) {k : Nat} {x : Partn} : (s.setPart k x).pt.lastCtx = s.pt.lastCtx := rfl
@[simp] theorem State.setPart_pt_densSrc (s : State) {k : Nat} {x : Partn} : (s.setPart k x).pt.densSrc = s.pt.densSrc := rfl
@[simp] theorem State.modPart_pt_steps (s : State) {k : Nat} {f : Partn → Partn} : (s.modPart k f).pt.steps = s.pt.steps := rfl
@[simp] theorem State.modPart_pt_kernels (s : State) {k : Nat} {f : Partn → Partn} : (s.modPart k f).pt.kernels = s.pt.kernels := rfl
@[simp] theorem State.modPart_pt_nextKernel (s : State) {k : Nat} {f : Partn → Partn} : (s.modPart k f).pt.nextKernel = s.pt.nextKernel := rfl
@[simp] theorem State.modPart_pt_layout (s : State) {k : Nat} {f : Partn → Partn} : (s.modPart k f).pt.layout = s.pt.layout := rfl
@[simp] theorem State.modPart_pt_modes (s : State) {k : Nat} {f : Partn → Partn} : (s.modPart k f).pt.modes = s.pt.modes := rfl
@[simp] theorem State.modPart_pt_meter (s : State) {k : Nat} {f : Partn → Partn} : (s.modPart k f).pt.meter = s.pt.meter := rfl
@[simp] theorem State.modPart_pt_maint (s : State) {k : Nat} {f : Partn → Partn} : (s.modPart k f).pt.maint = s.pt.maint := rfl
@[simp] theorem State.modPart_pt_lastCtx (s : State) {k : Nat} {f : Partn → Partn} : (s.modPart k f).pt.lastCtx = s.pt.lastCtx := rfl
@[simp] theorem State.modPart_pt_densSrc (s : State) {k : Nat} {f : Partn → Partn} : (s.modPart k f).pt.densSrc = s.pt.densSrc := rfl
@[simp] theorem State.setStep_pt_parts (s : State) {k : Nat} {x : StepRec} : (s.setStep k x).pt.parts = s.pt.parts := rfl
@[simp] theorem State.setStep_pt_kernels (s : State) {k : Nat} {x : StepRec} : (s.setStep k x).pt.kernels = s.pt.kernels := rfl
@[simp] theorem State.setStep_pt_nextKernel (s : State) {k : Nat} {x : StepRec} : (s.setStep k x).pt.nextKernel = s.pt.nextKernel := rfl
@[simp] theorem State.setStep_pt_layout (s : State) {k : Nat} {x : StepRec} : (s.setStep k x).pt.layout = s.pt.layout := rfl
@[simp] theorem State.setStep_pt_modes (s : State) {k : Nat} {x : StepRec} : (s.setStep k x).pt.modes = s.pt.modes := rfl
@[simp] theorem State.setStep_pt_meter (s : State) {k : Nat} {x : StepRec} : (s.setStep k x).pt.meter = s.pt.meter := rfl
@[simp] theorem State.setStep_pt_maint (s : State) {k : Nat} {x : StepRec} : (s.setStep k x).pt.maint = s.pt.maint := rfl
@[simp] theorem State.setStep_pt_lastCtx (s : State) {k : Nat} {x : StepRec} : (s.setStep k x).pt.lastCtx = s.pt.lastCtx := rfl
@[simp] theorem State.setStep_pt_densSrc (s : State) {k : Nat} {x : StepRec} : (s.setStep k x).pt.densSrc = s.pt.densSrc := rfl
@[simp] theorem State.delStep_pt_parts (s : State) {k : Nat} : (s.delStep k).pt.parts = s.pt.parts := rfl
@[simp] theorem State.delStep_pt_kernels (s : State) {k : Nat} : (s.delStep k).pt.kernels = s.pt.kernels := rfl
@[simp] theorem State.delStep_pt_nextKernel (s : State) {k : Nat} : (s.delStep k).pt.nextKernel = s.pt.nextKernel := rfl
@[simp] theorem State.delStep_pt_layout (s : State) {k : Nat} : (s.delStep k).pt.layout = s.pt.layout := rfl
@[simp] theorem State.delStep_pt_modes (s : State) {k : Nat} : (s.delStep k).pt.modes = s.pt.modes := rfl
@[simp] theorem State.delStep_pt_meter (s : State) {k : Nat} : (s.delStep k).pt.meter = s.pt.meter := rfl
@[simp] theorem State.delStep_pt_maint (s : State) {k : Nat} : (s.delStep k).pt.maint = s.pt.maint := rfl
@[simp] theorem State.delStep_pt_lastCtx (s : State) {k : Nat} : (s.delStep k).pt.lastCtx = s.pt.lastCtx := rfl
@[simp] theorem State.delStep_pt_densSrc (s : State) {k : Nat} : (s.delStep k).pt.densSrc = s.pt.densSrc := rfl
@[simp] theorem State.setKernel_pt_parts (s : State) {k : Nat} {x : Kernel} : (s.setKernel k x).pt.parts = s.pt.parts := rfl
@[simp] theorem State.setKernel_pt_steps (s : State) {k : Nat} {x : Kernel} : (s.setKernel k x).pt.steps = s.pt.steps := rfl
@[simp] theorem State.setKernel_pt_nextKernel (s : State) {k : Nat} {x : Kernel} : (s.setKernel k x).pt.nextKernel = s.pt.nextKernel := rfl
@[simp] theorem State.setKernel_pt_layout (s : State) {k : Nat} {x : Kernel} : (s.setKernel k x).pt.layout = s.pt.layout := rfl
@[simp] theorem State.setKernel_pt_modes (s : State) {k : Nat} {x : Kernel} : (s.setKernel k x).pt.modes = s.pt.modes := rfl
@[simp] theorem State.setKernel_pt_meter (s : State) {k : Nat} {x : Kernel} : (s.setKernel k x).pt.meter = s.pt.meter := rfl
@[simp] theorem State.setKernel_pt_maint (s : State) {k : Nat} {x : Kernel} : (s.setKernel k x).pt.maint = s.pt.maint := rfl
@[simp] theorem State.setKernel_pt_lastCtx (s : State) {k : Nat} {x : Kernel} : (s.setKernel k x).pt.lastCtx = s.pt.lastCtx := rfl
@[simp] theorem State.setKernel_pt_densSrc (s : State) {k : Nat} {x : Kernel} : (s.setKernel k x).pt.densSrc = s.pt.densSrc := rfl

@[simp] theorem State.modUu_upd_reqs (s : State) {k : Nat} {f : Uu → Uu} : (s.modUu k f).upd.reqs = s.upd.reqs := rfl
@[simp] theorem State.modUu_upd_ruleWait (s : State) {k : Nat} {f : Uu → Uu} : (s.modUu k f).upd.ruleWait = s.upd.ruleWait := rfl

@[simp] theorem State.modFn_host_up (s : State) {k : Nat} {f : Fn → Fn} : (s.modFn k f).host.up = s.host.up := rfl
@[simp] theorem State.modFn_host_rate (s : State) {k : Nat} {f : Fn → Fn} : (s.modFn k f).host.rate = s.host.rate := rfl
@[simp] theorem State.modFn_host_width (s : State) {k : Nat} {f : Fn → Fn} : (s.modFn k f).host.width = s.host.width := rfl
@[simp] theorem State.modFn_host_flit (s : State) {k : Nat} {f : Fn → Fn} : (s.modFn k f).host.flit = s.host.flit := rfl
@[simp] theorem State.modFn_host_ide (s : State) {k : Nat} {f : Fn → Fn} : (s.modFn k f).host.ide = s.host.ide := rfl
@[simp] theorem State.modFn_host_vfEnable (s : State) {k : Nat} {f : Fn → Fn} : (s.modFn k f).host.vfEnable = s.host.vfEnable := rfl
@[simp] theorem State.modFn_host_numVfs (s : State) {k : Nat} {f : Fn → Fn} : (s.modFn k f).host.numVfs = s.host.numVfs := rfl
@[simp] theorem State.modFn_host_ari (s : State) {k : Nat} {f : Fn → Fn} : (s.modFn k f).host.ari = s.host.ari := rfl
@[simp] theorem State.modFn_host_pasid (s : State) {k : Nat} {f : Fn → Fn} : (s.modFn k f).host.pasid = s.host.pasid := rfl
@[simp] theorem State.modFn_host_sent (s : State) {k : Nat} {f : Fn → Fn} : (s.modFn k f).host.sent = s.host.sent := rfl
@[simp] theorem State.modFn_host_aer (s : State) {k : Nat} {f : Fn → Fn} : (s.modFn k f).host.aer = s.host.aer := rfl
@[simp] theorem State.modFn_host_reply (s : State) {k : Nat} {f : Fn → Fn} : (s.modFn k f).host.reply = s.host.reply := rfl
@[simp] theorem State.modFn_host_perst (s : State) {k : Nat} {f : Fn → Fn} : (s.modFn k f).host.perst = s.host.perst := rfl
@[simp] theorem State.modFn_host_policy (s : State) {k : Nat} {f : Fn → Fn} : (s.modFn k f).host.policy = s.host.policy := rfl
@[simp] theorem State.modFn_host_cfgReady (s : State) {k : Nat} {f : Fn → Fn} : (s.modFn k f).host.cfgReady = s.host.cfgReady := rfl

@[simp] theorem State.modPeer_lk_ports (s : State) {k : Nat} {f : Peer → Peer} : (s.modPeer k f).lk.ports = s.lk.ports := rfl
@[simp] theorem State.modPeer_lk_inc (s : State) {k : Nat} {f : Peer → Peer} : (s.modPeer k f).lk.inc = s.lk.inc := rfl
@[simp] theorem State.modPeer_lk_groups (s : State) {k : Nat} {f : Peer → Peer} : (s.modPeer k f).lk.groups = s.lk.groups := rfl
@[simp] theorem State.modPeer_lk_ops (s : State) {k : Nat} {f : Peer → Peer} : (s.modPeer k f).lk.ops = s.lk.ops := rfl
@[simp] theorem State.modPeer_lk_runs (s : State) {k : Nat} {f : Peer → Peer} : (s.modPeer k f).lk.runs = s.lk.runs := rfl
@[simp] theorem State.modPeer_lk_tx (s : State) {k : Nat} {f : Peer → Peer} : (s.modPeer k f).lk.tx = s.lk.tx := rfl
@[simp] theorem State.modPeer_lk_on (s : State) {k : Nat} {f : Peer → Peer} : (s.modPeer k f).lk.on = s.lk.on := rfl
@[simp] theorem State.modPeer_lk_stopped (s : State) {k : Nat} {f : Peer → Peer} : (s.modPeer k f).lk.stopped = s.lk.stopped := rfl
@[simp] theorem State.modPeer_lk_nextPlane (s : State) {k : Nat} {f : Peer → Peer} : (s.modPeer k f).lk.nextPlane = s.lk.nextPlane := rfl
@[simp] theorem State.modPort_lk_inc (s : State) {k : Nat} {f : Port → Port} : (s.modPort k f).lk.inc = s.lk.inc := rfl
@[simp] theorem State.modPort_lk_peers (s : State) {k : Nat} {f : Port → Port} : (s.modPort k f).lk.peers = s.lk.peers := rfl
@[simp] theorem State.modPort_lk_groups (s : State) {k : Nat} {f : Port → Port} : (s.modPort k f).lk.groups = s.lk.groups := rfl
@[simp] theorem State.modPort_lk_ops (s : State) {k : Nat} {f : Port → Port} : (s.modPort k f).lk.ops = s.lk.ops := rfl
@[simp] theorem State.modPort_lk_runs (s : State) {k : Nat} {f : Port → Port} : (s.modPort k f).lk.runs = s.lk.runs := rfl
@[simp] theorem State.modPort_lk_tx (s : State) {k : Nat} {f : Port → Port} : (s.modPort k f).lk.tx = s.lk.tx := rfl
@[simp] theorem State.modPort_lk_on (s : State) {k : Nat} {f : Port → Port} : (s.modPort k f).lk.on = s.lk.on := rfl
@[simp] theorem State.modPort_lk_stopped (s : State) {k : Nat} {f : Port → Port} : (s.modPort k f).lk.stopped = s.lk.stopped := rfl
@[simp] theorem State.modPort_lk_nextPlane (s : State) {k : Nat} {f : Port → Port} : (s.modPort k f).lk.nextPlane = s.lk.nextPlane := rfl

/-! ### Read back -/

@[simp] theorem State.core_setCore (s : State) {k : Nat} {x : Core} : (s.setCore k x).core k = x := SMap.getD_set_self ..
theorem State.core_setCore_ne (s : State) {k l : Nat} {x : Core} (h : l ≠ k) : (s.setCore k x).core l = s.core l := SMap.getD_set_ne h ..
@[simp] theorem State.seq_setSeq (s : State) {k : Nat} {x : Seq} : (s.setSeq k x).seq k = x := SMap.getD_set_self ..
theorem State.seq_setSeq_ne (s : State) {k l : Nat} {x : Seq} (h : l ≠ k) : (s.setSeq k x).seq l = s.seq l := SMap.getD_set_ne h ..
@[simp] theorem State.ctx_setCtx (s : State) {k : Nat} {x : CtxObj} : (s.setCtx k x).ctx k = x := SMap.getD_set_self ..
theorem State.ctx_setCtx_ne (s : State) {k l : Nat} {x : CtxObj} (h : l ≠ k) : (s.setCtx k x).ctx l = s.ctx l := SMap.getD_set_ne h ..
@[simp] theorem State.queue_setQueue (s : State) {k : Nat} {x : Queue} : (s.setQueue k x).queue k = x := SMap.getD_set_self ..
theorem State.queue_setQueue_ne (s : State) {k l : Nat} {x : Queue} (h : l ≠ k) : (s.setQueue k x).queue l = s.queue l := SMap.getD_set_ne h ..
@[simp] theorem State.sync_setSync (s : State) {k : Nat} {x : SyncObj} : (s.setSync k x).sync k = x := SMap.getD_set_self ..
theorem State.sync_setSync_ne (s : State) {k l : Nat} {x : SyncObj} (h : l ≠ k) : (s.setSync k x).sync l = s.sync l := SMap.getD_set_ne h ..
@[simp] theorem State.memObj_setMemObj (s : State) {k : Nat} {x : MemObj} : (s.setMemObj k x).memObj k = x := SMap.getD_set_self ..
theorem State.memObj_setMemObj_ne (s : State) {k l : Nat} {x : MemObj} (h : l ≠ k) : (s.setMemObj k x).memObj l = s.memObj l := SMap.getD_set_ne h ..
@[simp] theorem State.part_setPart (s : State) {k : Nat} {x : Partn} : (s.setPart k x).part k = x := SMap.getD_set_self ..
theorem State.part_setPart_ne (s : State) {k l : Nat} {x : Partn} (h : l ≠ k) : (s.setPart k x).part l = s.part l := SMap.getD_set_ne h ..
@[simp] theorem State.core_modCore (s : State) {k : Nat} {f : Core → Core} : (s.modCore k f).core k = f (s.core k) := SMap.getD_set_self ..
theorem State.core_modCore_ne (s : State) {k l : Nat} {f : Core → Core} (h : l ≠ k) : (s.modCore k f).core l = s.core l := SMap.getD_set_ne h ..
@[simp] theorem State.seq_modSeq (s : State) {k : Nat} {f : Seq → Seq} : (s.modSeq k f).seq k = f (s.seq k) := SMap.getD_set_self ..
theorem State.seq_modSeq_ne (s : State) {k l : Nat} {f : Seq → Seq} (h : l ≠ k) : (s.modSeq k f).seq l = s.seq l := SMap.getD_set_ne h ..
@[simp] theorem State.ctx_modCtx (s : State) {k : Nat} {f : CtxObj → CtxObj} : (s.modCtx k f).ctx k = f (s.ctx k) := SMap.getD_set_self ..
theorem State.ctx_modCtx_ne (s : State) {k l : Nat} {f : CtxObj → CtxObj} (h : l ≠ k) : (s.modCtx k f).ctx l = s.ctx l := SMap.getD_set_ne h ..
@[simp] theorem State.queue_modQueue (s : State) {k : Nat} {f : Queue → Queue} : (s.modQueue k f).queue k = f (s.queue k) := SMap.getD_set_self ..
theorem State.queue_modQueue_ne (s : State) {k l : Nat} {f : Queue → Queue} (h : l ≠ k) : (s.modQueue k f).queue l = s.queue l := SMap.getD_set_ne h ..
@[simp] theorem State.sync_modSync (s : State) {k : Nat} {f : SyncObj → SyncObj} : (s.modSync k f).sync k = f (s.sync k) := SMap.getD_set_self ..
theorem State.sync_modSync_ne (s : State) {k l : Nat} {f : SyncObj → SyncObj} (h : l ≠ k) : (s.modSync k f).sync l = s.sync l := SMap.getD_set_ne h ..
@[simp] theorem State.part_modPart (s : State) {k : Nat} {f : Partn → Partn} : (s.modPart k f).part k = f (s.part k) := SMap.getD_set_self ..
theorem State.part_modPart_ne (s : State) {k l : Nat} {f : Partn → Partn} (h : l ≠ k) : (s.modPart k f).part l = s.part l := SMap.getD_set_ne h ..
@[simp] theorem State.uu_modUu (s : State) {k : Nat} {f : Uu → Uu} : (s.modUu k f).uu k = f (s.uu k) := SMap.getD_set_self ..
theorem State.uu_modUu_ne (s : State) {k l : Nat} {f : Uu → Uu} (h : l ≠ k) : (s.modUu k f).uu l = s.uu l := SMap.getD_set_ne h ..
@[simp] theorem State.fn_modFn (s : State) {k : Nat} {f : Fn → Fn} : (s.modFn k f).fn k = f (s.fn k) := SMap.getD_set_self ..
theorem State.fn_modFn_ne (s : State) {k l : Nat} {f : Fn → Fn} (h : l ≠ k) : (s.modFn k f).fn l = s.fn l := SMap.getD_set_ne h ..
@[simp] theorem State.peer_modPeer (s : State) {k : Nat} {f : Peer → Peer} : (s.modPeer k f).peer k = f (s.peer k) := SMap.getD_set_self ..
theorem State.peer_modPeer_ne (s : State) {k l : Nat} {f : Peer → Peer} (h : l ≠ k) : (s.modPeer k f).peer l = s.peer l := SMap.getD_set_ne h ..
@[simp] theorem State.port_modPort (s : State) {k : Nat} {f : Port → Port} : (s.modPort k f).port k = f (s.port k) := SMap.getD_set_self ..
theorem State.port_modPort_ne (s : State) {k l : Nat} {f : Port → Port} (h : l ≠ k) : (s.modPort k f).port l = s.port l := SMap.getD_set_ne h ..

@[simp] theorem State.stepOf_setStep (s : State) {k : Nat} {x : StepRec} : (s.setStep k x).stepOf k = some x := SMap.find_put_self ..
@[simp] theorem State.stepOf_delStep (s : State) {k : Nat} : (s.delStep k).stepOf k = none := SMap.find_del_self ..
@[simp] theorem State.kernel_setKernel (s : State) {k : Nat} {x : Kernel} : (s.setKernel k x).kernel k = some x := SMap.find_put_self ..
@[simp] theorem State.blob_setBlob (s : State) {i j : Nat} {v : List Byte} : (s.setBlob i j v).blob i j = v := SMap.getD_set_self ..

/-- A register that is stored reads back, modulo its 64 bits. -/
theorem State.reg_setReg (s : State) {a v : Nat} : (s.setReg a v).reg a = v % 2 ^ 64 := by
  simp [State.reg, State.setReg, SMap.getD_set_self]

/-- Another register stays. -/
theorem State.reg_setReg_ne (s : State) {a b v : Nat} (h : b ≠ a) : (s.setReg a v).reg b = s.reg b := by
  simp [State.reg, State.setReg, SMap.getD_set_ne h]

/-- A dictionary entry that is stored reads back, modulo its 64 bits. -/
theorem State.odGet_odSet (s : State) {i j v : Nat} : (s.odSet i j v).odGet i j = v % 2 ^ 64 := by
  simp [State.odGet, State.odSet, SMap.getD_set_self]

/-- Another dictionary entry stays. -/
theorem State.odGet_odSet_ne (s : State) {i j k l v : Nat} (h : odKey k l ≠ odKey i j) : (s.odSet i j v).odGet k l = s.odGet k l := by
  simp [State.odGet, State.odSet, SMap.getD_set_ne h]

end Sys2Proof.Machine
end

