-- ==== Sys2Proof/Laws/Ops.lean ====
section
/-! SUPPORT. What the shared operations do, each said once: the gates of registers, of dictionary items, of stream words and of thread
instructions, and the end of a stream instruction. -/

namespace Sys2Proof.Machine

/-! ### Gates -/

/-- A privileged write that reaches its register acts. -/
theorem State.regGateP_acts {s : State} {p : Path} {off : Nat} (h : Privileged s p off) (act : State → State) : s.regGateP p off act = act s := by
  rcases h with rfl | ⟨rfl, hf, hs⟩
  · simp [State.regGateP, State.regGate, State.privileged]
  · rcases hs with hs | hs <;> simp [State.regGateP, State.regGate, State.hostGate, State.privileged, hf, hs]

/-- A write that reaches its register acts. -/
theorem State.regGate_acts {s : State} {p : Path} {off : Nat} {vf : Option Nat} (h : Reaches s p off vf) (act : State → State) :
    s.regGate p off vf act = act s := by
  rcases h with rfl | ⟨c, rfl⟩ | ⟨k, hp, hf, hs⟩
  · rfl
  · rfl
  · rcases hp with ⟨rfl, rfl⟩ | ⟨rfl, rfl⟩ <;> rcases hs with hs | hs <;> simp [State.regGate, State.hostGate, hf, hs]

/-- An item that is taken acts, and is answered with its status; one that is not accepted counts; one without a status is held. -/
theorem State.odCmd_acts {s : State} {p : Path} {idx sub : Nat} (h : TakesItem s p idx sub) (act : State → State × Option Nat) :
    s.odCmd p idx sub act = match (act s).2 with
      | some st => (if st = stOk then (act s).1 else (act s).1.odBump 0x6200 1 1).odReply p st
      | none => (act s).1.odHold p := by
  obtain ⟨h1, h2, h3, h4⟩ := h
  by_cases hp : p = .pf
  · subst hp
    have h4 := h4 rfl
    simp only [State.odCmd, h1, h2, h3, h4]
    simp <;> (split <;> simp_all)
  · simp only [State.odCmd, h1, h2, h3]
    simp [hp] <;> (split <;> simp_all)

/-- A word that is fetched, valid and of the row's opcode runs. -/
theorem State.stream_runs {s u : State} {cl op w : Nat} (h : Runs s cl op w u) (f : State → Nat → State) : s.stream cl op f = f u w := by
  obtain ⟨h1, h2, h3, h4⟩ := h
  simp [State.stream, h1, h2, h3, h4]

/-- A thread instruction that issues does what it does. -/
theorem State.issue_acts {s : State} {i : Issue} {wr rd : List (Nat × Nat)} {g : Group} {p : PathSt} (h : Issues s i wr rd g p)
    (f : State → Group → PathSt → State) : s.issue i wr rd f = f s g p := by
  obtain ⟨h1, h2, h3⟩ := h
  simp [State.issue, h1, h2, h3]

/-! ### The end of a stream instruction -/

theorem State.stepOf_progress (s : State) (k q : Nat) :
    (s.progress k).stepOf q = s.stepOf q ∨ (s.progress k).stepOf q = (s.stepOf q).map (fun r => { r with lastProgress := s.now }) := by
  unfold State.progress State.modStep
  cases h : s.stepOf k with
  | none => left; simp
  | some r =>
    by_cases e : q = k
    · subst e; right; simp [h]
    · left
      simp only [State.stepOf, State.setStep]
      exact SMap.find_put_ne e _

theorem State.progress_frame (s : State) (k : Nat) :
    s.progress k = { s with pt := (s.progress k).pt } ∧ (s.progress k).pt = { s.pt with steps := (s.progress k).pt.steps } := by
  unfold State.progress State.modStep
  split <;> exact ⟨rfl, rfl⟩

/-- An instruction that issues counts, and its step makes progress. -/
theorem State.seqIssued_frame (s : State) (cl : Nat) :
    s.seqIssued cl = { s with regs := (s.seqIssued cl).regs, pt := (s.seqIssued cl).pt }
      ∧ (s.seqIssued cl).pt = { s.pt with steps := (s.seqIssued cl).pt.steps } ∧ (s.seqIssued cl).regs = (s.bump (sqR cl 0x50) 1).regs
      ∧ ∀ q, (s.seqIssued cl).stepOf q = s.stepOf q ∨ (s.seqIssued cl).stepOf q = (s.stepOf q).map (fun r => { r with lastProgress := s.now }) := by
  unfold State.seqIssued
  dsimp only
  split
  · rename_i k _
    have h := State.progress_frame (s.bump (sqR cl 0x50) 1) k
    refine ⟨?_, h.2, ?_, fun q => State.stepOf_progress (s.bump (sqR cl 0x50) 1) k q⟩
    · rw [h.1]; rfl
    · rw [h.1]
  · exact ⟨rfl, rfl, rfl, fun q => Or.inl rfl⟩

@[simp] theorem State.seqIssued_seq (s : State) (cl c : Nat) : (s.seqIssued cl).seq c = s.seq c := by
  rw [(State.seqIssued_frame s cl).1]; rfl

/-- A done instruction changes its sequencer as said and falls through. -/
@[simp] theorem State.seqDone_seq (s : State) (cl : Nat) (f : Seq → Seq) :
    (s.seqDone cl f).seq cl = Seq.fall { f (s.seq cl) with wait := .none, state := .running } := by
  simp [State.seqDone]

/-- A change of the sequencer after the instruction has issued touches nothing else. -/
theorem State.issued_onlySeq (s : State) (cl : Nat) (f : Seq → Seq) : OnlySeq s ((s.seqIssued cl).modSeq cl f) cl := by
  have h := State.seqIssued_frame s cl
  refine ⟨?_, ?_, ?_, ?_, ?_⟩
  · generalize hu : s.seqIssued cl = u at h
    rw [h.1]; rfl
  · exact h.2.1
  · intro o ho
    have e : ((s.seqIssued cl).modSeq cl f).reg o = (s.bump (sqR cl 0x50) 1).reg o := by
      have ha : (s.seqIssued cl).ac = s.ac := by rw [h.1]
      simp only [State.reg, State.modSeq_regs, State.modSeq_ac, h.2.2.1, ha, State.bump_ac]
    rw [e]; exact State.reg_setReg_ne s ho
  · intro c hc
    rw [State.seq_modSeq_ne _ hc]; simp
  · intro q
    exact h.2.2.2 q

/-- A done instruction touches its own sequencer, its count and the last progress of its step. -/
theorem State.seqDone_onlySeq (s : State) (cl : Nat) (f : Seq → Seq) : OnlySeq s (s.seqDone cl f) cl := State.issued_onlySeq s cl _

/-- The count of instructions issued rises by one. -/
theorem State.issued_count (s : State) (cl : Nat) (f : Seq → Seq) :
    ((s.seqIssued cl).modSeq cl f).reg (sqR cl 0x50) = (s.reg (sqR cl 0x50) + 1) % 2 ^ 64 := by
  have h := State.seqIssued_frame s cl
  have ha : (s.seqIssued cl).ac = s.ac := by rw [h.1]
  have e : ((s.seqIssued cl).modSeq cl f).reg (sqR cl 0x50) = (s.bump (sqR cl 0x50) 1).reg (sqR cl 0x50) := by
    simp only [State.reg, State.modSeq_regs, State.modSeq_ac, h.2.2.1, ha, State.bump_ac]
  rw [e]; exact State.reg_setReg s

/-- Only the loops and the PC change when an instruction falls through. -/
theorem Seq.fall_frame (q : Seq) : q.fall = { q with loops := q.fall.loops, pc := q.fall.pc } := rfl

end Sys2Proof.Machine
end

