-- ==== Sys2Proof/Laws/Seq.lean ====
section
/-! SUPPORT. Laws of a sequencer: its registers and counters read back, falling through, and branches. -/

namespace Sys2Proof.Machine

@[simp] theorem Seq.fall_state (q : Seq) : q.fall.state = q.state := rfl
@[simp] theorem Seq.fall_s (q : Seq) : q.fall.s = q.s := rfl
@[simp] theorem Seq.fall_c (q : Seq) : q.fall.c = q.c := rfl
@[simp] theorem Seq.fall_csrc (q : Seq) : q.fall.csrc = q.csrc := rfl
@[simp] theorem Seq.fall_k (q : Seq) : q.fall.k = q.k := rfl
@[simp] theorem Seq.fall_mxMask (q : Seq) : q.fall.mxMask = q.mxMask := rfl
@[simp] theorem Seq.fall_mxStep (q : Seq) : q.fall.mxStep = q.mxStep := rfl
@[simp] theorem Seq.fall_launchNo (q : Seq) : q.fall.launchNo = q.launchNo := rfl
@[simp] theorem Seq.fall_kcount (q : Seq) : q.fall.kcount = q.kcount := rfl
@[simp] theorem Seq.fall_kflags (q : Seq) : q.fall.kflags = q.kflags := rfl
@[simp] theorem Seq.fall_queue (q : Seq) : q.fall.queue = q.queue := rfl
@[simp] theorem Seq.fall_ctx (q : Seq) : q.fall.ctx = q.ctx := rfl
@[simp] theorem Seq.fall_part (q : Seq) : q.fall.part = q.part := rfl
@[simp] theorem Seq.fall_stepVa (q : Seq) : q.fall.stepVa = q.stepVa := rfl
@[simp] theorem Seq.fall_rank (q : Seq) : q.fall.rank = q.rank := rfl
@[simp] theorem Seq.fall_placed (q : Seq) : q.fall.placed = q.placed := rfl
@[simp] theorem Seq.fall_wait (q : Seq) : q.fall.wait = q.wait := rfl
@[simp] theorem Seq.fall_ended (q : Seq) : q.fall.ended = q.ended := rfl
@[simp] theorem Seq.fall_yield (q : Seq) : q.fall.yield = q.yield := rfl
@[simp] theorem Seq.fall_inFlight (q : Seq) : q.fall.inFlight = q.inFlight := rfl
@[simp] theorem Seq.fall_mxOut (q : Seq) : q.fall.mxOut = q.mxOut := rfl
@[simp] theorem Seq.fall_nextMx (q : Seq) : q.fall.nextMx = q.nextMx := rfl
@[simp] theorem Seq.fall_densCores (q : Seq) : q.fall.densCores = q.densCores := rfl
@[simp] theorem Seq.fall_densSlots (q : Seq) : q.fall.densSlots = q.densSlots := rfl
@[simp] theorem Seq.fall_cache (q : Seq) : q.fall.cache = q.cache := rfl
@[simp] theorem Seq.fall_micro (q : Seq) : q.fall.micro = q.micro := rfl
@[simp] theorem Seq.fall_sreg (q : Seq) (n : Nat) : q.fall.sreg n = q.sreg n := rfl
@[simp] theorem Seq.fall_ctr (q : Seq) (n : Nat) : q.fall.ctr n = q.ctr n := rfl

theorem Seq.sreg_lt (q : Seq) (n : Nat) : q.sreg n < 2 ^ 64 := (q.s.getD n 0).isLt
theorem Seq.ctr_lt (q : Seq) (n : Nat) : q.ctr n < 2 ^ 64 := (q.c.getD n 0).isLt

/-- An s-register that is written reads back, modulo 2^64. -/
theorem Seq.sreg_setS (q : Seq) (n v : Nat) : (q.setS n v).sreg n = v % 2 ^ 64 := by simp [Seq.sreg, Seq.setS]
theorem Seq.sreg_setS_ne (q : Seq) {n m : Nat} (v : Nat) (h : m ≠ n) : (q.setS n v).sreg m = q.sreg m := by
  simp [Seq.sreg, Seq.setS, SMap.getD_set_ne h]

/-- A counter that is written reads back, modulo 2^64. -/
theorem Seq.ctr_setC (q : Seq) (n v : Nat) : (q.setC n v).ctr n = v % 2 ^ 64 := by simp [Seq.ctr, Seq.setC]
theorem Seq.ctr_setC_ne (q : Seq) {n m : Nat} (v : Nat) (h : m ≠ n) : (q.setC n v).ctr m = q.ctr m := by
  simp [Seq.ctr, Seq.setC, SMap.getD_set_ne h]

/-- The levels that a branch keeps hold its target. -/
theorem Seq.jump_loops (t : Nat) (ls : List LoopLevel) : ∀ l ∈ Seq.jump.pop t ls, l.start ≤ t ∧ t < l.stop := by
  induction ls with
  | nil => intro l h; simp [Seq.jump.pop] at h
  | cons x r ih =>
    intro l h
    simp only [Seq.jump.pop] at h
    split at h
    · rename_i c; simp only [List.all_eq_true, Bool.and_eq_true, decide_eq_true_eq] at c; exact c l h
    · exact ih l h

/-- A relative target is an address of 57 bits. -/
theorem Seq.rel_mod (q : Seq) (w : Nat) : q.rel w % 2 ^ 57 = q.rel w := by
  apply Nat.mod_eq_of_lt
  have := Int.emod_nonneg ((q.pc : Int) + 8 * swImmS w) (b := ((2 ^ 57 : Nat) : Int)) (by decide)
  have := Int.emod_lt_of_pos ((q.pc : Int) + 8 * swImmS w) (b := ((2 ^ 57 : Nat) : Int)) (by decide)
  unfold Seq.rel ofSigned
  omega

/-- A sequencer that waits at its instruction changes only in that. -/
theorem State.seqWaitAt_onlySeq (u : State) (cl : Nat) (w : SqWait) : OnlySeq u (u.seqWaitAt cl w) cl :=
  ⟨rfl, rfl, fun _ _ => rfl, fun _ hc => State.seq_modSeq_ne _ hc, fun _ => Or.inl rfl⟩

@[simp] theorem State.seqWaitAt_seq (u : State) (cl : Nat) (w : SqWait) :
    (u.seqWaitAt cl w).seq cl = { u.seq cl with wait := w, state := .waiting } := State.seq_modSeq ..

end Sys2Proof.Machine
end

