-- ==== Sys2Proof/Laws/Thread.lean ====
section
/-! SUPPORT. Laws of the thread engine: what counting an event touches, a group's paths and registers, and the end of an instruction. -/

namespace Sys2Proof.Machine

/-! ### Event counters -/

/-- A core's event counters changed, and nothing else. -/
def OnlyEvents (s t : State) (slot : Nat) : Prop :=
  t = { s with regs := t.regs } ∧ ∀ o, (∀ x, 0x40 ≤ x → x < 0x90 → o ≠ dbCore slot x) → t.reg o = s.reg o

theorem OnlyEvents.refl (s : State) (slot : Nat) : OnlyEvents s s slot := ⟨rfl, fun _ _ => rfl⟩

theorem OnlyEvents.trans {a b c : State} {slot : Nat} (h1 : OnlyEvents a b slot) (h2 : OnlyEvents b c slot) : OnlyEvents a c slot :=
  ⟨by rw [h2.1, h1.1], fun o ho => (h2.2 o ho).trans (h1.2 o ho)⟩

theorem OnlyEvents.bump (s : State) {slot x : Nat} (m : Nat) (h1 : 0x40 ≤ x) (h2 : x < 0x90) : OnlyEvents s (s.bump (dbCore slot x) m) slot :=
  ⟨rfl, fun _ ho => State.reg_setReg_ne s (ho x h1 h2)⟩

/-- What holds of each step of a repeated operation holds of the whole, for a relation that composes. -/
theorem State.each_rel {α : Type} {I : State → State → Prop} (hr : ∀ s, I s s) (ht : ∀ {a b c}, I a b → I b c → I a c)
    {f : State → α → State} {l : List α} (h : ∀ t, ∀ x ∈ l, I t (f t x)) (s : State) : I s (s.each l f) := by
  unfold State.each
  induction l generalizing s with
  | nil => exact hr s
  | cons x r ih => exact ht (h s x (by simp)) (ih (fun t y hy => h t y (List.mem_cons_of_mem _ hy)) (f s x))

/-- An event of a core writes that core's counters only. -/
theorem State.coreEvent_only (s : State) (slot code n : Nat) : OnlyEvents s (s.coreEvent slot code n) slot := by
  unfold State.coreEvent
  dsimp only
  refine OnlyEvents.trans (b := if code = 1 then s.bump (dbCore slot 0x80) n else if code = 2 then s.bump (dbCore slot 0x88) n else s) ?_ ?_
  · split
    · exact OnlyEvents.bump s n (by omega) (by omega)
    · split
      · exact OnlyEvents.bump s n (by omega) (by omega)
      · exact OnlyEvents.refl s slot
  · generalize (if code = 1 then s.bump (dbCore slot 0x80) n else if code = 2 then s.bump (dbCore slot 0x88) n else s) = z
    refine State.each_rel (I := fun a b => OnlyEvents a b slot) (fun s => OnlyEvents.refl s slot) OnlyEvents.trans ?_ _
    intro t k hk
    rw [List.mem_range] at hk
    generalize (_ && _ && _ : Bool) = on
    cases on
    · exact OnlyEvents.refl t slot
    · exact OnlyEvents.bump t n (by omega) (by omega)

@[simp] theorem State.coreEvent_core (s : State) (slot code n c : Nat) : (s.coreEvent slot code n).core c = s.core c := by
  rw [(State.coreEvent_only s slot code n).1]; rfl
@[simp] theorem State.coreEvent_group (s : State) (slot code n c k : Nat) : (s.coreEvent slot code n).group c k = s.group c k := by
  rw [(State.coreEvent_only s slot code n).1]; rfl

/-! ### Groups -/

/-- Changing a group that is there. -/
theorem State.group_modGroup {s : State} {c k : Nat} {g : Group} (h : s.group c k = some g) (f : Group → Group) :
    (s.modGroup c k f).group c k = some (f g) := by
  unfold State.group at h
  simp [State.group, State.modGroup, h]

theorem State.group_modGroup_ne (s : State) {c d k l : Nat} (f : Group → Group) (h : ¬(d = c ∧ l = k)) : (s.modGroup c k f).group d l = s.group d l := by
  unfold State.group State.modGroup
  by_cases hd : d = c
  · subst hd
    rw [State.core_modCore]
    split
    · exact SMap.find_put_ne (fun e => h ⟨rfl, e⟩) _
    · rfl
  · rw [State.core_modCore_ne _ hd]

/-- Changing a group touches that group only. -/
theorem State.modGroup_only (s : State) (c k : Nat) (f : Group → Group) : OnlyGroup s (s.modGroup c k f) c k := by
  refine ⟨rfl, fun d hd => State.core_modCore_ne _ hd, ?_, fun l hl => State.group_modGroup_ne _ _ (fun e => hl e.2), fun _ _ => rfl⟩
  unfold State.modGroup
  rw [State.core_modCore]
  split <;> rfl

theorem OnlyGroup.refl (s : State) (c k : Nat) : OnlyGroup s s c k := ⟨rfl, fun _ _ => rfl, rfl, fun _ _ => rfl, fun _ _ => rfl⟩

theorem OnlyGroup.trans {a b d : State} {c k : Nat} (h1 : OnlyGroup a b c k) (h2 : OnlyGroup b d c k) : OnlyGroup a d c k := by
  obtain ⟨p1, p2, p3, p4, p5⟩ := h1
  obtain ⟨q1, q2, q3, q4, q5⟩ := h2
  refine ⟨by rw [q1, p1], fun x hx => (q2 x hx).trans (p2 x hx), by rw [q3, p3], fun x hx => (q4 x hx).trans (p4 x hx), fun o ho => (q5 o ho).trans (p5 o ho)⟩

theorem OnlyEvents.onlyGroup {s t : State} {c : Nat} (h : OnlyEvents s t c) (k : Nat) : OnlyGroup s t c k := by
  obtain ⟨h1, h2⟩ := h
  have hc : t.cores = s.cores := by rw [h1]
  have e : ∀ d, t.core d = s.core d := fun d => by simp only [State.core, hc]
  exact ⟨by rw [h1], fun d _ => e d, by rw [e], fun l _ => by simp only [State.group, e], h2⟩

/-- The model's counter of free values is no part of a group. -/
theorem State.free_only (s : State) (n c k : Nat) : OnlyGroup s { s with free := n } c k :=
  ⟨rfl, fun _ _ => rfl, rfl, fun _ _ => rfl, fun _ _ => rfl⟩

/-! ### Paths -/

/-- What a group's paths settle to leaves its registers and its lanes. -/
theorem Group.settle_keeps (n : Nat) (g : Group) : (Group.settle n g).regs = g.regs ∧ (Group.settle n g).exited = g.exited
    ∧ (Group.settle n g).lfsr = g.lfsr ∧ (Group.settle n g).block = g.block ∧ (Group.settle n g).stall = g.stall := by
  induction n generalizing g with
  | zero => exact ⟨rfl, rfl, rfl, rfl, rfl⟩
  | succ n ih =>
    simp only [Group.settle]
    split
    · refine ⟨(ih _).1.trans ?_, (ih _).2.1.trans ?_, (ih _).2.2.1.trans ?_, (ih _).2.2.2.1.trans ?_, (ih _).2.2.2.2.trans ?_⟩ <;>
        (unfold Group.join; dsimp only; split <;> rfl)
    · split
      · split
        · unfold Group.switch
          split
          · exact ⟨rfl, rfl, rfl, rfl, rfl⟩
          · split <;> exact ⟨rfl, rfl, rfl, rfl, rfl⟩
        · exact ⟨rfl, rfl, rfl, rfl, rfl⟩
      · exact ⟨rfl, rfl, rfl, rfl, rfl⟩

theorem Group.markRecon_of_entries {g : Group} (h : g.entries = []) : g.markRecon = g := by
  unfold Group.markRecon
  have : ∀ l : List PathSt, l.map (fun p => match p.entry with
      | none => p
      | some e => match g.entries.find? (fun x => x.id = e) with
        | some x => if p.pc = x.recon && !p.atBarrier then { p with atRecon := true } else p
        | none => p) = l := by
    intro l
    induction l with
    | nil => rfl
    | cons p r ih =>
      rw [List.map_cons, ih, h]
      cases p.entry <;> rfl
  obtain ⟨⟩ := g
  exact congrArg (fun x => ({ paths := x, block := _, index := _, width := _, lanes := _, exited := _, count := _, entries := _, nextEntry := _, regs := _, lfsr := _, stall := _ } : Group)) (this _)

/-- A group of one path and no entries is settled. -/
theorem Group.settle_single {g : Group} {p : PathSt} (h : Single g p) (n : Nat) : Group.settle n g = g := by
  cases n with
  | zero => rfl
  | succ n =>
    have hr : g.ripe = none := by simp [Group.ripe, h.2]
    simp only [Group.settle, Group.markRecon_of_entries h.2, hr, h.1]
    split
    · simp [Group.switch, h.1, nextPath]
    · rfl

/-! ### The end of an instruction -/

/-- An instruction that falls through: the group's path goes on, and nothing else of it changes but its count and stall. -/
theorem State.retire_only (s : State) (i : Issue) : OnlyGroup s (s.retire i) i.core i.slot := by
  unfold State.retire
  split
  · exact OnlyGroup.refl ..
  · exact OnlyGroup.trans (OnlyEvents.onlyGroup (State.coreEvent_only ..) _) (State.modGroup_only ..)

theorem State.retire_free (s : State) (i : Issue) : (s.retire i).free = s.free := by
  unfold State.retire
  split
  · rfl
  · rename_i g _
    have h : (s.countIssue i g).free = s.free := by
      unfold State.countIssue; rw [(State.coreEvent_only ..).1]
    exact h

theorem State.retire_group {s : State} {i : Issue} {g : Group} (h : s.group i.core i.slot = some g) :
    ∃ x, (s.retire i).group i.core i.slot = some x ∧ x.regs = g.regs ∧ x.lfsr = g.lfsr ∧ x.exited = g.exited
      ∧ (g.paths ≠ [] → x.stall = .none) ∧ ∀ p, Single g p → x.paths = [{ p with pc := i.next }] ∧ x.entries = [] := by
  have h' : ∀ w, (s.countIssue i w).group i.core i.slot = some g := fun w => by rw [State.countIssue, State.coreEvent_group, h]
  have e : (s.retire i).group i.core i.slot = some (match g.paths with
      | p :: rest => Group.settle 34 { g with paths := { p with pc := i.next } :: rest, count := g.count + 1, stall := .none }
      | [] => g) := by
    unfold State.retire
    rw [h]
    exact State.group_modGroup (h' g) _
  refine ⟨_, e, ?_⟩
  · cases hp : g.paths with
    | nil => exact ⟨rfl, rfl, rfl, fun h => absurd rfl h, fun p hs => by rw [hs.1] at hp; cases hp⟩
    | cons p rest =>
      have k := Group.settle_keeps 34 { g with paths := { p with pc := i.next } :: rest, count := g.count + 1, stall := .none }
      refine ⟨k.1, k.2.2.1, k.2.1, fun _ => k.2.2.2.2, fun q hs => ?_⟩
      rw [hs.1] at hp
      obtain ⟨rfl, rfl⟩ : q = p ∧ [] = rest := by simpa using hp
      have := Group.settle_single (g := { g with paths := { q with pc := i.next } :: [], count := g.count + 1, stall := .none }) (p := { q with pc := i.next }) ⟨rfl, hs.2⟩ 34
      dsimp only at this ⊢
      rw [this]
      exact ⟨rfl, hs.2⟩

/-! ### Registers of lanes -/

@[simp] theorem Group.reg_setReg (g : Group) (l r v : Nat) : (g.setReg l r v).reg l r = v % 2 ^ 32 := by simp [Group.reg, Group.setReg]
theorem Group.reg_setReg_ne (g : Group) {l r m q : Nat} (v : Nat) (h : ¬(l = m ∧ r = q)) (h1 : r < 256) (h2 : q < 256) : (g.setReg m q v).reg l r = g.reg l r := by
  have : l * 256 + r ≠ m * 256 + q := by omega
  simp [Group.reg, Group.setReg, SMap.getD_set_ne this]

/-- Lane by lane, `n` registers from `rd` on took a value, and nothing else of a group changed. -/
def LanesTook (g h : Group) (ls : List Nat) (rd n : Nat) (val : Nat → Nat) : Prop :=
  (∀ l ∈ ls, ∀ j, j < n → h.reg l (rd + j) = val l / 2 ^ (32 * j) % 2 ^ 32)
    ∧ (∀ l r, r < 256 → l ∉ ls ∨ r < rd ∨ rd + n ≤ r → h.reg l r = g.reg l r) ∧ h.paths = g.paths ∧ h.entries = g.entries

/-- A fold over distinct lanes, each of which writes its own registers, gives each lane its value. -/
theorem Group.lanes_took {rd n : Nat} (val : Nat → Nat) (f : Group → Nat → Group) (ls : List Nat) (hd : ls.Nodup)
    (hf : ∀ h, ∀ l ∈ ls, LanesTook h (f h l) [l] rd n val) (hn : rd + n ≤ 256) (g : Group) : LanesTook g (ls.foldl f g) ls rd n val := by
  induction ls generalizing g with
  | nil => exact ⟨by simp, fun _ _ _ _ => rfl, rfl, rfl⟩
  | cons x r ih =>
    rw [List.nodup_cons] at hd
    obtain ⟨a1, a2, a3, a4⟩ := hf g x (by simp)
    obtain ⟨b1, b2, b3, b4⟩ := ih hd.2 (fun h l hl => hf h l (List.mem_cons_of_mem _ hl)) (f g x)
    refine ⟨?_, ?_, b3.trans a3, b4.trans a4⟩
    · intro l hl j hj
      rcases List.mem_cons.mp hl with rfl | hl
      · rw [List.foldl_cons, b2 l (rd + j) (by omega) (Or.inl hd.1)]; exact a1 l (by simp) j hj
      · exact b1 l hl j hj
    · intro l q hq h
      rw [List.foldl_cons, b2 l q hq ?_, a2 l q hq ?_]
      · rcases h with h | h
        · exact Or.inl (by intro c; exact h (by simp at c; simp [c]))
        · exact Or.inr h
      · rcases h with h | h
        · exact Or.inl (fun c => h (List.mem_cons_of_mem _ c))
        · exact Or.inr h

theorem Group.took_setReg (g : Group) (l rd : Nat) (h1 : rd + 1 ≤ 256) (val : Nat → Nat) : LanesTook g (g.setReg l rd (val l)) [l] rd 1 val := by
  refine ⟨?_, ?_, rfl, rfl⟩
  · intro m hm j hj
    obtain rfl : m = l := by simpa using hm
    obtain rfl : j = 0 := by omega
    simp
  · intro m r hr h
    refine Group.reg_setReg_ne g _ ?_ hr (by omega)
    rintro ⟨rfl, rfl⟩
    rcases h with h | h | h
    · exact h (by simp)
    · omega
    · omega

theorem Group.took_setReg64 (g : Group) (l rd : Nat) (h1 : rd + 2 ≤ 256) (val : Nat → Nat) : LanesTook g (g.setReg64 l rd (val l)) [l] rd 2 val := by
  refine ⟨?_, ?_, rfl, rfl⟩
  · intro m hm j hj
    obtain rfl : m = l := by simpa using hm
    rcases (by omega : j = 0 ∨ j = 1) with rfl | rfl
    · unfold Group.setReg64
      rw [Group.reg_setReg_ne _ _ (by omega) (by omega) (by omega)]
      simp
    · unfold Group.setReg64
      simp
  · intro m r hr h
    unfold Group.setReg64
    have : ∀ q, q < rd + 2 → rd ≤ q → ¬(m = l ∧ r = q) := by
      rintro q h2 h3 ⟨rfl, rfl⟩
      rcases h with h | h | h
      · exact h (by simp)
      · omega
      · omega
    rw [Group.reg_setReg_ne _ _ (this _ (by omega) (by omega)) hr (by omega), Group.reg_setReg_ne _ _ (this _ (by omega) (by omega)) hr (by omega)]

theorem Group.took_setRegs (g : Group) (l rd n : Nat) (h1 : rd + n ≤ 256) (val : Nat → Nat) : LanesTook g (g.setRegs l rd n (val l)) [l] rd n val := by
  unfold Group.setRegs
  induction n with
  | zero => exact ⟨by intro _ _ j hj; omega, fun _ _ _ _ => rfl, rfl, rfl⟩
  | succ n ih =>
    rw [List.range_succ, List.foldl_append, List.foldl_cons, List.foldl_nil]
    obtain ⟨a1, a2, a3, a4⟩ := ih (by omega)
    generalize (List.range n).foldl (fun (h : Group) j => h.setReg l (rd + j) (val l / 2 ^ (32 * j))) g = h at *
    refine ⟨?_, ?_, a3, a4⟩
    · intro m hm j hj
      obtain rfl : m = l := by simpa using hm
      by_cases e : j = n
      · subst e; rw [Group.reg_setReg]
      · rw [Group.reg_setReg_ne _ _ (by omega) (by omega) (by omega)]; exact a1 m hm j (by omega)
    · intro m r hr hc
      rw [Group.reg_setReg_ne _ _ ?_ hr (by omega)]
      · exact a2 m r hr (by rcases hc with h | h | h; exact Or.inl h; exact Or.inr (Or.inl h); exact Or.inr (Or.inr (by omega)))
      · rintro ⟨rfl, rfl⟩
        rcases hc with h | h | h
        · exact h (by simp)
        · omega
        · omega

/-- Lanes of a mask are distinct, and below 64. -/
theorem lanesOf_nodup (m : Nat) : (lanesOf m).Nodup := by
  unfold lanesOf bitList
  exact List.Nodup.sublist List.filter_sublist List.nodup_range
theorem lanesOf_lt {m l : Nat} (h : l ∈ lanesOf m) : l < 64 := by
  unfold lanesOf bitList at h
  simp at h
  exact h.1

/-- Lanes take their values, and the instruction is at its end. -/
theorem State.lanes_retire {s u : State} {i : Issue} {p : PathSt} {g h : Group} {ls : List Nat} {rd n : Nat} {val : Nat → Nat}
    (ho : OnlyGroup s u i.core i.slot) (h1 : s.group i.core i.slot = some g) (h2 : u.group i.core i.slot = some h) (ht : LanesTook g h ls rd n val) :
    LaneResults s (u.retire i) i p ls rd n val := by
  obtain ⟨x, e1, e2, _, _, _, e5⟩ := State.retire_group h2
  have hr : ∀ l r, x.reg l r = h.reg l r := fun l r => by simp only [Group.reg, e2]
  refine ⟨OnlyGroup.trans ho (State.retire_only u i), g, x, h1, e1, ?_, ?_, fun hs => (e5 p ⟨ht.2.2.1.trans hs.1, ht.2.2.2.trans hs.2⟩).1⟩
  · intro l hl j hj; rw [hr]; exact ht.1 l hl j hj
  · intro l r hr' hc; rw [hr]; exact ht.2.1 l r hr' hc

/-- The group of an issue. -/
theorem State.issuing_group {s : State} {i : Issue} {g : Group} {p : PathSt} (h : s.issuing i = some (g, p)) :
    s.group i.core i.slot = some g ∧ g.paths.head? = some p ∧ p.waits = false := by
  unfold State.issuing at h
  dsimp only at h
  split at h
  · cases hg : (s.core i.core).groups.find i.slot with
    | none => simp [hg] at h
    | some x =>
      simp only [hg] at h
      cases hp : x.paths with
      | nil => simp [hp] at h
      | cons y r =>
        simp only [hp] at h
        split at h
        · cases h
        · rename_i hw
          obtain ⟨rfl, rfl⟩ : x = g ∧ y = p := by simpa using h
          exact ⟨hg, by rw [hp]; rfl, by simp at hw; exact hw.1⟩
  · cases h

end Sys2Proof.Machine
end

