-- ==== Sys2Proof/Laws/ThreadMem.lean ====
section
/-! SUPPORT. Laws of the memory instructions of threads: lanes that are translated, and a lane's loaded value. -/

namespace Sys2Proof.Machine

/-- A lane takes a loaded value, and the instruction is at its end. -/
theorem State.laneWrite_retire {s u : State} {i : Issue} {p : PathSt} {g : Group} {l rd n v : Nat} (h2 : u.group i.core i.slot = some g) (hn : rd + n ≤ 256) :
   LaneResults u ((u.laneWrite i l rd n v).retire i) i p [l] rd n (fun _ => v) := by
  refine State.lanes_retire (State.modGroup_only u i.core i.slot _) h2 (State.group_modGroup h2 _) ?_
  exact Group.took_setRegs g l rd n hn (fun _ => v)

/-- Lanes that are aligned and translated, and fall nowhere bad, do what the instruction does. -/
theorem State.lanesDo_acts {s u : State} {i : Issue} {k : Kernel} {g : Group} {p : PathSt} {size acc : Nat} {va : Nat → Nat} {ls : List LaneAt} (h : Translates s i k g p size acc va u ls) (f) :
   s.lanesDo i k g p size acc va f = f s u ls := by
  obtain ⟨h1, h2, h3, h4, h5⟩ := h
  unfold State.lanesDo
  dsimp only
  rw [if_neg, if_neg (by simp [h3]), h4]
  · dsimp only
    have : List.find? (fun l => decide (u.laneKind i k l = LaneKind.bad)) ls = none := by
      rw [List.find?_eq_none]; intro l hl; simpa using h5 l hl
    rw [this]; rfl
  · simp only [h1, decide_false, Bool.or_false, List.any_map, Bool.not_eq_true, List.any_eq_false]
    intro l hl
    simpa using h2 l hl

end Sys2Proof.Machine
end

