-- ==== Sys2Proof/Tests/Slice0.lean ====
section
/-! SUPPORT. Tests: commands that are not well formed, states that meet the hypotheses of each statement together, and small
runs of one step whose expected result is worked out by hand from the spec. -/

namespace Sys2Proof.Tests

open Sys2Proof.Machine

/-! ### States to test on -/

/-- A stream word from its fields (05_sequencers_streams.md R182). -/
def sword (op d a b x imm : Nat) : Nat := op * 2 ^ 56 + d * 2 ^ 51 + a * 2 ^ 46 + b * 2 ^ 41 + x * 2 ^ 32 + imm

/-- A translation of 64 KiB at `va` of context 0 with every right: to the host, or to device address `out`. -/
def page (va out : Nat) (host : Bool) : Xent := { va := va, out := out, ipa := out, host := host, rd := true, wr := true, at_ := true }

/-- Sequencer 0 runs a step of queue 5 with word `w` at its PC in its stream cache. -/
def sqS (q : Seq) (w : Nat) : State :=
  { State.reset with
    seqs := [(0, { q with state := .running, queue := some 5, cache := [(q.pc / 128, List.replicate (q.pc % 128) 0 ++ leBytes 8 w ++ List.replicate 120 0)] })],
    pt := { parts := [(0, { st := .active, lay := { clusters := 1, enabled := true } })], steps := [(5, { st := .running, cls := [0], clusters := 1 })] } }

/-- The computable part of `Runs`. -/
def runsB (s : State) (cl op w : Nat) : Bool := s.seqCan cl && decide ((s.fetchWord cl).1 = some w) && streamOk w && decide (swOp w = op)

theorem runs_of {s : State} {cl op w : Nat} (h : runsB s cl op w = true) : Runs s cl op w (s.fetchWord cl).2 := by
  simp only [runsB, Bool.and_eq_true, decide_eq_true_eq] at h
  exact ⟨h.1.1.1, Prod.ext h.1.1.2 rfl, h.1.2, h.2⟩

theorem runs_all {q : Seq} {l : List (Nat × Nat)} (h : l.all (fun x => runsB (sqS q x.2) 0 x.1 x.2) = true) :
    ∀ x ∈ l, Runs (sqS q x.2) 0 x.1 x.2 ((sqS q x.2).fetchWord 0).2 := by
  intro x hx
  exact runs_of (List.all_eq_true.mp h x hx)

/-! ### Hypotheses: streams -/

/-- StreamArithmetic: each instruction runs, with the destination at s31 and a source that is the destination. -/
theorem test_hyp_StreamArithmetic : ∀ x ∈ [(0x10, sword 0x10 31 0 0 0 0xFFFFFFFF), (0x11, sword 0x11 31 0 0 0 1), (0x12, sword 0x12 1 1 31 0 0),
      (0x13, sword 0x13 1 0 1 0 0), (0x14, sword 0x14 2 1 2 0 0), (0x15, sword 0x15 0 1 2 0 0), (0x16, sword 0x16 0 1 2 0 0), (0x17, sword 0x17 0 1 1 0 0),
      (0x18, sword 0x18 1 1 0 0 63), (0x19, sword 0x19 1 1 0 0 63), (0x1A, sword 0x1A 1 1 0 0 0x80000000)],
    Runs (sqS {} x.2) 0 x.1 x.2 ((sqS {} x.2).fetchWord 0).2 := runs_all (by decide)

/-- StreamCounters: each instruction runs, LIDX inside a loop. -/
theorem test_hyp_StreamCounters : ∀ x ∈ [(0x00, 0), (0x22, sword 0x22 31 0 0 0 0), (0x32, sword 0x32 1 0 0 0 0), (0x3A, sword 0x3A 1 0 0 7 0),
      (0x38, sword 0x38 0 1 0 (6 * 8 + 7) 0), (0x39, sword 0x39 0 0 0 7 0xFFFFFFFF), (0x3B, sword 0x3B 0 1 0 (2 * 32 + 7 * 4 + 3) 0), (0x42, sword 0x42 3 0 0 0 0),
      (0x48, sword 0x48 0 1 0 0 0xFF)],
    Runs (sqS { loops := [{ start := 0, stop := 64, remaining := 2, index := 1 }] } x.2) 0 x.1 x.2
      ((sqS { loops := [{ start := 0, stop := 64, remaining := 2, index := 1 }] } x.2).fetchWord 0).2 := runs_all (by decide)

/-- StreamControl: each condition of BR, taken and not taken; KBR with its comparator true and false; LOOP with a count and without, also at depth three
inside a level that just holds it; END. -/
theorem test_hyp_StreamControl :
    (∀ x ∈ [(0x30, sword 0x30 0 1 2 0 0xFFFFFFFE), (0x30, sword 0x30 0 1 2 1 4), (0x30, sword 0x30 0 1 2 2 4), (0x30, sword 0x30 0 1 2 3 4),
        (0x30, sword 0x30 0 1 2 4 4), (0x30, sword 0x30 0 1 2 5 4), (0x30, sword 0x30 0 1 2 6 4), (0x3D, sword 0x3D 0 0 0 3 4), (0x01, sword 0x01 0 0 0 0 0)],
      Runs (sqS {} x.2) 0 x.1 x.2 ((sqS {} x.2).fetchWord 0).2)
    ∧ ((sqS {} (sword 0x3D 0 0 0 3 4)).seq 0).cmpTrue 3 = false
    ∧ (let q : Seq := { k := [(3, { armed := true })] }
       Runs (sqS q (sword 0x3D 0 0 0 3 4)) 0 0x3D (sword 0x3D 0 0 0 3 4) ((sqS q (sword 0x3D 0 0 0 3 4)).fetchWord 0).2 ∧ ((sqS q 0).seq 0).cmpTrue 3 = true)
    ∧ (let q : Seq := { pc := 8, s := [(1, 2)], loops := [⟨8, 24, 1, 0⟩, ⟨0, 64, 2, 0⟩, ⟨0, 80, 1, 0⟩] }
       let w := sword 0x31 0 1 0 0 1
       let s := sqS q w
       Runs s 0 0x31 w (s.fetchWord 0).2 ∧ (s.seq 0).loops.length < 4 ∧ (∀ l, (s.seq 0).loops.head? = some l → (s.seq 0).pc + 8 + 8 * swImm w ≤ l.stop)
         ∧ (s.seq 0).sreg (swA w) % 2 ^ 32 ≠ 0 ∧ (s.seq 0).sreg 0 % 2 ^ 32 = 0)
    ∧ Runs (sqS {} (sword 0x31 0 0 0 0 65535)) 0 0x31 (sword 0x31 0 0 0 0 65535) ((sqS {} (sword 0x31 0 0 0 0 65535)).fetchWord 0).2 := by
  refine ⟨runs_all (by decide), by decide, ⟨runs_of (by decide), by decide⟩, ⟨runs_of (by decide), by decide, by decide, by decide, by decide⟩, runs_of (by decide)⟩

/-- Sequencer 0 waits. -/
def sqWait (q : Seq) (w : Nat) : State :=
  let s := sqS q w
  { s with seqs := [(0, { s.seq 0 with state := .waiting, wait := q.wait })] }

/-- StreamWaits: KWAIT and LWAIT with their condition true and false, and their waits at their end. -/
theorem test_hyp_StreamWaits :
    (let w := sword 0x3C 0 0 0 3 0
     (∀ q ∈ [({ k := [(3, { armed := true })] } : Seq), {}], Runs (sqS q w) 0 0x3C w ((sqS q w).fetchWord 0).2)
       ∧ ((sqS { k := [(3, { armed := true })] } w).seq 0).cmpTrue 3 = true ∧ ((sqS {} w).seq 0).cmpTrue 3 = false)
    ∧ (let w := sword 0x41 0 0 0 0 7
       let v := sword 0x41 0 0 0 0 0
       Runs (sqS { inFlight := [0, 1, 2, 3, 4, 5, 6] } w) 0 0x41 w ((sqS { inFlight := [0, 1, 2, 3, 4, 5, 6] } w).fetchWord 0).2
         ∧ Runs (sqS { inFlight := [0] } v) 0 0x41 v ((sqS { inFlight := [0] } v).fetchWord 0).2)
    ∧ (let s := sqWait { wait := .kwait 3, k := [(3, { armed := true })] } 0
       s.seqLive 0 = true ∧ (s.seq 0).wait = .kwait 3 ∧ (s.seq 0).cmpTrue 3 = true)
    ∧ (let s := sqWait { wait := .lwait 0 } 0
       s.seqLive 0 = true ∧ (s.seq 0).wait = .lwait 0 ∧ (s.seq 0).inFlight.length ≤ 0) := by
  refine ⟨⟨?_, by decide, by decide⟩, ⟨runs_of (by decide), runs_of (by decide)⟩, by decide, by decide⟩
  intro q hq
  simp only [List.mem_cons, List.not_mem_nil, or_false] at hq
  rcases hq with rfl | rfl <;> exact runs_of (by decide)
theorem xl_of {s : State} {a : Agent} {c va acc pc : Nat} {e : Xent} (h : (s.xlateOr a c va acc pc).1 = some e) :
    s.xlateOr a c va acc pc = (some e, (s.xlateOr a c va acc pc).2) := Prod.ext h rfl

/-- A DDR channel of 64 GiB in service. -/
def ddrUp : Ext := { ddr := [(0, { st := .inService, bytes := 0x1000000000 })] }

/-- The first address of DDR channel 0. -/
def ddr0 : Nat := 0x100000000000

/-- A sequencer about to run `w` with page 0x10000 at `out`, s1 at the page and s2 a value; DDR channel 0 is up. -/
def sqM (out : Nat) (host : Bool) (w : Nat) : State :=
  { sqS { micro := [page 0x10000 out host], s := [(1, 0x10000), (2, 0x1122334455667788)] } w with ext := ddrUp }

/-- The hypotheses that LD and ST share. -/
def LdHyp (s : State) (op acc w : Nat) (e : Xent) (u v : State) : Prop :=
  let va := ofSigned 57 (((u.seq 0).sreg (swA w) : Int) + swImmS w)
  Runs s 0 op w u ∧ va % 8 = 0 ∧ u.xlateOr (.seq 0) (u.seq 0).ctx va acc (u.seq 0).pc = (some e, v)

/-- The state once the address is translated. -/
def ldV (s : State) (acc w : Nat) : Option Xent × State :=
  let u := (s.fetchWord 0).2
  u.xlateOr (.seq 0) (u.seq 0).ctx (ofSigned 57 (((u.seq 0).sreg (swA w) : Int) + swImmS w)) acc (u.seq 0).pc

theorem ldHyp_of {s : State} {op acc w : Nat} {e : Xent} (P : State → Prop) (h : runsB s 0 op w = true)
    (h1 : ofSigned 57 ((((s.fetchWord 0).2.seq 0).sreg (swA w) : Int) + swImmS w) % 8 = 0) (h2 : (ldV s acc w).1 = some e) (h3 : P (ldV s acc w).2) :
    ∃ u v, LdHyp s op acc w e u v ∧ P v :=
  ⟨_, _, ⟨runs_of h, h1, xl_of h2⟩, h3⟩

/-- LD to s2 and ST of s2 at the last eight bytes of the page that s1 names. -/
def wLd : Nat := sword 0x20 2 1 0 0 0xFFF8
/-- The ST. -/
def wSt : Nat := sword 0x21 0 1 2 0 0xFFF8
/-- The page's translation. -/
def pg (out : Nat) (host : Bool) : Xent := page 0x10000 out host

/-- StreamLoadStore: LD from the host, from a register, from memory and from a poisoned sector. -/
theorem test_hyp_StreamLoadStore_ld :
    (∃ u v, LdHyp (sqM 0 true wLd) 0x20 accRead wLd (pg 0 true) u v ∧ v.hostRead 0xFFF8 8 = some (List.replicate 8 0))
    ∧ (∃ u v, LdHyp (sqM regBase false wLd) 0x20 accRead wLd (pg regBase false) u v ∧ v.decode (regBase + 0xFFF8) = .reg 0xFFF8)
    ∧ (∃ u v, LdHyp (sqM ddr0 false wLd) 0x20 accRead wLd (pg ddr0 false) u v ∧ (v.decode (ddr0 + 0xFFF8) = .ddr 0 ∧
        let r := v.readMem (seqWho (v.seq 0) 0 (pg ddr0 false)) 0 (ddr0 + 0xFFF8) 8
        r.wait = false ∧ r.undec = none ∧ r.status = none ∧ r.poison = []))
    ∧ (∃ u v, LdHyp { sqM ddr0 false wLd with ext := { ddrUp with poison := [((ddr0 + 0xFFF8) / 32, true)] } } 0x20 accRead wLd (pg ddr0 false) u v ∧ (v.decode (ddr0 + 0xFFF8) = .ddr 0 ∧
        let r := v.readMem (seqWho (v.seq 0) 0 (pg ddr0 false)) 0 (ddr0 + 0xFFF8) 8
        r.wait = false ∧ r.undec = none ∧ r.poison ≠ [])) :=
  ⟨ldHyp_of _ (by decide) (by decide) (by decide) (by decide), ldHyp_of _ (by decide) (by decide) (by decide) (by decide),
    ldHyp_of _ (by decide) (by decide) (by decide) (by decide), ldHyp_of _ (by decide) (by decide) (by decide) (by decide)⟩

/-- StreamLoadStore: ST to the host, to a register and to memory. -/
theorem test_hyp_StreamLoadStore_st :
    (∃ u v, LdHyp (sqM 0 true wSt) 0x21 accWrite wSt (pg 0 true) u v ∧ (pg 0 true).host = true)
    ∧ (∃ u v, LdHyp (sqM regBase false wSt) 0x21 accWrite wSt (pg regBase false) u v ∧ v.decode (regBase + 0xFFF8) = .reg 0xFFF8)
    ∧ (∃ u v, LdHyp (sqM ddr0 false wSt) 0x21 accWrite wSt (pg ddr0 false) u v ∧ (v.decode (ddr0 + 0xFFF8) = .ddr 0 ∧
        let r := v.writeMem (seqWho (v.seq 0) 0 (pg ddr0 false)) 0 (.owner 0) (ddr0 + 0xFFF8) (leBytes 8 ((v.seq 0).sreg (swB wSt))) false
        r.wait = false ∧ r.undec = none ∧ r.status = none ∧ r.poison = [])) :=
  ⟨ldHyp_of _ (by decide) (by decide) (by decide) (by decide), ldHyp_of _ (by decide) (by decide) (by decide) (by decide),
    ldHyp_of _ (by decide) (by decide) (by decide) (by decide)⟩

/-- Host memory that holds a good kernel descriptor (02_thread_groups.md R57): one block of one thread, 8 registers. -/
def kdescMem : SMap Byte := [(0, 1), (2, 8), (8, 1), (10, 1), (12, 1), (16, 1), (20, 1), (22, 1)]

/-- A LAUNCH to s3 of the descriptor that s1 names, on logical core 0. -/
def wLaunch : Nat := sword 0x40 3 1 0 0 1

/-- A sequencer about to LAUNCH, with `fl` kernels in flight. -/
def launchS (fl : List Nat) : State :=
  { sqS { micro := [pg 0 true], s := [(1, 0x10000)], inFlight := fl } wLaunch with hostMem := kdescMem }

/-- StreamLaunches: a good launch with seven kernels in flight, one with eight, and an enqueue. -/
theorem test_hyp_StreamLaunches :
    (let s := launchS [10, 11, 12, 13, 14, 15, 16]
     let u := (s.fetchWord 0).2
     let q := u.seq 0
     let va := q.sreg (swA wLaunch)
     let g := u.seqGet 0 va 128 true
     Runs s 0 0x40 wLaunch u ∧ q.inFlight.length < 8 ∧ q.yield = false ∧ u.launchHeld q.part = false ∧ va % 128 = 0 ∧
       ((∃ b, g.data = some b ∧ kdescBad va b = false ∧ ((kdescOf b).fv40 = true → (g.st.part q.part).compat = true)) ∧ g.fail = none ∧ g.st.maskSlots 0 (swImm wLaunch % 256) ≠ []))
    ∧ (let s := launchS [9, 10, 11, 12, 13, 14, 15, 16]
       Runs s 0 0x40 wLaunch (s.fetchWord 0).2 ∧ 8 ≤ ((s.fetchWord 0).2.seq 0).inFlight.length)
    ∧ (let w := sword 0x60 1 2 3 0 0
       let s := sqS {} w
       let u := (s.fetchWord 0).2
       let q := u.seq 0
       Runs s 0 0x60 w u ∧ (u.enqueue (.seq 0) q.ctx (q.sreg (swA w) % 4096) (q.sreg (swB w) % 2 ^ 57) q.pc).status = some stBadDesc) := by
  refine ⟨⟨runs_of (by decide), by decide, by decide, by decide, by decide, ⟨_, rfl, by decide, by decide⟩, by decide, by decide⟩, ⟨runs_of (by decide), by decide⟩,
    runs_of (by decide), by decide⟩

/-- A sequencer in context 0 with fence 3 and event 4 of that context. -/
def syncS (q : Seq) (fv ev : Nat) (w : Nat) : State :=
  let s := sqS { q with s := [(1, 3), (2, 7), (3, 4)] } w
  { s with seqs := [(0, { s.seq 0 with state := if q.wait = .none then .running else .waiting })],
           obj := { syncs := [(3, { st := .live, value := fv }), (4, { st := .live, event := true, value := ev })] } }

/-- StreamSync: FSIG with its work drained and not, and its release; ESIG; EWAIT of an event above zero and at zero, and its end; FWAIT with its fence at its value and one below it,
and its end; SBAR, and its end. -/
theorem test_hyp_StreamSync :
    (let w := sword 0x51 0 1 2 1 0
     let s := syncS {} 0 0 w
     let u := (s.fetchWord 0).2
     Runs s 0 0x51 w u ∧ u.streamHandle (u.seq 0).ctx ((u.seq 0).sreg (swA w) % 2 ^ 16) false = true ∧ u.fsigReady 0 w = true ∧ u.cxlPending = [])
    ∧ (let w := sword 0x51 0 1 2 1 0
       let s := syncS { inFlight := [0] } 0 0 w
       let u := (s.fetchWord 0).2
       Runs s 0 0x51 w u ∧ u.streamHandle (u.seq 0).ctx ((u.seq 0).sreg (swA w) % 2 ^ 16) false = true ∧ u.fsigReady 0 w = false)
    ∧ (let w := sword 0x51 0 1 2 2 0
       let s := syncS { wait := .fsig } 0 0 w
       let u := (s.fetchWord 0).2
       s.seqLive 0 = true ∧ (s.seq 0).wait = .fsig ∧ s.fetchWord 0 = (some w, u) ∧ u.fsigReady 0 w = true ∧ u.cxlPending = [])
    ∧ (let w := sword 0x52 0 3 0 0 0
       let s := syncS {} 0 0xFFFFFFFF w
       let u := (s.fetchWord 0).2
       Runs s 0 0x52 w u ∧ u.streamHandle (u.seq 0).ctx ((u.seq 0).sreg (swA w) % 2 ^ 16) true = true)
    ∧ (let w := sword 0x53 0 3 0 0 0
       let s := syncS {} 0 1 w
       let u := (s.fetchWord 0).2
       Runs s 0 0x53 w u ∧ u.streamHandle (u.seq 0).ctx ((u.seq 0).sreg (swA w) % 2 ^ 16) true = true ∧ 0 < (u.sync ((u.seq 0).sreg (swA w) % 2 ^ 16)).value)
    ∧ (let w := sword 0x53 0 3 0 0 0
       let s := syncS {} 0 0 w
       let u := (s.fetchWord 0).2
       Runs s 0 0x53 w u ∧ u.streamHandle (u.seq 0).ctx ((u.seq 0).sreg (swA w) % 2 ^ 16) true = true ∧ (u.sync ((u.seq 0).sreg (swA w) % 2 ^ 16)).value = 0)
    ∧ (let s := syncS { wait := .ewait 4 } 0 1 0
       s.seqLive 0 = true ∧ (s.seq 0).wait = .ewait 4 ∧ ((List.range 0).filter (fun c => (s.seq c).wait = .ewait 4 && s.seqLive c)).length < (s.sync 4).value)
    ∧ (let w := sword 0x50 0 1 2 0 0
       let s := syncS {} 7 0 w
       let u := (s.fetchWord 0).2
       Runs s 0 0x50 w u ∧ u.streamHandle (u.seq 0).ctx 3 false = true ∧ (u.reelCl 0 2 0x05 (u.seq 0).ctx 3 7 0).fwaitNow 3 7 = some stOk)
    ∧ (let w := sword 0x50 0 1 2 0 0
       let s := syncS {} 6 0 w
       let u := (s.fetchWord 0).2
       Runs s 0 0x50 w u ∧ u.streamHandle (u.seq 0).ctx 3 false = true ∧ (u.reelCl 0 2 0x05 (u.seq 0).ctx 3 7 0).fwaitNow 3 7 = none)
    ∧ (let w := sword 0x50 0 1 2 0 0
       let s := syncS { wait := .fwait 3 7 } 7 0 w
       s.seqLive 0 = true ∧ (s.seq 0).wait = .fwait 3 7 ∧ s.fwaitNow 3 7 = some stOk ∧ s.fetchWord 0 = (some w, (s.fetchWord 0).2))
    ∧ (let w := sword 0x58 0 0 0 0 0
       Runs (syncS {} 0 0 w) 0 0x58 w ((syncS {} 0 0 w).fetchWord 0).2)
    ∧ (let s := syncS { wait := .sbar } 0 0 0
       s.placement 5 = [0] ∧ (s.seq 0).wait = .sbar ∧ s.seqLive 0 = true ∧ (s.seq 0).ended = false ∧ (s.seq 0).drained = true) := by
  refine ⟨⟨runs_of (by decide), by decide, by decide, by decide⟩, ⟨runs_of (by decide), by decide, by decide⟩, ⟨by decide, by decide, Prod.ext (by decide) rfl, by decide, by decide⟩,
    ⟨runs_of (by decide), by decide⟩, ⟨runs_of (by decide), by decide, by decide⟩, ⟨runs_of (by decide), by decide, by decide⟩, by decide,
    ⟨runs_of (by decide), by decide, by decide⟩, ⟨runs_of (by decide), by decide, by decide⟩, ⟨by decide, by decide, by decide, Prod.ext (by decide) rfl⟩,
    runs_of (by decide), by decide⟩

/-! ### Hypotheses: threads -/

/-- Core `c` runs kernel 0, which allocates all 256 registers, with the groups `gs`. -/
def coreS (c : Nat) (gs : SMap Group) : State :=
  { State.reset with
    cores := [(c, { te := .running, kernel := some 0, ctx := some 0, groups := gs, blocks := [{ linear := 0, slots := gs.map (·.1) }] })],
    pt := { kernels := [(0, { desc := { regs := 255 }, cores := [c] })] } }

/-- A group of one path at 0x100 with lanes `m`. -/
def grp (m : Nat) (r : SMap W32) : Group := { lanes := m, paths := [{ pc := 0x100, mask := m }], regs := r }

/-- Its path. -/
def pth (m : Nat) : PathSt := { pc := 0x100, mask := m }

/-- ThreadArithmetic: an operation with the highest register, one of 64 bits with the highest pair, both kinds of special register, and a conversion on the
last core with every field at its highest. -/
theorem test_hyp_ThreadArithmetic :
    (let s := coreS 0 [(0, grp 0xFFFFFFFF [])]
     let i : Issue := ⟨0, 0, 0x110⟩
     aluWide .fadd = false ∧ aluWide .dadd = true
       ∧ Issues s i [(255, 1)] (srcRegs (.reg 255) 1 ++ srcRegs (.imm 1) 1 ++ srcRegs (.reg 0) 1) (grp 0xFFFFFFFF []) (pth 0xFFFFFFFF)
       ∧ Issues s i [(254, 2)] (srcRegs (.reg 254) 2 ++ srcRegs (.reg 0) 2 ++ srcRegs (.imm 1) 2) (grp 0xFFFFFFFF []) (pth 0xFFFFFFFF)
       ∧ spWide .width = false ∧ spWide .tstamp = true ∧ (s.coreKernel 0).isSome = true ∧ Issues s i [(254, 2)] [] (grp 0xFFFFFFFF []) (pth 0xFFFFFFFF))
    ∧ (let s := coreS 248 [(63, grp 1 [])]
       slotWf 248 = true ∧ Issues s ⟨248, 63, 0x110⟩ [(255, 1)] [(255, 1)] (grp 1 []) (pth 1)) := by
  refine ⟨⟨by decide, by decide, ⟨by decide, by decide, by decide⟩, ⟨by decide, by decide, by decide⟩, by decide, by decide, by decide, by decide, by decide, by decide⟩,
    by decide, by decide, by decide, by decide⟩

/-- Registers r2 and r3 of `n` lanes hold 0x1000 + 16 for each lane. -/
def manyTargets (n : Nat) : SMap W32 := (List.range n).map (fun l => (l * 256 + 2, BitVec.ofNat 32 (0x1000 + 16 * l)))

/-- The targets of an indirect branch of a group. -/
def targetsOf (m : Nat) (g : Group) : List (Nat × Nat) := (lanesOf m).foldl (fun l x => addTarget l (g.reg64 x 2 % 2 ^ 57) x) []

/-- ThreadControl: a group of one path; a condition met by no lane, by all, by some; an indirect branch to one target, two, 33 and 34; a barrier with another
group of the block still running and without one; lanes that exit. -/
theorem test_hyp_ThreadControl :
    (let g := grp 0xF []
     let s := coreS 0 [(0, g)]
     Single g (pth 0xF) ∧ Issues s ⟨0, 0, 0x110⟩ [] [] g (pth 0xF) ∧ Issues s ⟨0, 0, 0x110⟩ [] [(2, 2)] g (pth 0xF) ∧ (s.core 0).groups = [(0, g)]
       ∧ ((0xF0 : W64).toNat &&& 0xF = 0) ∧ ((0xFF : W64).toNat &&& 0xF = 0xF) ∧ ((0x8 : W64).toNat &&& 0xF ≠ 0 ∧ (0x8 : W64).toNat &&& 0xF ≠ 0xF))
    ∧ (targetsOf 0xF (grp 0xF []) = [(0, 0xF)] ∧ (targetsOf 3 (grp 3 (manyTargets 2))).length = 2 ∧ (targetsOf (2 ^ 33 - 1) (grp (2 ^ 33 - 1) (manyTargets 33))).length = 33
       ∧ (∀ x ∈ targetsOf 3 (grp 3 (manyTargets 2)), x.1 ≠ 0x900) ∧ 33 < (targetsOf (2 ^ 34 - 1) (grp (2 ^ 34 - 1) (manyTargets 34))).length)
    ∧ (let g := { grp (2 ^ 34 - 1) (manyTargets 34) with width := 64 }
       let s := coreS 0 [(0, g)]
       Single g (pth (2 ^ 34 - 1)) ∧ Issues s ⟨0, 0, 0x110⟩ [] [] g (pth (2 ^ 34 - 1)) ∧ Issues s ⟨0, 0, 0x110⟩ [] [(2, 2)] g (pth (2 ^ 34 - 1)))
    ∧ (let g := grp 1 []
       let s := coreS 0 [(0, g), (1, grp 1 [])]
       Single g (pth 1) ∧ Issues s ⟨0, 0, 0x110⟩ [] [] g (pth 1)
         ∧ ∃ e ∈ (s.core 0).groups, e.2.block = g.block ∧ e.1 ≠ 0 ∧ ∃ q ∈ e.2.paths, q.atBarrier = false) := by
  refine ⟨⟨⟨by decide, by decide⟩, ⟨by decide, by decide, by decide⟩, ⟨by decide, by decide, by decide⟩, by decide, by decide, by decide, by decide⟩,
    ⟨by decide, by decide, by decide, by decide, by decide⟩,
    ⟨⟨by decide, by decide⟩, ⟨by decide, by decide, by decide⟩, ⟨by decide, by decide, by decide⟩⟩, ⟨by decide, by decide⟩, ⟨by decide, by decide, by decide⟩, by decide⟩

/-- ThreadFences: a group that issues with a store of its own in the buffer, and one whose wait is over. -/
theorem test_hyp_ThreadFences :
    (let g := grp 0xF []
     let s := coreS 0 [(0, g)]
     Single g (pth 0xF) ∧ Issues s ⟨0, 0, 0x110⟩ [] [] g (pth 0xF))
    ∧ (∀ system, let g := { grp 0xF [] with stall := .fence true system }
       let s := coreS 0 [(0, g)]
       s.group 0 0 = some g ∧ g.stall = .fence true system ∧ s.groupPending 0 0 = false ∧ (system = true → s.cxlPending = [])) := by
  refine ⟨⟨⟨by decide, by decide⟩, ⟨by decide, by decide, by decide⟩⟩, by decide⟩

/-- Core 0 runs kernel 0 with one lane whose r2 and r3 hold page 0x10000, at `out`; DDR channel 0 is up. -/
def memS (out : Nat) (host : Bool) : State :=
  let s := coreS 0 [(0, grp 1 [(2, 0x10000), (4, 7)])]
  { s with cores := [(0, { s.core 0 with micro := [pg out host] })], ext := ddrUp }

/-- Its group. -/
def memG : Group := grp 1 [(2, 0x10000), (4, 7)]

/-- Kernel 0 of `memS`. -/
def memK : Kernel := { desc := { regs := 255 }, cores := [0] }

/-- Its lane's access at the offset `o`. -/
def laneAt (out : Nat) (host : Bool) (o : Nat) : LaneAt := ⟨0, 0x10000 + o, pg out host⟩

/-- What translating the lane comes to. -/
def memX (s : State) (acc o : Nat) : LanesRes :=
  ((lanesOf (pth 1).mask).map (fun l => (l, ofSigned 57 ((memG.reg64 l 2 : Int) + (o : Int)) % 2 ^ 57))).foldl (State.laneXlate ⟨0, 0, 0x110⟩ memK 0x100 acc) { st := s }

/-- The computable part of `Translates`. -/
def memB (s : State) (size acc o : Nat) (l : LaneAt) : Bool :=
  let r := memX s acc o
  (lanesOf (pth 1).mask).all (fun x => ofSigned 57 ((memG.reg64 x 2 : Int) + (o : Int)) % 2 ^ 57 % size = 0) && !s.agentBusy (.te 0 0)
    && decide (r.at_ = [l]) && !r.miss && decide (r.st.laneKind ⟨0, 0, 0x110⟩ memK l ≠ .bad)

theorem translates_of {s : State} {size acc o : Nat} {l : LaneAt} (h : memB s size acc o l = true) :
    Translates s ⟨0, 0, 0x110⟩ memK memG (pth 1) size acc (fun x => ofSigned 57 ((memG.reg64 x 2 : Int) + (o : Int))) (memX s acc o).st [l] := by
  simp only [memB, Bool.and_eq_true, decide_eq_true_eq, List.all_eq_true, Bool.not_eq_true'] at h
  obtain ⟨⟨⟨⟨h1, h2⟩, h3⟩, h4⟩, h5⟩ := h
  refine ⟨by decide, h1, h2, ?_, by simpa using h5⟩
  show memX s acc o = _
  cases hx : memX s acc o with
  | mk st at_ miss => rw [hx] at h3 h4; simp only at h3 h4; subst h3; subst h4; rfl

/-- ThreadLoadStore: loads of 16 bytes at the end of a page, from a register (8 bytes), from the host, from the core's own window and from memory. -/
theorem test_hyp_ThreadLoadStore_load :
    (∀ x ∈ [(regBase, false), (0, true), (winBase 0, false), (ddr0, false)], Issues (memS x.1 x.2) ⟨0, 0, 0x110⟩ [(252, regsFor 16)] [(2, 2)] memG (pth 1)
      ∧ 252 + regsFor 16 ≤ 256 ∧ (memS x.1 x.2).coreKernel 0 = some memK ∧ (memX (memS x.1 x.2) accRead 0xFFF8).st.group 0 0 = some memG)
    ∧ (∃ u, Translates (memS regBase false) ⟨0, 0, 0x110⟩ memK memG (pth 1) 8 accRead (fun x => ofSigned 57 ((memG.reg64 x 2 : Int) + (0xFFF8 : Nat))) u [laneAt regBase false 0xFFF8]
        ∧ u.laneKind ⟨0, 0, 0x110⟩ memK (laneAt regBase false 0xFFF8) = .reg 0xFFF8 ∧ (u.regLoad 0xFFF8 8).2.group 0 0 = some memG)
    ∧ (∃ u, Translates (memS 0 true) ⟨0, 0, 0x110⟩ memK memG (pth 1) 16 accRead (fun x => ofSigned 57 ((memG.reg64 x 2 : Int) + (0xFFF0 : Nat))) u [laneAt 0 true 0xFFF0]
        ∧ u.laneKind ⟨0, 0, 0x110⟩ memK (laneAt 0 true 0xFFF0) = .host ∧ u.hostRead (laneAt 0 true 0xFFF0).pa 16 = some (List.replicate 16 0) ∧ u.group 0 0 = some memG)
    ∧ (∃ u, Translates (memS (winBase 0) false) ⟨0, 0, 0x110⟩ memK memG (pth 1) 16 accRead (fun x => ofSigned 57 ((memG.reg64 x 2 : Int) + (0xFFF0 : Nat))) u [laneAt (winBase 0) false 0xFFF0]
        ∧ (u.laneKind ⟨0, 0, 0x110⟩ memK (laneAt (winBase 0) false 0xFFF0) = .own ∧
          let m := u.readMem (teWho ⟨0, 0, 0x110⟩ memK (laneAt (winBase 0) false 0xFFF0)) 0 (laneAt (winBase 0) false 0xFFF0).pa 16
          m.poison = [] ∧ m.st.group 0 0 = some memG))
    ∧ (∃ u, Translates (memS ddr0 false) ⟨0, 0, 0x110⟩ memK memG (pth 1) 16 accRead (fun x => ofSigned 57 ((memG.reg64 x 2 : Int) + (0xFFF0 : Nat))) u [laneAt ddr0 false 0xFFF0]
        ∧ (u.laneKind ⟨0, 0, 0x110⟩ memK (laneAt ddr0 false 0xFFF0) = .mem ∧ u.laneWaits ⟨0, 0, 0x110⟩ memK false (laneAt ddr0 false 0xFFF0) = false ∧
          let l := laneAt ddr0 false 0xFFF0
          let e := u.coreEvent 0 (if (u.core 0).l1.contains (u.route (l.pa / 128 * 128) / 128) then 4 else 5) 1
          let m := e.readMem (teWho ⟨0, 0, 0x110⟩ memK l) 0 (l.pa / 128 * 128) 128
          m.poison = [] ∧ m.status = none ∧ m.st.laneKind ⟨0, 0, 0x110⟩ memK l = .mem ∧ m.st.group 0 0 = some memG)) := by
  refine ⟨?_, ⟨_, translates_of (by decide), by decide, by decide⟩, ⟨_, translates_of (by decide), by decide, by decide, by decide⟩, ⟨_, translates_of (by decide), by decide⟩,
    ⟨_, translates_of (by decide), by decide⟩⟩
  intro x hx
  simp only [List.mem_cons, List.not_mem_nil, or_false] at hx
  rcases hx with rfl | rfl | rfl | rfl <;> exact ⟨⟨by decide, by decide, by decide⟩, by decide, by decide, by decide⟩

/-- The buffer of core 0 holds 31 other lines. -/
def full31 (s : State) : State :=
  { s with cores := [(0, { s.core 0 with sb := (List.range 31).map (fun n => { line := n, host := true, bytes := [(0, some 1)] }) })] }

/-- ThreadLoadStore: stores of 16 bytes at the end of a page to memory and to the host, with 31 entries in the buffer; of 8 bytes to a register; ZLINE to the page's last line. -/
theorem test_hyp_ThreadLoadStore_store :
    (∀ x ∈ [(ddr0, false), (0x1000000, true)], Issues (full31 (memS x.1 x.2)) ⟨0, 0, 0x110⟩ [] [(2, 2), (4, regsFor 16)] memG (pth 1)
      ∧ ∃ u, Translates (full31 (memS x.1 x.2)) ⟨0, 0, 0x110⟩ memK memG (pth 1) 16 accWrite (fun y => ofSigned 57 ((memG.reg64 y 2 : Int) + (0xFFF0 : Nat))) u [laneAt x.1 x.2 0xFFF0]
        ∧ ((u.laneKind ⟨0, 0, 0x110⟩ memK (laneAt x.1 x.2 0xFFF0) = .host ∨ (u.laneKind ⟨0, 0, 0x110⟩ memK (laneAt x.1 x.2 0xFFF0) = .mem ∧ (laneAt x.1 x.2 0xFFF0).x.strict = false))
          ∧ (laneAt x.1 x.2 0xFFF0).pa % 128 + 16 ≤ 128 ∧ (u.core 0).sb.length < 32 ∧ (∀ e ∈ (u.core 0).sb, (e.host, e.line) ≠ (laneAt x.1 x.2 0xFFF0).line)
          ∧ memG.stall ≠ .sbFull ∧ u.group 0 0 = some memG))
    ∧ (Issues (memS regBase false) ⟨0, 0, 0x110⟩ [] [(2, 2), (4, regsFor 8)] memG (pth 1)
      ∧ ∃ u, Translates (memS regBase false) ⟨0, 0, 0x110⟩ memK memG (pth 1) 8 accWrite (fun y => ofSigned 57 ((memG.reg64 y 2 : Int) + (0xFFF8 : Nat))) u [laneAt regBase false 0xFFF8]
        ∧ (u.laneKind ⟨0, 0, 0x110⟩ memK (laneAt regBase false 0xFFF8) = .reg 0xFFF8
          ∧ (u.sbStores ⟨0, 0, 0x110⟩ memK []).any (fun t => decide (t.laneKind ⟨0, 0, 0x110⟩ memK (laneAt regBase false 0xFFF8) = .reg 0xFFF8)) = true))
    ∧ (let g := grp 1 [(2, 0x1FF80)]
       let s := coreS 0 [(0, g)]
       let t := { s with cores := [(0, { s.core 0 with micro := [pg ddr0 false] })], ext := ddrUp }
       Issues t ⟨0, 0, 0x110⟩ [] [(2, 2)] g (pth 1)
         ∧ ∃ u, Translates t ⟨0, 0, 0x110⟩ memK g (pth 1) 128 accWrite (fun y => ofSigned 57 ((g.reg64 y 2 : Int) + 0)) u [laneAt ddr0 false 0xFF80]
           ∧ (u.laneKind ⟨0, 0, 0x110⟩ memK (laneAt ddr0 false 0xFF80) = .mem ∧ (laneAt ddr0 false 0xFF80).pa % 128 + 128 ≤ 128 ∧ (u.core 0).sb = [])) := by
  refine ⟨?_, ⟨⟨by decide, by decide, by decide⟩, ⟨_, translates_of (by decide), by decide⟩⟩, ⟨⟨by decide, by decide, by decide⟩, ?_⟩⟩
  · intro x hx
    simp only [List.mem_cons, List.not_mem_nil, or_false] at hx
    rcases hx with rfl | rfl <;> exact ⟨⟨by decide, by decide, by decide⟩, _, translates_of (by decide), by decide +kernel⟩
  · exact ⟨_, ⟨by decide, by decide, by decide, rfl, by decide⟩, by decide⟩

/-- ThreadAtomics: a compare and swap of 64 bits at DEVICE scope, an atomic access at a window's end, an enqueue that is answered. -/
theorem test_hyp_ThreadAtomics :
    (let s := memS ddr0 false
     let i : Issue := ⟨0, 0, 0x110⟩
     let l := laneAt ddr0 false 0
     254 + regsFor 8 ≤ 256 ∧ s.coreKernel 0 = some memK ∧ Issues s i [(254, regsFor 8)] ([(2, 2), (4, regsFor 8)] ++ [(6, regsFor 8)]) memG (pth 1)
       ∧ ∃ u, Translates s i memK memG (pth 1) 8 accAtomic (fun q => ofSigned 57 ((memG.reg64 q 2 : Int) + (0 : Nat))) u [l] ∧
         (l.x.host = false ∧ u.laneKind i memK l = .mem ∧ u.laneWaits i memK false l = false ∧ u.laneWaits i memK true l = false ∧ (State.drainLines 33 u 0 [l.line] = some u)
           ∧ let x := u.coreEvent 0 0x0F 1
             let m := x.readMem { teWho i memK l with core := none } 0 l.pa 8
             m.poison = [] ∧ m.status = none
               ∧ ((({ m.st with free := m.st.free + 64 }).writeMem (teWho i memK l) 0 (.owner 0) l.pa (leBytes 8 1) false).st.coreEvent 0 0x10 1).group 0 0 = some memG))
    ∧ (let a : WinAcc := { src := 1, slot := 0, ctx := 0, off := 0x3FFF8, write := true, size := 8, val := 0, rd := 0, next := 0 }
       let s := { coreS 0 [] with cores := [(0, { winQ := [a] })] }
       (s.core 0).winQ = [a] ∧ s.winHeld a = false ∧ a.off + a.size ≤ s.lmemOf 0)
    ∧ (let s0 := memS ddr0 false
       let s := { s0 with cores := [(0, { s0.core 0 with cur := { devEnq := true } })] }
       Issues s ⟨0, 0, 0x110⟩ [(255, 1)] [(0, 1), (2, 2)] memG (pth 1) ∧ s.coreKernel 0 = some memK ∧ (s.core 0).cur.devEnq = true ∧ lanesOf (pth 1).mask = [0]
         ∧ ((s.drainCore 0).core 0).sb = [] ∧ (let r := (s.drainCore 0).enqueue (.te 0 0) 0 0 0x10000 0x100; r.status = some stBadDesc ∧ r.st.group 0 0 = some memG)) := by
  refine ⟨⟨by decide, by decide, ⟨by decide, by decide, by decide⟩, ⟨_, translates_of (by decide), by decide, by decide, by decide, by decide, by decide +kernel, by decide +kernel, by decide +kernel, by decide +kernel⟩⟩, by decide,
    ⟨by decide, by decide, by decide⟩, by decide, by decide, by decide, by decide, by decide⟩

/-! ### Hypotheses: blocks, engines, matrix commands and slots -/

/-- The module is READY. -/
def rdy : State := { State.reset with mg := { stage := .ready } }

theorem privileged_firmware (s : State) (o : Nat) : Privileged s .firmware o := Or.inl rfl

theorem reaches_firmware (s : State) (o : Nat) (vf : Option Nat) : Reaches s .firmware o vf := Or.inl rfl

theorem takes_firmware {s : State} (h : s.mg.stage = .ready) (idx sub : Nat) : TakesItem s .firmware idx sub :=
  ⟨rfl, rfl, by simp only [State.odStageOk, h], fun e => by cases e⟩

/-- Each path that a statement names reaches what it names in some state: the PF and a session (the firmware always does). -/
theorem test_hyp_paths :
    (∀ o, Privileged rdy .pf o) ∧ Privileged State.reset .pf (mgR 0x20) ∧ TakesItem rdy .pf 0x4248 1
    ∧ TakesItem { rdy with mg := { rdy.mg with sessions := [(3, { opened := true })] } } (.session 3) 0x4248 1 ∧ TakesItem { rdy with mg := { stage := .start } } .firmware 0x1000 1
    ∧ (∀ c o, Reaches rdy (.engine c) o none)
    ∧ (∀ o, Reaches { rdy with host := { vfEnable := true, numVfs := 8, ari := true }, pt := { parts := [(7, { st := .active })] } } (.vf 8) o (some 8)) := by
  refine ⟨fun o => Or.inr ⟨rfl, by decide, Or.inl rfl⟩, Or.inr ⟨rfl, by decide, Or.inr (by decide)⟩, ⟨by decide, by decide, by decide, by decide⟩, ⟨by decide, by decide, by decide, by decide⟩,
    ⟨by decide, by decide, by decide, by decide⟩, fun c o => Or.inr (Or.inl ⟨c, rfl⟩), fun o => Or.inr (Or.inr ⟨8, Or.inr ⟨rfl, rfl⟩, by decide, Or.inl rfl⟩)⟩

/-- A kernel of two blocks of 1,024 threads on core 0, and the state that holds it. -/
def kern (next : Nat) : Kernel := { desc := { regs := 8, bx := 1024, gx := 2 }, cores := [0], next := next, started := true }
/-- Kernel 3 is `k`. -/
def kernS (k : Kernel) (c : Core) : State := { State.reset with cores := [(0, c)], pt := { kernels := [(3, k)] } }

/-- BlocksAndKernels: the last block starts on a core with one block; one exits; the kernel leaves the core, and completes. -/
theorem test_hyp_BlocksAndKernels :
    (let k := kern 1
     let s := kernS k { te := .running, kernel := some 3, blocks := [{ linear := 0, slots := List.range 32 }], groups := (List.range 32).map (fun j => (j, grp 1 [])) }
     s.kernel 3 = some k ∧ 0 ∈ k.cores ∧ k.next < k.desc.blocks ∧ (s.core 0).te = .running ∧ (s.core 0).tearing = false ∧ bit (s.reg (teR 0 0x10)) 1 = false ∧ s.frozen k.ctx = false
       ∧ (s.core 0).kernel = some 3 ∧ (s.core 0).blocks.length < k.desc.occ ∧ ((s.core 0).freeSlots k.desc.width k.desc.groups).length = k.desc.groups)
    ∧ (let s := kernS (kern 2) { te := .running, kernel := some 3, blocks := [{ linear := 1, slots := [5] }], groups := [(5, { width := 32 }), (6, grp 1 [])] }
       (s.core 0).blocks.find? (fun b => b.linear = 1) = some { linear := 1, slots := [5] } ∧ ∀ x ∈ [5], ∀ g, s.group 0 x = some g → g.paths = [])
    ∧ (let s := kernS (kern 2) { te := .idle, kernel := some 3 }
       (s.core 0).kernel = some 3 ∧ s.kernel 3 = some (kern 2) ∧ (kern 2).next = (kern 2).desc.blocks ∧ s.coreQuiet 0 = true)
    ∧ (let s := kernS (kern 2) {}
       s.kernel 3 = some (kern 2) ∧ (kern 2).next = (kern 2).desc.blocks ∧ (kern 2).slots = [] ∧ (kern 2).cores ≠ [] ∧ ∀ e ∈ s.cores, e.2.kernel ≠ some 3) := by
  refine ⟨by decide +kernel, ⟨by decide, ?_⟩, by decide, by decide⟩
  intro x hx g hg
  simp only [List.mem_cons, List.not_mem_nil, or_false] at hx
  subst hx
  have h : (kernS (kern 2) { te := .running, kernel := some 3, blocks := [{ linear := 1, slots := [5] }], groups := [(5, { width := 32 }), (6, grp 1 [])] }).group 0 5 = some { width := 32 } := by decide
  rw [h] at hg
  cases hg
  rfl

/-- EngineControl: engines that are off, idle, running and draining, cores that are being cleared and a slot that is retired, each a case of a clause. -/
theorem test_hyp_EngineControl :
    (∀ x ∈ [(TeState.running, true), (.draining, false)], ((kernS (kern 0) { te := x.1 }).core 0).te = x.1)
    ∧ ((State.reset.core 255).te = .off ∧ State.reset.ng.retired.getD 255 false = false ∧ { State.reset.ng with retired := [(0, true)] }.retired.getD 0 false = true)
    ∧ ((kernS (kern 0) { te := .idle }).core 0).te = .idle ∧ (State.reset.mx 0).state = .off ∧ ((kernS (kern 0) { mx := { state := .idle } }).mx 0).state = .idle
    ∧ (State.reset.seq 15).state = .off ∧ ({ State.reset with seqs := [(0, { state := .idle })] }.seq 0).queue = none
    ∧ ((kernS (kern 0) { te := .clearing, mx := { state := .clearing } }).core 0).te = .clearing ∧ ((kernS (kern 0) { mx := { state := .clearing } }).mx 0).state = .clearing := by
  decide

/-- The words of MLOAD, MSWAP, MSTREAM, MTILE and MDRAIN with their operands in r2, r4, r6 and r8. -/
def mxWords : List Nat := [0xE102040000000000, 0xE200000000000000, 0xE302040608000000, 0xE402000000000000, 0xE502040608000000]

/-- A core with a kernel that uses the matrix engine, which is on and has `n` commands waiting. -/
def mxCore (n : Nat) (g : Group) : State :=
  let s := coreS 0 [(0, g)]
  { s with regs := [(mxR 0 0x10, 1)], cores := [(0, { s.core 0 with mx := { state := .busy, queue := (List.range n).map (fun i => { id := i, fromSeq := true }) } })],
           pt := { kernels := [(0, { desc := { regs := 255, mxUse := true }, cores := [0] })] } }

/-- The bool form of the group's hypotheses in MatrixIssue. -/
def mxIssueB (s : State) (i : Issue) (k : Kernel) (g : Group) (p : PathSt) (w : Nat) : Bool :=
  let c := mxOfGroup k i g p w
  decide (s.coreKernel i.core = some k) && k.desc.mxUse && decide (s.issuing i = some (g, p)) && s.regsOk i.core ([] ++ mxRegs w (g.reg64 (lowLane p.mask) (mwD w)))
    && !s.scoreboard i [] (mxRegs w (g.reg64 (lowLane p.mask) (mwD w))) g && !s.scoreboard i ((c.tiles g.width).2.map (fun y => (y.1 * 32, y.2 * 32))) ((c.tiles g.width).1.map (fun y => (y.1 * 32, y.2 * 32))) g
    && s.mxOn i.core && decide ((s.mx i.core).waiting < 16)

/-- MatrixIssue: a group issues each command with fifteen waiting; a sequencer issues each with its mask on one core that has fifteen waiting. -/
theorem test_hyp_MatrixIssue :
    (∀ w ∈ mxWords, (BitVec.ofNat 64 w).toNat = w ∧ mxIssueB (mxCore 15 (grp 3 [])) ⟨0, 0, 0x110⟩ { desc := { regs := 255, mxUse := true }, cores := [0] } (grp 3 []) (pth 3) w = true)
    ∧ (∀ w ∈ mxWords, let s := { sqS { mxMask := 1 } w with regs := [(mxR 0 0x10, 1)], cores := [(0, { mx := { queue := (List.range 15).map (fun i => { id := i, fromSeq := true }) } })] }
       let u := (s.fetchWord 0).2
       let on := (u.mxTargets 0 (u.seq 0).mxMask).filter (fun x => u.mxOn x.2)
       runsB s 0 (mwOp w) w = true ∧ mwUnused w = true ∧ on ≠ [] ∧ (on.map (·.2)).Nodup ∧ ∀ e ∈ on, (u.mx e.2).waiting < 16) := by
  decide +kernel

/-- MatrixWaits: a group's MWAIT with its bound met and not, a sequencer's, and the ends of both waits. -/
theorem test_hyp_MatrixWaits :
    (∀ w ∈ [0xE600000000000000, 0xE60000000000000F], let s := mxCore 0 (grp 3 [])
      s.issuing ⟨0, 0, 0x110⟩ = some (grp 3 [], pth 3) ∧ (s.coreKernel 0).any (fun k => k.desc.mxUse) = true ∧ (BitVec.ofNat 64 w).toNat = w ∧ mwOp w = 0xE6 ∧ mwUnused w = true ∧ bits w 23 4 = 0)
    ∧ (let w := 0xE60000000000000F
       let s := sqS { mxOut := (List.range 15).map (fun n => { id := n, left := [] }) } w
       Runs s 0 0xE6 w (s.fetchWord 0).2 ∧ mwUnused w = true ∧ bits w 23 4 = 0 ∧ ((s.fetchWord 0).2.seq 0).mwaitMet (mwImm w) = true)
    ∧ (let w := 0xE600000000000000
       let s := sqS { mxOut := [{ id := 0, left := [] }] } w
       Runs s 0 0xE6 w (s.fetchWord 0).2 ∧ mwUnused w = true ∧ bits w 23 4 = 0 ∧ ((s.fetchWord 0).2.seq 0).mwaitMet (mwImm w) = false)
    ∧ (let g := { grp 3 [] with stall := .mwait 0 }
       let s := mxCore 1 g
       s.group 0 0 = some g ∧ s.frozen ((s.core 0).ctx.getD 1024) = false ∧ (s.mx 0).outstanding 0 ≤ 0)
    ∧ (let s := sqWait { wait := .mwait 0 } 0
       (s.seq 0).wait = .mwait 0 ∧ s.seqLive 0 = true ∧ (s.seq 0).mwaitMet 0 = true) := by
  refine ⟨by decide +kernel, ⟨runs_of (by decide +kernel), by decide, by decide, by decide +kernel⟩, ⟨runs_of (by decide +kernel), by decide, by decide, by decide +kernel⟩, by decide, by decide⟩

/-- The engine of core 0 is BUSY with a queue. -/
def mxQ (q : List MxCmd) (sv : Bool) : State := { State.reset with cores := [(0, { mx := { state := .busy, queue := q, shadowValid := sv } })] }

/-- MatrixCommands: an MSWAP without and with a filled shadow buffer, an MTILE, an MDRAIN; the oldest started MSWAP completes; an idle array. -/
theorem test_hyp_MatrixCommands :
    (∀ x ∈ [(0xE2, false, some 0x23), (0xE2, true, none), (0xE4, false, none)], let m : MxCmd := { id := 0, fromSeq := true, word := x.1 * 2 ^ 56 }
      let s := mxQ [m] x.2.1
      (s.mx 0).queue.find? (fun c => !c.started) = some m ∧ (s.mx 0).state = .busy ∧ s.frozen m.ctx = false ∧ s.agentBusy (.mx 0) = false ∧
        mxMayStart ((s.mx 0).queue.takeWhile (fun c => c.started)) m = true ∧ m.fromSeq = true ∧ s.mxBad 0 m = x.2.2)
    ∧ (let m : MxCmd := { id := 0, fromSeq := true, word := 0xE2 * 2 ^ 56, started := true }
       let s := mxQ [m] true
       (s.mx 0).queue = [m] ∧ (s.mx 0).state = .busy ∧ s.frozen m.ctx = false ∧ (s.mxRun 0 m).wait = false ∧ mwOp m.word = 0xE2)
    ∧ ((∀ x ∈ (State.reset.mx 0).queue, x.started = false) ∧ (State.reset.core 0).kernel = none) := by
  decide

/-- DensitometerSlots: a kernel and a sequencer whose records close, and a slot's command with each field at the end of its range. -/
theorem test_hyp_DensitometerSlots :
    (let s := kernS (kern 2) {}
     s.kernel 3 = some (kern 2) ∧ (kern 2).started = true ∧ (kern 2).next = (kern 2).desc.gx * (kern 2).desc.gy * (kern 2).desc.gz ∧ ∀ c ∈ (kern 2).cores, (s.core c).kernel ≠ some 3)
    ∧ ((sqWait { wait := .mwait 0 } 0).seq 0).wait = .mwait 0 ∧ ((sqWait { wait := .mwait 0 } 0).seq 0).mxOut = [] ∧ ({ sqS {} 0 with seqs := [(0, { ended := true })] }.seq 0).ended = true
    ∧ (∀ v ∈ [0x000003FF0078FFFF, 0x0000000000880000], let s := { rdy with pt := { parts := [(0, { st := .active })] } }
       (s.mg.stage = .ready) ∧ bits v 55 51 = 0 ∧ bits v 47 42 = 0 ∧ bits v 31 24 = 0 ∧ (s.part (bits v 50 48)).st ≠ .absent ∧ (-120 ≤ toSigned 8 (bits v 23 16) ∧ toSigned 8 (bits v 23 16) ≤ 120)) := by
  decide

/-! ### Hypotheses: steps, caches and external memory -/

/-- Channel sets 0 to 3 in service, and DDR channel 0; partition 0 holds cluster 0 and channel set 1. -/
def memUp : Ext := { ddrUp with hbm := (List.range 4).map (fun n => (n, { st := .inService, bytes := hbmSetBytes })) }

/-- READY, with partition 0 on channel set 1 and cluster 0, and context 0 of it. -/
def base : State :=
  { rdy with ext := memUp, obj := { ctxs := [(0, { st := .live })] },
             pt := { parts := [(0, { st := .active, lay := { clusters := 1, sets := 2, enabled := true } })] } }

/-- Sequencer 0 holds step `r` of queue 5. -/
def stepS (q : Seq) (r : StepRec) : State :=
  { base with seqs := [(0, { q with queue := some 5 })], pt := { base.pt with steps := [(5, r)] } }

/-- SequencerSteps: a start, a parking with its image, a resumption, and an end. -/
theorem test_hyp_SequencerSteps :
    (let r : StepRec := { st := .running, cls := [0] }
     let s := stepS { state := .idle } r
     (s.seq 0).queue = some 5 ∧ s.seqStep 0 = some r ∧ s.stepOf 5 = some r ∧ r.st = .running ∧ s.frozen r.ctx = false ∧ r.slot = none ∧ (s.seq 0).state = .idle ∧ 0 ∉ r.awake)
    ∧ (let r : StepRec := { st := .yielding, cls := [0], slot := some 63, awake := [0] }
       let s := stepS { state := .running, yield := true, ended := true } r
       (s.seq 0).queue = some 5 ∧ s.seqStep 0 = some r ∧ r.slot = some 63 ∧ r.st = .yielding ∧ s.frozen r.ctx = false ∧ s.mayPark 0 r = true)
    ∧ (let r : StepRec := { st := .running, cls := [0], slot := some 63 }
       let s := stepS { state := .parked } r
       let y := s.ownRead (s.parkAddr r.part 63 0) 0x300
       (s.seq 0).queue = some 5 ∧ s.seqStep 0 = some r ∧ s.frozen r.ctx = false ∧ (s.seq 0).state = .parked ∧ 0 ∉ r.awake ∧ s.launchHeld (s.seq 0).part = false ∧ y.2.1 = none
         ∧ ∀ i, i < 8 → bit (sliceNat (slice y.1 (0x200 + 32 * i) 32) 0 8) 63 = false)
    ∧ (let r : StepRec := { st := .running, cls := [0], awake := [0] }
       let s := stepS { state := .running, ended := true } r
       s.stepOf 5 = some r ∧ r.cls ≠ [] ∧ ∀ c ∈ r.cls, s.partOver r c = true) := by
  decide +kernel
/-- A core with one store of host memory in its buffer, and one being torn down. -/
def sbS (e : SbEntry) (tearing : Bool) : State := { base with cores := [(255, { te := .draining, sb := [e], tearing := tearing })] }

/-- StoreBuffersAndCaches: no entry, one that drains, one of the host's; a teardown's limit; a line that hits, one that misses and one that is evicted; a way that is on and one that
is off, at both ends of the range, and one that is being cleaned. -/
theorem test_hyp_StoreBuffersAndCaches :
    (base.drainSb 255 31 = none)
    ∧ (let e : SbEntry := { line := 7, bytes := [(0, some 1), (127, some 2)], host := true }
       ((sbS e false).drainSb 255 0).isSome = true ∧ ((sbS e false).core 255).sb[0]? = some e ∧ e.host = true ∧ ((sbS e false).core 255).tearing = false
         ∧ e.bytes.Pairwise (fun a b => a.1 < b.1) ∧ ((sbS e true).core 255).tearing = true)
    ∧ (let s := { base with ext := { base.ext with cc := [(15, [{ line := ddr0 / 128, way := 0, excl := false, valid := 15, dirty := 0 }])] } }
       (∃ l, s.ccFind 15 (ddr0 / 128 * 128) = some l ∧ l.valid = 15) ∧ s.ccFind 15 (ddr0 / 128 * 128 + 128) = none
         ∧ s.lineServe { part := s.clPart 15, cl := some 15 } false (ddr0 / 128 * 128 + 128) = .ok ∧ s.decode (ddr0 / 128 * 128 + 128) = .ddr 0)
    ∧ (let s := { base with regs := [(ccR 15 0x10, 0x8000), (ccR 15 0x14, 0x8000)] }
       bit (s.reg (ccR 15 0x10)) 15 = true ∧ bit (s.reg (ccR 15 0x14)) 15 = true ∧ bit (s.reg (ccR 15 0x10)) 2 = false)
    ∧ (let s := { base with regs := [(ccR 15 0x10, 0), (ccR 15 0x14, 0x84000000 + 0x8000)] }
       bit (s.reg (ccR 15 0x14)) (16 + 15) = true) := by
  refine ⟨by decide +kernel, by decide +kernel, ⟨⟨_, by rfl, by decide⟩, by decide +kernel, by decide +kernel, by decide +kernel⟩, by decide +kernel, by decide +kernel⟩

/-- A Tank with every spare taken. -/
def noSpare : Die := { spares := (List.range 16).map (fun n => (n, n + 1)) }

/-- TankCommands: a set of partitions; a die with a move, with none and a spare, and with none at all; the last spare and the last bank. -/
theorem test_hyp_TankCommands :
    ((0x80 : W32).toNat % 256 ≠ 0 ∧ bit (0x800001FF : W32).toNat 31 = true)
    ∧ (let s := { base with ext := { base.ext with die1 := { move := some { bank := 511, spare := 15 } } } }
       (s.die 1).move = some { bank := 511, spare := 15 })
    ∧ ((base.die 1).move = none ∧ base.freeSpare 1 = some 0)
    ∧ (let s := { base with ext := { base.ext with die1 := noSpare } }
       (s.die 1).move = none ∧ s.freeSpare 1 = none) := by
  decide +kernel

/-- A unit of each kind in a state. -/
def unitS (u : UnitId) (m : MemUnit) : State := base.setUnit u m

/-- UnitCommands: each state that a command needs, and each that it refuses; units at the ends of their ranges; sparing with none, one and two spared. -/
theorem test_hyp_UnitCommands :
    (unitCmdOk 0x1000F = false ∧ unitCmdOk 0x10000F = true ∧ unitCmdOk 0x1F = true ∧ unitCmdOk 0x200003 = true ∧ (cmdUnit 0x10000F) = ⟨1, 15⟩)
    ∧ (((unitS ⟨1, 15⟩ { st := .inService }).unit ⟨1, 15⟩).st = .inService ∧ ((unitS ⟨1, 15⟩ { st := .draining }).unit ⟨1, 15⟩).st = .draining)
    ∧ (let s := unitS ⟨1, 15⟩ { st := .draining }
       (s.unit ⟨1, 15⟩).quiescing = false ∧ s.ext.moves.any (fun e => e.2.st ≠ 0 && (s.inUnit ⟨1, 15⟩ e.2.src || s.inUnit ⟨1, 15⟩ e.2.dst)) = false ∧ s.keepsStructures ⟨1, 15⟩ = false)
    ∧ (base.keepsStructures ⟨0, 1⟩ = true ∧ cmdUnit 1 = ⟨0, 1⟩)
    ∧ (let m := (unitS ⟨1, 15⟩ { st := .quiesced }).unit ⟨1, 15⟩
       m.st = .quiesced ∧ m.returning = false ∧ m.cause ≠ 4 ∧ bits 0x10240F 15 12 ≤ 2 ∧ bits 0x10240F 11 8 ≤ 4)
    ∧ (2 < bits 0x10300F 15 12 ∧ 4 < bits 0x10050F 11 8 ∧ ((unitS ⟨1, 15⟩ { st := .quiesced, cause := 4 }).unit ⟨1, 15⟩).cause = 4)
    ∧ (((unitS ⟨2, 3⟩ { st := .failed }).unit ⟨2, 3⟩).st = .failed ∧ ((unitS ⟨2, 3⟩ {}).unit ⟨2, 3⟩).st = .absent ∧ (cmdUnit 0x200003).kind = 2 ∧ (cmdUnit 0x1F).kind = 0)
    ∧ (bits 0x30001F 23 20 = 3 ∧ bits 0x30001F 19 16 = 0 ∧ bits 0x30001F 7 0 = 31 ∧ (base.unit ⟨0, 31 / 8⟩).st = .inService ∧ base.sparedIn 0 < 2 ∧ base.ext.spared.getD 31 false = false
        ∧ ∀ e ∈ base.ext.sparing, e.1 ≠ 31)
    ∧ (let s := { base with ext := { base.ext with spared := [(0, true), (1, true)] } }
       s.ext.spared.getD 0 false = true ∧ s.ext.spared.getD 31 false = false ∧ (∀ e ∈ s.ext.sparing, e.1 ≠ 31) ∧ 2 ≤ s.sparedIn (31 / 32)) := by
  decide +kernel

/-- UnitEvents: each state that an event needs, a test at its last pass and before it. -/
theorem test_hyp_UnitEvents :
    (((unitS ⟨2, 3⟩ { st := .draining, quiescing := true }).unit ⟨2, 3⟩).quiescing = true)
    ∧ (let s := unitS ⟨2, 3⟩ { st := .testing, passes := 1 }
       (s.unit ⟨2, 3⟩).st = .testing ∧ (s.unit ⟨2, 3⟩).passes ≠ 0 ∧ (s.unit ⟨2, 3⟩).passes ≤ s.rf (unitReg ⟨2, 3⟩ 0x88) 31 16 + 1)
    ∧ (let s := unitS ⟨2, 3⟩ { st := .testing, passes := 2 }
       (s.unit ⟨2, 3⟩).st = .testing ∧ s.rf (unitReg ⟨2, 3⟩ 0x88) 31 16 + 1 < (s.unit ⟨2, 3⟩).passes)
    ∧ (let m := (unitS ⟨1, 0⟩ { st := .quiesced, returning := true, changed := true }).unit ⟨1, 0⟩
       m.returning = true ∧ m.st = .quiesced)
    ∧ (unitExists ⟨0, 31⟩ = true ∧ ((unitS ⟨0, 31⟩ { st := .training }).unit ⟨0, 31⟩).st = .training ∧ unitExists ⟨2, 3⟩ = true ∧ ((unitS ⟨2, 3⟩ { st := .training }).unit ⟨2, 3⟩).st = .training)
    ∧ (unitExists ⟨1, 15⟩ = true ∧ ((unitS ⟨1, 15⟩ { st := .draining }).unit ⟨1, 15⟩).st = .draining)
    ∧ ({ base.ext with sparing := [(255, .pf)] }.sparing.find? (fun e => e.1 = 255) = some (255, .pf))
    ∧ ({ State.reset with mg := { stage := .start } }.mayTrain = true) := by
  decide +kernel

/-- SocketsAndPorts: each state of a channel and a port; two seconds reached and missed by one tick; the third retraining and the one before. -/
theorem test_hyp_SocketsAndPorts :
    (∀ st ∈ [UnitSt.inService, .draining, .testing, .quiesced, .failed, .absent, .training], ((unitS ⟨1, 15⟩ { st := st }).unit ⟨1, 15⟩).st = st)
    ∧ (let s := { unitS ⟨1, 15⟩ { tArm := some 5 } with now := 200000005 }
       (s.unit ⟨1, 15⟩).tArm = some 5 ∧ 5 + 200000000 ≤ s.now ∧ (s.unit ⟨1, 15⟩).latchOpen = false)
    ∧ (let s := { unitS ⟨1, 15⟩ { tArm := some 5 } with now := 200000004 }
       (s.unit ⟨1, 15⟩).tArm = some 5 ∧ s.now < 5 + 200000000)
    ∧ (((unitS ⟨1, 15⟩ { power := true }).unit ⟨1, 15⟩).power = true)
    ∧ (let x := (unitS ⟨2, 3⟩ { st := .inService, linkUp := true }).unit ⟨2, 3⟩
       x.st = .inService ∧ x.linkUp = true)
    ∧ (let x := (unitS ⟨2, 3⟩ { st := .inService, retrains := 1 }).unit ⟨2, 3⟩
       x.st = .inService ∧ x.linkUp = false ∧ x.retrains + 1 < 3)
    ∧ (let x := (unitS ⟨2, 3⟩ { st := .draining, retrains := 2 }).unit ⟨2, 3⟩
       x.st = .draining ∧ x.linkUp = false ∧ 3 ≤ x.retrains + 1)
    ∧ (((unitS ⟨2, 3⟩ { st := .training }).unit ⟨2, 3⟩).st = .training) := by
  decide +kernel

/-- MovesAndMirrors: a move of 1 GiB within DDR channel 0, one that is copied, one at the last entry that is released; a mirror of DDR in HBM, and one at the last entry. -/
theorem test_hyp_MovesAndMirrors :
    (let w : Words4 := ⟨0x100000000000, 0x100040000000, 16384, 0⟩
     let src := bits w.w0.toNat 51 0
     let dst := w.w1.toNat
     let len := w.w2.toNat * 65536
     bits w.w0.toNat 55 52 = 0 ∧ dst < 2 ^ 52 ∧ src % 65536 = 0 ∧ dst % 65536 = 0 ∧ w.w2.toNat ≠ 0 ∧ w.w2.toNat ≤ 16384 ∧ w.w3.toNat = 0 ∧ base.rangeUnit src len = some ⟨1, 0⟩
       ∧ base.rangeUnit dst len = some ⟨1, 0⟩ ∧ (base.unit ⟨1, 0⟩).st = .inService ∧ (base.unit ⟨1, 0⟩).quiescing = false ∧ rangeMeets src len dst len = false ∧ base.rangeTaken src len = false
       ∧ base.rangeTaken dst len = false ∧ (List.range 64).find? (fun i => (base.ext.moves.getD i {}).st = 0) = some 0)
    ∧ (let m : Move := { st := 1, src := ddr0, dst := ddr0 + 65536, len := 65536 }
       let s := { base with ext := { base.ext with moves := [(63, m)] } }
       s.ext.moves.getD 63 {} = m ∧ s.rangeUnit m.src m.len = some ⟨1, 0⟩ ∧ s.rangeUnit m.dst m.len = some ⟨1, 0⟩ ∧ m.st = 1 ∧ s.serves ⟨1, 0⟩ = .ok ∧ Memory.wf s = true)
    ∧ (∀ st ∈ [2, 3], let w : Words4 := ⟨0, 0, 0, 63⟩
       let s := { base with ext := { base.ext with moves := [(63, { st := st })] } }
       bits w.w0.toNat 55 52 = 0 ∧ w.w1.toNat < 2 ^ 52 ∧ w.w2.toNat < 2 ^ 32 ∧ w.w3.toNat ≤ 63 ∧ ((s.ext.moves.getD 63 {}).st = 2 ∨ (s.ext.moves.getD 63 {}).st = 3))
    ∧ (let w : Words4 := ⟨0x100000000000, 0x400000000, 65536, 0⟩
       let src := bits w.w0.toNat 51 0
       let dst := w.w1.toNat
       let len := w.w2.toNat
       bits w.w0.toNat 55 52 = 0 ∧ dst < 2 ^ 52 ∧ src % 65536 = 0 ∧ dst % 65536 = 0 ∧ len ≠ 0 ∧ len % 65536 = 0 ∧ w.w3.toNat = 0 ∧ base.rangeUnit src len = some ⟨1, 0⟩
       ∧ base.rangeUnit dst len = some ⟨0, 1⟩ ∧ (base.unit ⟨1, 0⟩).st = .inService ∧ (base.unit ⟨0, 1⟩).st = .inService ∧ base.rangeTaken src len = false
       ∧ base.rangeTaken dst len = false ∧ (List.range 128).find? (fun i => (base.ext.mirrors.getD i {}).st = 0) = some 0)
    ∧ (let w : Words4 := ⟨0, 0, 0, 127⟩
       let s := { base with ext := { base.ext with mirrors := [(127, { st := 1 })] } }
       bits w.w0.toNat 55 52 = 0 ∧ w.w1.toNat < 2 ^ 52 ∧ w.w3.toNat ≤ 127 ∧ (s.ext.mirrors.getD 127 {}).st ≠ 0) := by
  decide +kernel

/-- PatrolAndGenerator: a unit in service and one that is not; row repair on for HBM and for DDR5; the generator of the last page of each kind, on a QUIESCED unit and on another. -/
theorem test_hyp_PatrolAndGenerator :
    ((base.unit ⟨0, 3⟩).st = .inService ∧ (base.unit ⟨1, 15⟩).st = .absent)
    ∧ (let s := (unitS ⟨1, 0⟩ { st := .inService, gen := 5 }).odSet 0x3300 5 1
       s.odGet 0x3300 5 = 1 ∧ (s.unit ⟨1, 0⟩).st = .inService ∧ (s.unit ⟨1, 0⟩).gen ≠ 4)
    ∧ (∀ x ∈ [(false, 15, 0x82400001), (true, 3, 0x82400000)], let go := setBits (BitVec.ofNat 32 x.2.2).toNat 31 31 1
       let u := tgUnit x.1 x.2.1 (bits go 1 0)
       bit go 31 = true ∧ tgUnitOk x.1 x.2.1 (bits go 1 0) = true ∧ ((unitS u { st := .quiesced }).unit u).st = .quiesced ∧ bits go 26 24 ≤ 2 ∧ bits go 23 20 ≤ 4
         ∧ (base.unit u).st ≠ .quiesced)
    ∧ (let stop := setBits (0 : W32).toNat 31 30 1
       let u := tgUnit true 3 (bits stop 1 0)
       bit stop 31 = false ∧ bit stop 30 = true ∧ tgUnitOk true 3 (bits stop 1 0) = true ∧ ((unitS u { st := .testing }).unit u).st = .testing) := by
  decide +kernel

/-! ### Hypotheses: translation, layouts, modes and clocks -/

/-- A context table and a stage-1 leaf of 1 GiB of host memory in DDR channel 0, reached through cached walk entries. -/
def tables (leaf : Byte) : State :=
  { base with
    mem := [(ddr0 + 3, 0xC0), (ddr0 + 0x10000, 1), (ddr0 + 0x10007, leaf)], regs := [(ttR 0x10, BitVec.ofNat 64 ddr0), (ttP 0 0x08, BitVec.ofNat 64 (ddr0 + 1))],
    xl := { walks := [{ id := 3, ctx := 0, va := 0x1234, acc := accRead, pc := 0, agents := [.seq 0] }],
            s2 := [{ va := 0x10000, out := ddr0 + 0x10000, ipa := 0x10000, rd := true }],
            walkCache := [{ stage := 1, owner := 0, level := 4, addr := 0, table := 0x20000, phys := 0 }, { stage := 1, owner := 0, level := 3, addr := 0, table := 0x10000, phys := 0 }] } }

/-- An outcome of a walk that is a translation. -/
def okB (r : WalkRes Xent) : Bool := match r.out with | .ok _ => true | .error _ => false

/-- WalksAndFaults: a walk that waits, one that ends with a translation, one that ends with a fault; a merge window at its end and one tick before, with the queue full; a tail with
and without a record held; a resolution that names a record, and one that names none. -/
theorem test_hyp_WalksAndFaults :
    (let s := { tables 0x22 with ext := { memUp with ddr := [(0, { st := .draining, quiescing := true, bytes := 0x1000000000 })] } }
     ((s.xl.walks.take 64).find? (fun x => x.id = 3)).isSome = true ∧ (s.walkXlate 0 0x1234 accRead).wait = true)
    ∧ (((tables 0x22).walkXlate 0 0x1234 accRead).wait = false ∧ okB ((tables 0x22).walkXlate 0 0x1234 accRead) = true)
    ∧ (((tables 0x20).walkXlate 0 0x1234 accRead).wait = false ∧ okB ((tables 0x20).walkXlate 0 0x1234 accRead) = false)
    ∧ (∀ now ∈ [205, 204], let o : OpenFault := { id := 9, ctx := 0, part := 7, f := { cause := 0x71 }, opened := 5 }
       let s := { base with now := now, xl := { faults := [o] }, regs := [(ttP 7 0x24, 4096)] }
       s.xl.faults.find? (fun x => x.id = 9) = some o ∧ o.windowOpen = true ∧ (o.opened + o.window * 100 ≤ s.now ↔ now = 205) ∧ s.fqFull o.part = true)
    ∧ (let o : OpenFault := { id := 9, ctx := 0, part := 7, f := { cause := 0x71 }, windowOpen := false, held := true }
       let s := { base with xl := { faults := [o] }, regs := [(ttP 7 0x24, 4096)] }
       s.xl.faults.filter (fun o => o.part = 7 && o.held) = [o] ∧ (s.setReg (ttP 7 0x28) (1 : W32).toNat).fqFull 7 = false ∧ ∀ o ∈ base.xl.faults, o.part ≠ 7 ∨ o.held = false)
    ∧ (let o : OpenFault := { id := 9, ctx := 0, part := 7, f := { cause := 0x71 }, windowOpen := false, record := some 0xFFFFFFFF }
       let s := { base with xl := { faults := [o] } }
       let named (v : Nat) (o : OpenFault) : Bool := decide (o.part = 7) && decide (o.record = some (bits v 31 0))
       s.xl.faults.find? (named 0xFFFFFFFF) = some o ∧ ∀ o ∈ s.xl.faults, named 0xFFFFFFFE o = false) := by
  decide +kernel

/-- Invalidation: a list of fifteen and of sixteen; a command that is bad, one whose accesses are done, and one that an engine's command still holds. -/
theorem test_hyp_Invalidation :
    ((List.replicate 15 (⟨1, 0, 0, 0, 0, false⟩ : InvCmd)).length < 16 ∧ 16 ≤ (List.replicate 16 (⟨1, 0, 0, 0, 0, false⟩ : InvCmd)).length)
    ∧ (let c : InvCmd := ⟨5, 0, 0, 1, 0, false⟩
       let s := { base with xl := { inv := [(0, [c])] } }
       s.xl.inv.getD 0 [] = [c] ∧ s.invBad 0 c = false ∧ ((s.invApply 0 c).invDrain 0 c).invPending 0 c = false)
    ∧ (let c : InvCmd := ⟨2, 0, 0, 1, 0, false⟩
       let s := { base with xl := { inv := [(0, [c])] } }
       s.xl.inv.getD 0 [] = [c] ∧ s.invBad 0 c = true)
    ∧ (let c : InvCmd := ⟨3, 0, 0, 1, 0, false⟩
       let s := { base with xl := { inv := [(0, [c])] }, cores := [(0, { mx := { queue := [{ id := 0, fromSeq := true, started := true, pages := [pg 0 false] }] } })] }
       s.xl.inv.getD 0 [] = [c] ∧ s.invBad 0 c = false ∧ ((s.invApply 0 c).invDrain 0 c).invPending 0 c = true) := by
  decide +kernel

/-- The module READY with no context, and a layout change in a phase. -/
def layS (c : Option LayChange) : State := { base with obj := {}, pt := { base.pt with layout := c } }

/-- LayoutCommands: reserved bits, a change that runs, a bad layout, one that changes nothing and one that changes; an abort in each phase; a partition that is there and one that is not; the
drain limit at its end and one tick before. -/
theorem test_hyp_LayoutCommands :
    (layoutReserved 8 = true ∧ layoutReserved 0x01000007 = false)
    ∧ ((layS none).pt.layout = none ∧ (layS none).layoutBad = false ∧ (layS none).affected ≠ [] ∧ base.layoutBad = true)
    ∧ (rdy.pt.layout = none ∧ rdy.layoutBad = false ∧ rdy.affected = [])
    ∧ (let c : LayChange := { parts := [0] }
       (layS (some c)).pt.layout.isSome = true ∧ (layS (some c)).mayAbort c = true ∧ c.phase ≠ .mode)
    ∧ (let c : LayChange := { parts := [0], phase := .mode }
       (layS (some c)).pt.layout = some c ∧ (layS (some c)).mayAbort c = false)
    ∧ (let c : LayChange := { parts := [0], phase := .mode }
       let s := (layS (some c)).setModes { phase := .stage, cur := { kind := 4 } }
       s.pt.layout = some c ∧ s.mayAbort c = true ∧ c.phase = .mode)
    ∧ (((layS none).part (bits (0 : W32).toNat 2 0)).lay.enabled = true ∧ ((layS none).part (bits (7 : W32).toNat 2 0)).lay.enabled = false)
    ∧ (bit (0x80000000 : W64).toNat 31 = true ∧ bit (0x7FFFFFFF : W64).toNat 31 = false)
    ∧ (let c : LayChange := { parts := [0], tPrep := 5 }
       let s := layS (some c)
       s.pt.layout = some c ∧ c.phase = .preparation ∧ ∃ d, s.odGet 0x4010 2 * 100000 = d ∧ 0 < d ∧ ({ s with now := 5 + d }.now) = c.tPrep + d) := by
  refine ⟨by decide +kernel, by decide +kernel, by decide +kernel, by decide +kernel, by decide +kernel, by decide +kernel, by decide +kernel, by decide +kernel, by decide +kernel, by decide +kernel,
    _, rfl, by decide +kernel, by decide +kernel⟩

/-- SharedModesAndClocks: a change that waits with its units well and one in error; the stage limit reached and not; a commit, its last unit, its end; a hold that has expired; a default
of each value; ROOT on its way both ways over the whole range, and an oscillator not yet in use. -/
theorem test_hyp_SharedModesAndClocks :
    (let r : ModeReq := { kind := 2, part := 0, scope := 1, value := 1 }
     let m : ModeCtl := { waiting := [r] }
     let s := layS none
     let u (x : State) : State := x.setModes { m with phase := .stage, cur := r, waiting := [], left := [], tStage := x.now }
     let e := { s with seqs := [(0, { state := .error })] }
     s.pt.layout = none ∧ r.kind ≠ 4 ∧ (u s).scopeError r = false ∧ (u e).scopeError r = true)
    ∧ (let r : ModeReq := { kind := 2, part := 0, scope := 1, value := 1 }
       let s := (layS none).setModes { phase := .stage, cur := r, tStage := 5 }
       s.pt.layout = none ∧ s.pt.modes.phase = .stage ∧ s.scopeError r = false ∧ s.now < s.pt.modes.tStage + s.odGet 0x4010 1 * 100
         ∧ { s with now := 5 + s.odGet 0x4010 1 * 100 }.pt.modes.tStage + s.odGet 0x4010 1 * 100 ≤ { s with now := 5 + s.odGet 0x4010 1 * 100 }.now)
    ∧ (let s := (layS none).setModes { phase := .commit, cur := { kind := 1, scope := 0xFF, value := 0 }, left := [.core 255] }
       s.pt.layout = none ∧ s.pt.modes.phase = .commit ∧ ModeUnit.core 255 ∈ s.pt.modes.left ∧ s.atBoundary s.pt.modes.cur.kind (.core 255) = true
         ∧ (s.setModes { s.pt.modes with left := [] }).pt.modes.left = [])
    ∧ (let s := { layS none with now := 100000000000, pt := { parts := [(7, { st := .active, compat := true })] } }
       s.pt.layout = none ∧ (s.part 7).compat = true ∧ (∀ e ∈ s.pt.kernels, e.2.part ≠ 7 ∨ e.2.desc.fv40 = false) ∧ (s.part 7).lastFv40 + s.odGet 0x4010 3 * 100000 ≤ s.now
         ∧ s.pt.modes.phase = .idle ∧ s.pt.modes.waiting = [])
    ∧ ((1 : Byte).toNat < 2 ∧ 2 ≤ (2 : Byte).toNat ∧ ((layS none).part 0).st ≠ .absent)
    ∧ (State.reset.clk.rootMHz = pointMHz 5 ∧ { State.reset.clk with target := 0 }.target = 0 ∧ { State.reset.clk with rootMHz := 6800 }.rootMHz = pointMHz 0 ∧ State.reset.clk.target = 5)
    ∧ State.reset.clk.osc = false := by
  decide +kernel

/-! ### Hypotheses: objects and submission -/

/-- The four arguments of partition `p`'s HQ_ page. -/
def hqS (s : State) (p a0 a1 a2 a3 : Nat) : State :=
  { s with regs := s.regs ++ [(hqP p 0x20, BitVec.ofNat 64 a0), (hqP p 0x28, BitVec.ofNat 64 a1), (hqP p 0x30, BitVec.ofNat 64 a2), (hqP p 0x38, BitVec.ofNat 64 a3)] }

/-- Objects of context 0: queues 4095 (stopped), 1 (idle), 2 (active), memory object 0, fence 3, event 4, an exported fence 5. -/
def objs : Objects :=
  { ctxs := [(0, { st := .live, syncQuota := 8, memQuota := 2 })],
    queues := [(1, { st := .idle, ost := .live, refs := 1 }), (2, { st := .active, ost := .live, refs := 1 }), (4095, { st := .stopped, ost := .live, refs := 1 })],
    mems := [(0, { st := .live, refs := 1 })],
    syncs := [(3, { st := .live, refs := 1 }), (4, { st := .live, event := true, refs := 1 }), (5, { st := .live, refs := 1, exported := true, nonce := 0xFFFF })] }

/-- READY with these objects, context 0's tables, and DDR channel 0's first GiB in partition 0. -/
def objS : State :=
  { tables 0x26 with obj := objs, pt := { parts := [(0, { st := .active, lay := { clusters := 1, sets := 2, ddr := [(ddr0, 1)], enabled := true } })] } }

/-- The result of reading a context's entry, if good. -/
def entryOf (r : WalkRes CtxEnt) : Option CtxEnt := match r.out with | .ok e => some e | .error _ => none

theorem takesHq_firmware {s : State} {part : Nat} (h1 : s.mg.down = false) (h2 : bit (s.reg (hqP part 0x40)) 31 = false) : TakesHq s .firmware part :=
  ⟨Or.inl rfl, h1, h2⟩

/-- Every command of an HQ_ page is taken from the firmware, and from the function of its partition. -/
theorem test_hyp_TakesHq : TakesHq objS .firmware 7 ∧ TakesHq { objS with host := { vfEnable := true, numVfs := 1 } } (.vf 1) 0 :=
  ⟨takesHq_firmware (by decide) (by decide), Or.inr (Or.inr ⟨1, Or.inr ⟨rfl, rfl⟩, by decide, Or.inl rfl⟩), by decide, by decide⟩

/-- ContextsAndQueues: what each command needs and what it refuses; a context with every quota at its highest; queues of each state; the highest queue; a count at both ends of its range. -/
theorem test_hyp_ContextsAndQueues :
    (let a0 := 1 + 4096 * 2 ^ 16 + 2 ^ 31
     let s := hqS { objS with mem := [(ddr0 + 32 + 3, 0xC0)] } 0 a0 (2 ^ 64 - 1) 0 0
     s.hqMask 0 (0x3FF + 0x1FFF * 2 ^ 16 + 2 ^ 31) m64 0 0 = true ∧ bits a0 28 16 ≤ 4096 ∧ (s.ctx (bits a0 9 0)).st = .free ∧ (entryOf (s.ctxEntry (bits a0 9 0))).any (fun e => decide (e.part = 0)) = true
       ∧ s.privileged .firmware = true ∧ s.privileged (.vf 1) = false)
    ∧ (let s := hqS objS 0 0 0 0 0
       s.hqArg 0 0 &&& 0x3FF = s.hqArg 0 0 ∧ s.hqArg 0 1 = 0 ∧ s.hqArg 0 2 = 0 ∧ s.hqArg 0 3 = 0 ∧ s.objLive 0 kCtx (s.hqArg 0 0) = true ∧ (hqS objS 0 1023 0 0 0).objLive 0 kCtx 1023 = false)
    ∧ (let s := hqS objS 0 (2 * 2 ^ 20 + 4095) 0 0 0
       s.hqMask 0 0xFFFFFF 0 0 0 = true ∧ 4095 < objCap 2 ∧ s.objIn 0 2 4095 = true ∧ s.objSt 5 65535 = .free ∧ 65535 < objCap 5 ∧ s.objSt 1 0 ≠ .free ∧ s.objIn 1 1 0 = false)
    ∧ (let a2 := 4094 + 16 * 2 ^ 22 + 2 * 2 ^ 27 + 2 ^ 29 + 2 ^ 30 + 255 * 2 ^ 43
       let s := hqS objS 0 (2 ^ 57 - 2 ^ 12) (2 ^ 57 - 2 ^ 6) a2 3600000
       s.hqMask 0 (2 ^ 57 - 2 ^ 12) (2 ^ 57 - 2 ^ 6) (2 ^ 51 - 1) (0x3FFFFF + 0xFFFF * 2 ^ 32) = true ∧ s.objLive 0 kCtx (bits a2 21 12) = true ∧ (s.queue (bits a2 11 0)).ost = .free ∧ 4 ≤ bits a2 26 22
         ∧ bits a2 26 22 ≤ 16 ∧ bits a2 28 27 = 2 ∧ bits a2 50 43 ≠ 0 ∧ bits 3600000 21 0 ≤ 3600000 ∧ s.rtQueues < 128 ∧ bit a2 30 = true ∧ bits (a2 - 255 * 2 ^ 43) 50 43 = 0)
    ∧ (128 ≤ { objS with obj := { objs with queues := (List.range 128).map (fun n => (n, { st := .idle, rt := true })) } }.rtQueues)
    ∧ (objS.objLive 0 kQueue 4095 = true ∧ (objS.queue 4095).st = .stopped ∧ (objS.queue 1).st = .idle ∧ (objS.queue 2).st = .active ∧ objS.objLive 0 kQueue 1 = true ∧ objS.objLive 0 kQueue 2 = true
        ∧ (4095 &&& 0xFFF = 4095) ∧ (objS.queue 4094).st = .none ∧ objS.objLive 0 kQueue 4094 = false)
    ∧ (∀ a1 ∈ [0xFFFFFFFE, 0x7FFFFFFF], let s := hqS { objS with obj := { objs with syncs := [(3, { st := .live, refs := 2 })] } } 0 (4 * 2 ^ 20 + 3) a1 0 0
       s.hqMask 0 0xFFFFFF 0xFFFFFFFF 0 0 = true ∧ s.objIn 0 4 3 = true ∧ s.objSt 4 3 ≠ .reclaiming ∧ 0 ≤ (s.refsOf 4 3 : Int) + toSigned 32 a1 ∧ (s.refsOf 4 3 : Int) + toSigned 32 a1 ≤ 0xFFFFFFFF)
    ∧ ((objS.refsOf 4 3 : Int) + toSigned 32 0xFFFFFFFE < 0) := by
  decide +kernel

/-- A handle of the fence section is FREE below its end. -/
def syncFreeB (s : State) : Bool := let h := lowestFree (fun (x : SyncObj) => decide (x.st ≠ .free)) 0 s.obj.syncs; decide (h < 65536) && decide ((s.sync h).st = .free)

/-- The same of the memory objects. -/
def memFreeB (s : State) : Bool := let h := lowestFree (fun (x : MemObj) => decide (x.st ≠ .free)) 0 s.obj.mems; decide (h < 1048576) && decide ((s.memObj h).st = .free)

/-- A free value then chooses a handle. -/
theorem freeSync_some {s : State} (h : syncFreeB s = true) : ∃ n, s.freeSync = some n := by
  simp only [syncFreeB, Bool.and_eq_true, decide_eq_true_eq] at h
  apply Option.isSome_iff_exists.mp
  unfold State.freeSync
  rw [List.find?_isSome]
  exact ⟨_, List.mem_filter.mpr ⟨List.mem_cons_of_mem _ (List.mem_singleton.mpr rfl), by simpa using h.1⟩, by simpa using h.2⟩

/-- The same of a memory object. -/
theorem freeMem_some {s : State} (h : memFreeB s = true) : ∃ n, s.freeMem = some n := by
  simp only [memFreeB, Bool.and_eq_true, decide_eq_true_eq] at h
  apply Option.isSome_iff_exists.mp
  unfold State.freeMem
  rw [List.find?_isSome]
  exact ⟨_, List.mem_filter.mpr ⟨List.mem_cons_of_mem _ (List.mem_singleton.mpr rfl), by simpa using h.1⟩, by simpa using h.2⟩

/-- MemoryFencesEvents: the range owned and not, a context with room and without, fences with and without an owner queue, an exported fence and one that is not yet, a token at its ends. -/
theorem test_hyp_MemoryFencesEvents :
    (let s := hqS { objS with xl := { s2 := [{ part := 0, va := 0x20000, out := ddr0, ipa := 0x20000, rd := true }] } } 0 0 0x20000 65536 0
     s.hqMask 0 0x3FF (2 ^ 52 - 1) m64 0 = true ∧ s.objLive 0 kCtx 0 = true ∧ 65536 % 65536 = 0 ∧ 0x20000 % 65536 = 0 ∧ memFreeB s = true ∧ (s.ctxMems 0).length < (s.ctx 0).memQuota
       ∧ (State.rangeOwned 1 s 0 0x20000).1 = some true ∧ (State.rangeOwned 1 s 0 0x30000).1 = some false)
    ∧ (let a0 := 2 ^ 31 + 3 * 2 ^ 32
       let s := hqS objS 0 a0 (2 ^ 64 - 1) 0 0
       s.hqMask 0 (0xFFFFF + 2 ^ 31 + 0xFFFF * 2 ^ 32) m64 0 0 = true ∧ s.objLive 0 kMem (bits a0 19 0) = true ∧ bit a0 31 = true ∧ s.objLive 0 kFence (bits a0 47 32) = true
         ∧ (s.sync (bits a0 47 32)).ctx = (s.memObj (bits a0 19 0)).ctx)
    ∧ (let a0 := 4095 * 2 ^ 16 + 2 ^ 31
       let s := hqS objS 0 a0 (2 ^ 64 - 1) (2 ^ 57 - 16) 0
       s.hqMask 0 (0x3FF + 0xFFF * 2 ^ 16 + 2 ^ 31) m64 (2 ^ 57 - 1) 0 = true ∧ s.objLive 0 kCtx (bits a0 9 0) = true ∧ (2 ^ 57 - 16) % 16 = 0 ∧ s.objLive 0 kQueue (bits a0 27 16) = true
         ∧ (s.queue (bits a0 27 16)).ctx = 0 ∧ syncFreeB s = true ∧ s.syncRoom 0 = true
         ∧ { s with obj := { s.obj with ctxs := [(0, { st := .live, syncQuota := 3 })] } }.syncRoom 0 = false)
    ∧ (objS.objLive 0 kFence 3 = true ∧ objS.objLive 0 kEvent 4 = true ∧ (hqS objS 0 4 0 0 0).hqMask 0 0xFFFF 0 0 0 = true ∧ (hqS objS 0 0x80000003 (2 ^ 64 - 1) 0 0).hqMask 0 (0xFFFF + 2 ^ 31) m64 0 0 = true)
    ∧ ((objS.sync (objS.original 5)).exported = true ∧ (objS.sync (objS.original 3)).exported = false ∧ (objS.sync 3).alias_ = false ∧ objS.objLive 0 kFence 5 = true)
    ∧ (let tok := 5 * 2 ^ 16 + 0xFFFF
       let s := hqS objS 0 0 tok 0 0
       s.hqMask 0 0x3FF 0xFFFFFFFF 0 0 = true ∧ s.objLive 0 kCtx 0 = true ∧ s.tokenOk tok = true ∧ syncFreeB s = true ∧ s.syncRoom 0 = true ∧ s.ctxPart (s.sync 5).ctx = 0)
    ∧ (let tok := 5 * 2 ^ 16 + 0xFFFF
       let s := { hqS objS 1 1 tok 0 0 with obj := { objs with ctxs := [(0, { st := .live }), (1, { st := .live, part := 1, syncQuota := 1 })] } }
       s.hqMask 1 0x3FF 0xFFFFFFFF 0 0 = true ∧ s.objLive 1 kCtx 1 = true ∧ s.tokenOk tok = true ∧ syncFreeB s = true ∧ s.syncRoom 1 = true ∧ s.ctxPart (s.sync 5).ctx ≠ 1 ∧ s.privileged (.vf 2) = false)
    ∧ ((hqS objS 0 (0xFFFF * 2 ^ 16) 0xFFFFFFFF 0 0).hqMask 0 (0x3FF + 0xFFFF * 2 ^ 16) 0xFFFFFFFF 0 0 = true) := by
  decide +kernel

/-- Context 0's queue 5 on host memory at 0x1000 with the entry and step object that `mem` holds. -/
def ringS (x : Queue) (mem : SMap Byte) : State :=
  { objS with hostMem := mem, obj := { objs with queues := [(5, { x with ring := 0x1000, sizeLog := 4, fmt := 2, ost := .live })] } }

/-- A v2 STEP entry (12_objects_and_submission.md R464) at 0x1000 whose step object stands at 0x2000, with a fence to wait for. -/
def stepEntry (clusters : Byte) : SMap Byte := [(0x1000, 1), (0x1001, 2), (0x1009, 0x20), (0x2018, clusters)]

/-- A held entry of queue 5. -/
def heldS (h : Held) (t : Nat) : State := { ringS { st := .active, held := some h } [] with now := t }

/-- EntryCourseAndTimes: a doorbell that announces a full ring and one past it, of a host's queue and a device's; an entry that reads and one that does not; waits that are met, failed and
unmet; an entry that is done. -/
theorem test_hyp_EntryCourse :
    (let x := (ringS { st := .idle } []).queue 5
     x.device = false ∧ x.st ≠ .none ∧ ((ringS { st := .idle } []).ctx x.ctx).killed = none ∧ x.ahead (16 : W32).toNat ≤ 2 ^ x.sizeLog ∧ 2 ^ x.sizeLog < x.ahead (17 : W32).toNat)
    ∧ ((ringS { st := .idle, device := true } []).queue 5).device = true
    ∧ (∀ ok ∈ [true, false], let s := if ok then ringS { st := .active, tail := 1 } (stepEntry 1) else { ringS { st := .active, tail := 1 } [] with xl := {} }
       let x := s.queue 5
       let r := s.frontRead x.ctx (x.ring + x.head % 2 ^ x.sizeLog * 128) 128
       x.st = .active ∧ x.held = none ∧ x.head ≠ x.tail ∧ s.mg.stage = .ready ∧ s.mg.down = false ∧ r.wait = false ∧ (r.stat = stOk ↔ ok = true))
    ∧ (∀ v ∈ [0, 1], let h : Held := { entry := { kind := 3, waits := [(3, v)] }, phase := .waiting, tAccept := 0 }
       ((heldS h 0).queue 5).held = some h ∧ h.phase = .waiting ∧ (heldS h 0).waitsNow h.entry = if v = 0 then some stOk else none)
    ∧ (let h : Held := { entry := { kind := 1, waits := [(3, 1)] }, phase := .waiting, tAccept := 0 }
       let s := (heldS h 0).modSync 3 (fun x => { x with error := true })
       s.waitsNow h.entry = some stFenceError ∧ stFenceError ≠ stOk ∧ (heldS h 0).waitsNow { kind := 1, waits := [(3, 0)] } = some stOk)
    ∧ (let h : Held := { entry := {}, phase := .done stOk, tAccept := 0, quiet := true, refused := true }
       ((heldS h 0).queue 5).held = some h ∧ h.phase = .done stOk ∧ h.quiet = true ∧ h.refused = true ∧ ((heldS h 0).queue 5).device = false ∧ ((heldS h 0).ctx 0).killed = none) := by
  decide +kernel

/-- EntryCourseAndTimes: each wait at its end and one tick before. -/
theorem test_hyp_ObjectTimes :
    (let x : RemoteImport := { part := 7, ctx := 0, node := 1, token := 0, handle := 9, tSent := 5 }
     let s := { objS with now := 1000005, obj := { objs with imports := [x] } }
     s.obj.imports.find? (fun x => x.part = 7) = some x ∧ x.tSent + 1000000 ≤ s.now ∧ { s with now := 1000004 }.now < x.tSent + 1000000)
    ∧ (({ objS with now := 10000 }).obj.tEpoch + objS.obj.epochUs * 100 ≤ 10000 ∧ 9999 < objS.obj.tEpoch + objS.obj.epochUs * 100)
    ∧ (let h : Held := { entry := {}, phase := .waiting, tAccept := 5 }
       let s := heldS h 5
       (s.queue 5).held = some h ∧ (s.ctx (s.queue 5).ctx).killed = none ∧ s.frozen (s.queue 5).ctx = false ∧ h.tAccept + (s.queue 5).timeoutMs * 100000 ≤ s.now ∧ h.phase = .waiting
         ∧ s.stepOf 5 = none ∧ s.req 5 = none ∧ (heldS h 4).now < h.tAccept + (s.queue 5).timeoutMs * 100000)
    ∧ (let h : Held := { entry := {}, phase := .handed, tAccept := 0 }
       let s0 := heldS h 5
       let s := { s0 with obj := { s0.obj with ctxs := [(0, { st := .live, killed := some 5 })] }, pt := { steps := [(5, { st := .running })] } }
       (s.ctx (s.queue 5).ctx).killed = some 5 ∧ 5 + (s.queue 5).timeoutMs * 100000 ≤ s.now ∧ s.entryRuns 5 = true ∧ s.stepOf 5 = some { st := .running } ∧ { s with now := 4 }.now < 5 + (s.queue 5).timeoutMs * 100000) := by
  decide +kernel

/-- StepOverQuota: an entry whose step wants two clusters of a partition that holds one. -/
theorem test_hyp_StepOverQuota :
    let s := ringS { st := .active, tail := 1 } (stepEntry 2)
    let x := s.queue 5
    let r := s.frontRead x.ctx (x.ring + x.head % 2 ^ x.sizeLog * 128) 128
    let e := entryV2 r.data
    let u := r.st
    let g := (u.queue 5).headGen
    let o := u.frontRead x.ctx e.e.obj 64
    x.st = .active ∧ x.held = none ∧ x.head ≠ x.tail ∧ s.mg.stage = .ready ∧ s.mg.down = false ∧ r.wait = false ∧ r.stat = stOk ∧ (u.queue 5).fmt = x.fmt ∧ entryKnown x.fmt r.data = true
      ∧ e.bad = false ∧ (∀ w ∈ e.e.waits, u.fenceOk x.ctx w.1 g false = true) ∧ (∀ w ∈ e.e.sigs, u.sigOk 5 x.ctx g w.1 = true) ∧ (∀ m ∈ e.e.mems, u.memOk x.ctx m g = true) ∧ e.e.kind = 1
      ∧ o.wait = false ∧ o.stat = stOk ∧ stepObjBad o.data = false ∧ (o.st.partCls (u.ctxPart x.ctx)).length < bits (sliceNat o.data 0x18 4) 4 0 := by
  decide +kernel

/-! ### Hypotheses: update units, the Meter, the scheduler and registers -/

/-- Queue 5 holds a handed request `r`; unit 0 is idle with `jobs`. -/
def updS (r : UpdReq) (jobs : List ShardJob) : State :=
  let s := heldS { entry := { kind := 2 }, phase := .handed, tAccept := 0 } 0
  { s with upd := { units := [(0, { state := .idle, jobs := jobs })], reqs := [(5, r)] } }

/-- A request of one shard at unit 0, of `n` elements, in a pass. -/
def updR (pass n : Nat) : UpdReq := { header := [BitVec.ofNat 64 (pass * 2 ^ 24)], shards := [{ words := [BitVec.ofNat 64 (n * 2 ^ 32)], unit := 0 }], parts := [{ unit := 0, shards := [0] }] }

/-- UpdateUnits: a unit's queue with room for one and full; each pass over no element and over one that cannot be read; parts ended and not; a good rule, a bad one and a short one; a rule that
waits and one that need not; a unit with shards and without. -/
theorem test_hyp_UpdateUnits :
    (∀ n ∈ [64, 65], let r := updR 1 0
      let s := updS r (List.replicate n ⟨5, 0⟩)
      s.handedReq 5 = some r ∧ r.shards[r.handed]?.isSome = true ∧ (r.part_ 0).any (fun x => !x.ended) = true ∧ r.stop = none ∧ s.uuOpen 0 = true ∧ ((s.uu 0).jobs.length < 65 ↔ n = 64))
    ∧ (∀ x ∈ [(1, 0), (2, 0), (1, 1), (2, 1)], let r := updR x.1 x.2
      let s := { updS r [⟨5, 0⟩] with xl := {}, regs := [] }
      let b := bytesOf ((r.shards[0]?.map (·.words)).getD [])
      let s1 := s.modUu 0 (fun y => { y with part := r.part })
      let k := if x.1 = 1 then pass1Run 5 0 r b s1 else pass2Run 5 0 r b s1
      (s.uu 0).jobs = [⟨5, 0⟩] ∧ s.req 5 = some r ∧ updPass (bytesOf r.header) = x.1 ∧ s1.uuOpen 0 = true ∧ k.wait = false ∧ k.fail.isSome = decide (x.2 = 1))
    ∧ (∀ e ∈ [true, false], let r := { updR 1 0 with parts := [{ unit := 0, shards := [0], ended := e }] }
      (updS r []).handedReq 5 = some r ∧ r.stop = none ∧ r.parts.all (·.ended) = e)
    ∧ ((List.replicate 64 (0 : Byte)).length = 64 ∧ ruleBad (List.replicate 64 0) = false ∧ ruleBad ([0xFF, 0xFF, 0xFF, 0xFF] ++ List.replicate 60 0) = true ∧ (List.replicate 63 (0 : Byte)).length ≠ 64)
    ∧ (∀ q ∈ [[], [5]], let w : RuleWait := { path := .firmware, part := 7, rule := 15, data := [], queues := q }
      { rdy with upd := { ruleWait := [w] } }.upd.ruleWait.find? (fun w => w.part = 7 && w.rule = 15) = some w)
    ∧ ((updS (updR 1 0) []).uu 0).jobs = [] ∧ ((updS (updR 1 0) [⟨5, 0⟩]).uu 0).jobs ≠ [] := by
  decide +kernel

/-- Two steps of partition 0: 5 runs on cluster 0 and may yield, 6 waits for it. -/
def twoSteps (t : Nat) : State :=
  { base with now := t, pt := { base.pt with steps := [(5, { st := .running, yieldOk := true, cls := [0], awake := [0], clusters := 1 }), (6, { st := .ready, clusters := 1, ctx := 1 })] } }

/-- MeterAndScheduler: power on and off; an ACTIVE partition and one that is not; a slice over and not, with a step to yield; a pre-emption at its limit and one tick before; maintenance that is
not admitted, that waits, and that is done. -/
theorem test_hyp_MeterAndScheduler :
    (base.pw.phase = .on ∧ { base.pw with phase := .off }.phase ≠ .on ∧ (base.part 0).st = .active ∧ (base.part 7).st ≠ .active)
    ∧ (∀ t ∈ [0, 1000000000], let s := twoSteps t
      (s.stepOf 5).any (fun r => s.sliceOver r = decide (t ≠ 0)) = true)
    ∧ (let s := twoSteps 1000000000
       let r : StepRec := { st := .running, yieldOk := true, cls := [0], awake := [0], clusters := 1 }
       let x : StepRec := { st := .ready, clusters := 1, ctx := 1 }
       s.stepOf 5 = some r ∧ s.sliceOver r = true ∧ sortBy s.beBefore (s.stepsIn [r.part] (fun x => !x.rt && s.choosable x)) = [6] ∧ s.stepOf 6 = some x ∧
         s.enough (sortBy s.beBefore (s.stepsIn [r.part] (fun y => s.sliceOver y && y.ctx ≠ x.ctx))).reverse (s.stepSize x - ((s.freeCls r.part).length + s.coming r.part)) = some [5]
         ∧ [5].length ≤ s.parkRoom r.part)
    ∧ (let r : StepRec := { st := .yielding, forRt := true, tYield := 5 }
       let s := { base with now := 105, obj := { base.obj with queues := [(5, { st := .active, preemptUs := 1 })] }, pt := { base.pt with steps := [(5, r)] } }
       s.stepOf 5 = some r ∧ r.drained = false ∧ 0 < (s.queue 5).preemptUs ∧ r.tYield + (s.queue 5).preemptUs * 100 ≤ s.now ∧ { s with now := 104 }.now < r.tYield + (s.queue 5).preemptUs * 100)
    ∧ (({ base with pt := { base.pt with meter := { stopped := true } } }).maintAdmit (.quadRetrain 8 3) = false ∧ base.maintAdmit (.testUnit ⟨1, 0⟩) = true ∧ (base.maintDo (.testUnit ⟨1, 0⟩)).2 = false
        ∧ base.maintAdmit (.quadRetrain 8 3) = true ∧ (base.maintDo (.quadRetrain 8 3)).2 = true) := by
  decide +kernel


/-- What RegisterWrites asks of a 4-byte write at `off`: whether it is restricted, read-only, an action register, special, and reaches a privileged field. -/
def regFacts (s : State) (p : Path) (off : Nat) : Option (Bool × Bool × Bool × Bool × Bool) :=
  match findReg off with
  | none => none
  | some (r, i, d) =>
    match locate (off - d) with
    | none => none
    | some (b, j, o) => if b = r.blk ∧ j = i then some (restricted r i, allRo r.fields, isAction b i o, (s.regSpecial p r i (off - d) o 0xFFFFFFFF 0xFFFFFFFF).isSome, reachesRwp r.fields 0xFFFFFFFF) else none

/-- RegisterWrites: an access before READY, one of a bad size from the host and the firmware, and offsets at which each kind of register stands, reached by the firmware, the PF and an engine. -/
theorem test_hyp_RegisterWrites :
    (State.reset.fnServes 0 = true ∧ State.reset.mg.stage ≠ .ready ∧ inMg 0x3000000 = false ∧ accessOk (teR 0 0x10) 4 = true ∧ rdy.mg.stage = .ready ∧ inMg (mgR 0xFFFC) = true)
    ∧ (accessOk (teR 0 0x12) 4 = false ∧ accessOk (teR 0 0x10) 8 = false ∧ accessOk (teR 0 0x10) 2 = false ∧ accessOk (ttR 0x1030) 8 = true)
    ∧ ((findReg (teR 0 0xFF00)).isNone = true ∧ inBuf4 (teR 0 0xFF00) = false)
    ∧ (∀ x ∈ [((.engine 0 : Path), dbR 0 0x18, (true, false, false, true, false)), (.firmware, dbR 0 0x18, (true, false, false, true, false)), (.pf, ttR 0, (false, true, false, false, false)),
        (.engine 3, ttR 0x1030, (false, false, true, false, false)), (.engine 3, ttR 0x1034, (false, false, true, false, false)), (.engine 3, ttR 0x1028, (false, false, false, true, false)),
        (.engine 3, ttR 0x10, (false, false, false, false, true)), (.engine 3, ttR 0x1038, (false, false, false, false, false))], regFacts rdy x.1 x.2.1 = some x.2.2)
    ∧ rdy.privileged (.engine 0) = false ∧ rdy.privileged .firmware = true ∧ rdy.privileged .pf = true := by
  decide +kernel
/-! ### Hypotheses: the host link and Niandop Link -/

/-- READY, with the host link up in FLIT mode, eight virtual functions and IDE active. -/
def upS : State := { objS with host := { up := true, flit := true, cfgReady := true, ide := 2, vfEnable := true, numVfs := 8, ari := true, perst := false },
                               pt := { objS.pt with parts := objS.pt.parts ++ [(7, { st := .active })] } }

/-- HostLinkCourse: a module with power and PERST# released, one with PERST# asserted; a link that is up; the last virtual function; IDE with FLIT mode, and secure. -/
theorem test_hyp_HostLinkCourse :
    (upS.pw.phase = .on ∧ upS.host.perst = false ∧ State.reset.host.perst = true ∧ upS.host.up = true ∧ upS.host.cfgReady = true ∧ upS.vfOn 8 = true ∧ upS.vfOn 9 = false)
    ∧ (upS.host.flit = true ∧ upS.host.ide = 2) := by
  decide

/-- HostRequests: a function that does not serve and two that do; a request that ends at the window's end; a warm reset, a stage before READY, and READY, with memory that serves the PF
and a virtual function, and memory that neither reaches; a pending vector. -/
theorem test_hyp_HostRequests :
    (rdy.fnServes 1 = false ∧ upS.fnServes 0 = true ∧ upS.fnServes 8 = true ∧ (0x40000000 - 16) + 16 ≤ upS.bar2Size 0)
    ∧ ({ upS with mg := { upS.mg with warming := true } }.mg.warming = true ∧ { upS with mg := { upS.mg with warming := true } }.fnServes 0 = true)
    ∧ ({ upS with mg := { upS.mg with stage := .rom } }.mg.stage ≠ .ready ∧ { upS with mg := { upS.mg with stage := .rom } }.mg.warming = false ∧ { upS with mg := { upS.mg with stage := .rom } }.fnServes 0 = true)
    ∧ (∀ a ∈ [ddr0, 2 ^ 48], let s := { upS with host := { upS.host with fns := [(0, { aperture := a })] } }
       s.mg.stage = .ready ∧ s.mg.warming = false ∧ (s.writeMem ownAccess 0 .bank (s.bar2Base 0 + 16) [1, 2] false).wait = false ∧ (s.readMem ownAccess 0 (s.bar2Base 0 + 16) 2).wait = false
         ∧ (s.readMem ownAccess 0 (s.bar2Base 0 + 16) 2).undec.isSome = decide (a ≠ ddr0))
    ∧ (upS.fnServes 1 = true ∧ (upS.ipaWriteMem 0 (upS.bar2Base 1 + 0x10000) [1, 2] []).wait = false ∧ (upS.ipaRead 0 (upS.bar2Base 1 + 0x10000) 2).wait = false ∧ (upS.ipaRead 0 (upS.bar2Base 1 + 0x10000) 2).fault = none)
    ∧ (2047 < vectorsOf 0 ∧ 255 < vectorsOf 8)
    ∧ (let f : Fn := { msixEn := true, msixPend := [(255, true)] }
       let s := { upS with host := { upS.host with fns := [(8, f)] } }
       s.fnServes 8 = true ∧ (s.fn 8).msixEn = true ∧ (s.fn 8).fnMask = false ∧ s.mg.stage ≠ .warm ∧ s.mg.warming = false ∧ s.mg.down = false ∧ (s.fn 8).msixPend.getD 255 false = true) := by
  refine ⟨by decide, by decide, by decide, by decide +kernel, by decide +kernel, by decide, by decide⟩

/-- A group of this module and node 7, by context 0. -/
def grpE : List Byte := leBytes 4 (2 ^ 31) ++ leBytes 4 1 ++ leBytes 2 1 ++ leBytes 2 0 ++ leBytes 4 0 ++ leBytes 8 (ddr0 + 0x20000) ++ leBytes 40 0
/-- An operation of kind `k` on group 0: trigger fence 3, done fence 5, 32 numbers of 2 bytes. -/
def opE (k : Nat) : List Byte :=
  leBytes 4 (2 ^ 31 + k * 2 ^ 28 + 6 * 2 ^ 20) ++ leBytes 2 3 ++ leBytes 2 5 ++ leBytes 8 0x10000 ++ leBytes 8 0x10000 ++ leBytes 8 0 ++ leBytes 8 32 ++ leBytes 2 0 ++ leBytes 22 0
/-- Peer 7 is `p`, over the planes of port 8, all routed; group 0, and operation 0, an ALL_GATHER of 64 bytes at IPA 0x10000. -/
def lkS (p : Peer) : State :=
  { objS with mem := objS.mem ++ [(ddr0 + 0x20002, 7)], regs := objS.regs ++ [(lkR 8 0x8000, 128)],
              xl := { objS.xl with s2 := [{ va := 0x10000, out := ddr0 + 0x10000, ipa := 0x10000, rd := true, wr := true }] },
              lk := { on := true, inc := 9, ports := [(8, { inService := 0xF })], peers := [(7, p)], groups := [(0, grpE)], ops := [(0, opE 2)] } }

/-- An open peer that has performed PSN 7 ahead of 5. -/
def peerO : Peer := { st := .open_, cum := 5, performed := [7], nextPsn := 2, window := 8 }

/-- A frame of node 7 on the last plane. -/
def fr (psn : Nat) (pl : List Byte) : Frame :=
  { plane := 31, etherType := 34997, version := 1, poison := false, length := pl.length, dst := 0, src := 7, psn := psn, cum := 1, timestamp := 0, group := 0, addr := 0x10000, epoch := 1, run := 1,
    op := 0, reservedZero := true, mask := 0, payload := pl }

/-- The payload of each type, and one that is a byte too long. -/
def frPay (ty : Nat) : List Byte := List.replicate ((payloadLen ty).getD 32) 0

/-- What LinkFrames asks of a frame that is seen. -/
def seenB (s : State) (f : Frame) : Bool := s.fabricOn && bit s.planesUp f.plane && decide (f.etherType = s.lkCfg 3)
/-- The state in which a good frame of a type is performed. -/
def lkV (s : State) (f : Frame) (ty : Nat) : State := ((s.lkTrace 0x21 f.src f.psn ty f.plane f.timestamp).bump (lkR 0 0x48) 1).heard f.src
/-- A frame's distance from the peer's CUM. -/
def lkDist (s : State) (f : Frame) (ty : Nat) : Nat := (f.psn + 2 ^ 32 - (((lkV s f ty).lkCum f.src f.cum).peer f.src).cum) % 2 ^ 32

/-- LinkFrames: every type of frame seen and good, and bad by one byte; not seen; a peer that is open and one that is not; PSNs at every boundary, twice performed, and DATA that waits. -/
theorem test_hyp_LinkFrames :
    (∀ ty ∈ [1, 2, 3, 4, 5, 6, 7, 8, 16, 17, 18], let f := fr 5 (frPay ty)
       let g := { f with length := f.length + 1 }
       let s := lkS peerO
       seenB s f = true ∧ (s.lkTrace 0x21 f.src f.psn ty f.plane f.timestamp).badFrame ty f = false ∧ (s.lkTrace 0x21 g.src g.psn ty g.plane g.timestamp).badFrame ty g = true
         ∧ ((lkV s f ty).peer 7).st = .open_ ∧ ((lkV (lkS {}) f ty).peer 7).st ≠ .open_)
    ∧ seenB (lkS peerO) { fr 5 [] with plane := 27 } = false
    ∧ (∀ x ∈ [(5, 0), (5 + 1023, 1023), (5 + 1024, 1024), (5 + 2 ^ 31 - 1, 2 ^ 31 - 1), (5 + 2 ^ 31, 2 ^ 31), (4, 2 ^ 32 - 1)], lkDist (lkS peerO) (fr x.1 (frPay 1)) 1 = x.2)
    ∧ (((lkV (lkS peerO) (fr 5 (frPay 1)) 1).lkCum 7 1).peer 7).performed.contains 7 = true ∧ (((lkV (lkS peerO) (fr 5 (frPay 1)) 1).lkCum 7 1).peer 7).performed.contains 5 = false := by
  decide +kernel

/-- LinkFrames: DATA that passes its checks and is written, DATA that fails them, and DATA whose memory makes it wait. -/
theorem test_hyp_LinkFrames_data :
    (let f := fr 5 (frPay 1)
     let w := (lkV (lkS peerO) f 1).lkCum 7 1
     w.dataStatus f = stOk ∧ f.length ≠ 0 ∧ (w.dataWrite f).isSome = true)
    ∧ (let f := { fr 5 (frPay 1) with addr := 0x10008 }
       ((lkV (lkS peerO) f 1).lkCum 7 1).dataStatus f ≠ stOk)
    ∧ (let f := fr 5 (frPay 1)
       let s := { lkS peerO with ext := { memUp with ddr := [(0, { st := .draining, quiescing := true, bytes := 0x1000000000 })] } }
       let w := (lkV s f 1).lkCum 7 1
       w.dataStatus f = stOk ∧ (w.dataWrite f).isNone = true) := by
  decide +kernel

/-- LinkTimers: packets to acknowledge and none; a retransmission at its end and one tick before; a peer that shares something and one that does not; a loss; an idle peer at its end and
one tick before; a peer that opens. -/
theorem test_hyp_LinkTimers :
    (let x : TxPkt := { psn := 3, pkt := { type := 2 }, plane := 31, tSent := 5, tFirst := 5 }
     let s (t : Nat) : State := { lkS { peerO with unacked := [x], sinceAck := 7, srtt := 2000 } with now := t, lk := { (lkS { peerO with unacked := [x], sinceAck := 7, srtt := 2000 }).lk with groups := [] } }
     let due := x.tSent + Nat.min 1000000 (Nat.max 1000 (2 * ((s 5).peer 7).srtt) * 2 ^ x.tries)
     (s 5).fabricOn = true ∧ ((s 5).peer 7).st = .open_ ∧ 0 < ((s 5).peer 7).sinceAck ∧ ((s 5).peer 7).unacked.find? (fun x => x.psn = 3) = some x ∧ due = 4005 ∧ (s 4005).now = due ∧ (s 4004).now < due
       ∧ (s 5).linked 7 = false ∧ (lkS peerO).linked 7 = true ∧ x.tFirst + (s 5).lkCfg 8 * 100000 ≤ (s 10000005).now ∧ x ∈ ((s 5).peer 7).unacked)
    ∧ (let s (t : Nat) : State := { lkS { peerO with lastHeard := 5 } with now := t, lk := { (lkS { peerO with lastHeard := 5 }).lk with groups := [] } }
       ((s 5).peer 7).sinceAck = 0 ∧ ((s 5).peer 7).unacked = [] ∧ ((s 5).peer 7).waitTx = [] ∧ (s 5).linked 7 = false ∧ (s 5).fabricOn = true ∧ (∀ e ∈ (s 5).lk.peers, e.2.waitTx = [])
         ∧ ((s 5).peer 7).lastHeard + 100000000 ≤ (s 100000005).now ∧ (s 100000004).now < ((s 5).peer 7).lastHeard + 100000000)
    ∧ (let s := { lkS { st := .opening, tOpen := 5 } with now := 10000005 }
       s.fabricOn = true ∧ (s.peer 7).st = .opening ∧ (s.peer 7).tOpen + s.lkCfg 8 * 100000 ≤ s.now)
    ∧ base.fabricOn = false := by
  decide +kernel

/-- QuadsAndCages: the last quad of the last port in service, training and out; a cage empty and fitted; a lane test of lanes held out, of lanes in service, and of no pattern. -/
theorem test_hyp_QuadsAndCages :
    (bit ((lkS peerO).port 8).inService 3 = true ∧ bit (State.reset.port 1).inService 0 = false)
    ∧ (let s := { base with lk := { ports := [(8, { module := some ⟨0x1E, true, true, 20⟩, training := 8, inService := 7 })], peers := [(7, {})] } }
       bit (s.port 8).training 3 = true ∧ bit (s.port 8).inService 3 = false ∧ bit (s.quadOutMask 8) 3 = false ∧ (∀ e ∈ s.lk.peers, e.2.st ≠ .open_) ∧ (s.port 8).module.isSome = true ∧ bit (s.port 8).training 0 = false)
    ∧ (State.reset.port 8).module = none
    ∧ (let s := { base with regs := base.regs ++ [(lkR 8 0x18, 0xF0)] }
       let v := (0x8005FFFF : W32).toNat
       bit v 31 = true ∧ bits v 15 0 &&& quadLanes (s.quadOutMask 8) = bits v 15 0 ∧ bits v 18 16 ≤ 5 ∧ bits v 15 0 &&& quadLanes (base.quadOutMask 8) ≠ bits v 15 0 ∧ 5 < bits (0x80060000 : W32).toNat 18 16
         ∧ bit (0x40000000 : W32).toNat 31 = false ∧ bit (0x40000000 : W32).toNat 30 = true) := by
  decide +kernel

/-- FabricAndRuns: the fabric off at READY; a group and an operation that are good, not valid, bad and short; a trigger in error, above the last and not; a run that runs, at its timeout and
one tick before, done and not. -/
theorem test_hyp_FabricAndRuns :
    (base.mg.stage = .ready ∧ base.lk.on = false)
    ∧ (let s := lkS peerO
       let s0 := { s with lk := { s.lk with groups := [] } }
       grpE.length = 64 ∧ entValid grpE = true ∧ s0.groupBad 0 grpE = false ∧ s.groupBad 0 grpE = true ∧ (List.replicate 64 (0 : Byte)).length = 64 ∧ entValid (List.replicate 64 0) = false ∧ grpE.tail.length ≠ 64)
    ∧ (let s := lkS peerO
       (opE 4).length = 64 ∧ entValid (opE 4) = true ∧ s.opBad 0 (opE 4) = false ∧ s.opBad 0 (opE 5) = true)
    ∧ (∀ x ∈ [((0, false) : Nat × Bool), (1, false), (0, true)], let s := (lkS peerO).modSync 3 (fun y => { y with value := x.1, error := x.2 })
       let f := s.sync (s.original (opTrigger (s.lkOp 0)))
       entValid (s.lkOp 0) = true ∧ (s.run 0).running = false ∧ f.error = x.2 ∧ (f.value ≤ (s.run 0).lastTrigger ↔ x.1 = 0) ∧ s.runsOn < 64)
    ∧ (∀ t ∈ [100000005, 100000004], let s := { lkS peerO with now := t, lk := { (lkS peerO).lk with runs := [(0, { running := true, tStart := 5 })] } }
       (s.run 0).running = true ∧ ((s.run 0).tStart + s.lkCfg 9 * 100000 ≤ s.now ↔ t = 100000005))
    ∧ (let s := { lkS peerO with lk := { (lkS peerO).lk with runs := [(0, { running := true, name := 1 })] } }
       (s.opAdvance 0).runDone 0 = false) := by
  decide +kernel

/-- FabricAndRuns: a PUT by another module whose data has arrived is done. -/
theorem test_hyp_FabricAndRuns_done :
    let s := { lkS peerO with lk := { (lkS peerO).lk with ops := [(0, opE 4)], runs := [(0, { running := true, name := 1, got := [⟨1, 65536, 64⟩] })] } }
    (s.opAdvance 0).runDone 0 = true := by
  decide +kernel
/-! ### Hypotheses: negatives and service, observation and power -/

/-- Partition 0's plan: context 0, DUE 3, TRIGGER 5, no operation, group 0, an image of `kib` KiB at IPA 0x10000, cost 1 s and one failure a day. -/
def negS (x : Plan) (kib : Nat) : State :=
  let s := lkS peerO
  let t : State := { s with xl := { s.xl with s2 := s.xl.s2 ++ [{ va := 0x20000, out := ddr0 + 0x30000, ipa := 0x20000, rd := true, wr := true }] }, ng := { plans := [(0, x)] } }
  let t := [(2, 0), (3, 3), (4, 5), (6, 0), (7, 0x10000), (8, kib), (9, 86400), (10, 1)].foldl (fun (t : State) (e : Nat × Nat) => t.odSet 0x6030 e.1 e.2) t
  t.setBlob 0x6030 5 (List.replicate 128 0xFF)

/-- Negatives: a plan that fits and one whose space is too small, its range owned; a negative due and a tick before; a late one at its end and a tick before; fabric commands of each action
and one that is bad; a digest command of each action, one that runs, and one that is done. -/
theorem test_hyp_Negatives :
    ((negS {} 128).planFits 0 = true ∧ (negS {} 127).planFits 0 = false ∧ ((negS {} 128).plan 0).state = 0
      ∧ (State.rangeOwned (cdiv ((negS {} 128).planOd 0 8) 64) (negS {} 128) 0 ((negS {} 128).planOd 0 7)).1 = some true ∧ 1 < (2 : Byte).toNat)
    ∧ (∀ t ∈ [5, 4], let x : Plan := { state := 1, n := 1, due := 5 }
       let s := { negS x 0 with now := t }
       (s.plan 0).state = 1 ∧ ((s.plan 0).due ≤ s.now ↔ t = 5))
    ∧ (let x : Plan := { state := 2, n := 1, c := 100000000, hist := [8640000000000], tDue := 5 }
       let s (t : Nat) : State := { negS x 128 with now := t }
       ((s 5).plan 0).state = 2 ∧ ((s 5).plan 0).late = false ∧ 0 < x.tau ∧ ((s (5 + x.tau)).plan 0).tDue + x.tau ≤ (s (5 + x.tau)).now ∧ ((negS { x with late := true } 128).plan 0).late = true)
    ∧ (∀ w ∈ [(⟨2 ^ 56, 0, 0, 0⟩ : Words4), ⟨2 * 2 ^ 56, 0, 7 * 2 ^ 16 + 8, 0⟩, ⟨3 * 2 ^ 56, 0, 0, 0⟩], ((negS {} 128).fabricCmd w).2.isSome = true)
    ∧ (∀ act ∈ [1, 2], let w : Words4 := ⟨BitVec.ofNat 64 (act * 2 ^ 56 + 7 * 2 ^ 48 + (2 ^ 48 - 32)), 2 ^ 52 - 32, 2 ^ 52 - 64, 2 ^ 52 - 64⟩
       let a := w.w0.toNat
       bits a 63 56 = act ∧ bits a 55 51 = 0 ∧ bits a 47 0 % 32 = 0 ∧ w.w1.toNat < 2 ^ 52 ∧ w.w1.toNat % 32 = 0 ∧ w.w2.toNat < 2 ^ 52 ∧ w.w2.toNat % 64 = 0 ∧ w.w3.toNat < 2 ^ 52 ∧ w.w3.toNat % 64 = 0
         ∧ (negS {} 128).ng.digest = none)
    ∧ (let j : DigestJob := { addr := 0x10000, len := 0, out := 0x10000 }
       let s := { negS {} 128 with ng := { digest := some j } }
       let r := (List.range (cdiv j.len 67108864)).foldl (State.digestChunk j) { st := s }
       let o := r.st.ipaWriteMem j.part j.out r.out []
       s.ng.digest ≠ none ∧ j.compare = false ∧ r.wait = false ∧ o.wait = false ∧ o.fault = none ∧ o.status = none) := by
  decide +kernel

/-- Negatives: an image is never empty, so a space of none does not hold it. -/
theorem test_hyp_Negatives_small : (negS { state := 1, n := 1 } 0).planOd 0 8 * 1024 < ((negS { state := 1, n := 1 } 0).fabricImage 0 1).length := by
  have h : (negS { state := 1, n := 1 } 0).planOd 0 8 = 0 := by decide +kernel
  rw [h]
  simp only [State.fabricImage, List.length_append, List.length_replicate]
  omega

/-- ServiceCommands: each action with a unit that fits, at its bound, and one that does not; a brick that waits with bricks and a limit enough, and not. -/
theorem test_hyp_ServiceCommands :
    (∀ x ∈ [((1, 5) : Nat × Nat), (1, 6), (2, 5), (2, 6), (3, 1), (3, 8), (3, 0), (3, 9), (4, 8), (4, 9), (5, 0), (5, 1), (6, 127), (6, 128)],
       let v := (BitVec.ofNat 32 (x.1 * 2 ^ 24 + x.2)).toNat
       bits v 31 24 = x.1 ∧ bits v 23 8 = 0 ∧ bits v 7 0 = x.2)
    ∧ ({ rdy with ac := true }.ac = true ∧ rdy.ac = false ∧ (rdy.port 8).refused = false ∧ ({ rdy with lk := { ports := [(8, { refused := true })] } }.port 8).refused = true ∧ rdy.lk.peers = [])
    ∧ ((rdy.slotOf 15 7).isSome = true ∧ { rdy with ng := { absent := [(127, true)] } }.slotOf 15 7 = none)
    ∧ (let s := { rdy with ng := { svc := [.core .pf 1, .brick .firmware 5] } }
       s.ng.svc.findSome? (fun (w : SvcWait) => match w with | .brick _ n => some n | _ => none) = some 5 ∧ 3 ≤ s.bricksOn ∧ 0 ≤ s.moduleLimit ∧ s.moduleLimit < s.moduleLimit + 1) := by
  refine ⟨by decide, by decide, by decide, by decide, by decide +kernel, Nat.zero_le _, Nat.lt_succ_self _⟩

/-- Observation: a plan that is good, one that is bad, and a context that is not live; reels of both kinds; a half that waits and none, written to host memory; a step that hangs and one a tick
before; a sheet that is written, and none. -/
theorem test_hyp_Observation :
    (let d (k : Nat) : List Byte := leBytes 4 (2 ^ 31 + k) ++ leBytes 4 0x12121212 ++ leBytes 8 (2 ^ 52 - 4096)
     planBytesOk (d 6) = true ∧ planBytesOk (d 16) = true ∧ planBytesOk (d 5) = false ∧ (base.ctx (base.odGet 0x7100 1)).st = .live ∧ (rdy.ctx (rdy.odGet 0x7100 1)).st ≠ .live)
    ∧ ((base.reelOf 16).waiting = none ∧ ({ base with obs := { reels := [(16, { waiting := some [] })] } }.reelOf 16).waiting = some [] ∧ bit (0x80000000 : W32).toNat 30 = false)
    ∧ (∀ t ∈ [100005, 100004], let r : StepRec := { st := .running, watch := 1, lastProgress := 5 }
       let s := { base with now := t, pt := { base.pt with steps := [(5, r)] } }
       s.stepOf 5 = some r ∧ s.frozen r.ctx = false ∧ (r.lastProgress + r.watch * 100000 ≤ s.now ↔ t = 100005) ∧ s.obs.sheet = none ∧ bit (s.reg (dbR 0 0x10)) 31 = false)
    ∧ ({ base with obs := { sheet := some ⟨5, 0, 0, 2, 0, []⟩ } }.obs.sheet = some ⟨5, 0, 0, 2, 0, []⟩ ∧ bit (1 : W32).toNat 0 = true) := by
  decide +kernel

/-- Observation: a block that goes to host memory while the link is up is written. -/
theorem test_hyp_Observation_put (a : Nat) (b : List Byte) : ∃ x, upS.reelPut true a b = (some x, false) := ⟨_, rfl⟩

/-- PowerAndCooling: power off and on, with the hold-off and without, with three bricks and two; the last brick and fan fitted, absent, running and not; what remains is enough, and not. -/
theorem test_hyp_PowerAndCooling :
    (let two : SMap Brick := [(0, ⟨true, true, false, true, false⟩), (1, ⟨true, true, false, true, false⟩)]
     let off : Power := { State.reset.pw with pwrEn := false, phase := .off }
     State.reset.pw.pwrEn = true ∧ State.reset.pw.phase = .on ∧ off.pwrEn = false ∧ off.phase = .off ∧ off.holdoff = false ∧ { off with holdoff := true }.holdoff = true
       ∧ 3 ≤ (off.bricks.filter (fun e => e.2.present && e.2.genuine && !e.2.failed)).length ∧ (two.filter (fun e => e.2.present && e.2.genuine && !e.2.failed)).length < 3)
    ∧ (∀ k ∈ [6, 3], let s : State := { State.reset with pw := { State.reset.pw with bricks := (List.range k).map (fun n => (n, ⟨true, true, false, true, false⟩)) } }
       let b := s.pw.bricks.getD 2 {}
       let x : State := { s with pw := { s.pw with bricks := s.pw.bricks.set 2 {} { b with delivering := false, failed := true } } }
       b.present = true ∧ b.delivering = true ∧ s.ng.svc = [] ∧ (3 ≤ x.bricksOn ↔ k = 6))
    ∧ (let s : State := { State.reset with pw := { State.reset.pw with bricks := [(4, { present := true })], fans := [(4, { fitted := true }), (5, { fitted := true, running := true })] } }
       (s.pw.bricks.getD 5 {}).present = false ∧ (s.pw.bricks.getD 4 {}).present = true ∧ (s.pw.bricks.getD 4 {}).delivering = false ∧ { s with ac := true }.ac = true ∧ s.ac = false
         ∧ (s.pw.fans.getD 4 {}).fitted = true ∧ (s.pw.fans.getD 4 {}).running = false ∧ (s.pw.fans.getD 5 {}).running = true ∧ (s.pw.fans.getD 0 {}).fitted = false) := by
  decide +kernel

/-- A die whose first `n` banks are degraded. -/
def negD (n : Nat) : Die := { degraded := List.range n }

theorem negD_has (n k : Nat) (h : k < n) : (negD n).degraded.contains k = true := List.contains_iff_mem.mpr (List.mem_range.mpr h)

/-- Partition 0 with a plan that is due, whose IPA space leads to Tank lines of degraded banks, which take writes and keep nothing. -/
def negT : State :=
  let s := negS { state := 1, n := 1 } 128
  { (s.odSet 0x6030 7 0) with
    xl := { s2 := [{ va := 0, out := 0x8000000000, ipa := 0, size := 18, rd := true, wr := true }] }, lk := { s.lk with groups := [], ops := [] },
    pt := { s.pt with parts := [(0, { st := .active, lay := { clusters := 1, ways := 1, store := 1, enabled := true } })] },
    ext := { s.ext with die0 := negD 512, die1 := negD 512 } }

/-- Whether the piece at an address is of such a line. -/
def degOk (s : State) (w : Who) (pa : Nat) : Bool :=
  decide (s.lineServe w true (s.route pa) = .ok) && s.degradedBank (s.route pa) && (match s.decode (s.route pa) with | .tank _ _ => true | _ => false)

theorem deg_piece {s : State} {w : Who} {h : Nat} {at_ : WriteAt} {p : Bool} {r : MemRes} {pc : Nat × Nat} (hr : r.st = s) (hd : degOk s w pc.1 = true) :
    State.writePiece w h at_ p r pc = { r with data := r.data.drop pc.2 } := by
  subst hr
  simp only [degOk, Bool.and_eq_true, decide_eq_true_eq] at hd
  obtain ⟨⟨h1, h2⟩, h3⟩ := hd
  unfold State.writePiece
  simp only [h1]
  split at h3
  · next e => simp only [e, h2, if_true]
  · cases h3

theorem deg_fold {s : State} {w : Who} {h : Nat} {at_ : WriteAt} {p : Bool} (l : List (Nat × Nat)) : (∀ pc ∈ l, degOk s w pc.1 = true) → ∀ r : MemRes, r.st = s →
    ∃ d, l.foldl (State.writePiece w h at_ p) r = { r with data := d } := by
  induction l with
  | nil => intro _ r _; exact ⟨r.data, rfl⟩
  | cons pc l ih =>
    intro hl r hr
    rw [List.foldl_cons, deg_piece hr (hl pc (List.mem_cons_self ..))]
    obtain ⟨d, hd⟩ := ih (fun x hx => hl x (List.mem_cons_of_mem _ hx)) { r with data := r.data.drop pc.2 } hr
    exact ⟨d, by rw [hd]⟩

theorem negT_len : (negT.fabricImage 0 1).length = 131072 := by
  have h1 : ∀ n v, (leBytes n v).length = n := by intro n; induction n with | zero => intro v; rfl | succ n ih => intro v; simp only [leBytes, List.length_cons, ih]
  have h2 : ∀ k, (negT.routeBytes k).length = 8192 := by intro k; simp only [State.routeBytes, h1, List.length_flatMap, List.map_const', List.length_range, List.sum_replicate_nat]
  have h3 : negT.partGroups 0 = [] := by decide +kernel
  have h4 : negT.groupsOps [] = [] := by decide +kernel
  simp only [State.fabricImage, h3, h4, State.groupRecords, List.length_append, List.length_replicate, h1, List.length_flatMap, h2]
  decide

theorem negT_ok (pa : Nat) (h1 : 0x8000000000 ≤ pa) (h2 : pa < 0x8000020000) :
    degOk negT (hubWho { va := 0, out := 0x8000000000, ipa := 0, size := 18, rd := true, wr := true }) pa = true := by
  have hr : negT.route pa = pa := rfl
  have hd : negT.decode pa = .tank 0 0 := by
    unfold State.decode
    rw [if_neg (by omega), if_pos (by omega)]
    have e1 : (pa - 0x008000000000) % 0x20000000 < 0xF000000 := by omega
    have e2 : (pa - 0x008000000000) / 0x200000000 = 0 := by omega
    have e3 : (pa - 0x008000000000) % 0x200000000 / 0x20000000 = 0 := by omega
    simp only [e1, e2, e3, if_true]
  have hh : homeDie pa = 0 := by
    unfold homeDie
    rw [if_neg (by omega), if_pos (by omega)]
    omega
  have hs : negT.storeWayOk (hubWho { va := 0, out := 0x8000000000, ipa := 0, size := 18, rd := true, wr := true }) 0 = true := by decide +kernel
  have hm : negT.bankMoving pa = false := by
    unfold State.bankMoving
    rw [hh]
    rfl
  have hb : bankOf pa < 512 := by
    unfold bankOf
    rw [if_pos (by omega)]
    omega
  have hg : negT.degradedBank pa = true := by
    unfold State.degradedBank
    rw [hh]
    exact negD_has 512 _ hb
  simp only [degOk, hr, hd, hg, State.lineServe, hs, hm, Bool.not_true, Bool.false_eq_true, if_false, decide_true, Bool.and_true]

theorem piece_range : ∀ f a n, ∀ x ∈ linePieces f a n, a ≤ x.1 ∧ x.1 < a + n := by
  intro f
  induction f with
  | zero => intro a n x hx; cases hx
  | succ f ih =>
    intro a n x hx
    unfold linePieces at hx
    by_cases h0 : n = 0
    · rw [if_pos h0] at hx; cases hx
    · rw [if_neg h0] at hx
      rcases List.mem_cons.mp hx with rfl | hx
      · constructor
        · exact Nat.le_refl a
        · omega
      · have h := ih _ _ x hx
        have hk : Nat.min n (128 - a % 128) ≤ n := Nat.min_le_left ..
        omega

theorem negT_page (d : List Byte) (hd : d.length = 65536 ∨ d.length = 131072) (pc : Nat × Nat) (hp : pc = (0, 65536) ∨ pc = (0x10000, 65536)) :
    State.ipaWritePage 0 [] 0 { st := negT, data := d } pc = { st := negT, data := d.drop 65536 } := by
  have hx : ∀ a, a = 0 ∨ a = 0x10000 → negT.s2Xlate 0 a = { st := negT, out := .ok { va := 0, out := 0x8000000000, ipa := 0, size := 18, rd := true, wr := true } } := by
    intro a ha; rcases ha with rfl | rfl <;> rfl
  have ht : (d.take 65536).length = 65536 := by rw [List.length_take]; omega
  have hk : ∀ a, a = 0 ∨ a = 0x10000 → ∀ x ∈ pieces (0x8000000000 + (a - 0)) 65536, degOk negT (hubWho { va := 0, out := 0x8000000000, ipa := 0, size := 18, rd := true, wr := true }) x.1 = true := by
    intro a ha x hx
    have h := piece_range _ _ _ x hx
    exact negT_ok x.1 (by omega) (by omega)
  have hm : ∀ a, a = 0 ∨ a = 0x10000 → ∃ b, (pieces (0x8000000000 + (a - 0)) 65536).foldl (State.writePiece (hubWho { va := 0, out := 0x8000000000, ipa := 0, size := 18, rd := true, wr := true })
      ({ va := 0, out := 0x8000000000, ipa := 0, size := 18, rd := true, wr := true } : Xent).hint .bank false) { st := negT, data := d.take 65536 } = { st := negT, data := b } := by
    intro a ha
    obtain ⟨b, hb⟩ := deg_fold (pieces (0x8000000000 + (a - 0)) 65536) (hk a ha) { st := negT, data := d.take 65536 } rfl
    exact ⟨b, hb⟩
  rcases hp with rfl | rfl
  · obtain ⟨b, hb⟩ := hm 0 (Or.inl rfl)
    unfold State.ipaWritePage
    simp only [hx 0 (Or.inl rfl), State.writeMem, ht, hb, State.each]
    rfl
  · obtain ⟨b, hb⟩ := hm 0x10000 (Or.inr rfl)
    unfold State.ipaWritePage
    simp only [hx 0x10000 (Or.inr rfl), State.writeMem, ht, hb, State.each]
    rfl

theorem negT_write (img : List Byte) (h : img.length = 131072) : negT.ipaWriteMem 0 0 img [] = { st := negT, data := [] } := by
  have hp : pages 0 131072 = [(0, 65536), (0x10000, 65536)] := by decide +kernel
  unfold State.ipaWriteMem
  simp only [h, hp, List.foldl_cons, List.foldl_nil]
  rw [negT_page _ (Or.inr h) _ (Or.inl rfl), negT_page _ (Or.inl (by rw [List.length_drop, h])) _ (Or.inr rfl), List.drop_drop, List.drop_eq_nil_of_le (by omega)]
  rfl

/-- Negatives: a due negative whose image fits and is written. -/
theorem test_hyp_Negatives_fits :
    (negT.plan 0).state = 1 ∧ (negT.plan 0).due ≤ negT.now ∧ (negT.fabricImage 0 1).length ≤ negT.planOd 0 8 * 1024
      ∧ negT.ipaWriteMem 0 (negT.planOd 0 7) (negT.fabricImage 0 1) [] = { st := negT, data := [] } := by
  have h7 : negT.planOd 0 7 = 0 := by decide +kernel
  have h8 : negT.planOd 0 8 = 128 := by decide +kernel
  rw [h7, h8, negT_len]
  exact ⟨by decide +kernel, by decide +kernel, Nat.le_refl _, negT_write _ negT_len⟩
/-! ### Hypotheses: management and the whole machine -/

/-- DictionaryItems: a stage that serves, one that does not; an item that exists and one that does not; the window busy; writes that end well, badly, and later; entries that are RO, CONST, and of another
type; the bounds of 0x4250:01. -/
theorem test_hyp_DictionaryItems :
    (rdy.fnServes 0 = true ∧ rdy.odBusy .pf = false ∧ rdy.earlyStage = false ∧ rdy.odStageOk 0x4250 1 false = true ∧ (rdy.odValue 0x4250 1).isSome = true ∧ (odDescription 0x4250 1).isSome = true
      ∧ (rdy.odValue 0xFFFF 0).isNone = true ∧ (odDescription 0xFFFF 0).isNone = true)
    ∧ (let s : State := { rdy with regs := [(b4R 0x10008, 2 ^ 31)] }
       s.fnServes 0 = true ∧ s.odBusy .pf = true)
    ∧ ((rdy.odWriteAct .pf 0x4250 1 [0, 0x10]).2 = some stOk ∧ (rdy.odWriteAct .pf 0x4250 1 [1, 0x10]).2 = some stBadDesc ∧ (rdy.odWriteAct .pf 0x6040 1 [5, 0, 0, 1]).2 = none)
    ∧ ((odRow 0x4250 1).isSome = true ∧ (odRow 0x4250 1).all (fun r => decide (r.acc ≠ .ro) && decide (r.acc ≠ .const) && !odTypeOk r.ty [0]) = true
      ∧ (odRow 0x2010 1).any (fun r => decide (r.acc = .ro)) = true ∧ (odRow 0x1000 1).any (fun r => decide (r.acc = .const)) = true) := by
  decide +kernel

/-- The head of a frame: sealed in session `i` with SEQ `q`, or unsealed. -/
def thead (sealed : Bool) (i q len : Nat) : TuiHead :=
  { version := 1, reservedZero := true, reply := false, sealed := sealed, session := i, seq := q, req := 3, length := len, tagOk := true }

/-- Management hears the segment, and holds session 3, number 9, open, with an event that awaits its acknowledgement. -/
def tuiS (t : Nat) : State :=
  { rdy with now := t, mg := { stage := .ready, sessions := [(3, { id := 9, opened := true, rxSeq := 4, tLast := 5, tOpen := 5, events := [⟨1, 5, 5, []⟩] })] } }

/-- TuiniasSessions: unsealed heads of each length that a type asks for, and a head that is neither; a free place for a session and none; a half-open session whose owner's key is programmed and not;
a sealed head at SEQ's bounds, and one whose tag fails; each session limit at its end and one tick before; requests that are well formed, and not. What the signature check answers is opaque (log 14). -/
theorem test_hyp_TuiniasSessions :
    ((tuiS 5).pw.phase = .on ∧ (tuiS 5).mg.inReset = false ∧ (∀ n ∈ [0, 4, 96, 226, 1408], headOk (thead false 0 0 n) n = true ∧ (thead false 0 0 n).sealed = false ∧ (thead false 0 0 n).session = 0 ∧ (thead false 0 0 n).seq = 0)
      ∧ headOk (thead false 0 0 1409) 1409 = false ∧ (thead true 9 5 0).sealed = true)
    ∧ ((List.range 4).find? (fun i => ((tuiS 5).mg.sessions.find i).isNone) = some 0
      ∧ ∀ i, i < 4 → (({ rdy with mg := { stage := .ready, sessions := (List.range 4).map (fun n => (n, { id := n + 1 })) } } : State).mg.sessions.find i).isSome = true)
    ∧ (({ rdy with mg := { stage := .ready, sessions := [(2, { id := 4 })] } } : State).halfOpen = some 2 ∧ ∀ n, n < 4 → (rdy.mg.owners.find n).isNone = true)
    ∧ (∀ q ∈ [5, 2 ^ 32 - 1], (tuiS 5).openSessions.find? (fun i => ((tuiS 5).mg.sessions.getD i {}).id = (thead true 9 q 0).session) = some 3 ∧ headOk (thead true 9 q 0) 0 = true
        ∧ (thead true 9 q 0).tagOk = true ∧ ((tuiS 5).mg.sessions.getD 3 {}).takes q = true)
    ∧ ({ thead true 9 5 0 with tagOk := false }.tagOk = false)
    ∧ (∀ t ∈ [6000000005, 6000000004], (tuiS t).mg.sessions.find 3 = some ((tuiS t).mg.sessions.getD 3 {}) ∧ (((tuiS t).mg.sessions.getD 3 {}).tLast + 6000000000 ≤ (tuiS t).now ↔ t = 6000000005)
        ∧ (tuiS t).now < ((tuiS t).mg.sessions.getD 3 {}).tOpen + 8640000000000)
    ∧ (((tuiS 8640000000005).mg.sessions.getD 3 {}).tOpen + 8640000000000 ≤ (tuiS 8640000000005).now)
    ∧ (((tuiS 5).mg.sessions.getD 3 {}).opened = true ∧ ∀ e ∈ ((tuiS 100000004).mg.sessions.getD 3 {}).events, (tuiS 100000004).now < e.tLast + 100000000)
    ∧ (itemsOk (List.replicate 32 { op := 1, sub := 1, index := 0x4250, length := 0, offset := 0, data := [] }) = true
      ∧ itemsOk (List.replicate 33 { op := 1, sub := 1, index := 0x4250, length := 0, offset := 0, data := [] }) = false) := by
  decide

/-- TuiniasSessions: a half-open session whose key hashes to owner slot 0. -/
theorem test_hyp_TuiniasSessions_owner :
    let x : Session := { id := 4, hostKey := List.replicate 97 1 }
    let s : State := { rdy with mg := { stage := .ready, sessions := [(2, x)], owners := [(0, Config.sha384 x.hostKey)] } }
    s.halfOpen = some 2 ∧ (List.range 4).find? (fun n => decide (s.mg.owners.find n = some (Config.sha384 (s.mg.sessions.getD 2 {}).hostKey)) && !bit s.mg.ownerRevoked n) = some 0 := by
  refine ⟨by decide, ?_⟩
  rw [show List.range 4 = [0, 1, 2, 3] from rfl, List.find?_cons_of_pos]
  have h (a : List Byte) : (decide (some a = some a) && !bit 0 0) = true := by simp [bit]
  exact h _

/-- Management verifies an image of `size` bytes from the segment with the reads `r`. -/
def loadS (src size next : Nat) (r : SMap Nat) : State := { rdy with mg := { stage := .verify, loader := { source := src, size := size, next := next, reads := r } } }

/-- LoaderAndStart: the stages that take and drop an offer, and its size bound; data that was asked for, and not; a read tried ten times, and nine; an image of the host that is read, fails, and is too
large; an image that is whole; a restore that is awaited, at its end and one tick before. What verification answers is opaque (log 14). -/
theorem test_hyp_LoaderAndStart :
    ({ rdy with mg := { stage := .waitImage } }.mg.stage = .waitImage ∧ (loadS 2 0 0 []).mg.stage = .verify ∧ { rdy with mg := { stage := .start } }.mg.stage = .start ∧ rdy.pw.phase = .on)
    ∧ ((loadS 2 1500 0 [(1400, 10)]).mg.loader.source = 2 ∧ ((loadS 2 1500 0 [(1400, 10)]).mg.loader.reads.find 1400).isSome = true ∧ Nat.min 1400 (1500 - 1400) = 100 ∧ (loadS 2 1500 0 []).mg.loader.reads.find 1400 = none)
    ∧ ((loadS 2 1500 0 [(1400, 10)]).mg.loader.reads.find 1400 = some 10 ∧ (loadS 2 1500 0 [(1400, 9)]).mg.loader.reads.find 1400 = some 9)
    ∧ (let s : State := { rdy with mg := { stage := .waitImage } }
       s.fnServes 0 = true ∧ s.mg.loader.busy = false ∧ 0x4000000 < bits (setBits (0x4000001 : W32).toNat 31 31 1) 26 0 ∧ bits (setBits (0x4000000 : W32).toNat 31 31 1) 26 0 ≤ 0x4000000
         ∧ (s.hostRead 0 16).isSome = true ∧ ({ s with hostFail := [0] } : State).hostRead 0 16 = none)
    ∧ (loadS 1 0 0 []).mg.loader.source ≠ 2 ∧ ((loadS 2 1500 1500 []).mg.loader.reads = [] ∧ (loadS 2 1500 1500 []).mg.loader.size ≤ (loadS 2 1500 1500 []).mg.loader.next)
    ∧ (∃ c, (loadS 1 0 0 []).imageVerdict = .error c)
    ∧ (∀ t ∈ [3000000005, 3000000004], let s : State := { rdy with now := t, mg := { stage := .start, tRestore := 5 } }
       s.mg.restoreDone = false ∧ (s.mg.tRestore + 3000000000 ≤ s.now ↔ t = 3000000005)) := by
  refine ⟨by decide, by decide, by decide, by decide +kernel, by decide, by decide, ⟨2, rfl⟩, by decide⟩

/-- ResetsAndFuses: a warm reset with reserved bits clear and set; a watchdog's first expiry and its third; slots, floors and raises that may be blown, and not. -/
theorem test_hyp_ResetsAndFuses :
    (bits (0x01000000 : W32).toNat 23 0 = 0 ∧ bits (0x01000001 : W32).toNat 23 0 ≠ 0)
    ∧ (∀ l ∈ [[], [6, 5]], let s : State := { rdy with now := 7, mg := { stage := .ready, wdTimes := l } }
       let times := s.now :: s.mg.wdTimes.filter (fun t => s.now < t + 360000000000)
       (3 ≤ times.length ↔ l ≠ []))
    ∧ ((3 : Byte).toNat < 4 ∧ (3 : Byte).toNat ≠ rdy.mg.runSlot ∧ (2 < 4 ∧ 2 ≠ (3 : Byte).toNat ∧ bit rdy.mg.keyRevoked 2 = false) ∧ 4 ≤ (4 : Byte).toNat ∧ (0 : Byte).toNat = rdy.mg.runSlot)
    ∧ (let s : State := { rdy with mg := { stage := .ready, runArb := 2, floor := 1, raisesLeft := 1 } }
       (1 : Byte).toNat = 1 ∧ s.mg.floor < s.mg.runArb ∧ s.mg.raisesLeft ≠ 0 ∧ rdy.mg.runArb ≤ rdy.mg.floor)
    ∧ (let d : List Byte := 3 :: List.replicate 48 7
       d.length = 49 ∧ sliceNat d 0 1 < 4 ∧ rdy.mg.owners.find (sliceNat d 0 1) = none ∧ (({ rdy with mg := { owners := [(3, [])] } } : State).mg.owners.find 3).isSome = true) := by
  decide
/-- StepRunsFront, StepGoesOn, MemoryStaysCanonical and FusesNeverCleared: states with a command in front and without, both canonical, that step, a slot revoked and one left. -/
theorem test_hyp_machine :
    (let s : State := { State.reset with pending := [.dlDown, .overvoltage], mem := [(5, 1)] }
     s.pending = [.dlDown, .overvoltage] ∧ Memory.wf s = true ∧ step s = .next { s with pending := [.overvoltage] })
    ∧ (State.reset.pending = [] ∧ State.reset.mg.reqs = [] ∧ ∃ t, step State.reset = .next t)
    ∧ (let s : State := { State.reset with mg := { keyRevoked := 0b0111, ownerRevoked := 8, owners := [(3, [1])], floor := 2 } }
       bit s.mg.keyRevoked 2 = true ∧ bit s.mg.ownerRevoked 3 = true ∧ s.mg.owners.find 3 = some [1] ∧ (3 < 4 ∧ bit s.mg.keyRevoked 3 = false) ∧ ∃ t, step s = .next t) := by
  refine ⟨⟨by decide, by decide, rfl⟩, ⟨rfl, rfl, _, rfl⟩, by decide, by decide, rfl, by decide, _, rfl⟩

/-- NoRegisterReached: the last offset of the space at a bad size, one where no register stands at both sizes, and a virtual function's view of its partition's page. -/
theorem test_hyp_NoRegisterReached :
    (accessOk 0x3FFFFFE 4 = false ∧ accessOk 0 3 = false ∧ accessOk (teR 0 0xFF00) 4 = true ∧ accessOk (teR 0 0xFF00) 8 = true ∧ inBuf4 (teR 0 0xFF00) = false ∧ (findReg (teR 0 0xFF00)).isNone = true
      ∧ (findReg (teR 0 0xFF00 + 4)).isNone = true ∧ rdy.pw.phase = .on ∧ rdy.fnServes 0 = true)
    ∧ (∃ o off, State.reached (.vf 8) o = some off ∧ off < 0x4000000 ∧ o < cfgBase ∧ accessOk off 2 = false) := by
  refine ⟨by decide +kernel, 0x10, _, rfl, by decide, by decide, by decide⟩
/-! ### Commands that are not well formed -/

/-- Every check of well-formedness refuses a command that is one past its bound. -/
theorem test_wf_refuses : ∀ c ∈ ([
    .regWrite .pf 0 2 0, .regWrite (.vf 0) 0 4 0, .regWrite (.vf 9) 0 4 0, .regWrite (.session 4) 0 4 0, .regWrite (.engine 1024) 0 4 0, .badSizeAccess .pf true 0 0 0,
    .blockStart 0 9, .blockStart 0 256, .barrier ⟨0, 64, 0⟩, .specialRegRead ⟨0, 0, 0⟩ 256 .width, .load ⟨0, 0, 0⟩ 3 0 0 0 none .none, .deviceStrictStore ⟨0, 0, 0⟩ 16 0 0 0,
    .mload (.seq 16), .mwaitReturn (.group 0 64), .nop 16, .subnormalDefaultWrite .pf 8 1, .sbarLeave 4096, .storeBufferDrain 0 32, .ccWayPowerDown .pf 0 16, .tkKeepclr .pf 2 0, .tankScrubPass 0 512 [],
    .unitReturned ⟨0, 32⟩, .unitReturned ⟨1, 16⟩, .unitReturned ⟨2, 4⟩, .unitReturned ⟨3, 0⟩, .sparePcDone 256, .dimmLatch 16, .cxlLinkDown 4, .memoryTrainingEnd [] [] 0, .moveCopied 64,
    .tgGo .pf false 16 0, .tgGo .pf true 4 0, .pass1Shard 48, .ruleWrite .pf 0 16 [], .linkTraining 1 17 true, .hostBar2Read 9 0 0, .hostBar2Read 0 0 4097, .flrVf 0, .flrVf 9,
    .epochBoundary (.tank 2), .ackTimer 65536, .quadReturn 0 0, .quadReturn 9 0, .quadReturn 1 4, .runStart 1024, .failureReport .pf 4096, .vfEnable true 9 false, .sessionTimeout 4, .reelDrainDone 17 true,
    .brickLost 6, .fanLost 6, .hello { (fr 0 []) with plane := 32 }, .data { (fr 0 []) with payload := List.replicate 4097 0 }] : List Instr), c.wf = false := by
  decide +kernel

/-- Commands at those bounds are well formed. -/
theorem test_wf_accepts : ∀ c ∈ ([.regWrite (.vf 8) 0 8 0, .regWrite (.engine 1023) 0 4 0, .blockStart 0 248, .unitReturned ⟨0, 31⟩, .hello (fr 0 (frPay 18)), .failureReport .pf 4095, .reelDrainDone 16 true] : List Instr),
    c.wf = true := by
  decide

/-! ### Results worked out by hand, most of them the spec's own examples -/

/-- 01, the example of R39: ROOT falls from point 0 toward point 3; the next point on its way is 1, and at 4.4 GHz it has arrived. -/
theorem test_root_slews :
    (∃ t, exec .rootPointReached { State.reset with clk := { rootMHz := 6800, target := 3 } } = .next t ∧ t.clk.rootMHz = 6000)
    ∧ (∃ t, exec .rootPointReached { State.reset with clk := { rootMHz := 5200, target := 3 } } = .next t ∧ t.clk.rootMHz = 4400 ∧ t.rf (mtR 0x10) 4 4 = 0 ∧ t.rf (mtR 0x10) 2 0 = 3) :=
  ⟨⟨_, rfl, by decide⟩, ⟨_, rfl, by decide, by decide, by decide⟩⟩

/-- 01, the example of R46: logical core 77 with its cluster's n = 5 at position 6 is slot 150, its TE_ page at 0x12C0000, its MX_ page at 0x12D0000 and its window at 0x0_0084_0960_0000. -/
theorem test_core_77 : ({ State.reset with ng := { coreMap := [(77, 6)] } } : State).slotOf 9 5 = some 150 ∧ teR 150 0 = 0x12C0000 ∧ mxR 150 0 = 0x12D0000 ∧ winBase 150 = 0x8409600000 := by
  decide

/-- 02, the example of R81: three adds, four increment-wraps and three compare-exchanges combined in lane order. -/
theorem test_atomics_combined :
    atomicFold .add false 0 100 [(3, 5, 0), (7, 1, 0), (8, 2, 0), (20, 10, 0)] = ([(3, 100), (7, 105), (8, 106), (20, 108)], 118)
    ∧ atomicFold .incWrap false 0 6 [(0, 7, 0), (1, 7, 0), (2, 7, 0), (3, 7, 0)] = ([(0, 6), (1, 7), (2, 0), (3, 1)], 2)
    ∧ atomicFold .cas false 0 0 [(0, 0, 1), (1, 0, 2), (2, 0, 3)] = ([(0, 0), (1, 1), (2, 1)], 1) := by
  decide +kernel

/-- 04, the example of R148: 300, 500, 490 and 0.001 in SF8e4. -/
theorem test_sf8e4 :
    (fmtSF8e4.conv .nearest false (b32 0x43960000)).code = 0x79 ∧ (fmtSF8e4.conv .toZero false (b32 0x43960000)).code = 0x79 ∧ (fmtSF8e4.conv (.stochastic 45000) false (b32 0x43960000)).code = 0x7A
    ∧ (fmtSF8e4.conv .nearest false (b32 0x43FA0000)).code = 0x7F ∧ (fmtSF8e4.conv .nearest false (b32 0x43FA0000)).sat = true
    ∧ (fmtSF8e4.conv .toZero false (b32 0x43FA0000)).code = 0x7F ∧ (fmtSF8e4.conv .toZero false (b32 0x43FA0000)).sat = false
    ∧ (fmtSF8e4.conv .nearest false (b32 0x43F50000)).code = 0x7F ∧ (fmtSF8e4.conv .nearest false (b32 0x43F50000)).sat = false
    ∧ (fmtSF8e4.conv .nearest false (b32 0x3A83126F)).code = 0x01 ∧ (fmtSF8e4.conv .nearest true (b32 0x3A83126F)).code = 0x00 ∧ (fmtSF8e4.conv .nearest true (b32 0x3A83126F)).flushed = true := by
  decide +kernel

/-- 05, the example of R184: LOOP with its count in s11 and a body of five instructions. -/
theorem test_loop_word : sword 0x31 0 11 0 0 5 = 0x3102C00000000005 ∧ swOp 0x3102C00000000005 = 0x31 ∧ swA 0x3102C00000000005 = 11 ∧ swImm 0x3102C00000000005 = 5 := by
  decide

/-- 07, the example of R282: the die, way, bank and set of a Tank-window address. -/
theorem test_tank_window : State.reset.decode 0x8223456780 = .tank 1 1 ∧ bankOf 0x8223456780 = 207 ∧ setOf 0x8223456780 = 837 ∧ homeDie 0x8223456780 = 1 := by
  decide +kernel

/-- 08, the example of R306: an HBM address lies in channel set 13, which update unit 13 serves. -/
theorem test_hbm_decode :
    ({ State.reset with ext := { hbm := [(13, { st := .inService, bytes := hbmSetBytes })] } } : State).decode 0x3512345680 = .hbm 13
    ∧ ({ State.reset with ext := { hbm := [(13, { st := .inService, bytes := hbmSetBytes })] } } : State).inDomain 13 0x3512345680 = true := by
  decide +kernel

/-- 11, the example of R428: queue 517's doorbell through VF 3. -/
theorem test_vf_doorbell : State.reached (.vf 3) 0x1205000 = some 0x3205000 := by decide

/-- 10, the example of R393: one Adam-like element, each figure within binary32 rounding. -/
theorem test_adam_element :
    let r : UuRule := { (ruleOf []) with valid := true, hasM := true, hasV := true, biasM := true, biasV := true, a1 := 0x3F666666, b1 := 0x3DCCCCCD, a2 := 0x3F7FBE77, b2 := 0x3A83126F, c1 := oneB32, c2 := 0x3C23D70A, c3 := 0, c4 := 0, eps := 0x322BCC77 }
    let e := uuElem r { eta := 0x3A83126F, gscale := oneB32, clip := 0x3F000000, bc1 := 0x3DCCCCCD, bc2 := 0x3A83126F } 0x3F000000 0 0 0x3E4CCCCD
    (e.w - 1 = 0x3EFFBE24 ∨ e.w = 0x3EFFBE24 ∨ e.w + 1 = 0x3EFFBE24) ∧ (e.m - 1 = 0x3CA3D70A ∨ e.m = 0x3CA3D70A ∨ e.m + 1 = 0x3CA3D70A) ∧ e.bad = false := by
  decide +kernel

/-- 13, the example of R525: θ at 97 °C is 0.8. -/
theorem test_theta : thetaOf 97 95 = (8 : Rat) / 10 ∧ thetaOf 95 95 = 1 ∧ thetaOf 105 95 = 0 := by
  decide +kernel

/-- 15, the example of R593: τ in whole seconds, as failures come. -/
theorem test_tau :
    (([(60, [86400]), (48, [86400]), (48, [86400, 36000]), (48, [86400, 36000, 7200])] : List (Nat × List Nat)).map (fun x => secsTo 10 (tauOf (x.1 * 100000000) (x.2.map (· * 100000000))))) = [32199, 28800, 24238, 20364] := by
  decide +kernel

/-- A record of slot 17 in SF8e4 under scale `scale`: `sats` saturations, `at_` values at exponent `e`, 60 values one binade above, and the rest of 1,000,000 at exponent 0. -/
def densRec (scale sats e at_ : Nat) : List Byte :=
  let w := putNat (putNat (putNat (putNat (List.replicate 320 0) 0 4 (2 * 2 ^ 18)) 0x38 2 scale) 0x1C 4 sats) (0x40 + 4 * 32) 4 (1000000 - 60 - at_)
  putNat (putNat w (0x40 + 4 * (33 + e)) 4 60) (0x40 + 4 * (32 + e)) 4 at_

/-- The slot with that scale. -/
def densSt (scale : Nat) : State := base.ownWrite (base.slotAddr 0 17) (leBytes 2 scale)

/-- 04, the example of R168: a slot that settles, in its first kernel (p 9, DELTA −1, 1.0 to 0.5, one bad run) and its last (p 6, DELTA 0, 0.125 stays). -/
theorem test_slot_settles :
    (let r := (densSt 0x3F80).steer 0 17 (densRec 0x3F80 340 9 620)
     sliceNat r.1 0x34 2 = 9 ∧ sliceNat r.1 0x36 1 = 0xFF ∧ sliceNat r.1 0x3A 2 = 0x3F00 ∧ slotBadRun (r.2.slotEntry 0 17).1 = 1 ∧ slotScale (r.2.slotEntry 0 17).1 = 0x3F00)
    ∧ (let r := (densSt 0x3E00).steer 0 17 (densRec 0x3E00 0 6 620)
       sliceNat r.1 0x34 2 = 6 ∧ sliceNat r.1 0x36 1 = 0 ∧ sliceNat r.1 0x3A 2 = 0x3E00 ∧ slotScale (r.2.slotEntry 0 17).1 = 0x3E00) := by
  decide +kernel

/-- 12, the example of R473: queue 14's entry waits on queue 12's fence, 12's on 13's, 13's on 14's. -/
theorem test_wait_cycle :
    let h (f : Nat) : Held := { entry := { kind := 3, waits := [(f, 1)] }, phase := .waiting, tAccept := 0 }
    let f (q : Option Nat) : SyncObj := { st := .live, owner := q }
    let s : State := { State.reset with obj := { queues := [(12, { st := .active, held := some (h 40) }), (13, { st := .active, held := some (h 41) }), (14, { st := .idle })],
                                                  syncs := [(38, f none), (39, f (some 12)), (40, f (some 13)), (41, f (some 14))] } }
    s.waitCycle 14 { kind := 3, waits := [(39, 1)] } = true ∧ s.waitCycle 14 { kind := 3, waits := [(38, 1)] } = false := by
  decide +kernel

end Sys2Proof.Tests
end

section
/-! SUPPORT. Accesses to registers and which paths are privileged (00_scope.md R8 to R13, R699): the fields of a stored register, the gates that turn a
path away, what an access reaches, and the statements of the family 00_scope.md. -/

namespace Sys2Proof.Machine

/-! ### Bit fields -/

/-- A field lies within any modulus that covers its top bit. -/
theorem bits_mod_two_pow (x : Nat) {n hi lo : Nat} (h : hi < n) : bits (x % 2 ^ n) hi lo = bits x hi lo := by
  apply Nat.eq_of_testBit_eq
  intro i
  by_cases hi' : i < hi + 1 - lo
  · have : lo + i < n := by omega
    simp [bits, this]
  · simp [bits, hi']

/-- Bit by bit, `setBits` takes the new value inside the field and keeps the old one outside it. -/
theorem testBit_setBits (x v i : Nat) {hi lo : Nat} (h : lo ≤ hi) :
    (setBits x hi lo v).testBit i = if lo ≤ i ∧ i ≤ hi then v.testBit (i - lo) else x.testBit i := by
  obtain ⟨w, rfl⟩ : ∃ w, hi = lo + w := ⟨hi - lo, by omega⟩
  have hw : lo + w + 1 - lo = w + 1 := by omega
  have hx : setBits x (lo + w) lo v = 2 ^ lo * (2 ^ (w + 1) * (x / 2 ^ (lo + w + 1)) + v % 2 ^ (w + 1)) + x % 2 ^ lo := by
    have hpow : 2 ^ (lo + w + 1) = 2 ^ lo * 2 ^ (w + 1) := by rw [Nat.add_assoc, Nat.pow_add]
    rw [setBits, hw, Nat.mul_add, ← Nat.mul_assoc (2 ^ lo), ← hpow, Nat.mul_comm (x / _), Nat.mul_comm (v % _)]
  rw [hx, Nat.testBit_two_pow_mul_add _ (Nat.mod_lt _ (Nat.two_pow_pos _))]
  by_cases h1 : i < lo
  · simp [h1, Nat.not_le.mpr h1]
  · rw [if_neg h1, Nat.testBit_two_pow_mul_add _ (Nat.mod_lt _ (Nat.two_pow_pos _))]
    by_cases h2 : i ≤ lo + w
    · have h3 : i - lo < w + 1 := by omega
      simp [h2, h3, Nat.le_of_not_lt h1]
    · have h3 : ¬ i - lo < w + 1 := by omega
      have h4 : i - lo - (w + 1) + (lo + w + 1) = i := by omega
      simp [h2, h3, Nat.testBit_div_two_pow, h4]

/-- A field that is set reads back, cut to its width. -/
theorem bits_setBits_same (x v : Nat) {hi lo : Nat} (h : lo ≤ hi) : bits (setBits x hi lo v) hi lo = v % 2 ^ (hi + 1 - lo) := by
  apply Nat.eq_of_testBit_eq
  intro i
  by_cases hi' : i < hi + 1 - lo
  · have : lo + i ≤ hi := by omega
    simp [bits, testBit_setBits _ _ _ h, hi', this]
  · simp [bits, hi']

/-- A field apart from the one that is set keeps its value. -/
theorem bits_setBits_apart (x v : Nat) {hi lo h l : Nat} (hlo : lo ≤ hi) (ha : h < lo ∨ hi < l) : bits (setBits x hi lo v) h l = bits x h l := by
  apply Nat.eq_of_testBit_eq
  intro i
  by_cases hi' : i < h + 1 - l
  · have : ¬ (lo ≤ l + i ∧ l + i ≤ hi) := by omega
    simp [bits, testBit_setBits _ _ _ hlo, this]
  · simp [bits, hi']

/-! ### Fields of stored registers -/

theorem State.rf_setRf_same (s : State) (a v : Nat) {hi lo : Nat} (h : lo ≤ hi) (h64 : hi < 64) :
    (s.setRf a hi lo v).rf a hi lo = v % 2 ^ (hi + 1 - lo) := by
  rw [State.rf, State.setRf, State.reg_setReg, bits_mod_two_pow _ h64, bits_setBits_same _ _ h]

theorem State.rf_setRf_apart (s : State) (a v : Nat) {hi lo h l : Nat} (hlo : lo ≤ hi) (h64 : h < 64) (ha : h < lo ∨ hi < l) :
    (s.setRf a hi lo v).rf a h l = s.rf a h l := by
  rw [State.rf, State.setRf, State.reg_setReg, bits_mod_two_pow _ h64, bits_setBits_apart _ _ hlo ha, State.rf]

theorem State.reg_setRf_ne (s : State) {a b hi lo v : Nat} (h : b ≠ a) : (s.setRf a hi lo v).reg b = s.reg b := State.reg_setReg_ne s h

/-- A saturating counter rises by what is added, and stops at its largest value. -/
theorem State.rf_bumpSat_same (s : State) (a n : Nat) {lo w : Nat} (hw : 0 < w) (h64 : lo + w ≤ 64) :
    (s.bumpSat a lo w n).rf a (lo + w - 1) lo = Nat.min (s.rf a (lo + w - 1) lo + n) (2 ^ w - 1) := by
  have hwidth : lo + w - 1 + 1 - lo = w := by omega
  rw [State.bumpSat, State.rf_setRf_same _ _ _ (by omega) (by omega), hwidth, Nat.mod_eq_of_lt]
  exact Nat.lt_of_le_of_lt (Nat.min_le_right _ _) (Nat.sub_lt (Nat.two_pow_pos w) Nat.one_pos)

theorem State.rf_bumpSat_apart (s : State) (a n : Nat) {lo w h l : Nat} (hw : 0 < w) (h64 : h < 64) (ha : h < lo ∨ lo + w ≤ l) :
    (s.bumpSat a lo w n).rf a h l = s.rf a h l :=
  State.rf_setRf_apart s a _ (by omega) h64 (by omega)

theorem State.reg_bumpSat_ne (s : State) {a b lo w n : Nat} (h : b ≠ a) : (s.bumpSat a lo w n).reg b = s.reg b := State.reg_setRf_ne s h

/-! ### Paths that are turned away (R13, R614) -/

/-- A context is never privileged: its write of a register that privileged paths set is discarded and counted. -/
@[simp] theorem State.regGateP_engine (s : State) (k off : Nat) (act : State → State) : s.regGateP (.engine k) off act = s.discardRwp := rfl

/-- A path that does not reach the dictionary, other than the PF, writes no command entry. -/
theorem State.odCmd_unreached {s : State} {p : Path} (hr : s.odReach p = false) (hp : p ≠ .pf) (idx sub : Nat) (act : State → State × Option Nat) :
    s.odCmd p idx sub act = s := by
  simp [State.odCmd, hr, hp]

/-- A path that does not reach the dictionary, other than the PF, writes none of its entries. -/
theorem State.odWriteItem_unreached {s : State} {p : Path} (hr : s.odReach p = false) (hp : p ≠ .pf) (idx sub : Nat) (d : List Byte) :
    s.odWriteItem p idx sub d = s := by
  simp [State.odWriteItem, State.odAdmits, State.odCmd_unreached hr hp, hr]

/-! ### Unsupported Request (R9; 11 R435) -/

@[simp] theorem State.urAnswer_regs (s : State) (f : Nat) : (s.urAnswer f).regs = s.regs := by
  unfold State.urAnswer; split <;> rfl

theorem State.urAnswer_aer {s : State} (h : s.pw.phase = .on) (f : Nat) : (s.urAnswer f).host.aer = .unsupportedRequest f :: s.host.aer := by
  simp [State.urAnswer, h, State.aer]

theorem State.urAnswer_sameBytes (s : State) (f : Nat) : SameBytes s (s.urAnswer f) := by
  unfold State.urAnswer; split <;> exact fun _ => ⟨rfl, rfl, rfl⟩

/-- A host access of a bad size or alignment is answered with Unsupported Request; a read takes that as its reply. -/
theorem exec_badSizeAccess_host {s : State} {p : Path} {f off size o : Nat} (hp : p = .pf ∧ f = 0 ∨ p = .vf f) (hr : State.reached p off = some o)
    (hok : accessOk o size = false) (hcfg : off < cfgBase) (w : Bool) (val : W64) :
    exec (.badSizeAccess p w off size val) s = .next (if w = true then s.urAnswer f else (s.urAnswer f).hostAnswer .unsupported) := by
  have hcfg' : ¬ cfgBase ≤ off := Nat.not_le.mpr hcfg
  rcases hp with ⟨rfl, rfl⟩ | rfl <;> simp [exec, execBadSizeAccess, hr, hok, hcfg', State.hostAnswer]

/-- An access of a bad size by the firmware or a context has no effect: only a host's is answered. -/
theorem exec_badSizeAccess_inside {p : Path} (hp : p = .firmware ∨ ∃ c, p = .engine c) (s : State) (w : Bool) (off size : Nat) (val : W64) :
    exec (.badSizeAccess p w off size val) s = .next s := by
  rcases hp with rfl | ⟨c, rfl⟩ <;> rfl

/-! ### What a write reaches (R8 to R10; 11 R435; 16 R638) -/

theorem exec_regWrite (s : State) (p : Path) (off size : Nat) (val : W64) :
    exec (.regWrite p off size val) s = .next (s.regStore p off size val.toNat) := rfl

/-- A write by the firmware or a context reaches the registers when its size and alignment are good, and is discarded otherwise. -/
theorem State.regStore_inside {p : Path} (hp : p = .firmware ∨ ∃ c, p = .engine c) (s : State) {off : Nat} (hoff : off < 0x4000000) (size val : Nat) :
    s.regStore p off size val = if accessOk off size = true then s.regBody p off size val else s := by
  rcases hp with rfl | ⟨c, rfl⟩ <;> simp [State.regStore, State.reached, hoff]

/-- The register space ends at 0x4000000 for the firmware and the contexts. -/
theorem State.regStore_outside {p : Path} (hp : p = .firmware ∨ ∃ c, p = .engine c) (s : State) {off : Nat} (hoff : ¬ off < 0x4000000) (size val : Nat) :
    s.regStore p off size val = s := by
  rcases hp with rfl | ⟨c, rfl⟩ <;> simp [State.regStore, State.reached, hoff]

/-- A write by the PF below its configuration controls: refused, discarded before READY, or performed. -/
theorem State.regStore_pf (s : State) {off : Nat} (hcfg : off < cfgBase) (size val : Nat) :
    s.regStore .pf off size val =
      if s.fnServes 0 = true ∧ accessOk off size = true then
        if s.mg.stage = .ready ∨ inMg off = true ∨ 0x4000000 ≤ off then s.regBody .pf off size val else s.discardRo
      else s.urAnswer 0 := by
  have hcfg' : ¬ cfgBase ≤ off := Nat.not_le.mpr hcfg
  by_cases hsv : s.fnServes 0 = true ∧ accessOk off size = true
  · obtain ⟨hf, hok⟩ := hsv
    by_cases hst : s.mg.stage = .ready ∨ inMg off = true ∨ 0x4000000 ≤ off
    · rw [if_pos ⟨hf, hok⟩, if_pos hst]
      rcases hst with h | h | h
      · simp [State.regStore, State.reached, hcfg', hf, hok, h]
      · simp [State.regStore, State.reached, hcfg', hf, hok, h]
      · simp [State.regStore, State.reached, hcfg', hf, hok, Nat.not_lt.mpr h]
    · rw [if_pos ⟨hf, hok⟩, if_neg hst]
      simp only [not_or, Nat.not_le] at hst
      simp [State.regStore, State.reached, hcfg', hf, hok, hst]
  · rw [if_neg hsv]
    simp only [not_and, Bool.not_eq_true] at hsv
    cases hf : s.fnServes 0 with
    | false => simp [State.regStore, hcfg', hf]
    | true => simp [State.regStore, State.reached, hcfg', hsv hf]

/-- A path's offset reaches the registers, as far as path, stage and offset go. -/
def State.RegReaches (s : State) (p : Path) (off : Nat) : Prop :=
  ((p = .firmware ∨ ∃ c, p = .engine c) ∧ off < 0x4000000)
    ∨ ((p = .pf ∧ off < cfgBase ∧ s.fnServes 0 = true) ∧ (s.mg.stage = .ready ∨ inMg off = true ∨ 0x4000000 ≤ off))

section
variable {s : State} {p : Path} {off size : Nat}

theorem State.RegReaches.reached (h : s.RegReaches p off) : State.reached p off = some off := by
  rcases h with ⟨rfl | ⟨c, rfl⟩, hoff⟩ | ⟨⟨rfl, -, -⟩, -⟩
  · simp [State.reached, hoff]
  · simp [State.reached, hoff]
  · rfl

/-- A write of good size and alignment that reaches the registers is performed. -/
theorem State.RegReaches.regStore (h : s.RegReaches p off) (hok : accessOk off size = true) (val : Nat) :
    s.regStore p off size val = s.regBody p off size val := by
  rcases h with ⟨hp, hoff⟩ | ⟨⟨rfl, hcfg, hf⟩, hst⟩
  · rw [State.regStore_inside hp s hoff, if_pos hok]
  · rw [State.regStore_pf s hcfg, if_pos ⟨hf, hok⟩, if_pos hst]

/-- A write of good size and alignment that reaches the registers is no access of a bad size. -/
theorem State.RegReaches.badSizeAccess (h : s.RegReaches p off) (hok : accessOk off size = true) (w : Bool) (val : W64) :
    exec (.badSizeAccess p w off size val) s = .next s := by
  rcases h with ⟨hp, -⟩ | ⟨⟨rfl, -, -⟩, -⟩
  · exact exec_badSizeAccess_inside hp s w off size val
  · simp [exec, execBadSizeAccess, State.reached, hok]

end

/-! ### A write that reaches a register (R8, R10 to R12, R699) -/

/-- The bits of a register that an access of `size` bytes at byte `d` of it covers. -/
def accessMask (size d : Nat) : Nat := (2 ^ (8 * size) - 1) * 2 ^ (8 * d)

/-- The data of such an access, where they stand in the register. -/
def accessData (size d val : Nat) : Nat := val % 2 ^ (8 * size) * 2 ^ (8 * d)

/-- Where no register stands a write is discarded. -/
theorem State.regBody_none (s : State) (p : Path) {off : Nat} (hb : inBuf4 off = false) (hn : findReg off = none) (size val : Nat) :
    s.regBody p off size val = s := by
  simp [State.regBody, hb, hn]

/-- What a write does to the register that it reaches, in the order of the checks. -/
theorem State.regBody_reg (s : State) (p : Path) {off : Nat} (hb : inBuf4 off = false) {r : RegRow} {i d o j : Nat} {b : Blk}
    (hr : findReg off = some (r, i, d)) (hl : locate (off - d) = some (b, j, o)) (size val : Nat) :
    s.regBody p off size val =
      if restricted r i = true ∧ s.privileged p = false then s.discardRwp
      else if allRo r.fields = true then s.discardRo
      else if isAction r.blk i o = true then s.actWrite p r.blk i o (off - d) d size val
      else (s.regSpecial p r i (off - d) o (accessData size d val) (accessMask size d)).getD
        ((if reachesRwp r.fields (accessMask size d) = true ∧ s.privileged p = false then s.discardRwp else s).regPlain p r (off - d) o
          (accessData size d val) (accessMask size d)) := by
  simp only [State.regBody, hb, hr, hl, accessData, accessMask, Bool.and_eq_true, Bool.not_eq_true', Bool.false_eq_true, if_false]
  cases s.regSpecial p r i (off - d) o (val % 2 ^ (8 * size) * 2 ^ (8 * d)) ((2 ^ (8 * size) - 1) * 2 ^ (8 * d)) <;> rfl

/-- A plain write gives each field the value that its access code says, and clears MORE with VALID in an error record. -/
theorem State.reg_regPlain (s : State) (p : Path) (r : RegRow) (a o v m : Nat) :
    (s.regPlain p r a o v m).reg a =
      let w := fieldsWrite r.fields (s.privileged p) (s.reg a) v m % 2 ^ 64
      if errInfo r.blk o = true ∧ bit (v &&& m) 31 = true then setBits w 15 8 0 % 2 ^ 64 else w := by
  simp only [State.regPlain, Bool.and_eq_true]
  split
  · rw [State.setRf, State.reg_setReg, State.reg_setReg]
  · rw [State.reg_setReg]

theorem State.reg_regPlain_ne (s : State) (p : Path) (r : RegRow) {a k : Nat} (h : k ≠ a) (o v m : Nat) : (s.regPlain p r a o v m).reg k = s.reg k := by
  simp only [State.regPlain]
  split
  · rw [State.reg_setRf_ne _ h, State.reg_setReg_ne _ h]
  · rw [State.reg_setReg_ne _ h]

/-- A plain write touches the registers only. -/
theorem State.regPlain_frame (s : State) (p : Path) (r : RegRow) (a o v m : Nat) :
    s.regPlain p r a o v m = { s with regs := (s.regPlain p r a o v m).regs } := by
  simp only [State.regPlain]
  split <;> rfl

/-- The low half of an action register, written alone, is held and starts nothing. -/
theorem State.actWrite_low (s : State) (p : Path) (b : Blk) (i o base val : Nat) :
    s.actWrite p b i o base 0 4 val = { s with actLow := s.actLow.set base 0 (BitVec.ofNat 32 val) } := rfl

theorem lowHalf_of_isAction {p : Path} {off i o j : Nat} {r : RegRow} {b : Blk} (hreach : State.reached p off = some off)
    (hr : findReg off = some (r, i, 0)) (hl : locate off = some (b, j, o)) (ha : isAction r.blk i o = true) : lowHalf p off = true := by
  simp [lowHalf, hreach, hr, hl, ha]

/-! ### Reads by an engine (R9, R10) -/

theorem State.regLoad_bad (s : State) {off size : Nat} (h : accessOk off size = false) : s.regLoad off size = (2 ^ (8 * size) - 1, s) := by
  simp [State.regLoad, h]

/-- Where no register stands a read of 4 bytes returns zero, and one of 8 bytes where neither half has a register. -/
theorem State.regRead_none (s : State) {off size : Nat} (hn : findReg off = none) (h : size = 8 → findReg (off + 4) = none) :
    s.regRead off size = 0 := by
  by_cases h8 : size = 8
  · simp [State.regRead, h8, hn, h h8]
  · simp [State.regRead, h8, hn]

theorem State.regLoad_none (s : State) {off size : Nat} (hok : accessOk off size = true) (hn : findReg off = none) :
    s.regLoad off size = (s.regRead off size, s) := by
  simp [State.regLoad, hok, hn]

end Sys2Proof.Machine

namespace Sys2Proof

open Sys2Proof.Machine

/-! ### The statements -/

/-- Settles O58, by what each path's access of a bad size meets, and by what each path's write becomes where no register stands. -/
theorem noRegisterReached : Obligations.NoRegisterReached := by
  unfold Obligations.NoRegisterReached
  intro s off size val hoff
  have hcfg : off < cfgBase := Nat.lt_trans hoff (by decide)
  have hfw : Path.firmware = .firmware ∨ ∃ c, Path.firmware = .engine c := .inl rfl
  have hen (c : Nat) : Path.engine c = .firmware ∨ ∃ k, Path.engine c = .engine k := .inr ⟨c, rfl⟩
  refine ⟨fun hok => ?bad, fun hok hb hn => ?none⟩
  case bad =>
    have hpf := exec_badSizeAccess_host (s := s) (.inl ⟨rfl, rfl⟩) (by rfl : State.reached .pf off = some off) hok hcfg
    refine ⟨by rw [State.regLoad_bad s hok], ?_, fun c => ?_, ?_, ⟨_, hpf false val, rfl⟩, fun k o hr ho => ?_, fun hon => ?_⟩
    · simp [exec_regWrite, State.regStore_inside hfw s hoff, hok]
    · simp [exec_regWrite, State.regStore_inside (hen c) s hoff, hok]
    · simp [exec_regWrite, State.regStore_pf s hcfg, hok]
    · have hvf := exec_badSizeAccess_host (s := s) (.inr rfl) hr hok ho
      exact ⟨hvf true val, _, hvf false val, rfl, State.urAnswer_regs s k⟩
    · exact ⟨State.urAnswer_aer hon 0, State.urAnswer_regs s 0⟩
  case none =>
    refine ⟨fun h4 => ?_, fun _ hn4 => ?_, ?_, fun c => ?_, fun hf hst => ?_⟩
    · rw [State.regLoad_none s hok hn, State.regRead_none s hn (by omega)]
    · rw [State.regLoad_none s hok hn, State.regRead_none s hn (fun _ => hn4)]
    · simp [exec_regWrite, State.regStore_inside hfw s hoff, State.regBody_none s _ hb hn]
    · simp [exec_regWrite, State.regStore_inside (hen c) s hoff, State.regBody_none s _ hb hn]
    · simp [exec_regWrite, State.regStore_pf s hcfg, hf, hok, hst, State.regBody_none s _ hb hn]

/-- Settles O57: every register that the statement names is written through `State.regGateP`, which counts a context's write as discarded, and every
dictionary item is turned away by `State.odReach`. -/
theorem privilegedPaths : Obligations.PrivilegedPaths := by
  unfold Obligations.PrivilegedPaths
  intro s n k v on
  refine ⟨⟨rfl, rfl, fun _ => rfl, rfl, rfl⟩, ⟨?gated, fun h1 h8 => ?ports⟩, ?count, ?dictionary⟩
  case gated =>
    have lost {c : Instr} {off : Nat} {act : State → State} (hc : exec c s = .next (s.regGateP (.engine k) off act)) : exec c s = .next s.discardRwp := by
      rw [hc, State.regGateP_engine]
    exact ⟨lost rfl, lost rfl, lost rfl, lost rfl, lost rfl, lost rfl, lost rfl, lost rfl, lost rfl, lost rfl, lost (congrArg Host.Outcome.next (if_pos rfl))⟩
  case ports =>
    have hq (x : Nat) : s.qctrlWrite (.engine k) n x = s.discardRwp := by simp [State.qctrlWrite, h1, h8]
    have hb (x : Nat) : s.prbsWrite (.engine k) n x = s.discardRwp := by simp [State.prbsWrite, h1, h8]
    exact ⟨congrArg _ (hq _), congrArg _ (hq _), congrArg _ (hb _), congrArg _ (hb _)⟩
  case count =>
    exact ⟨State.rf_bumpSat_same s (mgR 0x20) 1 (lo := 32) (w := 32) (by decide) (by decide),
      State.rf_bumpSat_apart s (mgR 0x20) 1 (by decide) (by decide) (.inl (by decide)), fun o ho => State.reg_bumpSat_ne s ho, rfl⟩
  case dictionary =>
    intro p hp idx sub d
    have hr : s.odReach p = false := by rcases hp with rfl | rfl <;> rfl
    have hpf : p ≠ .pf := by rcases hp with rfl | rfl <;> simp
    exact ⟨congrArg _ (State.odWriteItem_unreached hr hpf idx sub d), congrArg _ (State.odCmd_unreached hr hpf _ _ _),
      congrArg _ (State.odCmd_unreached hr hpf _ _ _), congrArg _ (State.odWriteItem_unreached hr hpf _ _ _)⟩

/-- Settles O36: a write that reaches the registers is `State.regBody`, which `State.regBody_reg` takes apart in the order of its checks. -/
theorem registerWrites : Obligations.RegisterWrites := by
  unfold Obligations.RegisterWrites
  intro s p off size val host reach v
  refine ⟨?early, ?hostBad, ?firmwareBad, fun hreach hok hb => ?reached⟩
  case early =>
    rintro ⟨rfl, hcfg, hf⟩ hst hmg hoff hok
    simp [exec_regWrite, State.regStore_pf s hcfg, hf, hok, hst, hmg, Nat.not_le.mpr hoff]
  case hostBad =>
    rintro ⟨rfl, hcfg, hf⟩ hok
    have hbad := exec_badSizeAccess_host (s := s) (.inl ⟨rfl, rfl⟩) (by rfl : State.reached .pf off = some off) hok hcfg
    refine ⟨?_, hbad true val, _, hbad false val, rfl, rfl, State.urAnswer_sameBytes s 0⟩
    simp [exec_regWrite, State.regStore_pf s hcfg, hok]
  case firmwareBad =>
    rintro hp hok
    refine ⟨?_, fun w => exec_badSizeAccess_inside (.inl hp) s w off size val⟩
    by_cases hoff : off < 0x4000000
    · simp [exec_regWrite, State.regStore_inside (.inl hp) s hoff, hok]
    · simp [exec_regWrite, State.regStore_outside (.inl hp) s hoff]
  case reached =>
    have hreach : s.RegReaches p off := hreach
    have hstore : exec (.regWrite p off size val) s = .next (s.regBody p off size v) := congrArg _ (hreach.regStore hok v)
    refine ⟨fun w => hreach.badSizeAccess hok w val, fun hn => by rw [hstore, State.regBody_none s p hb hn], fun r i d b o hr hl => ?_⟩
    have hbody := State.regBody_reg s p hb hr hl
    rw [hstore]
    refine ⟨fun hres hpriv => by simp [hbody, hres, hpriv], fun hmay => ?_⟩
    have hmay : ¬ (restricted r i = true ∧ s.privileged p = false) := by rcases hmay with h | h <;> simp [h]
    refine ⟨fun hro => by simp only [hbody, if_neg hmay, if_pos hro], fun hro => ⟨fun hact => ⟨?_, ?_⟩, fun hact => ?_⟩⟩
    · simp [hbody, hmay, hro, hact]
    · rintro rfl rfl w
      have hlow : exec (.actionLowHalfWrite p off w) s = .next (s.regBody p off 4 w.toNat) := by
        show Host.Outcome.next (if lowHalf p off = true then s.regStore p off 4 w.toNat else s) = _
        rw [if_pos (lowHalf_of_isAction hreach.reached hr hl hact), hreach.regStore hok]
      rw [hlow, hbody, if_neg hmay, if_neg (by simp [hro]), if_pos hact, State.actWrite_low]
      rfl
    · intro m x
      have hplain : s.regBody p off size v = (s.regSpecial p r i (off - d) o x m).getD
          ((if reachesRwp r.fields m = true ∧ s.privileged p = false then s.discardRwp else s).regPlain p r (off - d) o x m) := by
        rw [hbody, if_neg hmay, if_neg (by simp [hro]), if_neg (by simp [hact])]
        rfl
      refine ⟨fun t ht => by rw [hplain, ht]; rfl, fun hnone => ⟨fun hrwp hpriv => ?_, fun hfree => ?_⟩⟩
      · rw [hplain, hnone, if_pos ⟨hrwp, hpriv⟩]; rfl
      · have hfree : ¬ (reachesRwp r.fields m = true ∧ s.privileged p = false) := by rcases hfree with h | h <;> simp [h]
        rw [if_neg hfree, hnone] at hplain
        exact ⟨_, hstore.trans (congrArg _ hplain), State.reg_regPlain s p r _ o x m, fun k hk => State.reg_regPlain_ne s p r hk o x m,
          State.regPlain_frame s p r _ o x m⟩

end Sys2Proof
end

section
/-! SUPPORT. That every step goes on, what passes on an empty queue, and what reset leaves (01_module_hierarchy.md R34, R39): each command answers a next
state, and the statements of the family 01_module_hierarchy.md. -/

namespace Sys2Proof.Machine

/-! ### Every command answers a next state -/

/-- An outcome that is a next state. -/
def Answers (o : Host.Outcome State Fault Refusal) : Prop := ∃ t, o = .next t

namespace Answers

theorem next (t : State) : Answers (.next t) := ⟨t, rfl⟩

theorem ite {c : Prop} [Decidable c] {a b : Host.Outcome State Fault Refusal} (ha : Answers a) (hb : Answers b) :
    Answers (if c then a else b) := by
  split
  · exact ha
  · exact hb

end Answers

/-! Commands whose branches nest, by the branches of each. -/

theorem execReleaseComplete_answers (core slot : Nat) (s : State) : Answers (execReleaseComplete core slot s) := by
  unfold execReleaseComplete
  split
  · exact .next _
  · split
    · exact .ite (.next _) (.ite (.next _) (.ite (.next _) (.next _)))
    · exact .next _

theorem execMwaitReturn_answers (w : MxWaiter) (s : State) : Answers (execMwaitReturn w s) := by
  unfold execMwaitReturn
  split
  · split
    · split <;> exact .next _
    · exact .next _
  · split <;> exact .next _

theorem execMxCommandStart_answers (core : Nat) (s : State) : Answers (execMxCommandStart core s) := by
  unfold execMxCommandStart
  extract_lets
  split
  · exact .next _
  · refine .ite ?_ (.next _)
    split <;> exact .next _

theorem execFwaitEnd_answers (cl : Nat) (s : State) : Answers (execFwaitEnd cl s) := by
  unfold execFwaitEnd
  split
  · refine .ite (.next _) ?_
    split
    · split <;> exact .next _
    · exact .next _
  · exact .next _

theorem execSeqPark_answers (cl : Nat) (s : State) : Answers (execSeqPark cl s) := by
  unfold execSeqPark
  extract_lets
  split
  · split
    · exact .next _
    · refine .ite ?_ (.next _)
      extract_lets
      split <;> exact .next _
  · exact .next _

theorem execSeqResume_answers (cl : Nat) (s : State) : Answers (execSeqResume cl s) := by
  unfold execSeqResume
  extract_lets
  split
  · split
    · exact .next _
    · refine .ite ?_ (.next _)
      split
      extract_lets
      split <;> exact .next _
  · exact .next _

theorem execWalkComplete_answers (walk : Nat) (s : State) : Answers (execWalkComplete walk s) := by
  unfold execWalkComplete
  split
  · exact .next _
  · refine .ite (.next _) ?_
    extract_lets
    split <;> exact .next _

theorem execShardHandout_answers (queue : Nat) (s : State) : Answers (execShardHandout queue s) := by
  unfold execShardHandout
  split
  · exact .next _
  · split
    · exact .next _
    · refine .ite (.next _) ?_
      split
      · exact .next _
      · exact .ite (.next _) (.ite (.next _) (.next _))

theorem execUpdateComplete_answers (queue : Nat) (s : State) : Answers (execUpdateComplete queue s) := by
  unfold execUpdateComplete
  split
  · exact .next _
  · extract_lets
    split
    · exact .next _
    · exact .ite (.next _) (.next _)

theorem execMsixUnmask_answers (fn : Nat) (w : MsixWrite) (s : State) : Answers (execMsixUnmask fn w s) := by
  unfold execMsixUnmask
  split
  · exact .ite (.next _) (.ite (.next _) (.next _))
  · exact .next _
  · exact .next _

theorem execWaitsMet_answers (queue : Nat) (s : State) : Answers (execWaitsMet queue s) := by
  unfold execWaitsMet
  split
  · exact .next _
  · refine .ite (.next _) ?_
    split
    · exact .next _
    · exact .ite (.next _) (.ite (.next _) (.next _))

theorem execQueueTimeout_answers (queue : Nat) (s : State) : Answers (execQueueTimeout queue s) := by
  unfold execQueueTimeout
  extract_lets
  split
  · exact .next _
  · refine .ite ?_ (.next _)
    extract_lets
    split
    · exact .ite (.next _) (.next _)
    · exact .ite (.next _) (.next _)

theorem execKillTimeout_answers (queue : Nat) (s : State) : Answers (execKillTimeout queue s) := by
  unfold execKillTimeout
  extract_lets
  split
  · exact .next _
  · refine .ite ?_ (.next _)
    split <;> exact .next _

theorem execSliceEligible_answers (queue : Nat) (s : State) : Answers (execSliceEligible queue s) := by
  unfold execSliceEligible
  split
  · exact .next _
  · refine .ite (.next _) ?_
    split
    · exact .next _
    · split
      · exact .next _
      · extract_lets
        split <;> exact .next _

theorem execModeChangeComplete_answers (s : State) : Answers (execModeChangeComplete s) := by
  unfold execModeChangeComplete
  refine .ite (.ite (.next _) ?_) (.next _)
  split
  · exact .ite (.next _) (.next _)
  · exact .next _

theorem execDigestDone_answers (s : State) : Answers (execDigestDone s) := by
  unfold execDigestDone
  split
  · exact .next _
  · exact .ite (.next _) (.ite (.next _) (.ite (.next _) (.ite (.next _) (.next _))))

/-- Every command answers a next state: a fault of the spec is a state that fills an error record, and `exec` refuses no command. -/
theorem exec_answers (c : Instr) (s : State) : Answers (exec c s) := by
  cases c
  -- meanings that branch on conditions only
  case refclkSwitch | rootPointReached | arrayRampDown | sbarLeave | ccWayCleanDone | unitQuiesced | testPassEnd | unitReturned | cxlReadyTimeout |
    memoryTrainingEnd | linkTraining | laneLossRetrain | dlDown | hotReset | perst | flrVf | flrPf | ideEstablish | ideCheckFail | reclaimEpochEnd |
    meterWindow | stepPlace | epochBoundary | maintenanceStep | quadOut | quadReturn | cageInsert | cageRemove | powerUp | pwrEnFall | fanInsert |
    perstRelease | vfEnable => exact .ite (.next _) (.next _)
  case modeCommit | quadRetrainTry | restartHoldoff | brickInsert | brickLost | fanLost => exact .ite (.next _) (.ite (.next _) (.next _))
  case rowRepair => exact .ite (.ite (.next _) (.next _)) (.next _)
  case runStart => exact .ite (.next _) (.ite (.next _) (.ite (.next _) (.next _)))
  case entryAccept | cxlRetrainEnd => exact .ite (.ite (.next _) (.ite (.next _) (.next _))) (.next _)
  case negativeDue => exact .ite (.next _) (.ite (.next _) (.ite (.next _) (.ite (.next _) (.next _))))
  case hostBar2Write | hostBar2Read => exact .ite (.next _) (.ite (.next _) (.ite (.next _) (.ite (.next _) (.ite (.next _) (.next _)))))
  -- meanings that take one value apart, with conditions below it or above it
  case badSizeAccess | branch | mwait | kwaitEnd | lwaitEnd | ewaitEnd | storeBufferDrain | bankMoveDone | sparePcDone | dimmLatch | dimmTrainingStart
    | faultWindowClose | unsupportedRequest | importRemoteTimeout | doorbell | retransmitTimeout | progressWatchdog | contactSheetDone =>
    dsimp only [exec, execBadSizeAccess, execBranch, execMwait, execKwaitEnd, execLwaitEnd, execEwaitEnd, execStoreBufferDrain, execBankMoveDone,
      execSparePcDone, execDimmLatch, execDimmTrainingStart, execFaultWindowClose, execUnsupportedRequest, execImportRemoteTimeout, execDoorbell,
      execRetransmitTimeout, execProgressWatchdog, execContactSheetDone]
    split <;> exact .next _
  case blockStart | blockExit | kernelComplete | densRecordClose | stepEnd | ruleApplied | preemptTimeout | brickReleaseEnd | reelDrainDone =>
    dsimp only [exec, execBlockStart, execBlockExit, execKernelComplete, execDensRecordClose, execStepEnd, execRuleApplied, execPreemptTimeout,
      execBrickReleaseEnd, execReelDrainDone]
    split
    · exact .next _
    · exact .ite (.next _) (.next _)
  case mxCommandComplete | windowAccess | invComplete =>
    dsimp only [exec, execMxCommandComplete, execWindowAccess, execInvComplete]
    split
    · exact .next _
    · exact .ite (.next _) (.ite (.next _) (.next _))
  case stepStart | moveCopied | layoutDrainLimit =>
    dsimp only [exec, execStepStart, execMoveCopied, execLayoutDrainLimit]
    split
    · exact .ite (.next _) (.next _)
    · exact .next _
  case kernelCompleteCore | entryComplete =>
    dsimp only [exec, execKernelCompleteCore, execEntryComplete]
    split
    · exact .next _
    · split <;> exact .next _
  case fsigRelease | doeRequest | modeStage =>
    refine .ite (.next _) ?_
    split <;> exact .next _
  -- meanings whose branches nest
  case releaseComplete => exact execReleaseComplete_answers ..
  case mwaitReturn => exact execMwaitReturn_answers ..
  case mxCommandStart => exact execMxCommandStart_answers ..
  case fwaitEnd => exact execFwaitEnd_answers ..
  case seqPark => exact execSeqPark_answers ..
  case seqResume => exact execSeqResume_answers ..
  case walkComplete => exact execWalkComplete_answers ..
  case shardHandout => exact execShardHandout_answers ..
  case updateComplete => exact execUpdateComplete_answers ..
  case msixUnmask => exact execMsixUnmask_answers ..
  case waitsMet => exact execWaitsMet_answers ..
  case queueTimeout => exact execQueueTimeout_answers ..
  case killTimeout => exact execKillTimeout_answers ..
  case sliceEligible => exact execSliceEligible_answers ..
  case modeChangeComplete => exact execModeChangeComplete_answers ..
  case digestDone => exact execDigestDone_answers ..
  -- the others are one next state each
  all_goals exact .next _

/-! ### What a command leaves of the queue and the variant (R34) -/

/-- The commands `q` wait, and the variant is `ac`. -/
def Waits (q : List Instr) (ac : Bool) (p : Prot) : Prop := p.pending = q ∧ p.ac = ac

theorem waits_closed (q : List Instr) (ac : Bool) : Closed (Waits q ac) where
  memSet _ _ _ h := h
  memFilter _ _ h := h
  hostSet _ _ _ h := h
  poisonSet _ _ _ h := h
  poisonFilter _ _ h := h
  keyRevoke _ _ _ _ h := h
  ownerRevoke _ _ _ h := h
  ownerPut _ _ _ _ h := h
  floorRaise _ _ _ _ h := h

theorem exec_pending_ac {c : Instr} {s t : State} (h : exec c s = .next t) : t.pending = s.pending ∧ t.ac = s.ac :=
  exec_keeps (waits_closed s.pending s.ac) (s := s) ⟨rfl, rfl⟩ t h

theorem State.tick_pending (s : State) : s.tick.pending = s.pending :=
  (State.tick_keeps (waits_closed s.pending s.ac) (s := s) ⟨rfl, rfl⟩).1

/-! ### One period of the timestamp counter (R34; 16 R615, R635) -/

theorem step_empty {s : State} (h : s.pending = []) : step s = .next s.tick := by
  rw [step, h]

theorem step_answers (s : State) : Answers (step s) := by
  unfold step
  split
  · exact .next _
  · exact exec_answers ..

/-- What a change of the stage leaves as it is: time, power, the requests that wait, and memory. -/
structure StageFrame (s t : State) : Prop where
  now : t.now = s.now
  pw : t.pw = s.pw
  reqs : t.mg.reqs = s.mg.reqs
  mem : t.mem = s.mem
  hostMem : t.hostMem = s.hostMem
  ext : t.ext = s.ext

theorem StageFrame.refl (s : State) : StageFrame s s := ⟨rfl, rfl, rfl, rfl, rfl, rfl⟩

theorem StageFrame.trans {s t u : State} (h : StageFrame s t) (k : StageFrame t u) : StageFrame s u :=
  ⟨k.now.trans h.now, k.pw.trans h.pw, k.reqs.trans h.reqs, k.mem.trans h.mem, k.hostMem.trans h.hostMem, k.ext.trans h.ext⟩

theorem State.setRf_stageFrame (s : State) (a hi lo v : Nat) : StageFrame s (s.setRf a hi lo v) := ⟨rfl, rfl, rfl, rfl, rfl, rfl⟩

theorem State.odSet_stageFrame (s : State) (i j v : Nat) : StageFrame s (s.odSet i j v) := ⟨rfl, rfl, rfl, rfl, rfl, rfl⟩

theorem State.announce_stageFrame (s : State) : StageFrame s s.announce := by
  unfold State.announce State.tuiPlain
  split
  · exact .refl s
  · exact ⟨rfl, rfl, rfl, rfl, rfl, rfl⟩

theorem State.setStage_stageFrame (s : State) (g : Stage) : StageFrame s (s.setStage g) :=
  have hstage : StageFrame s { s with mg := { s.mg with stage := g } } := ⟨rfl, rfl, rfl, rfl, rfl, rfl⟩
  hstage.trans <| (State.setRf_stageFrame ..).trans <| (State.setRf_stageFrame ..).trans <|
    (State.odSet_stageFrame ..).trans <| State.announce_stageFrame _

theorem State.leaveRom_stageFrame (s : State) : StageFrame s s.leaveRom := by
  unfold State.leaveRom
  split
  · exact .refl s
  · split
    · exact s.setStage_stageFrame _
    · exact .refl s

/-- Outside stages ROM and WARM there is no stage for the loader to leave. -/
theorem State.leaveRom_loaded {s : State} (hrom : s.mg.stage ≠ .rom) (hwarm : s.mg.stage ≠ .warm) : s.leaveRom = s := by
  simp [State.leaveRom, hrom, hwarm]

theorem State.reqsGo_nil {s : State} (h : s.mg.reqs = []) : s.reqsGo = s := by
  simp [State.reqsGo, State.each, h]

/-- With no request waiting, a period changes what leaving the ROM changes, the time stamp and the acknowledged CXL writes, and nothing else. -/
theorem State.tick_of_no_reqs {s : State} (h : s.mg.reqs = []) :
    ∃ cxl, s.tick = { s.leaveRom with now := if s.pw.phase = .on then s.now + 1 else s.now, ext := { s.ext with cxl := cxl } } := by
  have hf := s.leaveRom_stageFrame
  have hgo : s.leaveRom.reqsGo = s.leaveRom := State.reqsGo_nil (hf.reqs.trans h)
  simp only [State.tick, hgo, hf.now, hf.pw, hf.ext]
  exact ⟨_, rfl⟩

end Sys2Proof.Machine

namespace Sys2Proof

open Sys2Proof.Machine

/-! ### The statements -/

/-- Settles O52: every command answers by `exec_answers`, and keeps the queue and the variant by `exec_keeps`; on an empty queue a step is a tick. -/
theorem stepGoesOn : Obligations.StepGoesOn := by
  unfold Obligations.StepGoesOn
  refine ⟨step_answers, fun c s t => exec_pending_ac, fun s hs => ⟨s.tick, step_empty hs, s.tick_pending.trans hs, fun hreqs => ?_⟩⟩
  obtain ⟨cxl, ht⟩ := State.tick_of_no_reqs hreqs
  rw [ht]
  have hf := s.leaveRom_stageFrame
  refine ⟨rfl, fun a => ⟨congrArg (·.getD a 0) hf.mem, congrArg (·.getD a 0) hf.hostMem, rfl⟩, fun hrom hwarm => ?loaded⟩
  case loaded => rw [State.leaveRom_loaded hrom hwarm]; exact ⟨rfl, rfl, rfl⟩

/-- Settles O53: after reset no map lists anything but bricks and fans, so a register or entry that is read shows its table's default, cut to 64 bits. -/
theorem resetValues : Obligations.ResetValues := by
  unfold Obligations.ResetValues
  exact ⟨rfl, rfl, rfl, rfl, fun o => BitVec.toNat_ofNat _ _, fun i j => BitVec.toNat_ofNat _ _,
    fun n => ⟨rfl, rfl, rfl, rfl, rfl, rfl, rfl, rfl, rfl, rfl, rfl, rfl⟩⟩

end Sys2Proof
end

section
/-! SUPPORT. Matrix engines (03_matrix_engine.md; 05_sequencers_streams.md R198, R199): a core's engine read back, commands that enter its queue, and
commands that start and complete; then the statements of the family 03_matrix_engine.md. -/

namespace Sys2Proof.Machine

/-! ### A core's engine read back -/

@[simp] theorem State.mx_modMx (s : State) (core : Nat) (f : Mx → Mx) : (s.modMx core f).mx core = f (s.mx core) :=
  congrArg Core.mx s.core_modCore

/-- A core's groups are no part of its engine. -/
theorem State.group_modMx (s : State) (core slot : Nat) (f : Mx → Mx) : (s.modMx core f).group core slot = s.group core slot := by
  rw [State.group, State.modMx, State.core_modCore, State.group]

theorem State.core_modMx_ne (s : State) {core c : Nat} (f : Mx → Mx) (h : c ≠ core) : (s.modMx core f).core c = s.core c := s.core_modCore_ne h

/-- A core is what the state's cores list. -/
theorem State.core_of_cores {s t : State} (h : t.cores = s.cores) (c : Nat) : t.core c = s.core c := congrArg (·.getD c {}) h

theorem State.mx_of_cores {s t : State} (h : t.cores = s.cores) (c : Nat) : t.mx c = s.mx c := congrArg Core.mx (State.core_of_cores h c)

/-- What touches one group of a core leaves the core's matrix engine. -/
theorem OnlyGroup.mx {s t : State} {core slot : Nat} (h : OnlyGroup s t core slot) : t.mx core = s.mx core := by
  obtain ⟨-, -, hcore, -, -⟩ := h
  rw [State.mx, hcore, State.mx]

theorem State.modStep_frame (s : State) (k : Nat) (f : StepRec → StepRec) : s.modStep k f = { s with pt := (s.modStep k f).pt } := by
  unfold State.modStep
  split <;> rfl

/-! ### A command enters a queue (R93, R94) -/

/-- An engine that a command has entered, last in the queue. -/
def Mx.entered (m : Mx) (c : MxCmd) : Mx :=
  { m with queue := m.queue ++ [{ c with id := m.nextId }], nextId := m.nextId + 1, state := if m.state = .idle then .busy else m.state }

/-- A core that runs a kernel passes to no other context (02 R64). -/
theorem State.mxPass_of_kernel {s : State} {core : Nat} {k : Kernel} (h : s.coreKernel core = some k) (ctx : Nat) : s.mxPass core ctx = s := by
  have hsome : (s.core core).kernel.isSome := by
    unfold State.coreKernel at h
    split at h
    · simp [*]
    · cases h
  simp [State.mxPass, hsome]

theorem State.clearLocal_frame (s : State) (core : Nat) : ∃ mem ext, s.clearLocal core = { s with mem := mem, ext := ext } := ⟨_, _, rfl⟩

theorem State.clearLocal_seqs (s : State) (core : Nat) : (s.clearLocal core).seqs = s.seqs := by
  obtain ⟨mem, ext, h⟩ := s.clearLocal_frame core
  rw [h]

@[simp] theorem State.clearCore_seqs (s : State) (core : Nat) : (s.clearCore core).seqs = s.seqs := by
  unfold State.clearCore
  extract_lets t
  rw [State.setReg_seqs, State.setReg_seqs, State.setReg_seqs, State.modCore_seqs, State.clearLocal_seqs]

theorem State.core_setReg (s : State) (a v c : Nat) : (s.setReg a v).core c = s.core c := rfl

theorem State.core_clearLocal (s : State) (core c : Nat) : (s.clearLocal core).core c = s.core c := by
  obtain ⟨mem, ext, h⟩ := s.clearLocal_frame core
  rw [h]
  rfl

theorem State.core_clearCore_ne (s : State) {core c : Nat} (h : c ≠ core) : (s.clearCore core).core c = s.core c := by
  unfold State.clearCore
  extract_lets t
  rw [State.core_setReg, State.core_setReg, State.core_setReg, State.core_modCore_ne _ h, State.core_clearLocal]

theorem State.mx_clearCore (s : State) (core : Nat) : (s.clearCore core).mx core = (s.mx core).cleared := by
  unfold State.clearCore
  extract_lets t
  rw [State.mx, State.core_setReg, State.core_setReg, State.core_setReg, State.core_modCore, State.core_clearLocal, State.mx]

@[simp] theorem State.mxPass_seqs (s : State) (core ctx : Nat) : (s.mxPass core ctx).seqs = s.seqs := by
  unfold State.mxPass
  split
  · rfl
  · rw [State.modCore_seqs, State.clearCore_seqs]

theorem State.mxPass_core_ne (s : State) {core c : Nat} (ctx : Nat) (h : c ≠ core) : (s.mxPass core ctx).core c = s.core c := by
  unfold State.mxPass
  split
  · rfl
  · rw [State.core_modCore_ne _ h]
    exact s.core_clearCore_ne h

/-- What a core is when it passes to a context depends on that core alone. -/
theorem State.mxPass_mx_of_core {s t : State} {core : Nat} (h : t.core core = s.core core) (ctx : Nat) :
    (t.mxPass core ctx).mx core = (s.mxPass core ctx).mx core := by
  simp only [State.mxPass, h]
  split
  · exact congrArg Core.mx h
  · have hm : t.mx core = s.mx core := congrArg Core.mx h
    have hcleared (u : State) : ((u.clearCore core).modCore core (fun c => { c with lastCtx := some ctx })).mx core = (u.mx core).cleared := by
      rw [State.mx, State.core_modCore]
      exact u.mx_clearCore core
    rw [hcleared, hcleared, hm]

@[simp] theorem State.mxEnter_seqs (s : State) (core : Nat) (c : MxCmd) : (s.mxEnter core c).seqs = s.seqs := s.mxPass_seqs core c.ctx

@[simp] theorem State.mx_mxEnter (s : State) (core : Nat) (c : MxCmd) : (s.mxEnter core c).mx core = ((s.mxPass core c.ctx).mx core).entered c :=
  State.mx_modMx ..

theorem State.core_mxEnter_ne (s : State) {core d : Nat} (c : MxCmd) (h : d ≠ core) : (s.mxEnter core c).core d = s.core d := by
  rw [State.mxEnter, State.core_modMx_ne _ _ h, State.mxPass_core_ne _ _ h]

/-! Commands that enter the engines of several cores at once (05 R198): `l` lists logical indices with cores, `cmd` gives each index its command. -/

section
variable (l : List (Nat × Nat)) (cmd : Nat → MxCmd)

theorem State.eachEnter_seqs (s : State) : (s.each l (fun t x => t.mxEnter x.2 (cmd x.1))).seqs = s.seqs :=
  State.each_rel (I := fun a b => b.seqs = a.seqs) (fun _ => rfl) (fun h1 h2 => h2.trans h1) (fun _ _ _ => State.mxEnter_seqs ..) s

theorem State.eachEnter_core {c : Nat} (h : c ∉ l.map (·.2)) (s : State) : (s.each l (fun t x => t.mxEnter x.2 (cmd x.1))).core c = s.core c := by
  refine State.each_rel (I := fun a b => b.core c = a.core c) (fun _ => rfl) (fun h1 h2 => h2.trans h1) (fun t x hx => ?_) s
  exact State.core_mxEnter_ne t _ fun hc => h (hc ▸ List.mem_map_of_mem hx)

/-- Where the cores are distinct, each takes its own command as if it were the only one. -/
theorem State.eachEnter_mx (hd : (l.map (·.2)).Nodup) {e : Nat × Nat} (he : e ∈ l) (s : State) :
    (s.each l (fun t x => t.mxEnter x.2 (cmd x.1))).mx e.2 = ((s.mxPass e.2 (cmd e.1).ctx).mx e.2).entered (cmd e.1) := by
  induction l generalizing s with
  | nil => cases he
  | cons x r ih =>
    rw [List.map_cons, List.nodup_cons] at hd
    obtain ⟨hx, hr⟩ := hd
    show ((s.mxEnter x.2 (cmd x.1)).each r _).mx e.2 = _
    rcases List.mem_cons.mp he with rfl | he
    · rw [State.mx, State.eachEnter_core r cmd hx, ← State.mx, State.mx_mxEnter]
    · have hne : e.2 ≠ x.2 := fun hc => hx (hc ▸ List.mem_map_of_mem he)
      rw [ih hr he, State.mxPass_mx_of_core (State.core_mxEnter_ne s _ hne)]

end

/-! ### The issue of a matrix command (R95, R105; 05 R198, R199) -/

theorem State.issuing_paths {s : State} {i : Issue} {g : Group} {p : PathSt} (h : s.issuing i = some (g, p)) : g.paths ≠ [] := by
  obtain ⟨-, hp, -⟩ := State.issuing_group h
  rintro hnil
  simp [hnil] at hp

/-- An instruction that falls through and writes no register. -/
theorem State.retire_laneResults {s : State} {i : Issue} {g : Group} (h : s.group i.core i.slot = some g) (p : PathSt) :
    LaneResults s (s.retire i) i p [] 0 0 (fun _ => 0) :=
  State.lanes_retire (OnlyGroup.refl ..) h h ⟨by simp, fun _ _ _ _ => rfl, rfl, rfl⟩

/-- A group's command that nothing holds up enters its core's queue, and the group goes on. -/
theorem State.mxGroup_enters {s : State} {i : Issue} {word : W64} {op : Nat} {g : Group} {p : PathSt} {k : Kernel} (hop : mwOp word.toNat = op)
    (hk : s.coreKernel i.core = some k) (huse : k.desc.mxUse = true)
    (hi : Issues s i [] (mxRegs word.toNat (g.reg64 (lowLane p.mask) (mwD word.toNat))) g p)
    (hsb : s.scoreboard i (((mxOfGroup k i g p word.toNat).tiles g.width).2.map (fun y => (y.1 * 32, y.2 * 32)))
      (((mxOfGroup k i g p word.toNat).tiles g.width).1.map (fun y => (y.1 * 32, y.2 * 32))) g = false)
    (hon : s.mxOn i.core = true) (hroom : (s.mx i.core).waiting < 16) :
    s.mxGroup i op word = (s.modMx i.core (·.entered (mxOfGroup k i g p word.toNat))).retire i := by
  obtain ⟨hissuing, -, -⟩ := id hi
  simp [State.mxGroup, hop, hissuing, hk, huse, State.issue_acts hi, hsb, hon, Nat.not_le.mpr hroom, State.mxEnter, State.mxPass_of_kernel hk, Mx.entered]

/-- An event raises counters only (05 R190). -/
theorem Seq.event_frame (q : Seq) (src n : Nat) : q.event src n = { q with c := (q.event src n).c } := by
  unfold Seq.event
  induction List.range 8 generalizing q with
  | nil => rfl
  | cons x r ih =>
    rw [List.foldl_cons, ih]
    split <;> rfl

/-- A stream's command that every engine has room for enters the queue of each that is on, and the sequencer goes on: `v` is the state once waits and
engines that are off are counted. -/
theorem State.mxStream_enters {s u : State} {cl op w : Nat} (hr : Runs s cl op w u) (hw : mwUnused w = true)
    (hroom : ∀ e ∈ (u.mxTargets cl (u.seq cl).mxMask).filter (fun x => u.mxOn x.2), (u.mx e.2).waiting < 16) :
    ∃ (v : State) (f : Seq → Seq), (v.cores = u.cores ∧ v.seqs = u.seqs) ∧ (∀ q, (f q).pc = q.pc ∧ (f q).loops = q.loops ∧ (f q).s = q.s)
      ∧ s.mxStream cl op = (v.each ((u.mxTargets cl (u.seq cl).mxMask).filter (fun x => u.mxOn x.2))
          (fun t x => t.mxEnter x.2 (mxOfSeq (u.seq cl) x.1 w))).seqDone cl f := by
  have hfree : ((u.mxTargets cl (u.seq cl).mxMask).filter (fun x => u.mxOn x.2)).any (fun x => 16 ≤ (u.mx x.2).waiting) = false := by
    simpa only [List.any_eq_false, decide_eq_true_eq, Nat.not_le] using hroom
  simp only [State.mxStream, State.stream_runs hr, hw, hfree, Bool.not_true, Bool.false_eq_true, if_false]
  refine ⟨_, _, ?kept, ?f, rfl⟩
  case f =>
    intro q
    split
    · rw [Seq.event_frame]
      exact ⟨rfl, rfl, rfl⟩
    · exact ⟨rfl, rfl, rfl⟩
  case kept =>
    cases (u.seq cl).queue with
    | none => dsimp only; split <;> exact ⟨rfl, rfl⟩
    | some k =>
      dsimp only
      split
      · split <;> exact ⟨rfl, rfl⟩
      · rw [State.stepStatus, State.modStep_frame]
        split <;> exact ⟨rfl, rfl⟩

/-- Where an instruction falls through to depends on the PC and the loops alone. -/
theorem Seq.fall_pc_congr {q r : Seq} (hpc : r.pc = q.pc) (hl : r.loops = q.loops) : r.fall.pc = q.fall.pc := by
  simp only [Seq.fall, hpc, hl]

/-- The end of a stream instruction leaves the cores. -/
theorem State.seqDone_cores (s : State) (cl : Nat) (f : Seq → Seq) : (s.seqDone cl f).cores = s.cores := by
  obtain ⟨h, -⟩ := State.seqDone_onlySeq s cl f
  rw [h]

/-- A group's MWAIT that is well formed: the group retires, and stalls where more than n of its commands are incomplete. -/
theorem State.mwaitGroup_acts {s : State} {i : Issue} {word : W64} {g : Group} {p : PathSt} {k : Kernel} (hi : s.issuing i = some (g, p))
    (hk : s.coreKernel i.core = some k) (huse : k.desc.mxUse = true) (hop : mwOp word.toNat = 0xE6) (hw : mwUnused word.toNat = true)
    (hres : bits word.toNat 23 4 = 0) :
    s.mwaitGroup i word = if (s.mx i.core).outstanding i.slot ≤ mwImm word.toNat then s.retire i else (s.retire i).stallGroup i (.mwait (mwImm word.toNat)) := by
  simp [State.mwaitGroup, hop, hi, hk, huse, hw, hres, OnlyGroup.mx (s.retire_only i)]

/-! ### The start of a command (R94, R106, R108) -/

/-- A command that may start is a matrix fault, or begins. -/
theorem exec_mxCommandStart {s : State} {core : Nat} {m : MxCmd} (hm : (s.mx core).queue.find? (fun c => !c.started) = some m)
    (hbusy : (s.mx core).state = .busy) (hfrozen : s.frozen m.ctx = false) (hagent : s.agentBusy (.mx core) = false)
    (hmay : mxMayStart ((s.mx core).queue.takeWhile (fun c => c.started)) m = true) (hpend : m.fromSeq = true ∨ s.groupPending core m.slot = false) :
    (∀ c, s.mxBad core m = some c → exec (.mxCommandStart core) s = .next (s.mxFault core m c))
      ∧ (s.mxBad core m = none → exec (.mxCommandStart core) s =
          .next (if mwOp m.word = 0xE4 then s.mtileBegin core m else s.mxBegin core m (tileDescOf []) [])) := by
  have hgo : (m.fromSeq || !s.groupPending core m.slot) = true := by rcases hpend with h | h <;> simp [h]
  refine ⟨fun c hbad => ?_, fun hok => ?_⟩ <;> show execMxCommandStart core s = _
  · simp [execMxCommandStart, hm, hbusy, hfrozen, hagent, hmay, hgo, hbad]
  · simp [execMxCommandStart, hm, hbusy, hfrozen, hagent, hmay, hgo, hok]

/-- A command that starts with what `m` has, and with no translations. -/
def MxCmd.startedAs (m c : MxCmd) : MxCmd := { c with started := true, scale := m.scale, centre := m.centre, pages := [], desc := m.desc }

/-- An MSWAP has no addresses and no slot: it is marked started, and nothing else of the machine changes. -/
theorem State.mxBegin_mswap (s : State) (core : Nat) {m : MxCmd} (hop : mwOp m.word = 0xE2) (t : TileDesc) :
    s.mxBegin core m t [] = s.modMx core (fun x => { x with queue := listMod x.queue (fun c => c.id = m.id) m.startedAs }) := by
  have hranges : s.mxRanges core m t = ([], []) := by simp [State.mxRanges, hop]
  have hpages (acc : Nat) : s.mxPages core m acc [] [] = (some [], s) := rfl
  simp only [State.mxBegin, hranges, hpages, hop]
  rfl

/-- Where the commands of an id are changed to ones that have started, each that still has the id has started. -/
theorem started_of_mem_listMod {l : List MxCmd} {n : Nat} {f : MxCmd → MxCmd} (hf : ∀ c, (f c).started = true) {c : MxCmd}
    (hc : c ∈ listMod l (fun x => x.id = n) f) (hid : c.id = n) : c.started = true := by
  obtain ⟨x, -, rfl⟩ := List.mem_map.mp hc
  dsimp only at hid ⊢
  split
  · exact hf x
  · rename_i hx
    rw [if_neg hx] at hid
    exact absurd (decide_eq_true hid) hx

/-! ### The completion of a command (R94, R102, R134) -/

/-- Only registers, dictionary counters, sequencers and the scheduler's records changed. -/
def OnlyBooks (s t : State) : Prop := t = { s with regs := t.regs, od := t.od, seqs := t.seqs, pt := t.pt }

theorem OnlyBooks.trans {a b c : State} (h1 : OnlyBooks a b) (h2 : OnlyBooks b c) : OnlyBooks a c := by
  rw [OnlyBooks, h2, h1]

theorem OnlyBooks.cores {s t : State} (h : OnlyBooks s t) : t.cores = s.cores := by rw [h]

theorem OnlyBooks.sameBytes {s t : State} (h : OnlyBooks s t) : SameBytes s t := by
  rw [h]
  exact fun _ => ⟨rfl, rfl, rfl⟩

theorem State.setReg_onlyBooks (s : State) (a v : Nat) : OnlyBooks s (s.setReg a v) := rfl

theorem State.odSet_onlyBooks (s : State) (i j v : Nat) : OnlyBooks s (s.odSet i j v) := rfl

theorem State.coreEvent_onlyBooks (s : State) (slot code n : Nat) : OnlyBooks s (s.coreEvent slot code n) := by
  obtain ⟨h, -⟩ := s.coreEvent_only slot code n
  rw [h]
  rfl

theorem State.progress_onlyBooks (s : State) (k : Nat) : OnlyBooks s (s.progress k) := by
  rw [(s.progress_frame k).1]
  rfl

/-- What the array's timing leaves in the counters (R134). -/
theorem State.mxTimes_onlyBooks (s : State) (core : Nat) (m : MxCmd) (tm : MxTiming) : OnlyBooks s (s.mxTimes core m tm) := by
  unfold State.mxTimes
  exact (State.setReg_onlyBooks ..).trans <| (State.setReg_onlyBooks ..).trans <| (State.setReg_onlyBooks ..).trans <| (State.odSet_onlyBooks ..).trans <|
    (State.setReg_onlyBooks ..).trans <| (State.setReg_onlyBooks ..).trans <| (State.coreEvent_onlyBooks ..).trans <|
    (State.coreEvent_onlyBooks ..).trans <| State.coreEvent_onlyBooks ..

/-- A look whether the queue is empty changes the engine's state only (R130). -/
theorem State.mx_mxIdle (s : State) (core : Nat) : (s.mxIdle core).mx core = { s.mx core with state := ((s.mxIdle core).mx core).state } := by
  rw [State.mxIdle, State.mx_modMx]
  split <;> rfl

/-- An engine whose queue a command has left. -/
def Mx.leftBy (x : Mx) (id : Nat) : Mx := { x with queue := x.queue.filter (fun c => c.id ≠ id) }

/-- A change of an engine, with bookkeeping before and after it, is all that the engine sees. -/
theorem mx_after_modMx {s t u : State} {core : Nat} {f : Mx → Mx} (h1 : OnlyBooks s t) (h2 : OnlyBooks (t.modMx core f) u) :
    u.mx core = f (s.mx core) ∧ SameBytes s u := by
  refine ⟨?_, fun a => ?_⟩
  · rw [State.mx_of_cores h2.cores, State.mx_modMx, State.mx_of_cores h1.cores]
  · obtain ⟨hmem, hhost, hpoison⟩ := h2.sameBytes a
    obtain ⟨hmem', hhost', hpoison'⟩ := h1.sameBytes a
    exact ⟨hmem.trans hmem', hhost.trans hhost', hpoison.trans hpoison'⟩

/-- The oldest command, once started, takes what its run left, leaves the queue, and its engine may become idle: `u` is the state before that. Past
the run only counters, the issuer and the engine's queue change. -/
theorem exec_mxCommandComplete {s : State} {core : Nat} {m : MxCmd} {rest : List MxCmd} (hq : (s.mx core).queue = m :: rest) (hst : m.started = true)
    (hbusy : (s.mx core).state = .busy) (hfrozen : s.frozen m.ctx = false) (hrun : (s.mxRun core m).wait = false) (tm : MxTiming) :
    ∃ u, exec (.mxCommandComplete core tm) s = .next (u.mxIdle core)
      ∧ u.mx core = ((s.mxRun core m).st.mx core).leftBy m.id
      ∧ SameBytes (s.mxRun core m).st u := by
  have htimes := (s.mxRun core m).st.mxTimes_onlyBooks core m tm
  have hexec : exec (.mxCommandComplete core tm) s = execMxCommandComplete core tm s := rfl
  simp only [hexec, execMxCommandComplete, hq, hst, hbusy, hfrozen, hrun]
  refine ⟨_, rfl, mx_after_modMx (f := (·.leftBy m.id)) htimes ?_⟩
  have hissuer (t : State) (f : Seq → Seq) : OnlyBooks t (if m.fromSeq = true then t.modSeq (slotCl core) f else t) := by split <;> rfl
  split
  · exact (hissuer _ _).trans (State.progress_onlyBooks ..)
  · exact hissuer _ _

end Sys2Proof.Machine

namespace Sys2Proof

open Sys2Proof.Machine

/-! ### The statements -/

/-- Settles O15: a group's command enters by `State.mxGroup_enters`, a sequencer's by `State.mxStream_enters`; each engine of several takes its own by
`State.eachEnter_mx`. That fewer than 16 commands wait is the model's bound on a queue, whose entry frees at the start (log 23). -/
theorem matrixIssue : Obligations.MatrixIssue := by
  unfold Obligations.MatrixIssue
  refine ⟨?group, ?stream⟩
  case group =>
    intro s i word g p k w c spread m u enters hk huse hi hsb hon hroom
    obtain ⟨hissuing, -, -⟩ := id hi
    obtain ⟨hg, -, -⟩ := State.issuing_group hissuing
    have hgu : u.group i.core i.slot = some g := hg ▸ State.group_modMx ..
    have entered {x : Instr} {op : Nat} (hx : exec x s = .next (s.mxGroup i op word)) : enters x op := by
      intro hop
      refine ⟨u.retire i, hx.trans (congrArg _ (State.mxGroup_enters hop hk huse hi hsb hon hroom)), State.retire_laneResults hgu p, ?_⟩
      have hm : (u.retire i).mx i.core = m.entered c := (OnlyGroup.mx (u.retire_only i)).trans (State.mx_modMx ..)
      rw [hm]
      exact ⟨rfl, rfl⟩
    exact ⟨entered rfl, entered rfl, entered rfl, entered rfl, entered rfl⟩
  case stream =>
    intro s u cl w q on enters hw hd hroom
    have entered {x : Instr} {op : Nat} (hx : exec x s = .next (s.mxStream cl op)) : enters x op := by
      intro hr
      obtain ⟨v, f, ⟨hcores, hseqs⟩, hf, hv⟩ := State.mxStream_enters hr hw hroom
      have hseq : (v.each on (fun t x => t.mxEnter x.2 (mxOfSeq q x.1 w))).seq cl = q :=
        congrArg (·.getD cl {}) ((State.eachEnter_seqs on (fun n => mxOfSeq q n w) v).trans hseqs)
      obtain ⟨hpc, hloops, hs⟩ := hf q
      refine ⟨_, hx.trans (congrArg _ hv), ?pc, ?wait, ?s, fun e he => ⟨_, rfl, ?queue⟩⟩
      case pc =>
        rw [State.seqDone_seq, hseq]
        exact Seq.fall_pc_congr hpc hloops
      case wait => rw [State.seqDone_seq]; rfl
      case s =>
        rw [State.seqDone_seq, hseq]
        exact hs
      case queue =>
        rw [State.mx_of_cores (State.seqDone_cores ..), State.eachEnter_mx on (fun n => mxOfSeq q n w) hd he,
          State.mxPass_mx_of_core (State.core_of_cores hcores e.2)]
        rfl
    exact ⟨entered rfl, entered rfl, entered rfl, entered rfl, entered rfl⟩

/-- Settles O16: a group's wait by `State.mwaitGroup_acts`, a sequencer's by what a stream instruction that is done or waits leaves. -/
theorem matrixWaits : Obligations.MatrixWaits := by
  unfold Obligations.MatrixWaits
  refine ⟨?group, ?stream, ?groupEnd, ?streamEnd⟩
  case group =>
    intro s i word g p k hi hk huse hop hw hres
    obtain ⟨hg, -, -⟩ := State.issuing_group hi
    obtain ⟨h, hh, hregs, -, -, hstall, hsingle⟩ := State.retire_group hg
    refine ⟨_, congrArg Host.Outcome.next (State.mwaitGroup_acts hi hk huse hop hw hres), ?_⟩
    split
    · exact ⟨s.retire_only i, h, hh, hregs, hstall (State.issuing_paths hi), fun hs => (hsingle p hs).1⟩
    · exact ⟨OnlyGroup.trans (s.retire_only i) (State.modGroup_only ..), _, State.group_modGroup hh _, hregs, rfl, fun hs => (hsingle p hs).1⟩
  case stream =>
    intro s u cl w hr hw hres
    have hexec : exec (.mwait (.seq cl)) s =
        .next (if (u.seq cl).mwaitMet (mwImm w) then u.seqDone cl id else u.seqWaitAt cl (.mwait (mwImm w))) := by
      show Host.Outcome.next (s.mwaitSeq cl) = _
      simp [State.mwaitSeq, State.stream_runs hr, hw, hres]
    refine ⟨fun hmet => ?met, fun hunmet => ?unmet⟩
    case met =>
      rw [if_pos hmet] at hexec
      exact ⟨_, hexec, State.seqDone_onlySeq .., by rw [State.seqDone_seq]; rfl, by rw [State.seqDone_seq]; rfl⟩
    case unmet =>
      rw [hunmet, if_neg (by decide)] at hexec
      exact ⟨_, hexec, State.seqWaitAt_onlySeq .., State.seqWaitAt_seq ..⟩
  case groupEnd =>
    intro s core slot n g hg hstall hfrozen hout
    refine ⟨s.modGroup core slot (fun g => { g with stall := .none }), ?_, State.modGroup_only .., State.group_modGroup hg _⟩
    show execMwaitReturn (.group core slot) s = _
    simp [execMwaitReturn, hg, hstall, hfrozen, hout]
  case streamEnd =>
    intro s cl n hwait hlive hmet
    refine ⟨s.seqDone cl id, ?_, State.seqDone_onlySeq .., by rw [State.seqDone_seq]; rfl, by rw [State.seqDone_seq]; rfl⟩
    show execMwaitReturn (.seq cl) s = _
    simp [execMwaitReturn, hwait, hlive, hmet]

/-- Settles O17: a start by `exec_mxCommandStart` and, for MSWAP, `State.mxBegin_mswap`; a completion by `exec_mxCommandComplete`; the ramp down from the
command's two conditions. -/
theorem matrixCommands : Obligations.MatrixCommands := by
  unfold Obligations.MatrixCommands
  intro s core
  refine ⟨?start, ?complete, ?ramp⟩
  case start =>
    intro m hm hbusy hfrozen hagent hmay hpend
    obtain ⟨hfault, hbegin⟩ := exec_mxCommandStart hm hbusy hfrozen hagent hmay hpend
    refine ⟨hfault, fun hok hop => by rw [hbegin hok, if_pos hop], fun hok hop => by rw [hbegin hok, if_neg hop], fun hok hop => ?_⟩
    have hexec := hbegin hok
    have hne : mwOp m.word ≠ 0xE4 := by simp [hop]
    rw [if_neg hne, State.mxBegin_mswap s core hop] at hexec
    refine ⟨_, hexec, fun c hc => State.core_modMx_ne s _ hc, ?_, fun c hc => ?_⟩
    · simp [listMod]
    · rw [State.mx_modMx] at hc
      exact started_of_mem_listMod (fun _ => rfl) hc
  case complete =>
    intro m rest tm hq hst hbusy hfrozen
    have done (hrun : (s.mxRun core m).wait = false) := exec_mxCommandComplete hq hst hbusy hfrozen hrun tm
    refine ⟨?run, fun hop => ?mswap⟩
    case run =>
      intro r hrun
      obtain ⟨u, hexec, hu, -⟩ := done hrun
      refine ⟨_, hexec, ?_⟩
      dsimp only
      rw [State.mx_mxIdle, hu]
      exact ⟨rfl, rfl, rfl, rfl⟩
    case mswap =>
      have hr : s.mxRun core m = { st := s.modMx core Mx.swap } := by simp [State.mxRun, hop]
      obtain ⟨u, hexec, hu, hbytes⟩ := done (by rw [hr])
      rw [hr, State.mx_modMx] at hu
      rw [hr] at hbytes
      refine ⟨_, hexec, ?_⟩
      dsimp only
      rw [State.mx_mxIdle, hu]
      exact ⟨rfl, rfl, rfl, rfl, hbytes⟩
  case ramp =>
    intro hidle hoff
    have hany : (s.mx core).queue.any (fun x => x.started) = false := by simpa using hidle
    have hfv : ((s.core core).kernel.isSome && (s.core core).cur.fv40) = false := by rcases hoff with h | h <;> simp [h]
    have hexec : exec (.arrayRampDown core) s = .next (s.modMx core (fun m => { m with groupsOn := m.groupsOn - 1 })) := by
      show execArrayRampDown core s = _
      simp [execArrayRampDown, hany, hfv]
    exact ⟨_, hexec, rfl, fun c hc => State.core_modMx_ne s _ hc, State.mx_modMx ..⟩

end Sys2Proof
end

section
/-! SUPPORT. The densitometer and the slot table (04_number_formats.md R158, R160, R171, R172): a kernel's and a sequencer's records close, and the entry that
an accepted slot command writes; then the statement of the family 04_number_formats.md. -/

namespace Sys2Proof.Machine

/-! ### Records close (R158, R160) -/

/-- Once a kernel's blocks have all been placed and no core runs it, the close of its records leaves it with no slot to close. -/
theorem exec_densRecordClose {s : State} {kernel : Nat} {k : Kernel} (hk : s.kernel kernel = some k) (hstart : k.started = true)
    (hplaced : k.next = k.desc.gx * k.desc.gy * k.desc.gz) (hcores : ∀ c ∈ k.cores, (s.core c).kernel ≠ some kernel) :
    exec (.densRecordClose kernel) s = .next
      ((s.closeFor k.cl (fun s => s.each k.slots (fun t x => t.closeRecord k.part x k.ctx k.descVa k.status))).setKernel kernel { k with slots := [] }) := by
  have hover : (k.started && k.next = k.desc.gx * k.desc.gy * k.desc.gz && k.cores.all (fun c => (s.core c).kernel ≠ some kernel)) = true := by
    simpa [hstart, hplaced] using hcores
  show execDensRecordClose kernel s = _
  unfold execDensRecordClose
  rw [hk]
  exact if_pos hover

/-- A sequencer at an MWAIT 0 or at its END, with no matrix command outstanding, closes its records. -/
theorem exec_seqRecordClose {s : State} {cl : Nat} (hat : (s.seq cl).wait = .mwait 0 ∨ (s.seq cl).ended = true) (hout : (s.seq cl).mxOut = []) :
    exec (.seqRecordClose cl) s = .next (s.seqClose cl) := by
  show execSeqRecordClose cl s = _
  rcases hat with h | h <;> simp [execSeqRecordClose, h, hout]

/-- A sequencer that has closed its records has no core to write out and no slot to close. -/
theorem State.seqClose_densDone (s : State) (cl : Nat) : ((s.seqClose cl).seq cl).densDone = true := by
  simp [State.seqClose, Seq.densDone]

/-! ### Slot commands (R171, R172) -/

/-- Whether a slot command of an action is accepted (R172): reserved fields zero, a partition that exists, and for SET_CENTRE a centre in its range. -/
structure State.SlotTakes (s : State) (action v : Nat) : Prop where
  known : 1 ≤ action ∧ action ≤ 6
  reserved : bits v 55 51 = 0 ∧ bits v 47 42 = 0 ∧ bits v 31 24 = 0
  present : (s.part (bits v 50 48)).st ≠ .absent
  centre : action = 4 → -120 ≤ toSigned 8 (bits v 23 16) ∧ toSigned 8 (bits v 23 16) ≤ 120

/-- What each action makes of a slot's entry (R171). -/
def slotActed (e : List Byte) (v : Nat) : Nat → List Byte
  | 1 => putNat (putNat e 0 2 (bits v 15 0)) 2 1 0
  | 2 => slotBit e 31 1
  | 3 => putNat (slotBit (slotBit e 31 0) 30 0) 2 1 0
  | 4 => slotBit (putNat e 4 1 (bits v 23 16)) 29 1
  | 5 => slotBit e 29 0
  | _ => leBytes 2 0x3F80 ++ List.replicate 14 0

/-- An accepted slot command reads the slot's entry and writes it back as its action says, with the status OK. -/
theorem State.slotCommand_accepted {s : State} {action v : Nat} (h : s.SlotTakes action v) :
    s.slotCommand action v =
      let x := s.slotEntry (bits v 50 48) (bits v 41 32)
      (x.2.ownWrite (x.2.slotAddr (bits v 50 48) (bits v 41 32)) (slotActed x.1 v action), some stOk) := by
  obtain ⟨⟨hlo, hhi⟩, ⟨hr1, hr2, hr3⟩, hpart, hcentre⟩ := h
  have hrange : ¬ (action = 4 ∧ (toSigned 8 (bits v 23 16) < -120 ∨ 120 < toSigned 8 (bits v 23 16))) := by
    rintro ⟨ha, hc⟩
    have := hcentre ha
    omega
  unfold State.slotCommand
  dsimp only
  rw [if_neg (by simp [hr1, hr2, hr3, hpart, hrange]; omega)]
  obtain rfl | rfl | rfl | rfl | rfl | rfl : action = 1 ∨ action = 2 ∨ action = 3 ∨ action = 4 ∨ action = 5 ∨ action = 6 := by omega
  all_goals rfl

/-- A slot command that its path may write and that is accepted is answered OK, with the slot's entry written. -/
theorem State.odCmd_slotCommand {s : State} {p : Path} {action v : Nat} (hitem : TakesItem s p 0x4248 1) (h : s.SlotTakes action v) :
    s.odCmd p 0x4248 1 (fun t => t.slotCommand action v) =
      let x := s.slotEntry (bits v 50 48) (bits v 41 32)
      (x.2.ownWrite (x.2.slotAddr (bits v 50 48) (bits v 41 32)) (slotActed x.1 v action)).odReply p stOk := by
  rw [State.odCmd_acts hitem, State.slotCommand_accepted h]
  exact congrArg (State.odReply · p stOk) (if_pos rfl)

end Sys2Proof.Machine

namespace Sys2Proof

open Sys2Proof.Machine

/-! ### The statement -/

/-- Settles O18: a kernel's records by `exec_densRecordClose`, a sequencer's by `exec_seqRecordClose`; each slot command is `State.slotCommand` of its
action, which `State.odCmd_slotCommand` performs and answers. -/
theorem densitometerSlots : Obligations.DensitometerSlots := by
  unfold Obligations.DensitometerSlots
  refine ⟨?kernel, ?stream, ?command⟩
  case kernel =>
    intro s kernel k hk hstart hplaced hcores
    exact ⟨_, exec_densRecordClose hk hstart hplaced hcores, State.kernel_setKernel _⟩
  case stream =>
    intro s cl hat hout
    exact ⟨_, exec_seqRecordClose hat hout, s.seqClose_densDone cl⟩
  case command =>
    intro s p v w part slot x e writes hitem hr1 hr2 hr3 hpart
    have written {c : Instr} {action : Nat} (hx : exec c s = .next (s.odCmd p 0x4248 1 (fun t => t.slotCommand action w))) (hknown : 1 ≤ action ∧ action ≤ 6)
        (hcentre : action = 4 → -120 ≤ toSigned 8 (bits w 23 16) ∧ toSigned 8 (bits w 23 16) ≤ 120) : writes c (slotActed e w action) :=
      hx.trans (congrArg _ (State.odCmd_slotCommand hitem ⟨hknown, ⟨hr1, hr2, hr3⟩, hpart, hcentre⟩))
    refine ⟨?setScale, ?hold, ?release, fun hlo hhi => ?setCentre, ?clearCentre, ?reset⟩
    case setScale => exact written (action := 1) rfl (by decide) nofun
    case hold => exact written (action := 2) rfl (by decide) nofun
    case release => exact written (action := 3) rfl (by decide) nofun
    case setCentre => exact written (action := 4) rfl (by decide) fun _ => ⟨hlo, hhi⟩
    case clearCentre => exact written (action := 5) rfl (by decide) nofun
    case reset => exact written (action := 6) rfl (by decide) nofun

end Sys2Proof
end

section
/-! SUPPORT. Stream instructions (05_sequencers_streams.md): what one that is done leaves, loads and stores, launches and enqueues; then the statements of
the family 05_sequencers_streams.md that are about them. -/

namespace Sys2Proof.Machine

/-! ### A stream instruction that is done (R183, R186) -/

/-- A sequencer past an instruction that is done. -/
def Seq.done (q : Seq) : Seq := Seq.fall { q with wait := .none, state := .running }

@[simp] theorem Seq.done_csrc (q : Seq) : q.done.csrc = q.csrc := rfl
@[simp] theorem Seq.done_k (q : Seq) : q.done.k = q.k := rfl
@[simp] theorem Seq.done_pc (q : Seq) : q.done.pc = q.fall.pc := rfl
@[simp] theorem Seq.done_loops (q : Seq) : q.done.loops = q.fall.loops := rfl

theorem State.seqDone_done (u : State) (cl : Nat) (f : Seq → Seq) : (u.seqDone cl f).seq cl = (f (u.seq cl)).done := State.seqDone_seq ..

/-- An instruction that changes neither the PC nor the loops falls through, and touches its own sequencer only. -/
theorem State.seqDone_falls (u : State) (cl : Nat) {f : Seq → Seq} (hpc : (f (u.seq cl)).pc = (u.seq cl).pc)
    (hloops : (f (u.seq cl)).loops = (u.seq cl).loops) :
    ((u.seqDone cl f).seq cl).pc = (u.seq cl).fall.pc ∧ ((u.seqDone cl f).seq cl).loops = (u.seq cl).fall.loops
      ∧ ((u.seqDone cl f).seq cl).wait = .none ∧ OnlySeq u (u.seqDone cl f) cl := by
  rw [State.seqDone_done]
  refine ⟨?_, ?_, rfl, State.seqDone_onlySeq ..⟩
  · rw [Seq.done_pc, Seq.fall_pc_congr hpc hloops]
  · simp only [Seq.done_loops, Seq.fall, hpc, hloops]

/-- An instruction of `streamSet` writes its s-register, from the sequencer as it is once the word is fetched. -/
theorem State.streamSet_runs {s u : State} {cl op w : Nat} (h : Runs s cl op w u) (f : Seq → Nat → Nat) :
    s.streamSet cl op f = u.seqDone cl (fun q => q.setS (swD w) (f q w)) := State.stream_runs h _

/-- What writing an s-register reads back as, and what it leaves. -/
theorem Seq.setS_writes (q : Seq) (d v : Nat) : (q.setS d v).sreg d = v % 2 ^ 64 ∧ ∀ r, r ≠ d → (q.setS d v).sreg r = q.sreg r :=
  ⟨q.sreg_setS d v, fun _ hr => q.sreg_setS_ne v hr⟩

/-- The low field of a number. -/
theorem bits_low (x hi : Nat) : bits x hi 0 = x % 2 ^ (hi + 1) := rfl

/-! ### Bytes of the host's memory (06 R237) -/

theorem leBytes_length (n x : Nat) : (leBytes n x).length = n := by
  induction n generalizing x with
  | zero => rfl
  | succ n ih => simp [leBytes, ih]

/-- Byte `i` of a little-endian number. -/
theorem leBytes_getElem? (n x : Nat) {i : Nat} (h : i < n) : (leBytes n x)[i]? = some (BitVec.ofNat 8 (x / 256 ^ i)) := by
  induction n generalizing x i with
  | zero => omega
  | succ n ih =>
    cases i with
    | zero => simp [leBytes]
    | succ i => rw [leBytes, List.getElem?_cons_succ, ih _ (by omega), Nat.div_div_eq_div_mul, Nat.pow_succ']

/-- Bytes are written in order, the last one last. -/
theorem State.hostWrite_concat (s : State) (a : Nat) (bs : List Byte) (b : Byte) :
    s.hostWrite a (bs ++ [b]) = { s.hostWrite a bs with hostMem := (s.hostWrite a bs).hostMem.set (a + bs.length) 0 b } := by
  simp [State.hostWrite, List.range_succ, List.zip_append]

/-- A write of host memory writes exactly its bytes. -/
theorem State.hostByte_hostWrite (s : State) (a : Nat) (bs : List Byte) :
    (∀ i b, bs[i]? = some b → Memory.hostByte (s.hostWrite a bs) (a + i) = b)
      ∧ ∀ x, x < a ∨ a + bs.length ≤ x → Memory.hostByte (s.hostWrite a bs) x = Memory.hostByte s x := by
  obtain ⟨cs, rfl⟩ : ∃ cs, bs = List.reverse cs := ⟨bs.reverse, bs.reverse_reverse.symm⟩
  induction cs with
  | nil => exact ⟨by simp, fun _ _ => rfl⟩
  | cons b cs ih =>
    obtain ⟨hin, hout⟩ := ih
    rw [List.reverse_cons]
    generalize cs.reverse = bs at hin hout ⊢
    have hne {x : Nat} (hx : x ≠ a + bs.length) : Memory.hostByte (s.hostWrite a (bs ++ [b])) x = Memory.hostByte (s.hostWrite a bs) x := by
      rw [State.hostWrite_concat]
      exact SMap.getD_set_ne hx ..
    refine ⟨fun i c hc => ?_, fun x hx => ?_⟩
    · rcases Nat.lt_trichotomy i bs.length with hi | rfl | hi
      · rw [hne (by omega)]
        exact hin i c (by rwa [List.getElem?_append_left hi] at hc)
      · obtain rfl : b = c := by simpa using hc
        rw [State.hostWrite_concat]
        exact SMap.getD_set_self ..
      · rw [List.getElem?_eq_none (by simp; omega)] at hc
        cases hc
    · rw [List.length_append, List.length_singleton] at hx
      rw [hne (by omega), hout x (by omega)]

/-! ### LD and ST (R183) -/

/-- The instruction runs, and its address is aligned and translated: `v` is the state then. -/
structure State.SeqTranslates (s u v : State) (cl op w acc : Nat) (e : Xent) : Prop where
  runs : Runs s cl op w u
  aligned : (u.seq cl).ldAddr w % 8 = 0
  translated : u.xlateOr (.seq cl) (u.seq cl).ctx ((u.seq cl).ldAddr w) acc (u.seq cl).pc = (some e, v)

/-- The physical address that the address of an LD or ST translates to. -/
def Seq.ldPa (q : Seq) (w : Nat) (e : Xent) : Nat := e.out + (q.ldAddr w - e.va)

section
variable {s u v : State} {cl op w acc : Nat} {e : Xent}

theorem State.SeqTranslates.access (h : s.SeqTranslates u v cl op w acc e) (f : State → Nat → State → Nat → Xent → State) :
    s.stream cl op (fun t x => t.seqAccess cl x acc (f t x)) = f u w v ((u.seq cl).ldAddr w) e := by
  rw [State.stream_runs h.runs]
  simp [State.seqAccess, h.aligned, h.translated]

/-- An LD of host memory that succeeds. -/
theorem exec_ld_host (h : s.SeqTranslates u v cl 0x20 w accRead e) (he : e.host = true) {bs : List Byte}
    (hbs : v.hostRead ((u.seq cl).ldPa w e) 8 = some bs) : exec (.ld cl) s = .next (v.seqDone cl (·.setS (swD w) (leNat bs))) := by
  unfold Seq.ldPa at hbs
  refine congrArg Host.Outcome.next ((h.access _).trans ?_)
  simp [he, hbs]

/-- An LD of a register. -/
theorem exec_ld_reg (h : s.SeqTranslates u v cl 0x20 w accRead e) (he : e.host = false) {off : Nat}
    (hoff : v.decode ((u.seq cl).ldPa w e) = .reg off) :
    exec (.ld cl) s = .next ((v.regLoad off 8).2.seqDone cl (·.setS (swD w) (v.regLoad off 8).1)) := by
  unfold Seq.ldPa at hoff
  refine congrArg Host.Outcome.next ((h.access _).trans ?_)
  simp [he, hoff]

/-- An LD of device memory that neither waits nor falls where nothing decodes. -/
theorem exec_ld_mem (h : s.SeqTranslates u v cl 0x20 w accRead e) (he : e.host = false) (hreg : ∀ off, v.decode ((u.seq cl).ldPa w e) ≠ .reg off)
    {r : MemRes} (hr : v.readMem (seqWho (v.seq cl) cl e) e.hint ((u.seq cl).ldPa w e) 8 = r) (hwait : r.wait = false) (hundec : r.undec = none) :
    exec (.ld cl) s = .next ((r.st.metPoison (.seq cl) (v.seq cl).part (v.seq cl).ctx accRead (v.seq cl).pc (v.seq cl).queue
      ((u.seq cl).ldAddr w) ((u.seq cl).ldPa w e) r).seqDone cl (·.setS (swD w) (if r.poison ≠ [] then 0 else leNat r.data))) := by
  unfold Seq.ldPa at hreg hr ⊢
  refine congrArg Host.Outcome.next ((h.access _).trans ?_)
  -- the match on the region takes its last arm, by `hreg`
  simp only [he, hr, hwait, hundec, Option.isSome_none, Bool.false_eq_true, if_false]

theorem exec_st_host (h : s.SeqTranslates u v cl 0x21 w accWrite e) (he : e.host = true) :
    exec (.st cl) s = .next ((v.hostWrite ((u.seq cl).ldPa w e) (leBytes 8 ((v.seq cl).sreg (swB w)))).seqDone cl id) := by
  refine congrArg Host.Outcome.next ((h.access _).trans ?_)
  simp [he, Seq.ldPa]

theorem exec_st_reg (h : s.SeqTranslates u v cl 0x21 w accWrite e) (he : e.host = false) {off : Nat}
    (hoff : v.decode ((u.seq cl).ldPa w e) = .reg off) :
    exec (.st cl) s = .next ((v.regStore (.engine (v.seq cl).ctx) off 8 ((v.seq cl).sreg (swB w))).seqDone cl id) := by
  unfold Seq.ldPa at hoff
  refine congrArg Host.Outcome.next ((h.access _).trans ?_)
  simp [he, hoff]

/-- An ST to device memory that neither waits nor falls where nothing decodes. -/
theorem exec_st_mem (h : s.SeqTranslates u v cl 0x21 w accWrite e) (he : e.host = false) (hreg : ∀ off, v.decode ((u.seq cl).ldPa w e) ≠ .reg off)
    {r : MemRes} (hr : v.writeMem (seqWho (v.seq cl) cl e) e.hint (.owner cl) ((u.seq cl).ldPa w e) (leBytes 8 ((v.seq cl).sreg (swB w))) false = r)
    (hwait : r.wait = false) (hundec : r.undec = none) :
    exec (.st cl) s = .next ((r.st.metPoison (.seq cl) (v.seq cl).part (v.seq cl).ctx accWrite (v.seq cl).pc (v.seq cl).queue
      ((u.seq cl).ldAddr w) ((u.seq cl).ldPa w e) r).seqDone cl id) := by
  unfold Seq.ldPa at hreg hr ⊢
  refine congrArg Host.Outcome.next ((h.access _).trans ?_)
  -- the match on the region takes its last arm, by `hreg`
  simp only [he, hr, hwait, hundec, Option.isSome_none, Bool.false_eq_true, if_false]

end

/-- An access that met neither a status nor poison counts nothing. -/
theorem State.metPoison_of_clean {s : State} {a : Agent} {part ctx acc pc va pa : Nat} {q : Option Nat} {r : MemRes} (hstatus : r.status = none)
    (hpoison : r.poison = []) : s.metPoison a part ctx acc pc q va pa r = s := by
  simp [State.metPoison, hstatus, hpoison]

/-! ### Records of the reels (17 R656 to R658) -/

/-- Only registers, dictionary counters and what the observation unit holds changed. -/
def OnlyRecords (s t : State) : Prop := t = { s with regs := t.regs, od := t.od, obs := t.obs }

theorem State.reelCl_onlyRecords (s : State) (cl cls ty ctx a b c : Nat) : OnlyRecords s (s.reelCl cl cls ty ctx a b c) := by
  unfold State.reelCl State.reel
  extract_lets
  split
  · rfl
  · split <;> rfl

section
variable {s t : State} (h : OnlyRecords s t)
include h

theorem OnlyRecords.seqs : t.seqs = s.seqs := by rw [h]
theorem OnlyRecords.pt : t.pt = s.pt := by rw [h]
theorem OnlyRecords.obj : t.obj = s.obj := by rw [h]
theorem OnlyRecords.sameBytes : SameBytes s t := by
  rw [h]
  exact fun _ => ⟨rfl, rfl, rfl⟩

end

/-- A sequencer is what the state's sequencers list. -/
theorem State.seq_of_seqs {s t : State} (h : t.seqs = s.seqs) (c : Nat) : t.seq c = s.seq c := congrArg (·.getD c {}) h

theorem State.kernel_of_pt {s t : State} (h : t.pt = s.pt) (k : Nat) : t.kernel k = s.kernel k := congrArg (·.kernels.find k) h

theorem State.stepOf_of_pt {s t : State} (h : t.pt = s.pt) (k : Nat) : t.stepOf k = s.stepOf k := congrArg (·.steps.find k) h

/-! ### The launch of a kernel (R192 to R194) -/

/-- Where every value of a map is changed, the value at each key is. -/
theorem SMap.find_mapValues {α β : Type} (m : SMap α) (f : α → β) (k : Nat) : SMap.find (m.map (fun e => (e.1, f e.2))) k = (m.find k).map f := by
  induction m with
  | nil => rfl
  | cons e r ih =>
    simp only [List.map_cons, SMap.find, ih]
    split <;> rfl

@[simp] theorem State.setDuty_seqs (s : State) (cl n : Nat) : (s.setDuty cl n).seqs = s.seqs := by
  unfold State.setDuty
  dsimp only
  split <;> rfl

/-- A kernel that notes a low issue duty where it runs on a cluster (R529; 17 R653). -/
def Kernel.noteDuty (cl : Nat) (k : Kernel) : Kernel := if k.cl = cl then { k with dutyLow := true } else k

/-- A change of the issue duty leaves each kernel but for its note of a low duty. -/
theorem State.kernel_setDuty {s : State} {id : Nat} {k : Kernel} (h : s.kernel id = some k) (cl n : Nat) :
    ∃ low, (s.setDuty cl n).kernel id = some { k with dutyLow := low } := by
  by_cases hn : n < 16
  · have hmap : (s.setDuty cl n).kernel id = (s.kernel id).map (Kernel.noteDuty cl) := by
      unfold State.setDuty
      rw [if_pos hn]
      exact SMap.find_mapValues s.pt.kernels (Kernel.noteDuty cl) id
    rw [hmap, h, Option.map_some, Kernel.noteDuty]
    split
    · exact ⟨true, rfl⟩
    · exact ⟨k.dutyLow, rfl⟩
  · unfold State.setDuty
    rw [if_neg hn]
    exact ⟨k.dutyLow, h⟩

/-- A kernel recorded under the next number, in flight on its sequencer. -/
def State.recordKernel (s : State) (cl : Nat) (k : Kernel) : State :=
  { s with pt := { s.pt with kernels := s.pt.kernels.put s.pt.nextKernel k, nextKernel := s.pt.nextKernel + 1 } }.modSeq cl
    (fun q => { q with inFlight := q.inFlight ++ [s.pt.nextKernel] })

/-- A kernel that starts is recorded, and may lower its cluster's duty. -/
theorem State.startKernel_cases (s : State) (cl : Nat) (k : Kernel) :
    s.startKernel cl k = s.recordKernel cl k ∨ ∃ n, s.startKernel cl k = (s.recordKernel cl k).setDuty cl n := by
  unfold State.startKernel
  extract_lets
  split
  · exact .inl rfl
  · extract_lets
    split
    · exact .inl rfl
    · exact .inr ⟨_, rfl⟩

theorem State.seq_startKernel (s : State) (cl : Nat) (k : Kernel) :
    (s.startKernel cl k).seq cl = { s.seq cl with inFlight := (s.seq cl).inFlight ++ [s.pt.nextKernel] } := by
  have hrec : (s.recordKernel cl k).seq cl = { s.seq cl with inFlight := (s.seq cl).inFlight ++ [s.pt.nextKernel] } := State.seq_modSeq ..
  rcases s.startKernel_cases cl k with h | ⟨n, h⟩ <;> rw [h]
  · exact hrec
  · exact (State.seq_of_seqs (State.setDuty_seqs ..) cl).trans hrec

theorem State.kernel_startKernel (s : State) (cl : Nat) (k : Kernel) :
    ∃ low, (s.startKernel cl k).kernel s.pt.nextKernel = some { k with dutyLow := low } := by
  have hrec : (s.recordKernel cl k).kernel s.pt.nextKernel = some k := SMap.find_put_self ..
  rcases s.startKernel_cases cl k with h | ⟨n, h⟩ <;> rw [h]
  · exact ⟨_, hrec⟩
  · exact State.kernel_setDuty hrec ..

/-- The kernel that a LAUNCH records, from the bytes of its descriptor. -/
def Seq.launched (q : Seq) (t : State) (cl w : Nat) (b : List Byte) : Kernel :=
  { desc := t.resolveDesc q.part (kdescOf b), descVa := q.sreg (swA w) % 2 ^ 57, ctx := q.ctx, part := q.part, cl := cl, queue := q.queue.getD 0,
    num := q.launchNo + 1, mask := swImm w % 256, cores := t.maskSlots cl (swImm w % 256), occ := (kdescOf b).occ, rank := q.rank,
    dutyLow := decide (t.duty cl < 16) }

/-- The start of that kernel, which the cluster's reel may note. -/
def State.startLaunched (t : State) (cl w : Nat) (q : Seq) (b : List Byte) : State :=
  (t.startKernel cl (q.launched t cl w b)).reelCl cl 1 0x03 q.ctx (q.launchNo + 1) (q.sreg (swA w) % 2 ^ 57) (swImm w % 256)

section
variable (t : State) (cl w : Nat) (q : Seq) (b : List Byte)

theorem State.seq_startLaunched : (t.startLaunched cl w q b).seq cl = { t.seq cl with inFlight := (t.seq cl).inFlight ++ [t.pt.nextKernel] } :=
  (State.seq_of_seqs (State.reelCl_onlyRecords ..).seqs cl).trans (t.seq_startKernel ..)

theorem State.kernel_startLaunched : ∃ low, (t.startLaunched cl w q b).kernel t.pt.nextKernel = some { q.launched t cl w b with dutyLow := low } := by
  obtain ⟨low, h⟩ := t.kernel_startKernel cl (q.launched t cl w b)
  exact ⟨low, (State.kernel_of_pt (State.reelCl_onlyRecords ..).pt _).trans h⟩

end

/-- What a done instruction leaves of the kernels. -/
theorem State.kernel_seqDone (s : State) (cl : Nat) (f : Seq → Seq) (k : Nat) : (s.seqDone cl f).kernel k = s.kernel k := by
  obtain ⟨-, hpt, -⟩ := s.seqDone_onlySeq cl f
  exact congrArg (·.kernels.find k) hpt

/-- A LAUNCH that nothing holds, of a good descriptor on a present core: its kernel starts, and the instruction is done. -/
theorem exec_launch {s u : State} {cl w : Nat} {b : List Byte} (hr : Runs s cl 0x40 w u) (hroom : (u.seq cl).inFlight.length < 8)
    (hyield : (u.seq cl).yield = false) (hheld : u.launchHeld (u.seq cl).part = false) (hal : (u.seq cl).sreg (swA w) % 128 = 0) {t : State}
    (ht : (u.seqGet cl ((u.seq cl).sreg (swA w)) 128 true).st = t)
    (hdata : (u.seqGet cl ((u.seq cl).sreg (swA w)) 128 true).data = some b) (hgood : kdescBad ((u.seq cl).sreg (swA w)) b = false)
    (hcores : t.maskSlots cl (swImm w % 256) ≠ []) (hcompat : (kdescOf b).fv40 = true → (t.part (u.seq cl).part).compat = true) :
    exec (.launch cl) s = .next ((t.startLaunched cl w (u.seq cl) b).seqDone cl
      (fun q => { q.setS (swD w) ((u.seq cl).launchNo + 1) with launchNo := (u.seq cl).launchNo + 1 })) := by
  subst ht
  have hmode : ((kdescOf b).fv40 && !((u.seqGet cl ((u.seq cl).sreg (swA w)) 128 true).st.part (u.seq cl).part).compat) = false := by
    cases hf : (kdescOf b).fv40 with
    | false => rfl
    | true => simp [hcompat hf]
  refine congrArg Host.Outcome.next ((State.stream_runs hr _).trans ?_)
  simp only [Nat.not_le.mpr hroom, hyield, hheld, hal, hdata, hgood, hcores, hmode, Bool.or_self, Bool.false_eq_true, decide_false, ne_eq, not_true,
    if_false, Seq.launched, State.startLaunched]

/-- A LAUNCH where eight kernels are in flight waits at its instruction. -/
theorem exec_launch_ninth {s u : State} {cl w : Nat} (hr : Runs s cl 0x40 w u) (hfull : 8 ≤ (u.seq cl).inFlight.length) :
    exec (.launch cl) s = .next (u.seqWaitAt cl .launch8) :=
  congrArg Host.Outcome.next ((State.stream_runs hr _).trans (if_pos hfull))

/-- An ENQ that has a status writes it (R205). -/
theorem exec_enq {s u : State} {cl w st : Nat} (hr : Runs s cl 0x60 w u) {r : EnqRes}
    (he : u.enqueue (.seq cl) (u.seq cl).ctx ((u.seq cl).sreg (swA w) % 4096) ((u.seq cl).sreg (swB w) % 2 ^ 57) (u.seq cl).pc = r)
    (hst : r.status = some st) : exec (.enq cl) s = .next (r.st.seqDone cl (·.setS (swD w) st)) := by
  refine congrArg Host.Outcome.next ((State.stream_runs hr _).trans ?_)
  simp only [he, hst]

end Sys2Proof.Machine

namespace Sys2Proof

open Sys2Proof.Machine

/-! ### The statements -/

/-- Settles O1: each of these instructions is `State.streamSet` of the value that R183 names. -/
theorem streamArithmetic : Obligations.StreamArithmetic := by
  unfold Obligations.StreamArithmetic
  intro s u cl w q a b sets
  have set {c : Instr} {op v : Nat} {f : Seq → Nat → Nat} (hx : exec c s = .next (s.streamSet cl op f)) (hv : f q w = v) : sets c op v := by
    intro hr
    obtain ⟨hpc, hloops, -, honly⟩ := u.seqDone_falls cl (f := fun q => q.setS (swD w) (f q w)) rfl rfl
    obtain ⟨hd, hne⟩ := Seq.setS_writes q (swD w) v
    refine ⟨_, hx.trans (congrArg _ (State.streamSet_runs hr f)), ?_, ?_, ?_, hpc, hloops, honly⟩ <;> rw [State.seqDone_done]
    · exact hv ▸ hd
    · exact hv ▸ hne
    · rfl
  exact ⟨set rfl rfl, set rfl rfl, set rfl rfl, set rfl rfl, set rfl rfl, set rfl rfl, set rfl rfl, set rfl rfl, set rfl rfl, set rfl rfl, set rfl rfl⟩

/-- Settles O2: each of these instructions is done once it has changed its sequencer, by `State.seqDone_falls`. -/
theorem streamCounters : Obligations.StreamCounters := by
  unfold Obligations.StreamCounters
  intro s u cl w q a goes keepsS keepsC
  have h8 : bits (swX w) 2 0 = swX w % 8 := bits_low ..
  have h4 : bits (swX w) 1 0 = swX w % 4 := bits_low ..
  have done {c : Instr} {op : Nat} {f : State → Nat → Seq → Seq} {P : Seq → Prop}
      (hx : exec c s = .next (s.stream cl op (fun t v => t.seqDone cl (f t v)))) (hpc : (f u w q).pc = q.pc) (hl : (f u w q).loops = q.loops)
      (hP : P (f u w q).done) : goes c op P := fun hr =>
    ⟨_, hx.trans (congrArg _ (State.stream_runs hr _)), by rw [State.seqDone_done]; exact hP, u.seqDone_falls cl hpc hl⟩
  clear_value goes
  have set {c : Instr} {op v : Nat} {f : Seq → Nat → Nat} (hx : exec c s = .next (s.streamSet cl op f)) (hv : f q w % 2 ^ 64 = v) :
      goes c op (fun x => x.sreg (swD w) = v ∧ (∀ r, r ≠ swD w → x.sreg r = q.sreg r) ∧ keepsC x) := by
    obtain ⟨hd, hne⟩ := Seq.setS_writes q (swD w) (f q w)
    exact done (f := fun _ v q => q.setS (swD v) (f q v)) hx rfl rfl ⟨hd.trans hv, hne, rfl, rfl, rfl⟩
  refine ⟨?nop, ?rdts, fun l hl => ?lidx, ?crd, ?cset, ?cinc, ?kset, ?kstat, ?mxsel⟩
  case nop => exact done rfl rfl rfl ⟨rfl, rfl, rfl, rfl⟩
  case rdts => exact set rfl rfl
  case lidx => exact set rfl (by simp [hl])
  case crd => exact set rfl (by rw [h8, Nat.mod_eq_of_lt (q.ctr_lt _)])
  case cset =>
    refine done rfl rfl rfl ?_
    rw [h8, Seq.done_csrc]
    exact ⟨rfl, (q.ctr_setC ..).trans (Nat.mod_eq_of_lt (q.sreg_lt _)), SMap.getD_set_self .., rfl,
      fun i hi => ⟨q.ctr_setC_ne _ hi, SMap.getD_set_ne hi ..⟩⟩
  case cinc =>
    refine done rfl rfl rfl ?_
    rw [h8]
    exact ⟨rfl, q.ctr_setC .., rfl, rfl, fun i hi => q.ctr_setC_ne _ hi⟩
  case kset =>
    refine done rfl rfl rfl ?_
    simp only [h4, Seq.done_k]
    exact ⟨rfl, rfl, SMap.getD_set_self .., fun i hi => SMap.getD_set_ne hi ..⟩
  case kstat =>
    obtain ⟨hd, hne⟩ := Seq.setS_writes q (swD w) (q.kcount * 16 + q.kflags)
    exact done rfl rfl rfl ⟨hd, rfl, rfl, hne, rfl, rfl, rfl⟩
  case mxsel => exact done rfl rfl rfl ⟨rfl, ⟨rfl, rfl, rfl⟩, rfl, rfl⟩

/-- Settles O4: each of these instructions, and each end of a wait, chooses by its condition between `State.seqDone` and `State.seqWaitAt`. -/
theorem streamWaits : Obligations.StreamWaits := by
  unfold Obligations.StreamWaits
  intro s u cl w q passes stays
  have h4 : bits (swX w) 1 0 = swX w % 4 := bits_low ..
  have h8 : bits (swImm w) 2 0 = swImm w % 8 := bits_low ..
  have pass {c : Instr} {v : State} (hx : exec c s = .next (v.seqDone cl id)) : passes c v := by
    obtain ⟨hpc, -, hwait, honly⟩ := v.seqDone_falls cl (f := id) rfl rfl
    refine ⟨_, hx, hpc, hwait, ?_, ?_, ?_, honly⟩ <;> rw [State.seqDone_done] <;> rfl
  have stay {c : Instr} {why : SqWait} (hx : exec c s = .next (u.seqWaitAt cl why)) : stays c why :=
    ⟨_, hx, State.seqWaitAt_seq .., State.seqWaitAt_onlySeq ..⟩
  refine ⟨fun hr => ?kwait, fun hr => ?lwait, fun k hlive hwait hk => ?kwaitEnd, fun n hlive hwait hn => ?lwaitEnd⟩
  case kwait =>
    have hx : exec (.kwait cl) s = .next (if q.cmpTrue (swX w % 4) then u.seqDone cl id else u.seqWaitAt cl (.kwait (swX w % 4))) := by
      rw [← h4]
      exact congrArg _ (State.stream_runs hr _)
    exact ⟨fun hk => pass (by rw [hx, if_pos hk]), fun hk => stay (by rw [hx, if_neg (by simp [hk])])⟩
  case lwait =>
    have hx : exec (.lwait cl) s = .next (if q.inFlight.length ≤ swImm w % 8 then u.seqDone cl id else u.seqWaitAt cl (.lwait (swImm w % 8))) := by
      rw [← h8]
      exact congrArg _ (State.stream_runs hr _)
    exact ⟨fun hn => pass (by rw [hx, if_pos hn]), fun hn => stay (by rw [hx, if_neg (Nat.not_le.mpr hn)])⟩
  case kwaitEnd =>
    refine pass ?_
    show execKwaitEnd cl s = _
    simp [execKwaitEnd, hwait, hlive, hk]
  case lwaitEnd =>
    refine pass ?_
    show execLwaitEnd cl s = _
    simp [execLwaitEnd, hwait, hlive, hn]

/-- Settles O5: an LD is done by `exec_ld_host`, `exec_ld_reg` or `exec_ld_mem`, an ST by their counterparts, and `State.hostByte_hostWrite` says what an
ST leaves in the host's memory. -/
theorem streamLoadStore : Obligations.StreamLoadStore := by
  unfold Obligations.StreamLoadStore
  intro s u v cl w e va pa q falls takes
  have fall (x : State) {f : Seq → Seq} (hpc : (f (x.seq cl)).pc = (x.seq cl).pc) (hl : (f (x.seq cl)).loops = (x.seq cl).loops) :
      falls x (x.seqDone cl f) := by
    obtain ⟨hpc, -, hwait, honly⟩ := x.seqDone_falls cl hpc hl
    exact ⟨honly, hpc, hwait, by rw [State.seqDone_done]; rfl⟩
  have take {x : State} {n : Nat} (hx : exec (.ld cl) s = .next (x.seqDone cl (·.setS (swD w) n))) : takes x n := by
    obtain ⟨hd, hne⟩ := Seq.setS_writes (x.seq cl) (swD w) n
    refine ⟨_, hx, ?_, ?_, fall x rfl rfl⟩ <;> rw [State.seqDone_done]
    · exact hd
    · exact hne
  have store {x : State} (hx : exec (.st cl) s = .next (x.seqDone cl id)) : Gives (.st cl) s (fun t => falls x t) := ⟨_, hx, fall x rfl rfl⟩
  refine ⟨fun hr hal hx => ?ld, fun hr hal hx => ?st⟩
  case ld =>
    have h : s.SeqTranslates u v cl 0x20 w accRead e := ⟨hr, hal, hx⟩
    refine ⟨fun bs he hbs => take (exec_ld_host h he hbs), fun off he hoff => take (exec_ld_reg h he hoff), ?clean, ?poisoned⟩
    case clean =>
      intro r he hreg hwait hundec hstatus hpoison
      have hx := exec_ld_mem (r := r) h he hreg rfl hwait hundec
      rw [State.metPoison_of_clean hstatus hpoison, if_neg (not_not_intro hpoison)] at hx
      exact take hx
    case poisoned =>
      intro r he hreg hwait hundec hpoison
      have hx := exec_ld_mem (r := r) h he hreg rfl hwait hundec
      rw [if_pos hpoison] at hx
      exact take hx
  case st =>
    have h : s.SeqTranslates u v cl 0x21 w accWrite e := ⟨hr, hal, hx⟩
    refine ⟨fun he => ?host, fun off he hoff => store (exec_st_reg h he hoff), ?clean⟩
    case host =>
      obtain ⟨hin, hout⟩ := v.hostByte_hostWrite pa (leBytes 8 (q.sreg (swB w)))
      have hdone := fall (v.hostWrite pa (leBytes 8 (q.sreg (swB w)))) (f := id) rfl rfl
      obtain ⟨hframe, -⟩ := id hdone.1
      refine ⟨_, exec_st_host h he, hdone, ?_, fun n hn => ?_, fun a ha => ?_, fun a => ?_⟩
      · rw [State.seqDone_done]; rfl
      · exact (congrArg (·.hostMem.getD (pa + n) 0) hframe).trans (hin n _ (leBytes_getElem? 8 _ hn))
      · exact (congrArg (·.hostMem.getD a 0) hframe).trans (hout a (by rwa [leBytes_length]))
      · exact congrArg (·.mem.getD a 0) hframe
    case clean =>
      intro r he hreg hwait hundec hstatus hpoison
      have hx := exec_st_mem (r := r) h he hreg rfl hwait hundec
      rw [State.metPoison_of_clean hstatus hpoison] at hx
      exact store hx

/-- Settles O6: a LAUNCH that starts is `exec_launch`, whose kernel `State.kernel_startLaunched` finds; the ninth waits by `exec_launch_ninth`; an ENQ is
`exec_enq`. -/
theorem streamLaunches : Obligations.StreamLaunches := by
  unfold Obligations.StreamLaunches
  intro s u cl w q va g cores
  refine ⟨fun b hr hroom hyield hheld hal hdata _ hgood hcores hcompat => ?launch, fun hr hfull => ?ninth, fun st hr hst => ?enq⟩
  case launch =>
    have hexec := exec_launch hr hroom hyield hheld hal rfl hdata hgood hcores hcompat
    obtain ⟨low, hk⟩ := g.st.kernel_startLaunched cl w q b
    refine ⟨_, hexec, ?no, ?launchNo, ?inFlight, _, (State.kernel_seqDone ..).trans hk, ?kernel⟩
    case no => rw [State.seqDone_done]; exact Seq.sreg_setS ..
    case launchNo => rw [State.seqDone_done]; rfl
    case inFlight => rw [State.seqDone_done, State.seq_startLaunched]; rfl
    case kernel => exact ⟨rfl, rfl, rfl, rfl, rfl, rfl, rfl⟩
  case ninth => exact ⟨_, exec_launch_ninth hr hfull, State.seqWaitAt_seq .., State.seqWaitAt_onlySeq ..⟩
  case enq =>
    obtain ⟨hpc, -, -, honly⟩ := State.seqDone_falls (u.enqueue (.seq cl) q.ctx (q.sreg (swA w) % 4096) (q.sreg (swB w) % 2 ^ 57) q.pc).st cl
      (f := (·.setS (swD w) st)) rfl rfl
    refine ⟨_, exec_enq hr rfl hst, ?_, ?_, hpc, honly⟩ <;> rw [State.seqDone_done]
    · exact Seq.sreg_setS ..
    · exact fun n hn => Seq.sreg_setS_ne _ _ hn

end Sys2Proof
end

section
/-! SUPPORT. Steps on sequencers (05_sequencers_streams.md R178, R181, R207; 13_partitions_and_meter.md R512 to R514): their start, parking, resumption and
end; then the statement about them. -/

namespace Sys2Proof.Machine

/-! ### The record of a step -/

/-- A change of a step's record is read back. -/
theorem State.stepOf_modStep {s : State} {k : Nat} {r : StepRec} (h : s.stepOf k = some r) (f : StepRec → StepRec) :
    (s.modStep k f).stepOf k = some (f r) := by
  rw [State.modStep, h]
  exact State.stepOf_setStep ..

@[simp] theorem State.modStep_seqs (s : State) (k : Nat) (f : StepRec → StepRec) : (s.modStep k f).seqs = s.seqs := by
  rw [State.modStep_frame]

theorem State.modStep_sameBytes (s : State) (k : Nat) (f : StepRec → StepRec) : SameBytes s (s.modStep k f) := by
  rw [State.modStep_frame]
  exact fun _ => ⟨rfl, rfl, rfl⟩

theorem sameBytes_trans {a b c : State} (h1 : SameBytes a b) (h2 : SameBytes b c) : SameBytes a c := fun x => by
  obtain ⟨hmem, hhost, hpoison⟩ := h1 x
  obtain ⟨hmem', hhost', hpoison'⟩ := h2 x
  exact ⟨hmem'.trans hmem, hhost'.trans hhost, hpoison'.trans hpoison⟩

/-! ### The start of a step (R178) -/

/-- A sequencer that begins the stream of its step. -/
def Seq.started (q : Seq) (r : StepRec) : Seq :=
  { state := .running,
    s := SMap.set (SMap.set (SMap.set (SMap.set [] 0 0 (BitVec.ofNat 64 q.rank)) 1 0 (BitVec.ofNat 64 (q.placed + 1))) 2 0 (BitVec.ofNat 64 q.stepVa))
      3 0 (BitVec.ofNat 64 r.arg),
    pc := r.stream, queue := q.queue, ctx := q.ctx, part := q.part, stepVa := q.stepVa, rank := q.rank, placed := q.placed, yield := q.yield,
    nextMx := q.nextMx }

/-- What the s-registers of a started sequencer hold: its place in the step, the step's address and argument, and zero above. -/
theorem Seq.sreg_started (q : Seq) (r : StepRec) :
    (q.started r).sreg 0 = q.rank % 2 ^ 64 ∧ (q.started r).sreg 1 = (q.placed + 1) % 2 ^ 64 ∧ (q.started r).sreg 2 = q.stepVa % 2 ^ 64
      ∧ (q.started r).sreg 3 = r.arg % 2 ^ 64 ∧ ∀ n, 4 ≤ n → (q.started r).sreg n = 0 := by
  refine ⟨?_, ?_, ?_, ?_, fun n hn => ?_⟩
  · simp [Seq.sreg, Seq.started, SMap.getD_set_ne]
  · simp [Seq.sreg, Seq.started, SMap.getD_set_ne]
  · simp [Seq.sreg, Seq.started, SMap.getD_set_ne]
  · simp [Seq.sreg, Seq.started]
  · have h0 : n ≠ 0 := by omega
    have h1 : n ≠ 1 := by omega
    have h2 : n ≠ 2 := by omega
    have h3 : n ≠ 3 := by omega
    simp [Seq.sreg, Seq.started, SMap.getD_set_ne, h0, h1, h2, h3, SMap.getD]

/-- A sequencer joins those of its step that have begun. -/
def StepRec.woken (cl now : Nat) (r : StepRec) : StepRec := { r with awake := r.awake ++ [cl], lastProgress := now }

theorem exec_stepStart {s : State} {cl k : Nat} {r : StepRec} (hq : (s.seq cl).queue = some k) (hstep : s.seqStep cl = some r)
    (hst : r.st = .running ∨ r.st = .yielding) (hfrozen : s.frozen r.ctx = false) (hslot : r.slot = none)
    (hidle : (s.seq cl).state = .idle ∨ (s.seq cl).state = .parked) (hawake : cl ∉ r.awake) :
    exec (.stepStart cl) s = .next (((s.setSeq cl ((s.seq cl).started r)).modStep k (StepRec.woken cl s.now)).reelCl cl 0 0x01 (s.seq cl).ctx k
      (s.seq cl).stepVa ((s.seq cl).placed * 16 + (s.seq cl).rank)) := by
  show execStepStart cl s = _
  simp only [execStepStart, hq, hstep]
  rw [if_pos (by simp [hst, hfrozen, hslot, hidle, hawake])]
  simp only [Seq.started, hq]
  rfl

/-! ### Parking and resuming (R207; 13 R512 to R514) -/

/-- A sequencer that has parked keeps nothing in flight. -/
def Seq.parked (q : Seq) : Seq := { q with state := .parked, wait := .none, yield := false, inFlight := [], densCores := [], densSlots := [] }

/-- An operation that leaves the state for each of a list leaves it for the whole list. -/
theorem State.each_eq_self {α : Type} {s : State} {l : List α} {f : State → α → State} (h : ∀ x ∈ l, f s x = s) : s.each l f = s := by
  unfold State.each
  induction l with
  | nil => rfl
  | cons x r ih =>
    rw [List.foldl_cons, h x List.mem_cons_self]
    exact ih fun y hy => h y (List.mem_cons_of_mem x hy)

/-- A drain record without its valid bit relaunches nothing. -/
theorem State.relaunch_of_invalid {b : List Byte} (h : bit (sliceNat b 0 8) 63 = false) (s : State) (cl : Nat) : s.relaunch cl b = s := by
  simp [State.relaunch, h]

/-- What each step of a fold over a sequencer keeps, the fold keeps. -/
theorem Seq.foldl_keeps {α β : Type} (g : Seq → β) {f : Seq → α → Seq} (h : ∀ q x, g (f q x) = g q) (l : List α) (q : Seq) :
    g (l.foldl f q) = g q := by
  induction l generalizing q with
  | nil => rfl
  | cons x r ih => rw [List.foldl_cons, ih, h]

/-- A sequencer that its image describes runs, from the PC that the image holds. -/
theorem seqOfImage_runs (q : Seq) (b : List Byte) (src : SMap Nat) (dens : List Nat) :
    (seqOfImage q b src dens).pc = sliceNat b 0x1A0 8 ∧ (seqOfImage q b src dens).state = .running := by
  unfold seqOfImage
  extract_lets pc depth full level q0 q1 q2
  have hkeeps {β : Type} (g : Seq → β) (hs : ∀ q n v, g (Seq.setS q n v) = g q) (hc : ∀ q n v, g (Seq.setC q n v) = g q) : g q2 = g q0 :=
    (Seq.foldl_keeps g (fun _ _ => hc ..) _ q1).trans (Seq.foldl_keeps g (fun _ _ => hs ..) _ q0)
  have hpc : q2.pc = q0.pc := hkeeps Seq.pc (fun _ _ _ => rfl) (fun _ _ _ => rfl)
  have hstate : q2.state = q0.state := hkeeps Seq.state (fun _ _ _ => rfl) (fun _ _ _ => rfl)
  clear_value q2
  exact ⟨hpc, hstate⟩

/-- The records of the kernels that a parking sequencer has in flight. -/
def State.parkRecords (s : State) (cl : Nat) : List Byte := ((s.seq cl).inFlight.filterMap (fun x => s.kernel x)).flatMap drainRecord

/-- The state once a parking sequencer's image is written and its kernels and densitometer sets are off their cores. -/
def State.parkWritten (s : State) (cl sl part : Nat) : State :=
  let a := s.ownWrite (s.parkAddr part sl (s.seq cl).rank)
    ((s.seq cl).image ++ s.parkRecords cl ++ List.replicate (256 - (s.parkRecords cl).length) 0)
  (a.each (s.seq cl).inFlight (fun t x => t.liftKernel x)).each (s.seq cl).densCores (fun t c => t.densFlush c)

/-- That state with the sequencer PARKED, and what its image does not hold kept with the step. -/
def State.seqParked (s : State) (cl k sl : Nat) (r : StepRec) : State :=
  let b := s.parkWritten cl sl r.part
  (b.modSeq cl Seq.parked).modStep k (fun x => { x with
    parkSrc := x.parkSrc.put (s.seq cl).rank (s.seq cl).csrc, parkDens := x.parkDens.put (s.seq cl).rank (b.seq cl).densSlots })

theorem State.seq_seqParked (s : State) (cl k sl : Nat) (r : StepRec) :
    (s.seqParked cl k sl r).seq cl = ((s.parkWritten cl sl r.part).seq cl).parked :=
  (State.seq_of_seqs (State.modStep_seqs ..) cl).trans (State.seq_modSeq ..)

/-- A sequencer that may park writes its image with its drain records, lets its kernels and sets go, and is PARKED; the last of its step parks the step. -/
theorem exec_seqPark {s : State} {cl k sl : Nat} {r : StepRec} (hq : (s.seq cl).queue = some k) (hstep : s.seqStep cl = some r) (hslot : r.slot = some sl)
    (hst : r.st = .yielding) (hfrozen : s.frozen r.ctx = false) (hmay : s.mayPark cl r = true) {u : State} {x : StepRec}
    (hu : s.seqParked cl k sl r = u) (hx : u.stepOf k = some x) :
    exec (.seqPark cl) s = .next (if x.cls.all (fun c => (u.seq c).state = .parked) then u.stepParked k x else u) := by
  subst hu
  have hgo : (r.st = .yielding && !s.frozen r.ctx && s.mayPark cl r) = true := by simp [hst, hfrozen, hmay]
  show execSeqPark cl s = _
  simp only [execSeqPark, hq, hstep, hslot, hgo, if_true]
  split
  · next y hy =>
    obtain rfl : y = x := Option.some.inj (hy.symm.trans hx)
    rfl
  · next hy => cases hy.symm.trans hx

/-- A sequencer joins those of its step that have resumed; the last frees the step's park slot. -/
def StepRec.resumed (cl now : Nat) (r : StepRec) : StepRec :=
  { r.woken cl now with slot := if r.awake.length + 1 = r.cls.length then none else r.slot }

/-- A sequencer whose image is read, and holds no drain record, has the image's state. -/
theorem exec_seqResume {s t : State} {cl k sl : Nat} {r : StepRec} {b : List Byte} (hq : (s.seq cl).queue = some k) (hstep : s.seqStep cl = some r)
    (hslot : r.slot = some sl) (hst : r.st = .running ∨ r.st = .yielding) (hfrozen : s.frozen r.ctx = false)
    (hidle : (s.seq cl).state = .idle ∨ (s.seq cl).state = .parked) (hawake : cl ∉ r.awake) (hheld : s.launchHeld (s.seq cl).part = false)
    (hread : s.ownRead (s.parkAddr r.part sl (s.seq cl).rank) 0x300 = (b, none, t))
    (hrecs : ∀ i, i < 8 → bit (sliceNat (slice b (0x200 + 32 * i) 32) 0 8) 63 = false) :
    exec (.seqResume cl) s = .next ((t.setSeq cl (seqOfImage (s.seq cl) b (r.parkSrc.getD (s.seq cl).rank []) (r.parkDens.getD (s.seq cl).rank []))).modStep k
      (StepRec.resumed cl t.now)) := by
  have hgo : ((r.st = .running || r.st = .yielding) && !s.frozen r.ctx && ((s.seq cl).state = .idle || (s.seq cl).state = .parked)
      && !r.awake.contains cl && !s.launchHeld (s.seq cl).part) = true := by simp [hst, hfrozen, hidle, hawake, hheld]
  show execSeqResume cl s = _
  unfold execSeqResume
  -- The image's read is taken apart by cases: rewriting with `hread` would have the kernel evaluate a read of 0x300 bytes.
  extract_lets q
  split
  · next k' r' hk hr =>
    obtain rfl : k = k' := Option.some.inj (hq.symm.trans hk)
    obtain rfl : r = r' := Option.some.inj (hstep.symm.trans hr)
    split
    · next hn => cases hslot.symm.trans hn
    · next sl' hsl =>
      obtain rfl : sl = sl' := Option.some.inj (hslot.symm.trans hsl)
      rw [if_pos hgo]
      split
      next b' st t' h =>
      cases h.symm.trans hread
      exact congrArg Host.Outcome.next (State.each_eq_self fun i hi => State.relaunch_of_invalid (hrecs i (List.mem_range.mp hi)) _ _)
  · next hn => exact absurd hstep (hn k r hq)

/-! ### The end of a step (R181) -/

/-- The sequencers, and what each queue holds, stand as before. -/
def SameHeld (s t : State) : Prop := t.seqs = s.seqs ∧ ∀ k, (t.queue k).held = (s.queue k).held

namespace SameHeld

theorem of_obj {s t : State} (hseqs : t.seqs = s.seqs) (hobj : t.obj = s.obj) : SameHeld s t :=
  ⟨hseqs, fun k => congrArg (fun o : Objects => (o.queues.getD k {}).held) hobj⟩

theorem refl (s : State) : SameHeld s s := of_obj rfl rfl

theorem trans {s t u : State} (h1 : SameHeld s t) (h2 : SameHeld t u) : SameHeld s u := by
  obtain ⟨hseqs, hheld⟩ := h1
  obtain ⟨hseqs', hheld'⟩ := h2
  exact ⟨hseqs'.trans hseqs, fun k => (hheld' k).trans (hheld k)⟩

theorem ite {s t u : State} {c : Prop} [Decidable c] (ht : SameHeld s t) (hu : SameHeld s u) : SameHeld s (if c then t else u) := by
  split
  · exact ht
  · exact hu

theorem modStep (s : State) (k : Nat) (f : StepRec → StepRec) : SameHeld s (s.modStep k f) := by
  rw [State.modStep_frame]
  exact of_obj rfl rfl

theorem modQueue (s : State) (k : Nat) {f : Queue → Queue} (hf : ∀ q, (f q).held = q.held) : SameHeld s (s.modQueue k f) := by
  refine ⟨rfl, fun n => ?_⟩
  by_cases hn : n = k
  · rw [hn, State.queue_modQueue, hf]
  · rw [State.queue_modQueue_ne _ hn]

theorem reelCl (s : State) (cl cls ty ctx a b c : Nat) : SameHeld s (s.reelCl cl cls ty ctx a b c) :=
  have h := s.reelCl_onlyRecords cl cls ty ctx a b c
  of_obj h.seqs h.obj

theorem accountRt (s : State) (k : Nat) : SameHeld s (s.accountRt k) := by
  unfold State.accountRt
  split
  · exact refl s
  · dsimp only
    split <;> exact of_obj rfl rfl

theorem stepTime (s : State) (k : Nat) : SameHeld s (s.stepTime k) := by
  unfold State.stepTime
  split
  · exact refl s
  · exact of_obj rfl rfl

theorem stepLeave (s : State) (k : Nat) : SameHeld s (s.stepLeave k) := by
  unfold State.stepLeave
  split
  · exact refl s
  · extract_lets t us u pt v w
    have ht : SameHeld s t := (accountRt s k).trans (stepTime _ k)
    have hu : SameHeld t u := modQueue t k fun _ => rfl
    have hv : SameHeld u v := of_obj rfl rfl
    have hw : SameHeld v w := ite (of_obj rfl rfl) (refl v)
    exact ht.trans <| hu.trans <| hv.trans <| hw.trans (modStep w k _)

theorem learnedPut (s : State) (l : Learned) : SameHeld s (s.learnedPut l) := by
  unfold State.learnedPut
  extract_lets
  split <;> exact of_obj rfl rfl

theorem observe (s : State) (kind p cls : Nat) (e d : Rat) : SameHeld s (s.observe kind p cls e d) := by
  unfold State.observe
  extract_lets
  split <;> exact learnedPut ..

end SameHeld

/-- Sequencers that go to IDLE leave what the queues hold. -/
theorem State.held_eachIdle (l : List Nat) (s : State) (k : Nat) : ((s.each l (fun t c => t.seqIdle c)).queue k).held = (s.queue k).held :=
  State.each_rel (f := fun t c => t.seqIdle c) (I := fun a b => (b.queue k).held = (a.queue k).held) (fun _ => rfl) (fun h1 h2 => h2.trans h1)
    (fun _ _ _ => rfl) s

/-- A sequencer that has left its step. -/
def Seq.Left (q : Seq) : Prop := q.queue = none ∧ (q.state = .idle ∨ q.state = .off)

theorem State.left_seqIdle (s : State) (cl : Nat) : ((s.seqIdle cl).seq cl).Left := by
  rw [State.seqIdle, State.seq_modSeq]
  refine ⟨rfl, ?_⟩
  dsimp only
  split
  · exact .inl rfl
  · exact .inr rfl

/-- Every sequencer of a list has left its step once each has gone to IDLE. -/
theorem State.left_eachIdle (l : List Nat) (s : State) : ∀ c ∈ l, ((s.each l (fun t c => t.seqIdle c)).seq c).Left := by
  have hkeeps (t : State) (x c : Nat) (h : (t.seq c).Left) : ((t.seqIdle x).seq c).Left := by
    by_cases hc : c = x
    · exact hc ▸ State.left_seqIdle ..
    · rwa [State.seqIdle, State.seq_modSeq_ne _ hc]
  induction l generalizing s with
  | nil => exact nofun
  | cons x r ih =>
    intro c hc
    rcases List.mem_cons.mp hc with rfl | hc
    · exact State.each_rel (f := fun t c => t.seqIdle c) (I := fun a b => (a.seq c).Left → (b.seq c).Left) (fun _ => id) (fun h1 h2 => h2 ∘ h1)
        (fun t y _ => hkeeps t y c) (s.seqIdle c) (s.left_seqIdle c)
    · exact ih (s.seqIdle x) c hc

/-- The held entry of a queue, once it is over, is done with the status it is given, unless it was done before. -/
theorem State.held_endHeld {s : State} {k : Nat} {h : Held} (hh : (s.queue k).held = some h) (hphase : ∀ c, h.phase ≠ .done c) (st : Nat) (quiet : Bool) :
    ∃ x, ((s.endHeld k st quiet).queue k).held = some x ∧ x.phase = .done st := by
  rw [State.endHeld, State.queue_modQueue]
  refine ⟨_, congrArg (Option.map _) hh, ?_⟩
  dsimp only
  split
  · next c hc => exact absurd hc (hphase c)
  · rfl

/-- A step that is over on every sequencer of its placement: the sequencers, of which reels may note the end, go to IDLE, and once the step has left its
clusters and is observed its entry is over. -/
theorem exec_stepEnd {s : State} {k : Nat} {r : StepRec} (hr : s.stepOf k = some r) (hst : r.st = .running ∨ r.st = .yielding) (hcls : r.cls ≠ [])
    (hover : ∀ c ∈ r.cls, s.partOver r c = true) :
    ∃ v u, exec (.stepEnd k) s = .next (u.endHeld k r.status false) ∧ SameHeld s v ∧ SameHeld (v.each r.cls (fun t c => t.seqIdle c)) u := by
  have hgo : ((r.st = .running || r.st = .yielding) && r.cls ≠ [] && r.cls.all (fun c => s.partOver r c)) = true := by
    simp [hst, hcls, List.all_eq_true.mpr hover]
  show ∃ v u, execStepEnd k s = _ ∧ _
  unfold execStepEnd
  split
  · next hn => cases hr.symm.trans hn
  · next r' hr' =>
    obtain rfl : r = r' := Option.some.inj (hr.symm.trans hr')
    rw [if_pos hgo]
    extract_lets v w x o y z
    have hx : SameHeld w x := SameHeld.stepLeave w k
    have hy : SameHeld x y := SameHeld.ite (SameHeld.observe ..) (SameHeld.refl x)
    have hz : SameHeld y z := SameHeld.ite (SameHeld.of_obj rfl rfl) (SameHeld.refl y)
    exact ⟨v, _, rfl, State.each_rel SameHeld.refl SameHeld.trans (fun _ _ _ => SameHeld.reelCl ..) s,
      hx.trans <| hy.trans <| hz.trans (SameHeld.modStep z k _)⟩

end Sys2Proof.Machine

namespace Sys2Proof

open Sys2Proof.Machine

/-- Settles O19: a start by `exec_stepStart`, a parking by `exec_seqPark`, a resumption by `exec_seqResume` and `seqOfImage_runs`, and an end by
`exec_stepEnd`, after which each sequencer of the placement has left the step and the held entry is done. What parking and resuming keep beside the image,
and how the image packs, are log 27's. -/
theorem sequencerSteps : Obligations.SequencerSteps := by
  unfold Obligations.SequencerSteps
  intro s cl k r q
  refine ⟨?start, fun sl hq hstep hslot hst hfrozen hmay => ?park, ?resume, ?done⟩
  case start =>
    intro hq hstep hr hst hfrozen hslot hidle hawake
    have hreel := ((s.setSeq cl (q.started r)).modStep k (StepRec.woken cl s.now)).reelCl_onlyRecords cl 0 0x01 q.ctx k q.stepVa (q.placed * 16 + q.rank)
    have hseqs := hreel.seqs.trans (State.modStep_seqs ..)
    have hseq := (State.seq_of_seqs hseqs cl).trans (State.seq_setSeq ..)
    obtain ⟨h0, h1, h2, h3, hrest⟩ := Seq.sreg_started q r
    refine ⟨_, exec_stepStart hq hstep hst hfrozen hslot hidle hawake, ?_⟩
    dsimp only
    rw [hseq]
    refine ⟨rfl, rfl, rfl, rfl, h0, h1, h2, h3, hrest, fun _ => rfl, fun c hc => ?_, ?_, ?_⟩
    · exact (State.seq_of_seqs hseqs c).trans (State.seq_setSeq_ne _ hc)
    · exact (State.stepOf_of_pt hreel.pt k).trans (State.stepOf_modStep (s := s.setSeq cl (q.started r)) hr _)
    · exact sameBytes_trans (State.modStep_sameBytes (s.setSeq cl (q.started r)) k _) hreel.sameBytes
  case park =>
    have hseq := s.seq_seqParked cl k sl r
    intro recs a b c u
    have hu : s.seqParked cl k sl r = u := rfl
    rw [hu] at hseq
    exact ⟨congrArg Seq.state hseq, congrArg Seq.inFlight hseq, congrArg Seq.yield hseq, fun x hx => exec_seqPark hq hstep hslot hst hfrozen hmay hu hx⟩
  case resume =>
    intro sl hq hstep hslot hst hfrozen hidle hawake hheld y hstat hrecs
    have hread : s.ownRead (s.parkAddr r.part sl q.rank) 0x300 = y := rfl
    clear_value y
    obtain ⟨b, st, t⟩ := y
    obtain rfl : st = none := hstat
    have hexec := exec_seqResume hq hstep hslot hst hfrozen hidle hawake hheld hread hrecs
    obtain ⟨hpc, hrun⟩ := seqOfImage_runs q b (r.parkSrc.getD q.rank []) (r.parkDens.getD q.rank [])
    have hseqs := (t.setSeq cl (seqOfImage q b (r.parkSrc.getD q.rank []) (r.parkDens.getD q.rank []))).modStep_seqs k (StepRec.resumed cl t.now)
    have hseq := (State.seq_of_seqs hseqs cl).trans (State.seq_setSeq ..)
    rw [← hseq] at hpc hrun
    exact ⟨_, hexec, hseq, hpc, hrun, fun c hc => (State.seq_of_seqs hseqs c).trans (State.seq_setSeq_ne _ hc)⟩
  case done =>
    intro hr hst hcls hover
    obtain ⟨v, u, hexec, hv, hseqs, hheld⟩ := exec_stepEnd hr hst hcls hover
    refine ⟨_, hexec, fun c hc => ?left, fun h hh hphase => ?entry⟩
    case left =>
      have hleft := State.left_eachIdle r.cls v c hc
      rwa [← State.seq_of_seqs hseqs c] at hleft
    case entry =>
      have hheld : (u.queue k).held = some h := (hheld k).trans <| (State.held_eachIdle ..).trans <| (hv.2 k).trans hh
      exact State.held_endHeld hheld hphase r.status false

end Sys2Proof
end

section
/-! SUPPORT. Fences of threads, store buffers and cluster caches (06_memory_ordering.md R219 to R227, R237, R238, R258; 07_caches_and_tank.md R265,
R274 to R277): what a release closes and waits for, what a drain and the limit of a teardown leave, when a cluster cache has lost a line, and the bits of
its ways; then the statements about them. -/

namespace Sys2Proof.Machine

/-! ### A group that falls through (02 R70, R73) -/

/-- From `u` to `t` a group of one path fell through: nothing but the group was touched, its registers stayed, and it waits as `st` says. -/
def State.FellThrough (u t : State) (i : Issue) (g : Group) (p : PathSt) (st : Stall) : Prop :=
  OnlyGroup u t i.core i.slot
    ∧ ∃ h, t.group i.core i.slot = some h ∧ h.paths = [{ p with pc := i.next }] ∧ h.regs = g.regs ∧ h.stall = st

theorem State.retire_fellThrough {s : State} {i : Issue} {g : Group} {p : PathSt} (hg : s.group i.core i.slot = some g) (hs : Single g p) :
    State.FellThrough s (s.retire i) i g p .none := by
  obtain ⟨h, hgroup, hregs, -, -, hstall, hpaths⟩ := State.retire_group hg
  have hne : g.paths ≠ [] := by simp [hs.1]
  exact ⟨s.retire_only i, h, hgroup, (hpaths p hs).1, hregs, hstall hne⟩

theorem State.FellThrough.stallGroup {u t : State} {i : Issue} {g : Group} {p : PathSt} {st : Stall} (h : State.FellThrough u t i g p st) (st' : Stall) :
    State.FellThrough u (t.stallGroup i st') i g p st' := by
  obtain ⟨honly, x, hgroup, hpaths, hregs, -⟩ := h
  exact ⟨OnlyGroup.trans honly (State.modGroup_only ..), _, State.group_modGroup hgroup _, hpaths, hregs, rfl⟩

/-! ### What a release closes, and what it waits for (06 R225 to R227) -/

/-- A group is no part of its core's store buffer. -/
@[simp] theorem State.group_closeGroup (s : State) (core slot c k : Nat) : (s.closeGroup core slot).group c k = s.group c k := by
  rw [State.group, State.group, State.closeGroup]
  by_cases hc : c = core
  · rw [hc, State.core_modCore]
  · rw [State.core_modCore_ne _ hc]

/-- Where one group alone was touched, the entries that a release closes are the same. -/
theorem OnlyGroup.closeGroup {s t : State} {core slot : Nat} (h : OnlyGroup s t core slot) :
    OnlyGroup (s.closeGroup core slot) (t.closeGroup core slot) core slot := by
  obtain ⟨hframe, hother, hcore, hgroups, hregs⟩ := h
  refine ⟨?_, fun c hc => ?_, ?_, fun k hk => ?_, hregs⟩
  · exact congrArg (fun x : State => { x with cores := (t.closeGroup core slot).cores }) hframe
  · rw [State.closeGroup, State.closeGroup, State.core_modCore_ne _ hc, State.core_modCore_ne _ hc, hother c hc]
  · rw [State.closeGroup, State.closeGroup, State.core_modCore, State.core_modCore, hcore]
  · rw [State.group_closeGroup, State.group_closeGroup, hgroups k hk]

theorem State.FellThrough.closeGroup {u t : State} {i : Issue} {g : Group} {p : PathSt} {st : Stall} (h : State.FellThrough u t i g p st) :
    State.FellThrough (u.closeGroup i.core i.slot) (t.closeGroup i.core i.slot) i g p st := by
  obtain ⟨honly, x, hgroup, hrest⟩ := h
  exact ⟨OnlyGroup.closeGroup honly, x, (State.group_closeGroup ..).trans hgroup, hrest⟩

/-- A release at CORE scope has nothing to wait for. -/
theorem State.release_core (s : State) (i : Issue) (full : Bool) : (s.release i full .core).1 = s := rfl

/-- A wider release closes the group's entries, and the group waits unless none of its stores is on its way. -/
theorem State.release_wide {sc : Scope} (hsc : sc ≠ .core) (s : State) (i : Issue) (full : Bool) :
    (s.release i full sc).1 =
      if (s.closeGroup i.core i.slot).releaseFree i.core i.slot (decide (sc = .system)) = true then s.closeGroup i.core i.slot
      else (s.closeGroup i.core i.slot).stallGroup i (.fence full (decide (sc = .system))) := by
  rw [State.release, if_neg hsc]
  exact apply_ite Prod.fst ..

theorem State.FellThrough.release {u t : State} {i : Issue} {g : Group} {p : PathSt} (h : State.FellThrough u t i g p .none) {sc : Scope}
    (hsc : sc ≠ .core) (full : Bool) :
    State.FellThrough (u.closeGroup i.core i.slot) (t.release i full sc).1 i g p
      (if (t.closeGroup i.core i.slot).releaseFree i.core i.slot (decide (sc = .system)) then .none else .fence full (decide (sc = .system))) := by
  rw [State.release_wide hsc]
  split
  · exact h.closeGroup
  · exact h.closeGroup.stallGroup _

/-! ### FENCE and RELEASE_COMPLETE -/

theorem exec_fence_acquire {s : State} {i : Issue} {g : Group} {p : PathSt} (h : Issues s i [] [] g p) (sc : Scope) :
    exec (.fence i .acquire sc) s = .next (s.retire i) :=
  congrArg Host.Outcome.next (State.issue_acts h _)

theorem exec_fence_release {s : State} {i : Issue} {g : Group} {p : PathSt} (h : Issues s i [] [] g p) (full : Bool) (sc : Scope) :
    exec (.fence i (if full then .full else .release) sc) s = .next ((s.retire i).release i full sc).1 := by
  cases full <;> exact congrArg Host.Outcome.next (State.issue_acts h _)

/-- No write to a CXL port is left that a wait of its scope needs. -/
theorem pending_of_release {s : State} {system : Bool} (h : system = true → s.cxlPending = []) : (if system = true then s.cxlPending else []) = [] := by
  cases system
  · rfl
  · exact h rfl

/-- A wait that ends counts the cycles waited, a free value (log 8), and frees its group. -/
def State.waitEnded (s : State) (core slot : Nat) : State :=
  ((s.draw.2.bump (teR core 0x78) s.draw.1.toNat).coreEvent core 7 s.draw.1.toNat).modGroup core slot (fun g => { g with stall := .none })

theorem exec_releaseComplete {s : State} {core slot : Nat} {g : Group} {full system : Bool} (hg : s.group core slot = some g)
    (hstall : g.stall = .fence full system) (hpend : s.groupPending core slot = false) (hcxl : system = true → s.cxlPending = []) :
    exec (.releaseComplete core slot) s = .next (s.waitEnded core slot) := by
  show execReleaseComplete core slot s = _
  simp [execReleaseComplete, State.waitEnded, hg, hstall, hpend, pending_of_release hcxl]

theorem State.group_waitEnded {s : State} {core slot : Nat} {g : Group} (hg : s.group core slot = some g) :
    (s.waitEnded core slot).group core slot = some { g with stall := .none } := by
  rw [State.waitEnded, State.group_modGroup]
  rw [State.coreEvent_group]
  exact hg

theorem State.draw_sameBytes (s : State) : SameBytes s s.draw.2 := fun _ => ⟨rfl, rfl, rfl⟩

theorem State.modGroup_sameBytes (s : State) (core slot : Nat) (f : Group → Group) : SameBytes s (s.modGroup core slot f) := fun _ => ⟨rfl, rfl, rfl⟩

theorem State.waitEnded_sameBytes (s : State) (core slot : Nat) : SameBytes s (s.waitEnded core slot) :=
  sameBytes_trans s.draw_sameBytes <| sameBytes_trans (State.setReg_onlyBooks ..).sameBytes <|
    sameBytes_trans (State.coreEvent_onlyBooks ..).sameBytes (State.modGroup_sameBytes _ core slot _)

/-! ### A drain of the host's memory (06 R219 to R221, R237) -/

/-- A byte of an entry's line that the entry holds is written to the host's memory. -/
def State.drainHostByte (line : Nat) (t : State) (b : Nat × Option Byte) : State :=
  match b.2 with
  | some v => t.hostWrite (line * 128 + b.1) [v]
  | none => t

theorem State.drainSb_host {s : State} {core idx : Nat} {e : SbEntry} (he : (s.core core).sb[idx]? = some e) (hhost : e.host = true) :
    s.drainSb core idx = some ((s.each e.bytes (State.drainHostByte e.line)).modCore core (fun c => { c with sb := c.sb.eraseIdx idx })) := by
  rw [State.drainSb, he]
  exact if_pos hhost

/-- A drain to the host touches the host's memory only. -/
theorem State.drainHostByte_frame (line : Nat) (t : State) (b : Nat × Option Byte) :
    State.drainHostByte line t b = { t with hostMem := (State.drainHostByte line t b).hostMem } := by
  unfold State.drainHostByte
  split <;> rfl

theorem State.eachDrainHostByte_frame (line : Nat) (l : List (Nat × Option Byte)) (s : State) :
    s.each l (State.drainHostByte line) = { s with hostMem := (s.each l (State.drainHostByte line)).hostMem } :=
  State.each_rel (I := fun a b => b = { a with hostMem := b.hostMem }) (fun _ => rfl) (fun h1 h2 => by rw [h2, h1])
    (fun t b _ => State.drainHostByte_frame line t b) s

/-- A byte that the entry does not hold stays. -/
theorem State.hostByte_eachDrain_ne {line a : Nat} {l : List (Nat × Option Byte)} (h : ∀ b v, (b, some v) ∈ l → a ≠ line * 128 + b) (s : State) :
    Memory.hostByte (s.each l (State.drainHostByte line)) a = Memory.hostByte s a := by
  refine State.each_rel (I := fun x y => Memory.hostByte y a = Memory.hostByte x a) (fun _ => rfl) (fun h1 h2 => h2.trans h1) (fun t x hx => ?_) s
  obtain ⟨b, o⟩ := x
  cases o with
  | none => rfl
  | some v =>
    have hne := h b v hx
    exact (State.hostByte_hostWrite t (line * 128 + b) [v]).2 a (by simp only [List.length_singleton]; omega)

/-- A byte that the entry holds is written, where no two of its bytes have one place. -/
theorem State.hostByte_eachDrain {line b : Nat} {v : Byte} {l : List (Nat × Option Byte)} (hl : l.Pairwise (fun a b => a.1 < b.1))
    (h : (b, some v) ∈ l) (s : State) : Memory.hostByte (s.each l (State.drainHostByte line)) (line * 128 + b) = v := by
  induction l generalizing s with
  | nil => cases h
  | cons x r ih =>
    obtain ⟨hx, hr⟩ := List.pairwise_cons.mp hl
    rcases List.mem_cons.mp h with rfl | h
    · have hlater : ∀ c w, (c, some w) ∈ r → line * 128 + b ≠ line * 128 + c := fun c w hc => by
        have := hx _ hc
        omega
      calc Memory.hostByte ((s.hostWrite (line * 128 + b) [v]).each r (State.drainHostByte line)) (line * 128 + b)
        _ = Memory.hostByte (s.hostWrite (line * 128 + b) [v]) (line * 128 + b) := State.hostByte_eachDrain_ne hlater _
        _ = v := (State.hostByte_hostWrite s (line * 128 + b) [v]).1 0 v rfl
    · exact ih hr h (State.drainHostByte line s x)

/-- A core that is not torn down goes on. -/
theorem State.tearDone_of_not_tearing {s : State} {core : Nat} (h : (s.core core).tearing = false) : s.tearDone core = s := by
  simp [State.tearDone, h]

theorem exec_storeBufferDrain_blocked {s : State} {core idx : Nat} (h : s.drainSb core idx = none) : exec (.storeBufferDrain core idx) s = .next s := by
  show execStoreBufferDrain core idx s = _
  rw [execStoreBufferDrain, h]

theorem exec_storeBufferDrain {s t : State} {core idx : Nat} (h : s.drainSb core idx = some t) :
    exec (.storeBufferDrain core idx) s = .next (t.tearDone core) := by
  show execStoreBufferDrain core idx s = _
  rw [execStoreBufferDrain, h]

/-! ### The drain limit of a teardown (06 R258) -/

theorem State.discardSb_cores (s : State) (core : Nat) : (s.discardSb core).cores = (s.modCore core (fun c => { c with sb := [] })).cores := rfl

theorem State.core_discardSb_self (s : State) (core : Nat) : (s.discardSb core).core core = { s.core core with sb := [] } :=
  (State.core_of_cores (s.discardSb_cores core) core).trans s.core_modCore

theorem State.core_discardSb_ne (s : State) {core c : Nat} (h : c ≠ core) : (s.discardSb core).core c = s.core c :=
  (State.core_of_cores (s.discardSb_cores core) c).trans (s.core_modCore_ne h)

theorem State.sb_clearCore (s : State) (core : Nat) : ((s.clearCore core).core core).sb = (s.core core).sb := by
  unfold State.clearCore
  extract_lets t
  rw [State.core_setReg, State.core_setReg, State.core_setReg, State.core_modCore, State.core_clearLocal]

/-- A core that enters CLEARING is torn down no more; its buffer stays. -/
theorem State.core_enterClearing_self (s : State) (core : Nat) :
    ((s.enterClearing core).core core).te = .clearing ∧ ((s.enterClearing core).core core).sb = (s.core core).sb
      ∧ ((s.enterClearing core).core core).tearing = false := by
  rw [State.enterClearing, State.core_modCore]
  exact ⟨rfl, s.sb_clearCore core, rfl⟩

theorem State.core_enterClearing_ne (s : State) {core c : Nat} (h : c ≠ core) : (s.enterClearing core).core c = s.core c := by
  rw [State.enterClearing, State.core_modCore_ne _ h, State.core_clearCore_ne _ h]

theorem exec_teardownDrainLimit {s : State} {core : Nat} (h : (s.core core).tearing = true) :
    exec (.teardownDrainLimit core) s = .next ((s.discardSb core).enterClearing core) :=
  congrArg Host.Outcome.next (if_pos h)

/-! ### Fills and evictions of a cluster cache (07 R265, R274) -/

theorem exec_cacheFill_hit {s : State} {cl line : Nat} {l : CcLine} (hl : s.ccFind cl (line * 128) = some l) (hv : l.valid = 15) (h : Hint) :
    exec (.cacheFill cl line h none) s = .next s := by
  show execCacheFill cl line h none s = _
  simp [execCacheFill, hl, hv]

theorem exec_cacheFill_miss {s : State} {cl line : Nat} {h : Hint} (hmiss : s.ccFind cl (line * 128) = none)
    (hserve : s.lineServe { part := s.clPart cl, cl := some cl } false (line * 128) = .ok) (hlast : h ≠ .last)
    (hwin : ∀ a b, s.decode (line * 128) ≠ .window a b) :
    exec (.cacheFill cl line h none) s = .next (s.lineRead { part := s.clPart cl, cl := some cl } (Hint.code h) (line * 128)) := by
  show execCacheFill cl line h none s = _
  cases hd : s.decode (line * 128) with
  | window a b => exact absurd hd (hwin a b)
  | _ => simp [execCacheFill, hmiss, hserve, hlast, hd]

/-- An error that a fill meets comes after the fill. -/
theorem exec_cacheFill_error {s t : State} {cl line : Nat} {h : Hint} (ht : exec (.cacheFill cl line h none) s = .next t) (e : SectorError) :
    exec (.cacheFill cl line h (some e)) s = .next (t.ccError cl e) := by
  obtain rfl := Host.Outcome.next.inj ht
  rfl

/-- A cluster cache is what the state's caches list. -/
theorem State.ccFind_of_cc {s t : State} (h : t.ext.cc = s.ext.cc) (cl pa : Nat) : t.ccFind cl pa = s.ccFind cl pa := by
  rw [State.ccFind, State.ccFind, State.ccLines, State.ccLines, h]

@[simp] theorem State.setDirSet_cc (s : State) (pa : Nat) (l : List DirEnt) : (s.setDirSet pa l).ext.cc = s.ext.cc := by
  unfold State.setDirSet State.modDie State.setDie
  split <;> rfl

@[simp] theorem State.dropL1_cc (s : State) (cl pa : Nat) (but : Option Nat) : (s.dropL1 cl pa but).ext.cc = s.ext.cc := by
  refine State.each_rel (I := fun a b => b.ext.cc = a.ext.cc) (fun _ => rfl) (fun h1 h2 => h2.trans h1) (fun t c _ => ?_) s
  split
  · rfl
  · split <;> rfl

theorem State.ccFind_setCc_without (s : State) (cl pa : Nat) :
    (s.setCc cl ((s.ccLines cl).filter (fun x => x.line ≠ pa / 128))).ccFind cl pa = none := by
  have hlines (l : List CcLine) : (s.setCc cl l).ccLines cl = l := SMap.getD_set_self ..
  rw [State.ccFind, hlines, List.find?_eq_none]
  simp

/-- The L1s and the directory, which forget the line too, are no part of the cluster caches. -/
theorem State.ccForget_cc (s : State) (cl pa : Nat) :
    (s.ccForget cl pa).ext.cc = (s.setCc cl ((s.ccLines cl).filter (fun x => x.line ≠ pa / 128))).ext.cc := by
  rw [State.ccForget, State.setDirSet_cc, State.dropL1_cc]

/-- A line that a cluster cache has lost is in it no more. -/
theorem State.ccFind_ccForget (s : State) (cl pa : Nat) : (s.ccForget cl pa).ccFind cl pa = none := by
  rw [State.ccFind_of_cc (s.ccForget_cc cl pa), State.ccFind_setCc_without]

/-- A line that a cluster cache evicts is in it no more, and one that is not in it stays away. -/
theorem State.ccFind_ccEvict (s : State) (cl pa : Nat) : (s.ccEvict cl pa).ccFind cl pa = none := by
  unfold State.ccEvict
  split
  · assumption
  · exact State.ccFind_ccForget ..

/-! ### Ways of a cluster cache (07 R276, R277) -/

theorem State.rf_setRf_ne (s : State) {a b : Nat} (h : b ≠ a) (hi lo v hi' lo' : Nat) : (s.setRf a hi lo v).rf b hi' lo' = s.rf b hi' lo' := by
  rw [State.rf, State.reg_setRf_ne _ h, State.rf]

/-- A single bit of a register, as a field. -/
theorem State.rf_bit (s : State) (a n : Nat) : s.rf a n n = b2n (bit (s.reg a) n) := by
  rw [State.rf, bits, bit, Nat.add_sub_cancel_left, Nat.pow_one, Nat.shiftRight_eq_div_pow, ← Nat.toNat_testBit]
  cases (s.reg a).testBit n <;> rfl

/-- A bit of a stored register reads back, as a field of one bit. -/
theorem State.rf_setRf_bit (s : State) (a : Nat) {n v : Nat} (hn : n < 64) (hv : v < 2) : (s.setRf a n n v).rf a n n = v := by
  rw [State.rf_setRf_same _ _ _ (Nat.le_refl n) hn, Nat.add_sub_cancel_left, Nat.pow_one, Nat.mod_eq_of_lt hv]

theorem State.rf_setRf_bit_ne (s : State) (a v : Nat) {n m : Nat} (hm : m < 64) (h : m ≠ n) : (s.setRf a n n v).rf a m m = s.rf a m m :=
  State.rf_setRf_apart s a v (Nat.le_refl n) hm (Nat.lt_or_gt_of_ne h)

theorem ccR_waypwr_ne_waystat (cl : Nat) : ccR cl 0x10 ≠ ccR cl 0x14 := by
  unfold ccR
  omega

section
variable {s : State} {cl way : Nat} (h2 : 2 ≤ way) (h15 : way ≤ 15)
include h2 h15

/-- A way that is on and powered, once switched off, is being cleaned. -/
theorem State.ccWaySet_off (hon : bit (s.reg (ccR cl 0x10)) way = true) (hpow : bit (s.reg (ccR cl 0x14)) way = true) :
    s.ccWaySet cl way false = (s.setRf (ccR cl 0x10) way way 0).setRf (ccR cl 0x14) (16 + way) (16 + way) 1 := by
  have hpow' : bit ((s.setRf (ccR cl 0x10) way way 0).reg (ccR cl 0x14)) way = true := by
    rw [State.reg_setRf_ne _ (ccR_waypwr_ne_waystat cl).symm, hpow]
  have hrange : ¬ (way < 2 ∨ 15 < way ∨ bit (s.reg (ccR cl 0x10)) way = false) := by simp [hon, Nat.not_lt.mpr h2, Nat.not_lt.mpr h15]
  rw [State.ccWaySet, if_neg hrange]
  exact if_pos hpow'

/-- A way that is off, once switched on, is powered and is not being cleaned. -/
theorem State.ccWaySet_on (hoff : bit (s.reg (ccR cl 0x10)) way = false) :
    s.ccWaySet cl way true =
      ((s.setRf (ccR cl 0x10) way way 1).setRf (ccR cl 0x14) (16 + way) (16 + way) 0).setRf (ccR cl 0x14) way way 1 := by
  have hrange : ¬ (way < 2 ∨ 15 < way ∨ bit (s.reg (ccR cl 0x10)) way = true) := by simp [hoff, Nat.not_lt.mpr h2, Nat.not_lt.mpr h15]
  rw [State.ccWaySet, if_neg hrange]
  rfl

/-- A clean that ends flushes the way's lines, and the way is off. -/
theorem exec_ccWayCleanDone (hclean : bit (s.reg (ccR cl 0x14)) (16 + way) = true) :
    ∃ u : State, exec (.ccWayCleanDone cl way) s = .next ((u.setRf (ccR cl 0x14) (16 + way) (16 + way) 0).setRf (ccR cl 0x14) way way 0) := by
  show ∃ u : State, execCcWayCleanDone cl way s = _
  simp only [execCcWayCleanDone, hclean, h2, h15]
  exact ⟨_, rfl⟩

end

/-- A privileged write of CC_WAYPWR switches its way. -/
theorem exec_ccWayPowerDown {s : State} {p : Path} {cl : Nat} (hp : Privileged s p (ccR cl 0x10)) (way : Nat) :
    exec (.ccWayPowerDown p cl way) s = .next (s.ccWaySet cl way false) :=
  congrArg Host.Outcome.next (State.regGateP_acts hp _)

theorem exec_ccWayPowerUp {s : State} {p : Path} {cl : Nat} (hp : Privileged s p (ccR cl 0x10)) (way : Nat) :
    exec (.ccWayPowerUp p cl way) s = .next (s.ccWaySet cl way true) :=
  congrArg Host.Outcome.next (State.regGateP_acts hp _)

end Sys2Proof.Machine

namespace Sys2Proof

open Sys2Proof.Machine

/-- Settles O10: a fence that issues falls through, and a wider one then closes and waits by `State.FellThrough.release`; the end of its wait is
`exec_releaseComplete`. -/
theorem threadFences : Obligations.ThreadFences := by
  unfold Obligations.ThreadFences
  intro s i g p goes u
  refine ⟨fun hs hi => ?issues, fun full system hg hstall hpend hcxl => ?completes⟩
  case issues =>
    have hfell : State.FellThrough s (s.retire i) i g p .none := State.retire_fellThrough (State.issuing_group hi.1).1 hs
    exact ⟨fun sc => ⟨_, exec_fence_acquire hi sc, hfell⟩, ⟨_, exec_fence_release hi false .core, hfell⟩,
      ⟨_, exec_fence_release hi true .core, hfell⟩, fun full sc hsc => ⟨_, exec_fence_release hi full sc, hfell.release hsc full⟩⟩
  case completes =>
    exact ⟨_, exec_releaseComplete hg hstall hpend hcxl, State.group_waitEnded hg, s.waitEnded_sameBytes i.core i.slot⟩

/-- Settles O20: an entry of the host's memory drains by `State.drainSb_host`, byte by byte; a teardown's limit is `exec_teardownDrainLimit`; a line that is
evicted is gone by `State.ccFind_ccForget`; the bits of a way are those that `State.ccWaySet_off` and `State.ccWaySet_on` name. -/
theorem storeBuffersAndCaches : Obligations.StoreBuffersAndCaches := by
  unfold Obligations.StoreBuffersAndCaches
  refine ⟨fun s core idx => ⟨exec_storeBufferDrain_blocked, fun t => exec_storeBufferDrain, fun e he hhost htear hbytes => ?drain,
      fun htear => ?limit⟩,
    fun s cl line way p h => ⟨fun l hl hv => exec_cacheFill_hit hl hv h, exec_cacheFill_miss, fun t e ht => exec_cacheFill_error ht e,
      ⟨_, rfl, s.ccFind_ccEvict cl (line * 128)⟩, fun hp h2 h15 => ⟨fun hon hpow => ?off, fun hoff => ?on⟩, fun h2 h15 hclean => ?clean⟩⟩
  case drain =>
    have hframe := State.eachDrainHostByte_frame e.line e.bytes s
    have hnew (b : Nat) (v : Byte) (hb : (b, some v) ∈ e.bytes) := State.hostByte_eachDrain (line := e.line) hbytes hb s
    have hold (a : Nat) (ha : ∀ b v, (b, some v) ∈ e.bytes → a ≠ e.line * 128 + b) := State.hostByte_eachDrain_ne ha s
    have hexec := exec_storeBufferDrain (State.drainSb_host he hhost)
    generalize s.each e.bytes (State.drainHostByte e.line) = u at hframe hnew hold hexec
    have hcore : u.core core = s.core core := by rw [hframe]; rfl
    rw [State.tearDone_of_not_tearing (by rw [State.core_modCore, hcore, htear])] at hexec
    refine ⟨_, hexec, ?_, hnew, hold, fun a => ?_⟩
    · rw [State.core_modCore, hcore]
    · rw [Memory.byte, State.modCore_mem, hframe, Memory.byte]
  case limit =>
    obtain ⟨hte, hsb, htear'⟩ := (s.discardSb core).core_enterClearing_self core
    refine ⟨_, exec_teardownDrainLimit htear, hte, ?_, htear', fun c hc => ?_⟩
    · rw [hsb, State.core_discardSb_self]
    · rw [State.core_enterClearing_ne _ hc, State.core_discardSb_ne _ hc]
  case off =>
    have hne := ccR_waypwr_ne_waystat cl
    refine ⟨_, (exec_ccWayPowerDown hp way).trans (by rw [State.ccWaySet_off h2 h15 hon hpow]), ?_, ?_, ?_, rfl⟩
    · rw [State.rf_setRf_ne _ hne, State.rf_setRf_bit _ _ (by omega) (by omega)]
    · rw [State.rf_setRf_bit _ _ (by omega) (by omega)]
    · rw [State.rf_setRf_bit_ne _ _ _ (by omega) (by omega), State.rf_setRf_ne _ hne.symm, State.rf_bit, hpow, b2n, if_pos rfl]
  case on =>
    have hne := ccR_waypwr_ne_waystat cl
    refine ⟨_, (exec_ccWayPowerUp hp way).trans (by rw [State.ccWaySet_on h2 h15 hoff]), ?_, ?_, ?_, rfl⟩
    · rw [State.rf_setRf_ne _ hne, State.rf_setRf_ne _ hne, State.rf_setRf_bit _ _ (by omega) (by omega)]
    · rw [State.rf_setRf_bit_ne _ _ _ (by omega) (by omega), State.rf_setRf_bit _ _ (by omega) (by omega)]
    · rw [State.rf_setRf_bit _ _ (by omega) (by omega)]
  case clean =>
    obtain ⟨u, hexec⟩ := exec_ccWayCleanDone h2 h15 hclean
    refine ⟨_, hexec, ?_, ?_⟩
    · rw [State.rf_setRf_bit _ _ (by omega) (by omega)]
    · rw [State.rf_setRf_bit_ne _ _ _ (by omega) (by omega), State.rf_setRf_bit _ _ (by omega) (by omega)]

end Sys2Proof
end

section
/-! SUPPORT. The Tank of a die (07_caches_and_tank.md R285, R295, R296): sweeps of KEEP marks, retired banks and their moves; then the statement
about them. -/

namespace Sys2Proof.Machine

/-! ### A die and the registers -/

theorem State.die_modDie_self (s : State) (d : Nat) (f : Die → Die) : (s.modDie d f).die d = f (s.die d) := by
  cases d <;> rfl

/-- External memory and every register but `r` stayed. -/
def OnlyReg (r : Nat) (s t : State) : Prop := t.ext = s.ext ∧ ∀ a, a ≠ r → t.reg a = s.reg a

theorem OnlyReg.refl (r : Nat) (s : State) : OnlyReg r s s := ⟨rfl, fun _ _ => rfl⟩

theorem OnlyReg.trans {r : Nat} {s t u : State} (h1 : OnlyReg r s t) (h2 : OnlyReg r t u) : OnlyReg r s u :=
  ⟨h2.1.trans h1.1, fun a ha => (h2.2 a ha).trans (h1.2 a ha)⟩

theorem OnlyReg.ite {r : Nat} {s t u : State} {c : Prop} [Decidable c] (ht : OnlyReg r s t) (hu : OnlyReg r s u) : OnlyReg r s (if c then t else u) :=
  iteInduction (fun _ => ht) (fun _ => hu)

theorem OnlyReg.die {r : Nat} {s t : State} (h : OnlyReg r s t) (d : Nat) : t.die d = s.die d := by
  rw [State.die, h.1, State.die]

theorem State.setReg_onlyReg (s : State) (r v : Nat) : OnlyReg r s (s.setReg r v) := ⟨rfl, fun _ h => State.reg_setReg_ne s h⟩

theorem State.odSet_onlyReg (s : State) (r i j v : Nat) : OnlyReg r s (s.odSet i j v) := ⟨rfl, fun _ _ => rfl⟩

/-- What is shown of a die stands in TK_STATUS and in the dictionary. -/
theorem State.tkShow_onlyReg (s : State) (die result : Nat) : OnlyReg (tkR die 0x20) s (s.tkShow die result) :=
  (s.setReg_onlyReg ..).trans <| (State.setReg_onlyReg ..).trans <| (State.setReg_onlyReg ..).trans <| (State.setReg_onlyReg ..).trans <|
    (State.odSet_onlyReg ..).trans (State.odSet_onlyReg ..)

/-- An interrupt touches the host's link and the dictionary's counters only (11 R439, R440). -/
theorem State.msix_onlyReg (s : State) (f v r : Nat) : OnlyReg r s (s.msix f v) :=
  .ite (s.odSet_onlyReg ..) <| .ite (.refl r s) <| .ite ⟨rfl, fun _ _ => rfl⟩ ⟨rfl, fun _ _ => rfl⟩

/-- An event of the machine sets its bit, and sends an interrupt at most (15 R609). -/
theorem State.ngEvent_onlyReg (s : State) (b : Nat) : OnlyReg (ngR 0x18) s (s.ngEvent b) :=
  .ite (.refl _ s) <| .ite ((s.setReg_onlyReg ..).trans (State.msix_onlyReg ..)) (s.setReg_onlyReg ..)

/-- A path with privilege reaches the register. -/
theorem reaches_of_privileged {s : State} {p : Path} {off : Nat} (h : Privileged s p off) (vf : Option Nat) : Reaches s p off vf :=
  h.imp_right fun h => .inr ⟨0, .inl ⟨h.1, rfl⟩, h.2⟩

/-! ### A sweep of KEEP marks begins (R285) -/

theorem exec_tkKeepclr {s : State} {p : Path} {die : Nat} (hp : Privileged s p (tkR die 0x2C)) (v : W32) :
    exec (.tkKeepclr p die v) s = .next ((s.keepClr 0 v.toNat).keepClr 1 v.toNat) :=
  congrArg Host.Outcome.next (State.regGate_acts (reaches_of_privileged hp none) _)

theorem State.keepClr_acts (s : State) (die : Nat) {v : Nat} (hv : v % 256 ≠ 0) :
    s.keepClr die v = (s.modDie die (fun d => { d with keepParts := d.keepParts ||| v % 256 })).setRf (tkR die 0x20) 1 1 1 := if_neg hv

/-- The named partitions join those that each die sweeps. -/
theorem State.keepClr_sweepsBoth (s : State) {v : Nat} (hv : v % 256 ≠ 0) :
    let t := (s.keepClr 0 v).keepClr 1 v
    (t.die 0).keepParts = (s.die 0).keepParts ||| v % 256 ∧ (t.die 1).keepParts = (s.die 1).keepParts ||| v % 256
      ∧ t.rf (tkR 0 0x20) 1 1 = 1 ∧ t.rf (tkR 1 0x20) 1 1 = 1 := by
  rw [State.keepClr_acts _ 1 hv, s.keepClr_acts 0 hv]
  refine ⟨rfl, rfl, ?_, State.rf_setRf_bit _ _ (by decide) (by decide)⟩
  exact (State.rf_setRf_ne _ (by decide) ..).trans (State.rf_setRf_bit s (tkR 0 0x20) (by decide) (by decide))

/-! ### A sweep of KEEP marks ends (R285) -/

/-- Where every value of a map is changed, the value at each key is, for a default that changes alike. -/
theorem SMap.getD_mapValues {α β : Type} (m : SMap α) (f : α → β) (k : Nat) (d : α) :
    SMap.getD (m.map (fun e => (e.1, f e.2))) k (f d) = f (m.getD k d) := by
  induction m with
  | nil => rfl
  | cons e r ih => exact (congrArg (ite (e.1 = k) (f e.2)) ih).trans (apply_ite f ..).symm

/-- Where the lines that meet `c` have lost their mark, one that still has it does not meet `c`. -/
theorem not_of_keep (m : SMap (List TkLine)) {c : TkLine → Prop} [DecidablePred c] (a : Nat) :
    ∀ l ∈ SMap.getD (m.map (fun e => (e.1, e.2.map (fun l => if c l then { l with keep := false } else l)))) a [], l.keep = true → ¬c l := by
  have hlines := SMap.getD_mapValues m (List.map (fun l => if c l then { l with keep := false } else l)) a []
  exact hlines ▸ List.forall_mem_map.mpr fun _ _ => iteInduction (motive := fun l => l.keep = true → ¬c l) (fun _ h => absurd h Bool.false_ne_true)
    (fun hx _ => hx)

/-- A sweep leaves no mark in a way of the partitions that the die sweeps. -/
theorem exec_keepSweepDone (s : State) (die : Nat) :
    Gives (.keepSweepDone die) s (fun t => (t.die die).keepParts = 0 ∧ t.rf (tkR die 0x20) 1 1 = 0
      ∧ ∀ a l, l ∈ (t.die die).tank.getD a [] → l.keep = true → ∀ q b, s.wayOwner l.way = some (q, b) →
          q ∉ bitList 8 (s.die die).keepParts) := by
  have hdie (f : Die → Die) : ((s.modDie die f).setRf (tkR die 0x20) 1 1 0).die die = f (s.die die) := s.die_modDie_self die f
  refine ⟨_, rfl, congrArg Die.keepParts (hdie _), State.rf_setRf_bit _ _ (by decide) (by decide), fun a l hl hkeep q b howner hq => ?_⟩
  rw [hdie] at hl
  refine not_of_keep _ a l hl hkeep ?_
  dsimp only
  rw [howner]
  exact List.contains_iff_mem.mpr hq

/-! ### A bank is retired (R295, R296) -/

theorem exec_tkRetire {s : State} {p : Path} {die : Nat} {v : W32} (hp : Privileged s p (tkR die 0x30)) (hgo : bit v.toNat 31 = true) :
    exec (.tkRetire p die v) s = .next (s.bankRetire die (bits v.toNat 8 0)) :=
  congrArg Host.Outcome.next ((State.regGateP_acts hp _).trans (if_pos hgo))

section
variable {s : State} {die : Nat} (bank : Nat)

theorem State.bankRetire_moving {m : BankMove} (h : (s.die die).move = some m) : s.bankRetire die bank = s :=
  if_pos (congrArg Option.isSome h)

theorem State.bankRetire_spare {n : Nat} (h : (s.die die).move = none) (hn : s.freeSpare die = some n) :
    s.bankRetire die bank = (s.modDie die (fun d => { d with move := some { bank := bank, spare := n } })).setRf (tkR die 0x20) 0 0 1 :=
  (if_neg (h ▸ Bool.false_ne_true)).trans (hn ▸ rfl)

theorem State.bankRetire_noSpare (h : (s.die die).move = none) (hn : s.freeSpare die = none) : s.bankRetire die bank = s.bankDegrade die bank :=
  (if_neg (h ▸ Bool.false_ne_true)).trans (hn ▸ rfl)

end

/-! ### A bank has moved (R295) -/

/-- Showing the banks and setting the event leave the dies as they are. -/
theorem State.die_shown (u : State) (die d : Nat) : ((u.tkShow die stOk).ngEvent 2).die d = u.die d :=
  (State.ngEvent_onlyReg ..).die d |>.trans ((u.tkShow_onlyReg ..).die d)

/-- They leave the register of a spare too: it is neither the status of its die nor the register of the machine's events. -/
theorem State.spare_shown (u : State) {die n : Nat} (hdie : die < 2) (hn : n < 16) :
    ((u.tkShow die stOk).ngEvent 2).reg (tkR die (0x100 + 4 * n)) = u.reg (tkR die (0x100 + 4 * n)) := by
  have hstatus : tkR die 0x20 < tkR die (0x100 + 4 * n) := Nat.add_lt_add_left (Nat.lt_add_right (4 * n) (by decide)) _
  have hevent : tkR die (0x100 + 4 * n) < ngR 0x18 := calc
    tkR die (0x100 + 4 * n) < tkR die (0x100 + 4 * 16) :=
      Nat.add_lt_add_left (Nat.add_lt_add_left (Nat.mul_lt_mul_of_pos_left hn (by decide)) _) _
    _ ≤ tkR 1 (0x100 + 4 * 16) := Nat.add_le_add_right (Nat.add_le_add_left (Nat.mul_le_mul_right _ (Nat.le_of_lt_succ hdie)) _) _
    _ < ngR 0x18 := by decide
  exact ((State.ngEvent_onlyReg ..).2 _ (Nat.ne_of_lt hevent)).trans ((u.tkShow_onlyReg ..).2 _ (Nat.ne_of_gt hstatus))

/-- The spare carries the bank; the die's banks are then shown, and an event is set. -/
theorem exec_bankMoveDone {s : State} {die : Nat} {m : BankMove} (hdie : die < 2) (hspare : m.spare < 16) (hbank : m.bank < 512)
    (hm : (s.die die).move = some m) :
    Gives (.bankMoveDone die) s (fun t => (t.die die).move = none ∧ (t.die die).spares.getD m.spare 0 = m.bank + 1
      ∧ m.bank ∉ (t.die die).degraded ∧ t.reg (tkR die (0x100 + 4 * m.spare)) = 2 ^ 31 + m.bank) := by
  have hsmall : 2 ^ 31 + m.bank < 2 ^ 64 := Nat.lt_trans (Nat.add_lt_add_left hbank _) (by decide)
  have hdies (f : Die → Die) (a v : Nat) : ((((s.modDie die f).setReg a v).tkShow die stOk).ngEvent 2).die die = f (s.die die) :=
    (State.die_shown ..).trans (s.die_modDie_self ..)
  show ∃ t, execBankMoveDone die s = .next t ∧ _
  rw [execBankMoveDone, hm]
  exact ⟨_, rfl, congrArg Die.move (hdies ..),
    (congrArg (·.spares.getD m.spare 0) (hdies ..)).trans (SMap.getD_set_self (s.die die).spares m.spare 0 (m.bank + 1)),
    (congrArg (m.bank ∉ Die.degraded ·) (hdies ..)).mpr fun h => of_decide_eq_true (List.mem_filter.mp h).2 rfl,
    (State.spare_shown _ hdie hspare).trans <| (State.reg_setReg ..).trans (Nat.mod_eq_of_lt hsmall)⟩

end Sys2Proof.Machine

namespace Sys2Proof

open Sys2Proof.Machine

/-- Settles O21: a sweep begins on both dies by `State.keepClr_sweepsBoth` and ends by `exec_keepSweepDone`; a retire is `State.bankRetire` in its
three cases; a move ends by `exec_bankMoveDone`. -/
theorem tankCommands : Obligations.TankCommands := by
  intro s p die v
  refine ⟨fun hp hv => ?begins, exec_keepSweepDone s die, fun hp hgo => ⟨fun m hm => ?moving, fun n hm hn => ?spare, fun hm hn => ?noSpare⟩,
    fun m hdie hspare hbank hm => exec_bankMoveDone hdie hspare hbank hm, fun _ _ => rfl⟩
  case begins => exact ⟨_, exec_tkKeepclr hp v, s.keepClr_sweepsBoth hv⟩
  case moving => exact (exec_tkRetire hp hgo).trans (congrArg _ (State.bankRetire_moving _ hm))
  case spare =>
    exact ⟨_, (exec_tkRetire hp hgo).trans (congrArg _ (State.bankRetire_spare _ hm hn)), congrArg Die.move (s.die_modDie_self ..),
      State.rf_setRf_bit _ _ (by decide) (by decide)⟩
  case noSpare => exact (exec_tkRetire hp hgo).trans (congrArg _ (State.bankRetire_noSpare _ hm hn))

end Sys2Proof
end

/- O34, update units. This section compiles and settles O34 (`Sys2Proof.updateUnits`), and is left out of the text for one reason: with it the compiled
text is larger than 128 MiB, and writing it then goes past the memory limit of check.sh in most runs. Remove this line and the last one to restore it.

section
/-! SUPPORT. Update units (10_update_units.md R394, R395, R398, R399, R401, R402, R408 to R410, R413): a request read back, the hand-out of a shard, the shard
at the front of a unit's queue, the end of a request, rules, and ENABLE of a unit; then the statement about them. -/

namespace Sys2Proof.Machine

/-! ### A request read back -/

/-- A request that was handed on is an accepted one. -/
theorem State.req_of_handedReq {s : State} {q : Nat} {r : UpdReq} (h : s.handedReq q = some r) : s.req q = some r := by
  unfold State.handedReq at h
  split at h
  · split at h
    · exact h
    · cases h
  · cases h

section
variable {s : State} {q : Nat} {r : UpdReq} (h : s.req q = some r)
include h

/-- A change to an accepted request touches the table of requests alone. -/
theorem State.modReq_of_req (f : UpdReq → UpdReq) : s.modReq q f = { s with upd := { s.upd with reqs := s.upd.reqs.put q (f r) } } := by
  rw [State.modReq, h]

theorem State.req_modReq (f : UpdReq → UpdReq) : (s.modReq q f).req q = some (f r) := by
  rw [State.modReq_of_req h]
  exact SMap.find_put_self ..

theorem State.uu_modReq (f : UpdReq → UpdReq) (u : Nat) : (s.modReq q f).uu u = s.uu u := by
  rw [State.modReq_of_req h]
  rfl

theorem State.modReq_sameBytes (f : UpdReq → UpdReq) : SameBytes s (s.modReq q f) := by
  rw [State.modReq_of_req h]
  exact fun _ => ⟨rfl, rfl, rfl⟩

end

/-! ### The hand-out of a shard (R399) -/

/-- The queue of unit `u` takes shard `i` of the request of queue `q`. -/
def State.pushJob (s : State) (q u i : Nat) : State := s.modUu u (fun x => { x with jobs := x.jobs ++ [{ queue := q, shard := i }] })

theorem State.pushJob_sameBytes (s : State) (q u i : Nat) : SameBytes s (s.pushJob q u i) := fun _ => ⟨rfl, rfl, rfl⟩

/-- A shard at an open unit, whose part goes on, is handed out where the unit's queue has room, and waits otherwise. -/
theorem exec_shardHandout {s : State} {q : Nat} {r : UpdReq} {sh : Shard} {x : Part} (hreq : s.handedReq q = some r)
    (hsh : r.shards[r.handed]? = some sh) (hpart : r.part_ sh.unit = some x) (hgoes : x.ended = false) (hstop : r.stop = none)
    (hopen : s.uuOpen sh.unit = true) :
    exec (.shardHandout q) s = .next (if (s.uu sh.unit).jobs.length < 65
      then (s.pushJob q sh.unit r.handed).modReq q (fun y => { y with handed := y.handed + 1 }) else s) := by
  show execShardHandout q s = _
  simp only [execShardHandout, hreq, hsh, hpart, hgoes, hstop, hopen, Bool.not_true, Bool.false_eq_true, if_false]
  exact (apply_ite Host.Outcome.next ..).symm

/-! ### The shard at the front of a unit's queue (R401, R402, R408, R413) -/

/-- Shard `j` stands at the front of the queue of unit `u`; its request `r` has not been stopped, and the part of `r` at the unit has not ended. -/
structure State.RunsShard (s : State) (u : Nat) (j : ShardJob) (r : UpdReq) : Prop where
  front : ∃ js, (s.uu u).jobs = j :: js
  req : s.req j.queue = some r
  part : ∃ x, r.part_ u = some x ∧ x.ended = false
  goes : r.stop = none

section
variable {s : State} {u : Nat} {j : ShardJob} {r : UpdReq} (h : s.RunsShard u j r)
include h

theorem State.runFront_otherPass {pass : Nat} (hpass : updPass (bytesOf r.header) ≠ pass) (run : Nat → Nat → UpdReq → List Byte → State → ShardRun) :
    s.runFront u pass run = s := by
  obtain ⟨js, hjobs⟩ := h.front
  simp only [State.runFront, hjobs, h.req, if_pos hpass]

/-- Where the unit runs the shard to its end, the shard leaves the queue: it is done, or its part ends with the status at which the run stopped. -/
theorem State.runFront_runs {run : Nat → Nat → UpdReq → List Byte → State → ShardRun} {k : ShardRun}
    (hopen : (s.modUu u (fun y => { y with part := r.part })).uuOpen u = true)
    (hk : run j.queue u r (bytesOf ((r.shards[j.shard]?.map (·.words)).getD [])) (s.modUu u (fun y => { y with part := r.part })) = k)
    (hwait : k.wait = false) :
    (k.fail = none → s.runFront u (updPass (bytesOf r.header)) run = (k.st.popJob u).shardDone j.queue u)
    ∧ (∀ st, k.fail = some st → s.runFront u (updPass (bytesOf r.header)) run = (k.st.popJob u).endPart j.queue u st k.torn j.shard k.elem k.wva) := by
  obtain ⟨js, hjobs⟩ := h.front
  obtain ⟨x, hpart, hgoes⟩ := h.part
  simp only [State.runFront, hjobs, h.req, hpart, hgoes, h.goes, hopen, hk, hwait, ne_eq, not_true, Bool.not_true, Bool.false_eq_true, if_false]
  exact ⟨fun hok => by rw [hok], fun st hfail => by rw [hfail]⟩

end

/-! ### The end of a request (R408 to R410) -/

/-- A request that has not been stopped has no part to end. -/
theorem State.endStopped_of_goes (s : State) (q : Nat) {r : UpdReq} (h : r.stop = none) : s.endStopped q r = s := by
  rw [State.endStopped, h]

theorem exec_updateComplete {s : State} {q : Nat} {r : UpdReq} (hreq : s.handedReq q = some r) (hstop : r.stop = none) :
    exec (.updateComplete q) s = .next (if r.parts.all (·.ended) = true
      then ((s.resultHeader r).odBump 0x61A0 1 1).endHeld q (if r.parts.all (fun p => p.status = stOk) then stOk else stPartial) false else s) := by
  show execUpdateComplete q s = _
  simp only [execUpdateComplete, hreq, s.endStopped_of_goes q hstop, State.req_of_handedReq hreq]
  exact (apply_ite Host.Outcome.next ..).symm

/-! ### Rules (R394, R395) -/

/-- A rule of the right length that is not bad waits for the requests that name it; its path is held until then. -/
theorem exec_ruleWrite_good {s : State} {p : Path} {part rule : Nat} {data : List Byte} (hitem : TakesItem s p (0x3820 + part) (rule + 1))
    (hlen : data.length = 64) (hgood : ruleBad data = false) :
    exec (.ruleWrite p part rule data) s = .next (({ s with upd := { s.upd with ruleWait := s.upd.ruleWait
      ++ [({ path := p, part := part, rule := rule, data := data, queues := s.ruleUsers part rule } : RuleWait)] } }).odHold p) := by
  have hact : ¬ (data.length ≠ 64 || ruleBad data) = true := by simp [hlen, hgood]
  refine congrArg Host.Outcome.next ((State.odCmd_acts hitem _).trans ?_)
  rw [State.ruleAct, if_neg hact]

/-- One of another length, or a bad one, is refused and counted. -/
theorem exec_ruleWrite_bad {s : State} {p : Path} {part rule : Nat} {data : List Byte} (hitem : TakesItem s p (0x3820 + part) (rule + 1))
    (hbad : data.length ≠ 64 ∨ ruleBad data = true) :
    exec (.ruleWrite p part rule data) s = .next ((s.odBump 0x6200 1 1).odReply p stBadDesc) := by
  have hact : (data.length ≠ 64 || ruleBad data) = true := by simpa using hbad
  refine congrArg Host.Outcome.next ((State.odCmd_acts hitem _).trans ?_)
  rw [State.ruleAct, if_pos hact]
  exact congrArg (State.odReply · p stBadDesc) (if_neg (by decide))

/-- A rule that waits is applied, and its write answered, once no queue is left that it waits for. -/
theorem exec_ruleApplied {s : State} {part rule : Nat} {w : RuleWait} (hw : s.upd.ruleWait.find? (fun w => w.part = part && w.rule = rule) = some w) :
    exec (.ruleApplied part rule) s = .next (if w.queues = []
      then (({ s with upd := { s.upd with ruleWait := s.upd.ruleWait.erase w } }).setBlob (0x3820 + part) (rule + 1) w.data).odAnswer w.path stOk else s) := by
  show execRuleApplied part rule s = _
  simp only [execRuleApplied, hw]
  exact (apply_ite Host.Outcome.next ..).symm

/-! ### ENABLE of a unit (R413) -/

theorem exec_uuEnableWrite {s : State} {p : Path} {u : Nat} (hp : Privileged s p (uuR u 0x10)) (on : Bool) :
    exec (.uuEnableWrite p u on) s = .next (s.uuEnable u on) :=
  congrArg Host.Outcome.next (State.regGateP_acts hp _)

/-- A unit without shards that is disabled is OFF. -/
theorem State.uuEnable_off {s : State} {u : Nat} (h : (s.uu u).jobs = []) :
    s.uuEnable u false = (s.setRf (uuR u 0x10) 0 0 0).modUu u (fun x => { x with state := .off }) :=
  if_pos h

/-- A unit with shards that is disabled is OFFLINE, and so are the parts of its shards. -/
theorem State.uuEnable_offline {s : State} {u : Nat} (h : (s.uu u).jobs ≠ []) :
    s.uuEnable u false = ((s.setRf (uuR u 0x10) 0 0 0).modUu u (fun x => { x with state := .offline, jobs := [] })).each (s.uu u).jobs
      (fun t j => t.endPart j.queue u stUnitOffline false j.shard 0 0) :=
  if_neg h

/-- ENABLE and a unit's record, written together: both read back, and the other units stay. -/
theorem State.enable_modUu (s : State) (u : Nat) {v : Nat} (hv : v < 2) (f : Uu → Uu) :
    let t := (s.setRf (uuR u 0x10) 0 0 v).modUu u f
    t.rf (uuR u 0x10) 0 0 = v ∧ t.uu u = f (s.uu u) ∧ (∀ k, k ≠ u → t.uu k = s.uu k) ∧ SameBytes s t :=
  ⟨s.rf_setRf_bit (uuR u 0x10) (by decide) hv, State.uu_modUu .., fun _ hk => State.uu_modUu_ne _ hk, fun _ => ⟨rfl, rfl, rfl⟩⟩

end Sys2Proof.Machine

namespace Sys2Proof

open Sys2Proof.Machine

/-! ### The statement -/

/-- Settles O34: a shard is handed out by `exec_shardHandout`, and run by `State.runFront_runs` in the pass of its request alone; a request ends by
`exec_updateComplete`; a rule is written by `exec_ruleWrite_good` and applied by `exec_ruleApplied`; a unit is enabled by `State.enable_modUu`. -/
theorem updateUnits : Obligations.UpdateUnits := by
  unfold Obligations.UpdateUnits
  intro s q u part rule p
  refine ⟨fun r sh x hreq hsh hpart hgoes hstop hopen => ⟨fun hroom => ?handout, fun hfull => ?full⟩,
    ?front,
    fun r hreq hstop => ⟨fun hall => ?complete, fun hopen => ?goesOn⟩,
    fun data hitem => ⟨exec_ruleWrite_good hitem, exec_ruleWrite_bad hitem⟩,
    fun w hw => ⟨fun hnone => ?applied, fun hsome => ?waits⟩,
    fun hp => ⟨⟨_, exec_uuEnableWrite hp true, s.enable_modUu u (by decide) _⟩, fun hidle => ?off, fun hbusy => ?offline⟩⟩
  case handout =>
    have hreq' : (s.pushJob q sh.unit r.handed).req q = some r := State.req_of_handedReq hreq
    refine ⟨_, (exec_shardHandout hreq hsh hpart hgoes hstop hopen).trans (congrArg _ (if_pos hroom)), ?_, State.req_modReq hreq' .., fun k hk => ?_,
      sameBytes_trans (s.pushJob_sameBytes _ _ _) (State.modReq_sameBytes hreq' _)⟩
    · rw [State.uu_modReq hreq', State.pushJob, State.uu_modUu]
    · rw [State.uu_modReq hreq', State.pushJob, State.uu_modUu_ne _ hk]
  case full => exact (exec_shardHandout hreq hsh hpart hgoes hstop hopen).trans (congrArg _ (if_neg (Nat.not_lt.mpr hfull)))
  case front =>
    intro j js r x hjobs hreq hpart hgoes hstop b s1 runs
    have hshard : s.RunsShard u j r := ⟨⟨js, hjobs⟩, hreq, ⟨x, hpart, hgoes⟩, hstop⟩
    have ran {c : Instr} {run : Nat → Nat → UpdReq → List Byte → State → ShardRun}
        (hc : exec c s = .next (s.runFront u (updPass (bytesOf r.header)) run)) : runs c (run j.queue u r b s1) := by
      intro hopen hwait
      obtain ⟨hdone, hfailed⟩ := State.runFront_runs hshard hopen rfl hwait
      exact ⟨fun hok => hc.trans (congrArg _ (hdone hok)), fun st hfail => hc.trans (congrArg _ (hfailed st hfail))⟩
    have stays {c : Instr} {pass : Nat} {run : Nat → Nat → UpdReq → List Byte → State → ShardRun} (hc : exec c s = .next (s.runFront u pass run))
        (hpass : updPass (bytesOf r.header) ≠ pass) : exec c s = .next s :=
      hc.trans (congrArg _ (State.runFront_otherPass hshard hpass run))
    exact ⟨fun h1 => ⟨ran (by rw [h1]; rfl), stays rfl (by omega)⟩, fun h2 => ⟨ran (by rw [h2]; rfl), stays rfl (by omega)⟩⟩
  case complete => exact (exec_updateComplete hreq hstop).trans (congrArg _ (if_pos hall))
  case goesOn => exact (exec_updateComplete hreq hstop).trans (congrArg _ (if_neg (hopen ▸ Bool.false_ne_true)))
  case applied => exact ⟨_, (exec_ruleApplied hw).trans (congrArg _ (if_pos hnone)), rfl⟩
  case waits => exact (exec_ruleApplied hw).trans (congrArg _ (if_neg hsome))
  case off =>
    obtain ⟨hreg, huu, -, hbytes⟩ := s.enable_modUu u (v := 0) (by decide) (fun x => { x with state := .off })
    exact ⟨_, (exec_uuEnableWrite hp false).trans (congrArg _ (State.uuEnable_off hidle)), hreg, huu, hbytes⟩
  case offline => exact (exec_uuEnableWrite hp false).trans (congrArg _ (State.uuEnable_offline hbusy))

end Sys2Proof
end

-/
